-- ==== Sys2Proof/Word.lean ====
section
/-! DEFINITION. The word types of the machine (R4, R12 of spec/): 8, 32 and 64 bits, and a 64-bit capability (R62). -/

namespace Sys2Proof

/-- A byte of memory. -/
abbrev Byte := BitVec 8

/-- A 32-bit register. -/
abbrev Word := BitVec 32

/-- A 64-bit value: a register pair. -/
abbrev DWord := BitVec 64

/-- A pointer, OBJ in bits 63:44 and OFS in bits 43:0 (R62). -/
abbrev Cap := BitVec 64

end Sys2Proof
end

