-- ==== Sys2Proof/Syntax.lean ====
section
/-! DEFINITION. The steps of the machine as data: one constructor of `Instr` per row of spec/opcode_table.json. The first 137 are the instructions of Gapen with their operands pulled out of the words (R73); the others are the steps that the hardware or the outside world takes, with the data they bring. -/

namespace Sys2Proof

/-- GMODE and GPRED (R76). -/
inductive Guard where
  | always
  | ifP (p : BitVec 5)
  | ifNot (p : BitVec 5)
  deriving DecidableEq, Repr

/-- What every instruction word carries beside its own operands: the guard (R76) and the hints (R83). -/
structure Head where
  guard : Guard := .always
  pol : BitVec 2 := 0
  reuse : Bool := false
  repack : Bool := false
  yld : Bool := false
  deriving DecidableEq, Repr

/-- A source operand: vector register, uniform register or immediate (R43). -/
inductive Src where
  | v (r : BitVec 8)
  | s (r : BitVec 8)
  | imm (i : BitVec 24)
  deriving DecidableEq, Repr

/-- A destination register: vector (DK 0) or uniform (DK 1, or a UD form of R120 and R122). -/
inductive Dst where
  | v (r : BitVec 8)
  | s (r : BitVec 8)
  deriving DecidableEq, Repr

/-- The 17 type codes of R81. -/
inductive Ty where
  | s32 | n32 | s64 | n64 | s16 | n16 | s8 | n8 | s4 | n4
  | b32 | b64 | b128 | f16 | bf16 | f32 | f64
  deriving DecidableEq, Repr

/-- The rounding modes of R27. -/
inductive Rnd where
  | rn | rz | rd | ru | rs
  deriving DecidableEq, Repr

/-- Condition codes of ICMP and TCMP (R107, R242). -/
inductive Cc where
  | eq | ne | lt | le | gt | ge
  deriving DecidableEq, Repr

/-- Relations of FCMP (R136). -/
inductive Rel where
  | eq | lg | lt | le | gt | ge | ord
  deriving DecidableEq, Repr

/-- The functions of FFN (R138). -/
inductive Fn where
  | rcp | rsqrt | sqrt | ex2 | lg2 | sin | cos | tanh | sigm
  deriving DecidableEq, Repr

/-- SHFL modes (R119). -/
inductive ShflMode where
  | sel | rot | off | swz
  deriving DecidableEq, Repr

/-- VOTE modes with their destinations (R120). -/
inductive VoteOp where
  | every (pd : BitVec 5)
  | any (pd : BitVec 5)
  | agree (pd : BitVec 5)
  | mask (cnt : Bool) (d : Dst)
  deriving DecidableEq, Repr

/-- REDUX operations (R122). -/
inductive ReduxOp where
  | add | min | max | and | or | xor | scan | xscan
  deriving DecidableEq, Repr

/-- The four spaces (R170). -/
inductive Space where
  | g | p | s | d
  deriving DecidableEq, Repr

/-- Access sizes of LD and ST (R174). -/
inductive Size where
  | n8 | s8 | n16 | s16 | b32 | b64 | b128
  deriving DecidableEq, Repr

/-- Sizes of CPY, GST, GLD and GCPY (R174, R226). -/
inductive CSize where
  | b32 | b64 | b128
  deriving DecidableEq, Repr

/-- Ordering of an access (R174, R274). -/
inductive Ordr where
  | plain | acq | rel | ar
  deriving DecidableEq, Repr

/-- SEM of FENCE (R174, R180). -/
inductive Sem where
  | acq | rel | ar | sc
  deriving DecidableEq, Repr

/-- Scopes (R273). -/
inductive Scope where
  | wheel | blk | die | dev | dom | sys
  deriving DecidableEq, Repr

/-- Operations of the atomics (R178). -/
inductive AmoOp where
  | add | min | max | and | or | xor | exch | cas | pkmax
  deriving DecidableEq, Repr

/-- Fragments of LDMX and STMX (R167). -/
inductive Frag where
  | fa | fb | fd
  deriving DecidableEq, Repr

/-- Actions of ERET (R221). -/
inductive EretAct where
  | replay | skip | exit | cancel
  deriving DecidableEq, Repr

/-- Levels of work (R245, R324). -/
inductive Level where
  | unit | launch | graph | phase | job
  deriving DecidableEq, Repr

/-- The fields of a matrix instruction (R154, R155). `b` is a shape-register index when `breg` is false. -/
structure MmArgs where
  set128 : Bool
  breg : Bool
  sgnA : Bool
  sgnB : Bool
  extA : Bool
  extB : Bool
  sat : Bool
  zacc : Bool
  d : BitVec 8
  a : BitVec 8
  b : BitVec 8
  c : BitVec 4
  sv : BitVec 8
  byte : BitVec 2
  ub : BitVec 8
  pa : BitVec 3
  pb : BitVec 3
  deriving DecidableEq, Repr

/-- The slot fields of XCTL of GST, GRED and GCPY (R227). -/
structure GridX where
  ag : BitVec 6
  agv : Bool
  rg : BitVec 6
  rgv : Bool
  deriving DecidableEq, Repr

/-- A request, response or reply packet between devices, its header fields as R289 lays them out; `offs` holds one offset per entry and `data` the element bytes. -/
structure Pkt where
  ty : Nat := 0
  void : Bool := false
  poison : Bool := false
  rgv : Bool := false
  detour : Bool := false
  ver : Bool := false
  relayed : Bool := false
  esize : Nat := 4
  status : Nat := 0
  op : Nat := 0
  tyc : Nat := 0
  nelem : Nat := 0
  rg : Nat := 0
  pktidx : Nat := 0
  srcc : Nat := 0
  srcDie : Nat := 0
  dstc : Nat := 0
  pattern : BitVec 64 := 0
  page : Nat := 0
  obj : Nat := 0
  gtag : Nat := 0
  block : Nat := 0
  cseq : Nat := 0
  npkt : Nat := 1
  ltag : Nat := 0
  conv : Nat := 0
  offs : List Nat := []
  data : List Byte := []
  bad : Bool := false
  deriving DecidableEq, Repr

/-- One update of a (location, time) pair (R344). -/
structure Upd where
  loc : Nat
  time : BitVec 64
  poison : Bool := false
  delta : Int
  deriving DecidableEq, Repr

/-- A batch of updates (R342, R344); `bad` marks a malformed one. -/
structure Batch where
  src : Nat
  seq : Nat
  upds : List Upd
  bad : Bool := false
  deriving DecidableEq, Repr

/-- A host RDMA request (R425): queue pair, R_key, 64-bit address. -/
structure Rdma where
  qp : Nat
  rkey : Nat
  addr : Cap
  deriving DecidableEq, Repr

/-- What JOB_LOAD brings: the extents of the grid (R65), and for residency entries the bytes of their RW fields (R382). -/
structure JobImage where
  grid : List Nat
  resid : List (Nat × List Byte) := []
  deriving DecidableEq, Repr

/-- A firmware image: its bytes, its version and its signature (R436). -/
structure Image where
  bytes : List Byte
  version : Nat
  sig : List Byte
  deriving DecidableEq, Repr, Inhabited

/-- Readings of one sensor sample (R434): the temperature of each die and of each DRAM layer, millivolts and milliamperes of each rail, input power in watts, input in millivolts. -/
structure Sensors where
  dies : List Nat := []
  layers : List Nat := []
  rails : List (Nat × Nat) := []
  watts : Nat := 0
  millivolts : Nat := 0
  deriving DecidableEq, Repr, Inhabited

/-- What the host asks of a queue pair (R424, R426): the control right, a reliable connection, the path MTU. -/
structure QpOpts where
  control : Bool := false
  reliable : Bool := true
  mtu : Nat := 1024
  deriving DecidableEq, Repr, Inhabited

/-- A place of a cached byte that the hardware evicts (R267): an L1 of a core, or the L2 of a die. -/
inductive CacheAt where
  | l1 (core : Nat)
  | l2 (die : Nat)
  deriving DecidableEq, Repr

/-- A cached table entry (R373): a descriptor of a core or a leaf entry of a die's port. -/
inductive LeaseAt where
  | desc (core obj : Nat)
  | leaf (die obj page : Nat)
  deriving DecidableEq, Repr

/-- What ECC protects (R440): a line of a die's canopy, or one word of an SRAM array or a register file by its place. -/
inductive EccAt where
  | line (n : Nat)
  | word (p : Nat)
  deriving DecidableEq, Repr

/-- What a read of it finds (R440). -/
inductive EccFound where
  | clean
  | corrected
  | uncorrectable
  deriving DecidableEq, Repr

/-- A register or control word that software outside the job writes (R415, R416, R423, R366, R426, R439, R441), or the offset to wall time that the host supplies (R435). -/
inductive CtlReg where
  | control (qp : Nat) (ofs : Nat)
  | seccfg
  | evctl
  | wall
  deriving DecidableEq, Repr

/-- What a peer asks of this device through a peer aperture (R374, R375). -/
inductive PeerOp where
  | read
  | fetch
  | check
  | write (data : List Byte)
  | atomic (op : AmoOp) (ty : Ty) (b c : BitVec 64)
  deriving DecidableEq, Repr

/-- A peer-aperture access: (object, offset, size) from the device at `src` (R374). -/
structure PeerReq where
  src : Nat
  tag : Nat
  obj : Nat
  ofs : Nat
  n : Nat
  op : PeerOp
  deriving DecidableEq, Repr

/-- What arrives at the request channel of a die: a packet of R289, or a peer-aperture access of R374. -/
inductive Request where
  | pkt (p : Pkt)
  | peer (r : PeerReq)
  deriving DecidableEq, Repr

/-- One step of the machine. -/
inductive Instr where
  -- integer, bit, pointer, lane and predicate instructions (R104)
  | nop (h : Head)
  | iadd (h : Head) (ty : Ty) (sat : Bool) (d : Dst) (a b : Src)
  | isub (h : Head) (ty : Ty) (sat : Bool) (d : Dst) (a b : Src)
  | imul (h : Head) (ty : Ty) (sat : Bool) (d : Dst) (a b : Src)
  | imulh (h : Head) (ty : Ty) (d : Dst) (a b : Src)
  | imad (h : Head) (ty : Ty) (sat : Bool) (d : Dst) (a b c : Src)
  | imadw (h : Head) (ty : Ty) (sat : Bool) (d : Dst) (a b c : Src)
  | imin (h : Head) (ty : Ty) (d : Dst) (a b : Src)
  | imax (h : Head) (ty : Ty) (d : Dst) (a b : Src)
  | iabs (h : Head) (ty : Ty) (sat : Bool) (d : Dst) (a : Src)
  | ineg (h : Head) (ty : Ty) (sat : Bool) (d : Dst) (a : Src)
  | icmp (h : Head) (ty : Ty) (cc : Cc) (and : Bool) (pd : BitVec 5) (a b : Src)
  | sel (h : Head) (ty : Ty) (d : BitVec 8) (a b : Src) (pc : BitVec 5)
  | idp4 (h : Head) (sat sa sb : Bool) (d : Dst) (a b c : Src)
  | idp8 (h : Head) (sat sa sb : Bool) (d : Dst) (a b c : Src)
  | andB (h : Head) (ty : Ty) (d : Dst) (a b : Src)
  | orB (h : Head) (ty : Ty) (d : Dst) (a b : Src)
  | xorB (h : Head) (ty : Ty) (d : Dst) (a b : Src)
  | notB (h : Head) (ty : Ty) (d : Dst) (a : Src)
  | lut3 (h : Head) (ty : Ty) (d : Dst) (a b c : Src) (tbl : BitVec 8)
  | shl (h : Head) (ty : Ty) (d : Dst) (a b : Src)
  | shr (h : Head) (ty : Ty) (d : Dst) (a b : Src)
  | sar (h : Head) (ty : Ty) (d : Dst) (a b : Src)
  | fsh (h : Head) (right : Bool) (d : Dst) (a b c : Src)
  | pcnt (h : Head) (ty : Ty) (d : Dst) (a : Src)
  | clz (h : Head) (ty : Ty) (d : Dst) (a : Src)
  | brev (h : Head) (ty : Ty) (d : Dst) (a : Src)
  | bfx (h : Head) (ty : Ty) (d : Dst) (a b : Src)
  | bfi (h : Head) (ty : Ty) (d : Dst) (a b c : Src)
  | bperm (h : Head) (d : Dst) (a b c : Src)
  | mov (h : Head) (ty : Ty) (d : Dst) (a : Src)
  | movi (h : Head) (d : Dst) (k : Word)
  | movs (h : Head) (clr : Bool) (d : Dst) (num : BitVec 8)
  | vtos (h : Head) (ty : Ty) (d a : BitVec 8) (lane : Option Src)
  | shfl (h : Head) (ty : Ty) (mode : ShflMode) (d a : BitVec 8) (b : Src)
  | vote (h : Head) (op : VoteOp) (pa : BitVec 5)
  | matchL (h : Head) (ty : Ty) (d a : BitVec 8)
  | redux (h : Head) (ty : Ty) (sat : Bool) (op : ReduxOp) (d : Dst) (a : BitVec 8)
  | padd (h : Head) (wide sat : Bool) (d : Dst) (a b : Src)
  | pdiff (h : Head) (d : Dst) (a b : Src)
  | pchk (h : Head) (pd : BitVec 5) (a : Src) (rights : BitVec 5) (size : BitVec 16)
  | prstr (h : Head) (d : Dst) (a b : Src)
  | plop (h : Head) (pd pa pb pc : BitVec 5) (tbl : BitVec 8)
  | ptov (h : Head) (d : BitVec 8)
  | vtop (h : Head) (a b : Src)
  -- conversion and floating instructions (R131, R140, R144, R145)
  | cvt (h : Head) (rnd : Rnd) (sat ftz : Bool) (ln : BitVec 2) (sfmt dfmt : BitVec 8) (d : Dst) (a : Src) (c : Option Src)
  | qblk (h : Head) (rnd : Rnd) (sc32 : Bool) (sd : BitVec 8) (byte : BitVec 2) (efmt : BitVec 8) (d : Dst) (a : Src)
  | dqblk (h : Head) (rnd : Rnd) (sc32 : Bool) (dfmt : BitVec 2) (sat ftz : Bool) (byte : BitVec 2) (efmt : BitVec 8) (d : Dst) (a b : Src)
  | fadd (h : Head) (sat : Bool) (rnd : Rnd) (ftz : Bool) (d : Dst) (a b : Src)
  | fmul (h : Head) (sat : Bool) (rnd : Rnd) (ftz : Bool) (d : Dst) (a b : Src)
  | ffma (h : Head) (sat : Bool) (rnd : Rnd) (ftz : Bool) (d : Dst) (a b c : Src)
  | fmin (h : Head) (ftz : Bool) (d : Dst) (a b : Src)
  | fmax (h : Head) (ftz : Bool) (d : Dst) (a b : Src)
  | fcmp (h : Head) (ty : Ty) (ftz : Bool) (rel : Rel) (un and : Bool) (pd : BitVec 5) (a b : Src)
  | ffn (h : Head) (ftz : Bool) (fn : Fn) (d : Dst) (a : Src)
  | ftest (h : Head) (ty : Ty) (cls : BitVec 10) (hi : Bool) (pd : BitVec 5) (a : Src)
  | hadd2 (h : Head) (ty : Ty) (sat : Bool) (rnd : Rnd) (ftz : Bool) (d : Dst) (a b : Src)
  | hmul2 (h : Head) (ty : Ty) (sat : Bool) (rnd : Rnd) (ftz : Bool) (d : Dst) (a b : Src)
  | hfma2 (h : Head) (ty : Ty) (sat : Bool) (rnd : Rnd) (ftz : Bool) (d : Dst) (a b c : Src)
  | hmnx2 (h : Head) (ty : Ty) (ftz max : Bool) (d : Dst) (a b : Src)
  | dadd (h : Head) (sat : Bool) (rnd : Rnd) (ftz : Bool) (d : Dst) (a b : Src)
  | dmul (h : Head) (sat : Bool) (rnd : Rnd) (ftz : Bool) (d : Dst) (a b : Src)
  | dfma (h : Head) (sat : Bool) (rnd : Rnd) (ftz : Bool) (d : Dst) (a b c : Src)
  -- matrix instructions (R153, R167)
  | mmbf (h : Head) (m : MmArgs)
  | mmhf (h : Head) (m : MmArgs)
  | mm8p (h : Head) (m : MmArgs)
  | mmi8 (h : Head) (m : MmArgs)
  | mmi4 (h : Head) (m : MmArgs)
  | mmf6a (h : Head) (m : MmArgs)
  | mmf6b (h : Head) (m : MmArgs)
  | mmf4 (h : Head) (m : MmArgs)
  | mms8p (h : Head) (m : MmArgs)
  | mmsf6a (h : Head) (m : MmArgs)
  | mmsf6b (h : Head) (m : MmArgs)
  | mmsf4 (h : Head) (m : MmArgs)
  | ldmx (h : Head) (m128 : Bool) (frag : Frag) (w6 : Bool) (d : BitVec 8) (a : Src) (t : BitVec 4) (ofs : BitVec 24)
  | stmx (h : Head) (m128 : Bool) (frag : Frag) (w6 : Bool) (a : Src) (t : BitVec 4) (ofs : BitVec 24) (c : BitVec 8)
  -- memory, copy and barrier instructions (R173)
  | ld (h : Head) (sp : Space) (sz : Size) (ord : Ordr) (sc : Scope) (d : Dst) (a : Src) (ofs : BitVec 24)
  | st (h : Head) (sp : Space) (sz : Size) (ord : Ordr) (sc : Scope) (a : Src) (ofs : BitVec 24) (b : Src)
  | atom (h : Head) (sp : Space) (op : AmoOp) (ty : Ty) (ord : Ordr) (sc : Scope) (d : Dst) (a b : Src) (c : Option Src)
  | red (h : Head) (sp : Space) (op : AmoOp) (ty : Ty) (ord : Ordr) (sc : Scope) (a b : Src)
  | fence (h : Head) (sem : Sem) (sc : Scope)
  | pref (h : Head) (sp : Space) (l2 : Bool) (a : Src) (ofs : BitVec 24)
  | spadj (h : Head) (d : BitVec 8) (a : Src)
  | cpy (h : Head) (dsp ssp : Space) (sz : CSize) (sc : Scope) (d : BitVec 8) (a b : Src) (dofs sofs : BitVec 12)
  | chapp (h : Head) (d : Dst) (a b : Src)
  | chadv (h : Head) (a b : Src)
  | tryw (h : Head) (sp : Space) (wide acq : Bool) (sc : Scope) (pd : BitVec 5) (a : Src) (ofs : BitVec 24) (b : Src)
  | ldsh (h : Head) (sp : Space) (t : BitVec 4) (a : BitVec 8) (ofs : BitVec 24)
  | setsh (h : Head) (field : BitVec 5) (t : BitVec 4) (b : Src)
  | stsh (h : Head) (sp : Space) (t : BitVec 4) (a : BitVec 8) (ofs : BitVec 24)
  | pbinit (h : Head) (a b : Src)
  | pbarr (h : Head) (rel : Bool) (sc : Scope) (d : BitVec 8) (a b : Src)
  | pbwait (h : Head) (acq : Bool) (sc : Scope) (d : BitVec 8) (pd : BitVec 5) (a b : Src)
  | pbinv (h : Head) (a : Src)
  | cvset (h : Head) (m128 : Bool) (c : BitVec 4)
  | cvsign (h : Head) (c : BitVec 4)
  -- control flow, regrouping and system instructions (R198)
  | rcv (h : Head) (pd : Option (BitVec 5)) (bound : BitVec 16)
  | bra (h : Head) (ofs : BitVec 24)
  | brx (h : Head) (a : Src) (tag : BitVec 16)
  | call (h : Head) (d : BitVec 8) (ofs : BitVec 24)
  | callx (h : Head) (d : BitVec 8) (a : Src) (tag : BitVec 16)
  | ret (h : Head) (a : Src)
  | land (h : Head) (tag : BitVec 16)
  | exit (h : Head)
  | yield (h : Head) (count : BitVec 16)
  | gst (h : Head) (sz : CSize) (rel : Bool) (sc : Scope) (a : Src) (b : BitVec 8) (su : BitVec 8) (x : GridX)
  | gld (h : Head) (sz : CSize) (acq : Bool) (sc : Scope) (d : BitVec 8) (a : Src) (ofs : BitVec 24) (c : Src)
  | gatom (h : Head) (op : AmoOp) (ty : Ty) (ord : Ordr) (sc : Scope) (d : BitVec 8) (a b c : Src)
  | gred (h : Head) (op : AmoOp) (ty : Ty) (n : BitVec 2) (ssp : Space) (a b : Src) (su : BitVec 8) (x : GridX) (conv : BitVec 10)
  | gcpy (h : Head) (ssp : Space) (sz : CSize) (rel : Bool) (sc : Scope) (d : BitVec 8) (a b : Src) (su : BitVec 8) (x : GridX)
  | garm (h : Head) (pat : Bool) (g : BitVec 6) (b : Src)
  | gwait (h : Head) (acq : Bool) (pd : BitVec 5) (g : BitVec 6)
  | gstat (h : Head) (d : Dst) (g : BitVec 6)
  | tminc (h : Head) (a b c : Src)
  | tmdec (h : Head) (a b c : Src)
  | fwait (h : Head) (acq : Bool) (d : BitVec 8) (pd : BitVec 5) (a b : Src)
  | fread (h : Head) (d : Dst) (a : Src)
  | tadv (h : Head) (d : Dst) (a b : Src)
  | tcmp (h : Head) (cc : Cc) (and : Bool) (pd : BitVec 5) (a b : Src)
  | tspawn (h : Head) (a : Src)
  | grun (h : Head) (d : Dst) (a b : Src)
  | cancel (h : Head) (level : Level)
  | rfgive (h : Head) (count : BitVec 9)
  | rfclaim (h : Head) (pd : Option (BitVec 5)) (count : BitVec 9)
  | regroup (h : Head) (a base n1 : BitVec 8)
  | ungroup (h : Head) (base n1 : BitVec 8)
  | exacq (h : Head) (nw : Bool) (d : BitVec 8) (a : Src)
  | exrel (h : Head) (a : Src)
  | expin (h : Head) (unpin : Bool) (a : Src)
  | trap (h : Head) (code : BitVec 16)
  | bkpt (h : Head) (code : BitVec 16)
  | eret (h : Head) (act : EretAct) (level : Level) (d a b c : BitVec 8)
  | sysr (h : Head) (d : Dst) (num : BitVec 12)
  | sysw (h : Head) (num : BitVec 12) (a : BitVec 8)
  | ill (w0 w1 w2 : Word)
  -- steps of the cores
  | reservedOpcode (w0 w1 w2 : Word)
  | faultRecordWrite (die : Nat)
  | resultWriteback (ctx : Nat)
  | memoryReply (ctx ltag : Nat) (refused : Bool) (data : List Byte)
  | candidateStarving (core quarter : Nat)
  | waitIntervalExpiry (ctx wid : Nat)
  | trywConditionMet (ctx wid : Nat)
  | pbwaitRelease (ctx wid : Nat)
  | gwaitComplete (ctx wid : Nat)
  | fwaitComplete (ctx wid : Nat)
  | exacqEntryReady (ctx wid : Nat)
  | rcvDeadlineExpiry (ctx wid : Nat)
  | repackGatherTimeout (ctx gid : Nat)
  | yieldExpiry (ctx wid : Nat)
  | claimGrant (core quarter : Nat)
  | presenceHoldRelease (ctx wid : Nat)
  | heldTmdecRelease (ctx wid : Nat)
  | matrixOpStart (core : Nat)
  | matrixOpComplete (core : Nat)
  | cpyComplete (ctx ltag : Nat)
  -- steps of the copy engines
  | linearCopy (die eng : Nat)
  | tileCopy (die eng : Nat)
  | windowCopy (die eng : Nat)
  | fill (die eng : Nat)
  | barrierArrivalOnly (die eng : Nat)
  | endOfStream (die eng : Nat)
  | engineEntryComplete (die eng : Nat)
  | engineEntryFault (die eng : Nat)
  -- steps of the command unit and the distributor
  | blockEnd (ctx : Nat)
  | launch (q : Nat)
  | runGraphInstance (q : Nat)
  | waitForFrontier (q : Nat)
  | frontierWaitComplete (q : Nat)
  | signal (q : Nat)
  | cancelCommand (q : Nat)
  | placementAttempt
  | contextSave (ctx : Nat)
  | contextRestore (ctx : Nat)
  | speculationStart (q : Nat)
  | claimCheck (slot : Nat)
  | shadowCommitComplete (slot : Nat)
  | speculationTimeout (slot : Nat)
  -- steps of the table unit and the residency engine
  | writeleaf (die : Nat)
  | migrate (die : Nat)
  | writedesc (die : Nat)
  | hotread (die : Nat)
  | tableLeaseWaitExpiry (die : Nat)
  | migrateCopyComplete (die : Nat) (faulted : Bool)
  | frameReturn (die frame : Nat)
  | leaseExpiry (e : LeaseAt)
  | translationFill (e : LeaseAt)
  | expertFillComplete (e : Nat)
  | expertFillFault (e : Nat)
  | evictionEnd (e : Nat)
  -- steps of the regulator and the sequencer
  | batchCloseTimeout (die : Nat)
  | batchSequencing (die : Nat)
  | batchArrival (die : Nat) (b : Batch)
  | batchAckArrival (src seq status : Nat)
  | batchResendTimeout (dst seq : Nat)
  | frontierAnnouncement (die : Nat)
  -- steps of the grid
  | crossbarExpansion (die : Nat)
  | requestPacketArrival (die : Nat) (r : Request)
  | detourRelay (die : Nat) (p : Pkt)
  | acknowledgementArrival (die : Nat) (p : Pkt)
  | gridReplyArrival (die : Nat) (p : Pkt)
  | retryResend (die cseq dst : Nat)
  | responseRelookup (die : Nat)
  | contributionResendTimeout (die cseq dst : Nat)
  -- steps of the links
  | flitReceive (link : Nat) (flit : List Byte)
  | replayTimeout (link : Nat)
  | laneLock (link peerCoord peerDie : Nat)
  | trainTimeout (link : Nat)
  | laneLockLoss (link : Nat)
  | failedRetryTimeout (link : Nat)
  | linkReset (link : Nat)
  | routeSwitch (die : Nat)
  -- steps of the host attachment
  | registerWrite (r : CtlReg) (v : BitVec 64)
  | rdmaWrite (r : Rdma) (data : List Byte)
  | rdmaRead (r : Rdma) (n : Nat)
  | rdmaAtomic (r : Rdma) (cas : Bool) (v cmp : BitVec 64)
  | unsupportedRdmaOpcode (qp opcode : Nat)
  | hostResponse (tag : Nat) (ok : Bool) (data : List Byte)
  | queuePairCreate (qp die tag : Nat) (opt : QpOpts) (base : Nat)
  | queuePairDestroy (qp : Nat)
  | jobLoad (image : JobImage)
  | jobGo
  | jobEnd
  | jobEndingComplete
  -- steps of the management controller
  | standbyPower
  | firmwareUpdate (img : Image)
  | powerLoss (standby : Bool)
  | sensorSample (r : Sensors)
  | attestation (nonce : List Byte)
  | patrolScrub (die : Nat) (at_ : EccAt) (found : EccFound)
  | evictionRequest (spare : Nat)
  | evictNotice (src : Nat)
  | spareReady
  | quiesceComplete
  | transferPacket (ofs : Nat) (data : List Byte) (last : Bool)
  | transferComplete
  | peerRouteDrain (spare evicted : Nat)
  | abortCancelNotice (evicted : Nat)
  | drainComplete
  | evictionBudgetExpiry
  | flitTransmit (link : Nat)
  | storeQueueDrain (ctx wheel : Nat)
  | cacheEviction (at_ : CacheAt) (line : Nat)
  | dieResetEnd
  | recoveryImage (img : Image)
  | securityAlarm
  deriving DecidableEq, Repr

end Sys2Proof
end

