-- ==== Sys2Proof/Config.lean ====
section
/-! DEFINITION. What one machine fixes and the spec leaves open: free values, which no proof can see. -/

namespace Sys2Proof.Config

/-- The bits FFN proposes for a function and an input within the error bound of R138 (log entry 4). -/
opaque ffn : Fn → Word → Word

/-- Whether a load reads a queued store of another thread of its wheel, by the load's free number and the store's place in the queue (R270, log entry 5). -/
opaque readsQueued : Nat → Nat → Bool

/-- Whether the oldest store of a wheel leaves its queue in a cycle, by a free number (R270, log entry 10). -/
opaque drains : Nat → Bool

/-- The line that a cache evicts in a cycle, by a free number (R266, R267, log entry 10). -/
opaque evicts : Nat → Option (CacheAt × Nat)

/-- Whether an engine's running entry goes on for another cycle, by a free number (R187, log entry 10). -/
opaque engineRuns : Nat → Bool

/-- How many bytes a copy has written when it faults, by a free number (R190, log entry 12). -/
opaque partBytes : Nat → Nat

/-- How many cycles after a batch the frontiers it affects are announced, by a free number; more than R338's bound counts as the bound (log entry 15). -/
opaque announceDelay : Nat → Nat

/-- The capability of a queued copy of a task record, by a free number (%task, R327, log entry 16). -/
opaque taskCap : Nat → Cap

/-- Whether an image carries a valid SM2 signature of the fused key over its SM3 hash (R436, log entry 7). -/
opaque verified : Image → Bool

/-- The fused minimum version (R436, log entry 7). -/
opaque minVersion : Nat

/-- SM3 of some bytes (R438, log entry 7). -/
opaque sm3 : List Byte → List Byte

/-- The SM2 signature of some bytes under the identity key, by a free number (R438, log entry 7). -/
opaque sign : Nat → List Byte → List Byte

/-- The temperature limit of a die (R434, log entry 7). -/
opaque dieLimit : Nat

/-- The temperature limit of a DRAM layer (R434, log entry 7). -/
opaque layerLimit : Nat

/-- What the sensors show when the controller samples them, by its count of cycles (R434, log entry 7). -/
opaque reading : Nat → Sensors

/-- How many cycles the write of a firmware image takes, by a free number (R437, log entry 82). -/
opaque writeCycles : Nat → Nat

/-- The relays that the controller names for transfer packets, by their coordinates (R443, log entry 79). -/
opaque relays : List Nat

/-- Readings past a critical limit (R434, log entry 7). -/
opaque critical : Sensors → Bool

/-- The module's own bytes of the identity EEPROM, by their offset (R433, log entry 7). -/
opaque identity : Nat → Byte

end Sys2Proof.Config
end

