-- ==== Sys2Proof/Machine/Bits.lean ====
section
/-! DEFINITION. Bit fields, sign extension and byte strings (R4, R7, R13, R15). -/

namespace Sys2Proof.Machine

/-- Bits `lo .. lo+len-1` of a number. -/
def natBits (w lo len : Nat) : Nat := (w >>> lo) % 2 ^ len

/-- The number with bits `lo .. lo+len-1` replaced by the low `len` bits of `v`. -/
def natSetBits (w lo len v : Nat) : Nat :=
  w - natBits w lo len * 2 ^ lo + (v % 2 ^ len) * 2 ^ lo

/-- The value of the low `n` bits of `w`, read signed or unsigned (R7). -/
def sgnVal (signed : Bool) (n w : Nat) : Int :=
  let u := w % 2 ^ n
  if signed && decide (2 ^ (n - 1) ≤ u) then (u : Int) - 2 ^ n else u

/-- The low `n` bits of an exact integer, by wrapping (R13). -/
def wrapInt (n : Nat) (x : Int) : Nat := (x % (2 ^ n : Int)).toNat

/-- The nearest value of an `n`-bit integer format (R13). -/
def satInt (signed : Bool) (n : Nat) (x : Int) : Int :=
  if signed then max (-(2 ^ (n - 1) : Int)) (min x (2 ^ (n - 1) - 1))
  else max 0 (min x (2 ^ n - 1))

/-- An exact result fitted to `n` bits by SAT (R13). -/
def fitInt (sat signed : Bool) (n : Nat) (x : Int) : Nat :=
  wrapInt n (if sat then satInt signed n x else x)

/-- IMM24 as a signed value (R43). -/
def immVal (i : BitVec 24) : Int := i.toInt

/-- The little-endian bytes of a number (R4). -/
def natBytes : Nat → Nat → List Byte
  | 0, _ => []
  | n + 1, w => BitVec.ofNat 8 w :: natBytes n (w / 256)

/-- The number whose little-endian bytes are given (R4). -/
def bytesNat : List Byte → Nat
  | [] => 0
  | b :: bs => b.toNat + 256 * bytesNat bs

/-- Bytes cut into little-endian 32-bit words; a last short word takes zeros above. -/
def bytesWords : Nat → List Byte → List Word
  | 0, _ => []
  | n + 1, bs => BitVec.ofNat 32 (bytesNat (bs.take 4)) :: bytesWords n (bs.drop 4)

/-- The bit string that a list of registers forms, register 0 lowest (R15). -/
def wordsNat : List Word → Nat
  | [] => 0
  | w :: ws => w.toNat + 4294967296 * wordsNat ws

/-- `n` registers taken from a bit string, the lowest first (R15). -/
def natWords : Nat → Nat → List Word
  | 0, _ => []
  | n + 1, w => BitVec.ofNat 32 w :: natWords n (w / 4294967296)

/-- Element `i` of width `w` bits in a bit string (R15). -/
def elemAt (w i x : Nat) : Nat := natBits x (w * i) w

/-- The bit string of elements of width `w`, element 0 lowest (R15). -/
def packElems (w : Nat) : List Nat → Nat
  | [] => 0
  | e :: es => e % 2 ^ w + 2 ^ w * packElems w es

/-- The number of one bits among the low `n` bits. -/
def popNat : Nat → Nat → Nat
  | 0, _ => 0
  | n + 1, w => w % 2 + popNat n (w / 2)

/-- The low `n` bits in reverse order (R113). -/
def revNat : Nat → Nat → Nat
  | 0, _ => 0
  | n + 1, w => (w % 2) * 2 ^ n + revNat n (w / 2)

/-- The ceiling of log2: the least number of bits that count `n` values. -/
def clog2 (n : Nat) : Nat := if n ≤ 1 then 0 else Nat.log2 (n - 1) + 1

/-- The ceiling of a quotient. -/
def cdiv (a b : Nat) : Nat := (a + b - 1) / b

/-- Insertion into a list that rises by a key, after equal keys. -/
def insBy {α : Type} (key : α → Nat) (x : α) : List α → List α
  | [] => [x]
  | y :: ys => if key x < key y then x :: y :: ys else y :: insBy key x ys

/-- A list in rising order of a key; equal keys keep their order. -/
def sortBy {α : Type} (key : α → Nat) (l : List α) : List α := l.foldl (fun acc x => insBy key x acc) []

/-- The object of a capability (R62). -/
def capObj (c : Cap) : Nat := c.toNat / 2 ^ 44
/-- The offset of a capability (R62). -/
def capOfs (c : Cap) : Nat := c.toNat % 2 ^ 44
/-- The capability of an object and an offset (R62). -/
def mkCap (obj ofs : Nat) : Cap := BitVec.ofNat 64 (2 ^ 44 * obj + ofs % 2 ^ 44)

end Sys2Proof.Machine
end

