-- ==== Sys2Proof/Machine/Encoding.lean ====
section
/-! DEFINITION. The instruction word of Gapen: its fields (R73), the opcode map (R88), what each opcode accepts in each field (R104, R131, R140-R145, R153-R155, R167, R173, R174, R198, R225-R227), the encoding fates (R89), and the fields of each instruction. -/

namespace Sys2Proof.Machine

/-- The 135 defined opcodes of the map beside ILL, opcode 0xFF, which is apart (R88, R91). -/
inductive Op where
  | nop | iadd | isub | imul | imulh | imad | imadw | imin | imax | iabs | ineg | icmp | sel | idp4
  | idp8 | andB | orB | xorB | notB | lut3 | shl | shr | sar | fsh | pcnt | clz | brev | bfx | bfi
  | bperm | mov | movi | movs | vtos | shfl | vote | matchL | redux | padd | pdiff | pchk | prstr
  | plop | ptov | vtop | cvt | qblk | dqblk | fadd | fmul | ffma | fmin | fmax | fcmp | ffn | ftest
  | hadd2 | hmul2 | hfma2 | hmnx2 | dadd | dmul | dfma | mmbf | mmhf | mm8p | mmi8 | mmi4 | mmf6a
  | mmf6b | mmf4 | mms8p | mmsf6a | mmsf6b | mmsf4 | ldmx | stmx | ld | st | atom | red | fence
  | pref | spadj | cpy | chapp | chadv | tryw | ldsh | setsh | stsh | pbinit | pbarr | pbwait
  | pbinv | cvset | cvsign | rcv | bra | brx | call | callx | ret | land | exit | yield | gst | gld
  | gatom | gred | gcpy | garm | gwait | gstat | tminc | tmdec | fwait | fread | tadv | tcmp
  | tspawn | grun | cancel | rfgive | rfclaim | regroup | ungroup | exacq | exrel | expin | trap
  | bkpt | eret | sysr | sysw
  deriving DecidableEq, Repr

/-- The opcode of each major form (R88). -/
def Op.code : Op → Nat
  | .nop => 0x00 | .iadd => 0x01 | .isub => 0x02 | .imul => 0x03 | .imulh => 0x04 | .imad => 0x05
  | .imadw => 0x06 | .imin => 0x07 | .imax => 0x08 | .iabs => 0x09 | .ineg => 0x0A | .icmp => 0x0B
  | .sel => 0x0C | .idp4 => 0x0D | .idp8 => 0x0E | .andB => 0x10 | .orB => 0x11 | .xorB => 0x12
  | .notB => 0x13 | .lut3 => 0x14 | .shl => 0x15 | .shr => 0x16 | .sar => 0x17 | .fsh => 0x18
  | .pcnt => 0x19 | .clz => 0x1A | .brev => 0x1B | .bfx => 0x1C | .bfi => 0x1D | .bperm => 0x1E
  | .mov => 0x20 | .movi => 0x21 | .movs => 0x22 | .vtos => 0x23 | .shfl => 0x24 | .vote => 0x25
  | .matchL => 0x26 | .redux => 0x27 | .padd => 0x28 | .pdiff => 0x29 | .pchk => 0x2A
  | .prstr => 0x2B | .plop => 0x2C | .ptov => 0x2D | .vtop => 0x2E | .cvt => 0x30 | .qblk => 0x31
  | .dqblk => 0x32 | .fadd => 0x40 | .fmul => 0x41 | .ffma => 0x42 | .fmin => 0x43 | .fmax => 0x44
  | .fcmp => 0x45 | .ffn => 0x46 | .ftest => 0x47 | .hadd2 => 0x48 | .hmul2 => 0x49
  | .hfma2 => 0x4A | .hmnx2 => 0x4B | .dadd => 0x4C | .dmul => 0x4D | .dfma => 0x4E | .mmbf => 0x50
  | .mmhf => 0x51 | .mm8p => 0x52 | .mmi8 => 0x53 | .mmi4 => 0x54 | .mmf6a => 0x55 | .mmf6b => 0x56
  | .mmf4 => 0x57 | .mms8p => 0x58 | .mmsf6a => 0x59 | .mmsf6b => 0x5A | .mmsf4 => 0x5B
  | .ldmx => 0x5C | .stmx => 0x5D | .ld => 0x60 | .st => 0x61 | .atom => 0x62 | .red => 0x63
  | .fence => 0x64 | .pref => 0x65 | .spadj => 0x66 | .cpy => 0x68 | .chapp => 0x69
  | .chadv => 0x6A | .tryw => 0x6B | .ldsh => 0x6C | .setsh => 0x6D | .stsh => 0x6E
  | .pbinit => 0x70 | .pbarr => 0x71 | .pbwait => 0x72 | .pbinv => 0x73 | .cvset => 0x74
  | .cvsign => 0x75 | .rcv => 0x76 | .bra => 0x78 | .brx => 0x79 | .call => 0x7A | .callx => 0x7B
  | .ret => 0x7C | .land => 0x7D | .exit => 0x7E | .yield => 0x7F | .gst => 0x80 | .gld => 0x81
  | .gatom => 0x82 | .gred => 0x83 | .gcpy => 0x84 | .garm => 0x85 | .gwait => 0x86
  | .gstat => 0x87 | .tminc => 0x90 | .tmdec => 0x91 | .fwait => 0x92 | .fread => 0x93
  | .tadv => 0x94 | .tcmp => 0x95 | .tspawn => 0x96 | .grun => 0x97 | .cancel => 0x98
  | .rfgive => 0xA0 | .rfclaim => 0xA1 | .regroup => 0xA2 | .ungroup => 0xA3 | .exacq => 0xA4
  | .exrel => 0xA5 | .expin => 0xA6 | .trap => 0xE0 | .bkpt => 0xE1 | .eret => 0xE2 | .sysr => 0xE3
  | .sysw => 0xE4

/-- Row 0x0_ of the opcode map (R88). -/
def opRow0 : List Op :=
  [.nop, .iadd, .isub, .imul, .imulh, .imad, .imadw, .imin, .imax, .iabs, .ineg, .icmp, .sel, .idp4, .idp8]

/-- Row 0x1_ of the opcode map (R88). -/
def opRow1 : List Op :=
  [.andB, .orB, .xorB, .notB, .lut3, .shl, .shr, .sar, .fsh, .pcnt, .clz, .brev, .bfx, .bfi, .bperm]

/-- Row 0x2_ of the opcode map (R88). -/
def opRow2 : List Op :=
  [.mov, .movi, .movs, .vtos, .shfl, .vote, .matchL, .redux, .padd, .pdiff, .pchk, .prstr, .plop, .ptov, .vtop]

/-- Row 0x3_ of the opcode map (R88). -/
def opRow3 : List Op :=
  [.cvt, .qblk, .dqblk]

/-- Row 0x4_ of the opcode map (R88). -/
def opRow4 : List Op :=
  [.fadd, .fmul, .ffma, .fmin, .fmax, .fcmp, .ffn, .ftest, .hadd2, .hmul2, .hfma2, .hmnx2, .dadd, .dmul, .dfma]

/-- Row 0x5_ of the opcode map (R88). -/
def opRow5 : List Op :=
  [.mmbf, .mmhf, .mm8p, .mmi8, .mmi4, .mmf6a, .mmf6b, .mmf4, .mms8p, .mmsf6a, .mmsf6b, .mmsf4, .ldmx, .stmx]

/-- Row 0x6_ of the opcode map (R88). -/
def opRow6 : List Op :=
  [.ld, .st, .atom, .red, .fence, .pref, .spadj, .cpy, .chapp, .chadv, .tryw, .ldsh, .setsh, .stsh]

/-- Row 0x7_ of the opcode map (R88). -/
def opRow7 : List Op :=
  [.pbinit, .pbarr, .pbwait, .pbinv, .cvset, .cvsign, .rcv, .bra, .brx, .call, .callx, .ret, .land, .exit, .yield]

/-- Row 0x8_ of the opcode map (R88). -/
def opRow8 : List Op :=
  [.gst, .gld, .gatom, .gred, .gcpy, .garm, .gwait, .gstat]

/-- Row 0x9_ of the opcode map (R88). -/
def opRow9 : List Op :=
  [.tminc, .tmdec, .fwait, .fread, .tadv, .tcmp, .tspawn, .grun, .cancel]

/-- Row 0xA_ of the opcode map (R88). -/
def opRowA : List Op :=
  [.rfgive, .rfclaim, .regroup, .ungroup, .exacq, .exrel, .expin]

/-- Row 0xE_ of the opcode map (R88). -/
def opRowE : List Op :=
  [.trap, .bkpt, .eret, .sysr, .sysw]

/-- The opcode map (R88). -/
def opTable : List Op :=
  opRow0 ++ opRow1 ++ opRow2 ++ opRow3 ++ opRow4 ++ opRow5 ++
  opRow6 ++ opRow7 ++ opRow8 ++ opRow9 ++ opRowA ++ opRowE

/-- The defined opcode with a code, if any (R88). -/
def Op.ofCode (c : Nat) : Option Op := opTable.find? (fun o => o.code == c)

/-- The fields of a word beside OPC (R73). `x` is IMM24 or XCTL. -/
structure Raw where
  gpred : BitVec 5 := 0
  gmode : BitVec 2 := 0
  d : BitVec 8 := 0
  dk : BitVec 1 := 0
  a : BitVec 8 := 0
  ak : BitVec 2 := 0
  b : BitVec 8 := 0
  bk : BitVec 2 := 0
  c : BitVec 8 := 0
  ck : BitVec 2 := 0
  ctl : BitVec 10 := 0
  x : BitVec 24 := 0
  pol : BitVec 2 := 0
  reuse : BitVec 1 := 0
  repack : BitVec 1 := 0
  yld : BitVec 1 := 0
  rsv : BitVec 3 := 0
  deriving DecidableEq, Repr

/-- The fields of three instruction words (R73). -/
def Raw.ofWords (w0 w1 w2 : Word) : Raw where
  gpred := w0.extractLsb' 8 5
  gmode := w0.extractLsb' 13 2
  d := w0.extractLsb' 15 8
  dk := w0.extractLsb' 23 1
  a := w0.extractLsb' 24 8
  ak := w1.extractLsb' 0 2
  b := w1.extractLsb' 2 8
  bk := w1.extractLsb' 10 2
  c := w1.extractLsb' 12 8
  ck := w1.extractLsb' 20 2
  ctl := w1.extractLsb' 22 10
  x := w2.extractLsb' 0 24
  pol := w2.extractLsb' 24 2
  reuse := w2.extractLsb' 26 1
  repack := w2.extractLsb' 27 1
  yld := w2.extractLsb' 28 1
  rsv := w2.extractLsb' 29 3

/-- w0 of an opcode and its fields (R73). -/
def Raw.w0 (r : Raw) (opc : BitVec 8) : Word := r.a ++ r.dk ++ r.d ++ r.gmode ++ r.gpred ++ opc

/-- w1 of the fields (R73). -/
def Raw.w1 (r : Raw) : Word := r.ctl ++ r.ck ++ r.c ++ r.bk ++ r.b ++ r.ak

/-- w2 of the fields (R73). -/
def Raw.w2 (r : Raw) : Word := r.rsv ++ r.yld ++ r.repack ++ r.reuse ++ r.pol ++ r.x

/-! ### Codes of the small fields -/

/-- The TY code of a type (R81). -/
def tyCode : Ty → BitVec 5
  | .s32 => 0 | .n32 => 1 | .s64 => 2 | .n64 => 3 | .s16 => 4 | .n16 => 5 | .s8 => 6 | .n8 => 7
  | .s4 => 8 | .n4 => 9 | .b32 => 10 | .b64 => 11 | .b128 => 12 | .f16 => 13 | .bf16 => 14
  | .f32 => 15 | .f64 => 16

/-- The types in the order of their codes (R81). -/
def tyList : List Ty :=
  [.s32, .n32, .s64, .n64, .s16, .n16, .s8, .n8, .s4, .n4, .b32, .b64, .b128, .f16, .bf16, .f32, .f64]

/-- The type of a TY code, `.s32` for a reserved code, which no entry accepts (R81). -/
def tyOf (c : BitVec 5) : Ty := (tyList[c.toNat]?).getD .s32

/-- Registers that an operand of a type takes (R15, R100). -/
def tyRegs : Ty → Nat
  | .s64 | .n64 | .b64 | .f64 => 2
  | .b128 => 4
  | _ => 1

/-- The rounding codes of R27. -/
def rndCode : Rnd → BitVec 3
  | .rn => 0 | .rz => 1 | .rd => 2 | .ru => 3 | .rs => 4

/-- The rounding mode of a code (R27). -/
def rndOf (c : BitVec 3) : Rnd :=
  match c.toNat with
  | 1 => .rz | 2 => .rd | 3 => .ru | 4 => .rs | _ => .rn

/-- CC codes (R107). -/
def ccCode : Cc → BitVec 3
  | .eq => 0 | .ne => 1 | .lt => 2 | .le => 3 | .gt => 4 | .ge => 5

/-- The condition of a CC code (R107). -/
def ccOf (c : BitVec 3) : Cc :=
  match c.toNat with
  | 1 => .ne | 2 => .lt | 3 => .le | 4 => .gt | 5 => .ge | _ => .eq

/-- REL codes (R136). -/
def relCode : Rel → BitVec 3
  | .eq => 0 | .lg => 1 | .lt => 2 | .le => 3 | .gt => 4 | .ge => 5 | .ord => 6

/-- The relation of a REL code (R136). -/
def relOf (c : BitVec 3) : Rel :=
  match c.toNat with
  | 1 => .lg | 2 => .lt | 3 => .le | 4 => .gt | 5 => .ge | 6 => .ord | _ => .eq

/-- FN codes (R138). -/
def fnCode : Fn → BitVec 4
  | .rcp => 0 | .rsqrt => 1 | .sqrt => 2 | .ex2 => 3 | .lg2 => 4 | .sin => 5 | .cos => 6 | .tanh => 7
  | .sigm => 8

/-- The function of an FN code (R138). -/
def fnOf (c : BitVec 4) : Fn :=
  match c.toNat with
  | 1 => .rsqrt | 2 => .sqrt | 3 => .ex2 | 4 => .lg2 | 5 => .sin | 6 => .cos | 7 => .tanh | 8 => .sigm
  | _ => .rcp

/-- SHFL MODE codes (R119). -/
def shflCode : ShflMode → BitVec 2
  | .sel => 0 | .rot => 1 | .off => 2 | .swz => 3

/-- The mode of a SHFL code (R119). -/
def shflOf (c : BitVec 2) : ShflMode :=
  match c.toNat with
  | 1 => .rot | 2 => .off | 3 => .swz | _ => .sel

/-- REDUX OP codes (R122). -/
def reduxCode : ReduxOp → BitVec 3
  | .add => 0 | .min => 1 | .max => 2 | .and => 3 | .or => 4 | .xor => 5 | .scan => 6 | .xscan => 7

/-- The operation of a REDUX code (R122). -/
def reduxOf (c : BitVec 3) : ReduxOp :=
  match c.toNat with
  | 1 => .min | 2 => .max | 3 => .and | 4 => .or | 5 => .xor | 6 => .scan | 7 => .xscan | _ => .add

/-- SPACE codes (R170). -/
def spaceCode : Space → BitVec 2
  | .g => 0 | .p => 1 | .s => 2 | .d => 3

/-- The space of a code (R170). -/
def spaceOf (c : BitVec 2) : Space :=
  match c.toNat with
  | 1 => .p | 2 => .s | 3 => .d | _ => .g

/-- SIZE codes of the MEM map (R174). -/
def sizeCode : Size → BitVec 3
  | .n8 => 0 | .s8 => 1 | .n16 => 2 | .s16 => 3 | .b32 => 4 | .b64 => 5 | .b128 => 6

/-- The size of a MEM code (R174). -/
def sizeOf (c : BitVec 3) : Size :=
  match c.toNat with
  | 1 => .s8 | 2 => .n16 | 3 => .s16 | 4 => .b32 | 5 => .b64 | 6 => .b128 | _ => .n8

/-- SIZE codes of CPY, GST, GLD and GCPY (R174, R226). -/
def csizeCode : CSize → BitVec 2
  | .b32 => 0 | .b64 => 1 | .b128 => 2

/-- The size of a copy code (R174, R226). -/
def csizeOf (c : BitVec 2) : CSize :=
  match c.toNat with
  | 1 => .b64 | 2 => .b128 | _ => .b32

/-- ORD codes (R174). -/
def ordCode : Ordr → BitVec 2
  | .plain => 0 | .acq => 1 | .rel => 2 | .ar => 3

/-- The ordering of a code (R174). -/
def ordOf (c : BitVec 2) : Ordr :=
  match c.toNat with
  | 1 => .acq | 2 => .rel | 3 => .ar | _ => .plain

/-- SEM codes (R174). -/
def semCode : Sem → BitVec 2
  | .acq => 0 | .rel => 1 | .ar => 2 | .sc => 3

/-- The semantics of a SEM code (R174). -/
def semOf (c : BitVec 2) : Sem :=
  match c.toNat with
  | 1 => .rel | 2 => .ar | 3 => .sc | _ => .acq

/-- SCOPE codes (R174). -/
def scopeCode : Scope → BitVec 3
  | .wheel => 0 | .blk => 1 | .die => 2 | .dev => 3 | .dom => 4 | .sys => 5

/-- The scope of a code (R174). -/
def scopeOf (c : BitVec 3) : Scope :=
  match c.toNat with
  | 1 => .blk | 2 => .die | 3 => .dev | 4 => .dom | 5 => .sys | _ => .wheel

/-- OP codes of the atomics (R178). -/
def amoCode : AmoOp → BitVec 4
  | .add => 0 | .min => 1 | .max => 2 | .and => 3 | .or => 4 | .xor => 5 | .exch => 6 | .cas => 7
  | .pkmax => 8

/-- The operation of an atomic's code (R178). -/
def amoOf (c : BitVec 4) : AmoOp :=
  match c.toNat with
  | 1 => .min | 2 => .max | 3 => .and | 4 => .or | 5 => .xor | 6 => .exch | 7 => .cas | 8 => .pkmax
  | _ => .add

/-- TY codes of GREDC (R226). -/
def gredTyCode : Ty → BitVec 3
  | .n32 => 1 | .s64 => 2 | .n64 => 3 | .f32 => 4 | .b32 => 5 | .b64 => 6 | _ => 0

/-- The type of a GREDC code (R226). -/
def gredTyOf (c : BitVec 3) : Ty :=
  match c.toNat with
  | 1 => .n32 | 2 => .s64 | 3 => .n64 | 4 => .f32 | 5 => .b32 | 6 => .b64 | _ => .s32

/-- FRAG codes (R167). -/
def fragCode : Frag → BitVec 2
  | .fa => 0 | .fb => 1 | .fd => 2

/-- The fragment of a code (R167). -/
def fragOf (c : BitVec 2) : Frag :=
  match c.toNat with
  | 1 => .fb | 2 => .fd | _ => .fa

/-- ERET ACTION codes (R221). -/
def eretCode : EretAct → BitVec 3
  | .replay => 0 | .skip => 1 | .exit => 2 | .cancel => 3

/-- The action of a code (R221). -/
def eretOf (c : BitVec 3) : EretAct :=
  match c.toNat with
  | 1 => .skip | 2 => .exit | 3 => .cancel | _ => .replay

/-- LEVEL codes (R245). -/
def levelCode : Level → BitVec 3
  | .unit => 0 | .launch => 1 | .graph => 2 | .phase => 3 | .job => 4

/-- The level of a code (R245). -/
def levelOf (c : BitVec 3) : Level :=
  match c.toNat with
  | 1 => .launch | 2 => .graph | 3 => .phase | 4 => .job | _ => .unit

/-- One bit as a field. -/
def bit1 (b : Bool) : BitVec 1 := if b then 1 else 0

/-! ### What an entry accepts -/

/-- The name space of a kind-11 field (R44). -/
inductive Ix where
  | no | p | t | c | g | sp
  deriving DecidableEq, Repr

/-- The index width of a name space (R44). -/
def Ix.bits : Ix → Nat
  | .no => 0 | .p => 5 | .t => 4 | .c => 4 | .g => 6 | .sp => 8

/-- What a source field accepts: registers of vector and of uniform kind (0: not accepted), an immediate, a kind-11 name; or nothing (R78). -/
structure SSpec where
  used : Bool := true
  v : Nat := 0
  s : Nat := 0
  imm : Bool := false
  ix : Ix := .no
  /-- The field is a constant and no register (MOVI's C, R79). -/
  lit : Bool := false
  deriving DecidableEq, Repr

/-- What the D field accepts. -/
inductive DSpec where
  | no
  | reg (v s : Nat)
  | pred
  | uni (n : Nat)
  deriving DecidableEq, Repr

/-- What w2 bits 23:0 hold (R82): an immediate source if there is one, a constant or offset, or XCTL with a mask of named bits. An entry whose w2 column is 0 has an XCTL that names no bit (R104, R198, R225). -/
inductive XUse where
  | imm
  | ofs
  | ctl (mask : BitVec 24)
  deriving DecidableEq, Repr

/-- A register range that CTL or XCTL names beside the fields: vector or uniform, base, length, and whether R47's base rule applies. -/
structure XRange where
  vec : Bool
  base : BitVec 8
  n : Nat
  aligned : Bool := true
  wr : Bool := false
  deriving DecidableEq, Repr

/-- An opcode's entry: what it accepts. `dkCause` is the cause of a DK that the entry does not accept. -/
structure Form where
  d : DSpec := .no
  a : SSpec := { used := false }
  b : SSpec := { used := false }
  c : SSpec := { used := false }
  x : XUse := .ctl 0
  ctl : Bool := true
  pol : Bool := false
  reuse : Bool := false
  repack : Bool := false
  extra : List XRange := []
  dkCause : Nat := 7
  perThread : Bool := false
  /-- PD of PBWAIT and FWAIT in XCTL. -/
  xpd : Option (BitVec 5) := none
  deriving DecidableEq, Repr

/-- A source of vector or uniform kind, `n` registers. -/
def vs (n : Nat) : SSpec := { v := n, s := n }
/-- A source of any of the first three kinds. -/
def vsi (n : Nat) : SSpec := { v := n, s := n, imm := true }
/-- A uniform or immediate source. -/
def si (n : Nat) : SSpec := { s := n, imm := true }
/-- A uniform source. -/
def so (n : Nat) : SSpec := { s := n }
/-- A vector source. -/
def vo (n : Nat) : SSpec := { v := n }
/-- A kind-11 source. -/
def ixo (x : Ix) : SSpec := { ix := x }
/-- An unused source. -/
def un : SSpec := { used := false }

/-- TY of the standard layout (R80). -/
def Raw.ty (r : Raw) : BitVec 5 := r.ctl.extractLsb' 0 5
/-- SAT of the standard layout (R80). -/
def Raw.sat (r : Raw) : BitVec 1 := r.ctl.extractLsb' 5 1
/-- CTL bits 8:6 (R80). -/
def Raw.opx (r : Raw) : BitVec 3 := r.ctl.extractLsb' 6 3
/-- CTL bit 9 (R80). -/
def Raw.hi9 (r : Raw) : BitVec 1 := r.ctl.extractLsb' 9 1
/-- SCOPE in CTL bits 9:7 (R174). -/
def Raw.scope (r : Raw) : BitVec 3 := r.ctl.extractLsb' 7 3
/-- ORD in CTL bits 6:5 (R174). -/
def Raw.ord (r : Raw) : BitVec 2 := r.ctl.extractLsb' 5 2

/-- TY is one of the entry's types. -/
def Raw.tyIn (r : Raw) (l : List Ty) : Bool := l.any (fun t => tyCode t == r.ty)

/-- The registers of an operand of the word's TY. -/
def Raw.tw (r : Raw) : Nat := tyRegs (tyOf r.ty)

/-- The standard layout: accepted types, SAT accepted, OPX accepted (R80). -/
def Raw.std (r : Raw) (l : List Ty) (sat : Bool) (opx : Bool) : Bool :=
  r.tyIn l && (sat || r.sat == 0) && opx

/-- OPX all zero. -/
def Raw.opx0 (r : Raw) : Bool := r.opx == 0 && r.hi9 == 0

/-- Iall of R100. -/
def iall : List Ty := [.s8, .n8, .s16, .n16, .s32, .n32, .s64, .n64]
/-- I16+ of R100. -/
def i16p : List Ty := [.s16, .n16, .s32, .n32, .s64, .n64]
/-- Iw of R100. -/
def iw : List Ty := [.s32, .n32, .s64, .n64]
/-- Bw of R100. -/
def bw : List Ty := [.b32, .b64]
/-- The half formats of R131. -/
def hTy : List Ty := [.f16, .bf16]

/-- SCOPE is a code of R174, and 000 without an ordering. -/
def Raw.scopeOk (r : Raw) : Bool := decide (r.scope.toNat ≤ 5) && (r.ord != 0 || r.scope == 0)

/-- An FMT code of R53. -/
def fmtOk (c : BitVec 8) : Bool :=
  if c.toNat / 32 = 4 then c.toNat % 8 ≠ 0
  else c.toNat ∈ [0x10, 0x11, 0x12, 0x20, 0x21, 0x30, 0x31, 0x32, 0x33, 0x50, 0x51, 0x52, 0x53, 0x60,
    0x61, 0x62, 0x70, 0x71, 0x72, 0x73]

/-- Element width in bits of an FMT code: the code's class gives it (R53). -/
def fmtBits (c : BitVec 8) : Nat :=
  if c.toNat = 0x73 then 128
  else match c.toNat / 16 with
  | 1 => 4 | 2 => 6 | 3 => 8 | 5 => 16 | 6 => 32 | 7 => 64 | 8 => 8 | 9 => 8 | _ => 8

/-- An integer FMT code (R53). -/
def fmtInt (c : BitVec 8) : Bool := decide (c.toNat ∈ [0x10, 0x11, 0x30, 0x31, 0x50, 0x51, 0x60, 0x61, 0x70, 0x71])

/-- An IEEE FMT code, whose subnormals FTZ flushes (R17, R143). -/
def fmtIeee (c : BitVec 8) : Bool := decide (c.toNat ∈ [0x52, 0x53, 0x62, 0x72])

/-- An element format of QBLK and DQBLK (R144). -/
def efmtOk (c : BitVec 8) : Bool := decide (c.toNat ∈ [0x12, 0x20, 0x21]) || (c.toNat / 32 == 4 && c.toNat % 8 != 0)

/-- Registers that `n` elements of width `w` take (R141). -/
def elemRegs (n w : Nat) : Nat := cdiv (n * w) 32

/-- A vector ALU entry: destination and sources of vector or uniform kind. -/
def alu (n : Nat) (ctl : Bool) (a b c : SSpec) (x : XUse := .imm) : Form :=
  { d := .reg n n, a := a, b := b, c := c, x := x, ctl := ctl, dkCause := 6 }

/-- The form of a matrix operation (R153-R155): 8-bit float elements, integer elements, 6-bit, scaled. -/
def mmForm (r : Raw) (p8 int f6 sc : Bool) : Form :=
  let set128 := r.ctl.extractLsb' 0 1 == 1
  let breg := r.ctl.extractLsb' 1 1 == 1
  let n := (if f6 then 24 else 16) / (if set128 then 2 else 1)
  let nb := (if p8 then 4 else 8) / (if set128 then 2 else 1)
  let sv := r.x.extractLsb' 0 8
  let byte := (r.x.extractLsb' 8 2).toNat
  let ub := r.x.extractLsb' 10 8
  let pa := r.x.extractLsb' 18 3
  let pb := r.x.extractLsb' 21 3
  { d := .reg 32 32
    a := vo n
    b := if breg then vo n else ixo .t
    c := ixo .c
    x := .ofs
    reuse := true
    dkCause := 10
    extra := (if sc then [{ vec := true, base := sv, n := 4 }] else []) ++
      (if sc then [{ vec := false, base := ub, n := 4 }]
       else if breg then [] else [{ vec := false, base := ub, n := 1 }])
    ctl := r.ctl.extractLsb' 8 2 == 0
      && (p8 || int || r.ctl.extractLsb' 2 2 == 0)
      && (p8 || r.ctl.extractLsb' 4 2 == 0)
      && (int || r.ctl.extractLsb' 6 1 == 0)
      && (sc || (sv == 0 && byte == 0))
      && (!sc || decide (byte * nb + nb ≤ 8))
      && (sc || !breg || ub == 255)
      && (if p8 then pa != 0 && pb != 0 else pa == 0 && pb == 0) }

/-- OP and TY of an atomic by R178; `rmw` allows .exch and .cas, `pk` allows .pkmax. -/
def amoOk (op : BitVec 4) (ty : BitVec 5) (rmw pk : Bool) : Bool :=
  match op.toNat with
  | 0 | 1 | 2 => [Ty.s32, .n32, .s64, .n64, .f32].any (fun t => tyCode t == ty)
  | 3 | 4 | 5 => bw.any (fun t => tyCode t == ty)
  | 6 | 7 => rmw && bw.any (fun t => tyCode t == ty)
  | 8 => pk && ty == tyCode .b64
  | _ => false

/-- Registers of an address operand in a space (R170). -/
def spRegs (c : BitVec 2) : Nat := if c = 0 then 2 else 1

/-- Registers of a MEM size (R175). -/
def sizeRegs (c : BitVec 3) : Nat :=
  match c.toNat with
  | 5 => 2 | 6 => 4 | _ => 1

/-- Registers of a copy size (R226). -/
def csizeRegs (c : Nat) : Nat :=
  match c with
  | 1 => 2 | 2 => 4 | _ => 1

/-- A no-destination instruction of chapter 08 or 09 whose XCTL has a mask. -/
def ctlForm (mask : BitVec 24) (ok : Bool) : Form := { x := .ctl mask, ctl := ok }

/-- What each opcode accepts; `r` supplies CTL and XCTL. -/
def form (o : Op) (r : Raw) : Form :=
  match o with
  | .nop => { ctl := r.ctl == 0, dkCause := 6 }
  | .iadd | .isub => alu r.tw (r.std iall true r.opx0) (vsi r.tw) (vsi r.tw) un
  | .imul => alu r.tw (r.std i16p true r.opx0) (vsi r.tw) (vsi r.tw) un
  | .imulh => alu r.tw (r.std iw false r.opx0) (vsi r.tw) (vsi r.tw) un
  | .imad => alu r.tw (r.std iw true r.opx0) (vsi r.tw) (vsi r.tw) (vsi r.tw)
  | .imadw => alu 2 (r.std [.s32, .n32] true r.opx0) (vsi 1) (vsi 1) (vsi 2)
  | .imin | .imax => alu r.tw (r.std iall false r.opx0) (vsi r.tw) (vsi r.tw) un
  | .iabs => alu r.tw (r.std [.s8, .s16, .s32, .s64] true r.opx0) (vs r.tw) un un (.ctl 0)
  | .ineg => alu r.tw (r.std iall true r.opx0) (vs r.tw) un un (.ctl 0)
  | .icmp => { d := .pred, a := vsi r.tw, b := vsi r.tw, x := .imm, dkCause := 6
               ctl := r.std iw false (decide (r.opx.toNat ≤ 5)) }
  | .sel => { d := .reg r.tw 0, a := vsi r.tw, b := vsi r.tw, c := ixo .p, x := .imm, dkCause := 6
              ctl := r.std bw false r.opx0 }
  | .idp4 | .idp8 =>
    alu 1 (r.std [.s32] true (r.opx.extractLsb' 2 1 == 0 && r.hi9 == 0)) (vsi 1) (vsi 1) (vsi 1)
  | .andB | .orB | .xorB => alu r.tw (r.std bw false r.opx0) (vsi r.tw) (vsi r.tw) un
  | .notB => alu r.tw (r.std bw false r.opx0) (vs r.tw) un un (.ctl 0)
  | .lut3 => alu r.tw (r.std bw false r.opx0) (vs r.tw) (vs r.tw) (vs r.tw) (.ctl 0xFF)
  | .shl | .shr | .sar => alu r.tw (r.std bw false r.opx0) (vsi r.tw) (vsi 1) un
  | .fsh => alu 1 (r.std [.b32] false (r.opx.extractLsb' 1 2 == 0 && r.hi9 == 0)) (vsi 1) (vsi 1) (vsi 1)
  | .pcnt | .clz => alu 1 (r.std bw false r.opx0) (vs r.tw) un un (.ctl 0)
  | .brev => alu r.tw (r.std bw false r.opx0) (vs r.tw) un un (.ctl 0)
  | .bfx => alu r.tw (r.std iw false r.opx0) (vs r.tw) (vsi 1) un
  | .bfi => alu r.tw (r.std bw false r.opx0) (vs r.tw) (vsi r.tw) (vsi 1)
  | .bperm => alu 1 (r.std [.b32] false r.opx0) (vsi 1) (vsi 1) (vsi 1)
  | .mov => alu r.tw (r.std [.b32, .b64, .b128] false r.opx0)
      { v := r.tw, s := r.tw, imm := r.ty != tyCode .b128 } un un
  | .movi => alu 1 (r.std [.b32] false r.opx0) un un { lit := true } .ofs
  | .movs =>
    let wide := decide (r.a.toNat ∈ [12, 14, 17])
    { d := .reg r.tw r.tw, a := ixo .sp, x := .ctl 0, dkCause := 6
      perThread := decide (r.a.toNat ≤ 1)
      ctl := r.std bw false (r.opx.extractLsb' 1 2 == 0 && r.hi9 == 0)
        && (r.ak != 3 || (decide (r.a.toNat ≤ 17) && r.ty == (if wide then tyCode .b64 else tyCode .b32)
          && (r.opx == 0 || r.a == 16))) }
  | .vtos => { d := .uni r.tw, a := vo r.tw, x := .imm, dkCause := 6
               b := if r.opx == 1 then un else si 1
               ctl := r.std bw false (r.opx.extractLsb' 1 2 == 0 && r.hi9 == 0) }
  | .shfl => { d := .reg r.tw 0, a := vo r.tw, b := vsi r.tw, x := .imm, dkCause := 6
               ctl := r.std bw false (r.opx.extractLsb' 2 1 == 0 && r.hi9 == 0) }
  | .vote =>
    let mask := r.ctl.extractLsb' 6 2 == 3
    { d := if mask then (if r.hi9 == 1 then .uni 1 else .reg 1 0) else .pred
      a := ixo .p, dkCause := 6
      ctl := r.std [.b32] false (mask || (r.opx.extractLsb' 2 1 == 0 && r.hi9 == 0)) }
  | .matchL => { d := .reg 1 0, a := vo r.tw, dkCause := 6, ctl := r.std bw false r.opx0 }
  | .redux =>
    let add := decide (r.opx.toNat ∈ [0, 6, 7])
    { d := if r.hi9 == 1 then .uni 1 else .reg 1 0, a := vo 1, dkCause := 6
      ctl := r.std [.s32, .n32] add (r.hi9 == 0 || decide (r.opx.toNat < 6)) }
  | .padd => alu 2 (r.std [.s32, .s64] true r.opx0) (vs 2) (vsi r.tw) un
  | .pdiff => alu 2 (r.std [.s64] false r.opx0) (vs 2) (vs 2) un (.ctl 0)
  | .pchk => { d := .pred, a := vs 2, x := .ctl 0xFFFF1F, dkCause := 6
               ctl := r.std [.b64] false r.opx0 && r.x.extractLsb' 8 16 != 0 }
  | .prstr => alu 2 (r.std [.b64] false r.opx0) (vs 2) (vsi 1) un
  | .plop => { d := .pred, a := ixo .p, b := ixo .p, c := ixo .p, x := .ctl 0xFF, dkCause := 6
               ctl := r.std [.b32] false r.opx0 }
  | .ptov => { d := .reg 1 0, dkCause := 6, ctl := r.std [.b32] false r.opx0 }
  | .vtop => { a := vsi 1, b := vsi 1, x := .imm, dkCause := 6, ctl := r.std [.b32] false r.opx0 }
  | .cvt =>
    let rnd := r.ctl.extractLsb' 0 3
    let ftz := r.ctl.extractLsb' 4 1
    let n := 2 ^ (r.ctl.extractLsb' 5 2).toNat
    let sf := r.x.extractLsb' 0 8
    let df := r.x.extractLsb' 8 8
    { d := .reg (elemRegs n (fmtBits df)) (elemRegs n (fmtBits df))
      a := vs (elemRegs n (fmtBits sf))
      c := if rnd == 4 then vs 1 else un
      x := .ctl 0xFFFF, dkCause := 6
      ctl := decide (rnd.toNat ≤ 4) && r.ctl.extractLsb' 7 3 == 0 && fmtOk sf && fmtOk df
        && sf != 0x73 && df != 0x73 && sf != df
        && !(fmtInt sf && fmtInt df && rnd != 0)
        && !(rnd == 4 && decide (16 < fmtBits df))
        && (ftz == 0 || fmtIeee sf || fmtIeee df) }
  | .qblk =>
    let n := if r.ctl.extractLsb' 3 1 == 1 then 32 else 16
    let sd := r.x.extractLsb' 0 8
    let ef := r.x.extractLsb' 10 8
    let dn := elemRegs n (fmtBits ef)
    { d := .reg dn dn, a := vs n, x := .ctl 0x3FFFF, dkCause := 6
      extra := [{ vec := r.dk == 0, base := sd, n := 1, wr := true }]
      ctl := decide ((r.ctl.extractLsb' 0 3).toNat ≤ 3) && r.ctl.extractLsb' 4 6 == 0 && efmtOk ef
        && !(r.d != 255 && sd != 255 && decide (r.d.toNat ≤ sd.toNat) && decide (sd.toNat < r.d.toNat + dn)) }
  | .dqblk =>
    let n := if r.ctl.extractLsb' 3 1 == 1 then 32 else 16
    let ef := r.x.extractLsb' 10 8
    let df := (r.ctl.extractLsb' 4 2).toNat
    let dn := elemRegs n (if df = 0 then 32 else 16)
    { d := .reg dn dn, a := vs (elemRegs n (fmtBits ef)), b := vs 1, x := .ctl 0x3FF00, dkCause := 6
      ctl := decide ((r.ctl.extractLsb' 0 3).toNat ≤ 3) && df != 3 && r.ctl.extractLsb' 8 2 == 0 && efmtOk ef }
  | .fadd | .fmul => alu 1 (r.std [.f32] true (decide (r.opx.toNat ≤ 3))) (vs 1) (vs 1) un (.ctl 0)
  | .ffma => alu 1 (r.std [.f32] true (decide (r.opx.toNat ≤ 3))) (vs 1) (vs 1) (vs 1) (.ctl 0)
  | .fmin | .fmax => alu 1 (r.std [.f32] false (r.opx == 0)) (vs 1) (vs 1) un (.ctl 0)
  | .fcmp => { d := .pred, a := vs r.tw, b := vs r.tw, x := .ctl 0x1F, dkCause := 6
               ctl := r.std [.f32, .f64] false (r.opx == 0) && r.x.extractLsb' 0 3 != 7 }
  | .ffn => alu 1 (r.std [.f32] false (r.opx == 0) && decide ((r.x.extractLsb' 0 4).toNat ≤ 8)) (vs 1) un un (.ctl 0xF)
  | .ftest => { d := .pred, a := vs r.tw, x := .ctl 0x7FF, dkCause := 6
                ctl := r.std [.f16, .bf16, .f32, .f64] false r.opx0 && r.x.extractLsb' 0 10 != 0
                  && (r.x.extractLsb' 10 1 == 0 || r.tyIn hTy) }
  | .hadd2 | .hmul2 => alu 1 (r.std hTy true (decide (r.opx.toNat ≤ 3))) (vs 1) (vs 1) un (.ctl 0)
  | .hfma2 => alu 1 (r.std hTy true (decide (r.opx.toNat ≤ 3))) (vs 1) (vs 1) (vs 1) (.ctl 0)
  | .hmnx2 => alu 1 (r.std hTy false (r.opx == 0)) (vs 1) (vs 1) un (.ctl 1)
  | .dadd | .dmul => alu 2 (r.std [.f64] true (decide (r.opx.toNat ≤ 3))) (vs 2) (vs 2) un (.ctl 0)
  | .dfma => alu 2 (r.std [.f64] true (decide (r.opx.toNat ≤ 3))) (vs 2) (vs 2) (vs 2) (.ctl 0)
  | .mmbf | .mmhf => mmForm r false false false false
  | .mm8p => mmForm r true false false false
  | .mmi8 | .mmi4 => mmForm r false true false false
  | .mmf6a | .mmf6b => mmForm r false false true false
  | .mmf4 => mmForm r false false false false
  | .mms8p => mmForm r true false false true
  | .mmsf6a | .mmsf6b => mmForm r false false true true
  | .mmsf4 => mmForm r false false false true
  | .ldmx | .stmx =>
    let fd := r.ctl.extractLsb' 1 2 == 2
    let n := if fd then 32 else (if r.ctl.extractLsb' 3 1 == 1 then 24 else 16) / (if r.ctl.extractLsb' 0 1 == 1 then 2 else 1)
    let ok := r.ctl.extractLsb' 4 6 == 0 && r.ctl.extractLsb' 1 2 != 3 && !(fd && r.ctl.extractLsb' 3 1 == 1)
    if o = .ldmx then { d := .reg n 0, a := vs 1, b := ixo .t, x := .ofs, ctl := ok, pol := true, dkCause := 6 }
    else { a := vs 1, b := ixo .t, c := vo n, x := .ofs, ctl := ok, pol := true }
  | .ld =>
    let sp := r.ctl.extractLsb' 0 2
    let sz := r.ctl.extractLsb' 2 3
    { d := .reg (sizeRegs sz) (sizeRegs sz), a := vs (spRegs sp), x := .ofs, pol := true, dkCause := 6
      ctl := decide (sz.toNat ≤ 6) && decide (r.ord.toNat ≤ 1) && r.scopeOk && !(sp == 1 && r.dk == 1) }
  | .st =>
    let sp := r.ctl.extractLsb' 0 2
    let sz := r.ctl.extractLsb' 2 3
    { a := vs (spRegs sp), b := vs (sizeRegs sz), x := .ofs, pol := true
      ctl := decide (sz.toNat ∈ [0, 2, 4, 5, 6]) && decide (r.ord.toNat ∈ [0, 2]) && r.scopeOk }
  | .atom =>
    let sp := r.ctl.extractLsb' 0 2
    let op := r.x.extractLsb' 0 4
    let ty := r.x.extractLsb' 4 5
    let n := tyRegs (tyOf ty)
    { d := .reg n n, a := vs (spRegs sp), b := vs n, c := if op == 7 then vs n else un, x := .ctl 0x1FF
      pol := true, dkCause := 6
      ctl := sp != 1 && r.ctl.extractLsb' 2 3 == 0 && r.scopeOk && amoOk op ty true (sp == 2) }
  | .red =>
    let sp := r.ctl.extractLsb' 0 2
    let op := r.x.extractLsb' 0 4
    let ty := r.x.extractLsb' 4 5
    { a := vs (spRegs sp), b := vs (tyRegs (tyOf ty)), x := .ctl 0x1FF, pol := true
      ctl := sp != 1 && r.ctl.extractLsb' 2 3 == 0 && decide (r.ord.toNat ∈ [0, 2]) && r.scopeOk
        && amoOk op ty false (sp == 2) }
  | .fence => { ctl := r.ctl.extractLsb' 0 5 == 0 && decide (r.scope.toNat ≤ 5) }
  | .pref => { a := vs (spRegs (r.ctl.extractLsb' 0 2)), x := .ofs, pol := true
               ctl := r.ctl.extractLsb' 1 1 == 0 && r.ctl.extractLsb' 3 7 == 0 }
  | .spadj => { d := .reg 1 0, a := vsi 1, x := .imm, ctl := r.ctl == 0, dkCause := 6 }
  | .cpy =>
    { d := .reg 1 0, a := vs (spRegs (r.ctl.extractLsb' 0 2)), b := vs (spRegs (r.ctl.extractLsb' 2 2)), x := .ofs
      pol := true, dkCause := 6
      ctl := r.ctl.extractLsb' 4 2 != 3 && r.ctl.extractLsb' 6 1 == 0 && decide (r.scope.toNat ≤ 5) }
  | .chapp => { d := .reg 2 2, a := vs 2, b := vs 2, ctl := r.ctl == 0, dkCause := 6 }
  | .chadv => { a := vs 2, b := vsi 2, x := .imm, ctl := r.ctl == 0 }
  | .tryw =>
    let sp := r.ctl.extractLsb' 0 2
    { d := .pred, a := vs (spRegs sp), b := vs (if r.ctl.extractLsb' 2 1 == 1 then 2 else 1), x := .ofs, dkCause := 6
      ctl := sp != 1 && r.ctl.extractLsb' 3 2 == 0 && decide (r.ord.toNat ≤ 1) && r.scopeOk }
  | .ldsh | .stsh =>
    let sp := r.ctl.extractLsb' 0 2
    { a := so (spRegs sp), c := ixo .t, x := .ofs, ctl := sp != 1 && r.ctl.extractLsb' 2 8 == 0 }
  | .setsh =>
    let f := (r.ctl.extractLsb' 0 5).toNat
    { b := si (if 10 ≤ f ∧ f ≤ 13 then 2 else 1), c := ixo .t, x := .imm
      ctl := decide (f ≤ 26) && r.ctl.extractLsb' 5 5 == 0 }
  | .pbinit => { a := vs 1, b := vsi 1, x := .imm, ctl := r.ctl == 0 }
  | .pbarr => { d := .reg 1 0, a := vs 1, b := vsi 1, x := .imm, dkCause := 6
                ctl := r.ctl.extractLsb' 0 5 == 0 && decide (r.ord.toNat ∈ [0, 2]) && r.scopeOk }
  | .pbwait => { d := .reg 1 0, a := vs 1, b := vs 1, x := .ctl 0x1F, dkCause := 6, xpd := some (r.x.extractLsb' 0 5)
                 ctl := r.ctl.extractLsb' 0 5 == 0 && decide (r.ord.toNat ≤ 1) && r.scopeOk }
  | .pbinv => { a := vs 1, ctl := r.ctl == 0 }
  | .cvset => { a := ixo .c, x := .ctl 0, ctl := r.ctl.extractLsb' 1 9 == 0 }
  | .cvsign => { a := ixo .c, x := .ctl 0, ctl := r.ctl == 0 }
  | .rcv => { d := if r.ctl.extractLsb' 0 1 == 1 then .pred else .no, x := .ctl 0xFFFF
              dkCause := if r.ctl.extractLsb' 0 1 == 1 then 6 else 7
              ctl := r.ctl.extractLsb' 1 9 == 0 }
  | .bra => { x := .ofs, ctl := r.ctl == 0, repack := true }
  | .brx => { a := vs 2, x := .ctl 0xFFFF, ctl := r.ctl == 0, repack := true }
  | .call => { d := .reg 2 0, x := .ofs, ctl := r.ctl == 0, dkCause := 6 }
  | .callx => { d := .reg 2 0, a := vs 2, x := .ctl 0xFFFF, ctl := r.ctl == 0, dkCause := 6 }
  | .ret => { a := vs 2, ctl := r.ctl == 0 }
  | .land | .yield | .trap | .bkpt => ctlForm 0xFFFF (r.ctl == 0)
  | .exit => { ctl := r.ctl == 0 }
  | .gst => { a := vs 2, b := vo (csizeRegs (r.ctl.extractLsb' 0 3).toNat), c := so 2, x := .ctl 0x3FFF, pol := true
              ctl := decide ((r.ctl.extractLsb' 0 3).toNat ≤ 2) && r.ctl.extractLsb' 3 2 == 0
                && decide (r.ord.toNat ∈ [0, 2]) && r.scopeOk }
  | .gld => { d := .reg (csizeRegs (r.ctl.extractLsb' 0 3).toNat) 0, a := vs 2, c := vs 1, x := .ofs, pol := true
              dkCause := 6
              ctl := decide ((r.ctl.extractLsb' 0 3).toNat ≤ 2) && r.ctl.extractLsb' 3 2 == 0
                && decide (r.ord.toNat ≤ 1) && r.scopeOk }
  | .gatom =>
    let op := r.x.extractLsb' 0 4
    let ty := r.x.extractLsb' 4 5
    let n := tyRegs (tyOf ty)
    { d := .reg n 0, a := vs 2, b := vs (if op == 7 then 2 * n else n), c := vs 1, x := .ctl 0x1FF, pol := true
      dkCause := 6
      ctl := r.ctl.extractLsb' 0 5 == 0 && r.scopeOk && amoOk op ty true false }
  | .gred =>
    let op := (r.ctl.extractLsb' 0 3).toNat
    let ty := (r.ctl.extractLsb' 3 3).toNat
    let sp := r.ctl.extractLsb' 8 2
    { a := vs 2, b := vs (spRegs sp), c := so 2, x := .ofs, pol := true
      ctl := decide (op ≤ 5) && decide (ty ≤ 6) && (decide (op ≤ 2) == decide (ty ≤ 4))
        && r.ctl.extractLsb' 6 2 != 3 && sp != 1 && r.x.extractLsb' 13 1 == 1 }
  | .gcpy =>
    let sp := r.ctl.extractLsb' 0 2
    { d := .reg 1 0, a := vs 2, b := vs (spRegs sp), c := so 2, x := .ctl 0x3FFF, pol := true, dkCause := 6
      ctl := sp != 1 && r.ctl.extractLsb' 2 2 != 3 && r.ctl.extractLsb' 4 1 == 0
        && decide (r.ord.toNat ∈ [0, 2]) && r.scopeOk }
  | .garm => { a := ixo .g, b := if r.ctl == 1 then so 2 else si 1, x := .imm, ctl := r.ctl.extractLsb' 1 9 == 0 }
  | .gwait => { d := .pred, a := ixo .g, dkCause := 6, ctl := r.ctl == 0 || r.ctl == 0x20 }
  | .gstat => { d := .reg 2 2, a := ixo .g, dkCause := 6, ctl := r.ctl == 0 }
  | .tminc | .tmdec => { a := si 1, b := so 2, c := si 1, x := .imm, ctl := r.ctl == 0 }
  | .fwait => { d := .reg 1 0, a := vs 1, b := vs 2, x := .ctl 0x1F, dkCause := 6, xpd := some (r.x.extractLsb' 0 5)
                ctl := r.ctl == 0 || r.ctl == 0x20 }
  | .fread => { d := .reg 4 4, a := vsi 1, x := .imm, ctl := r.ctl == 0, dkCause := 6 }
  | .tadv => { d := .reg 2 2, a := vs 2, b := vs 1, ctl := r.ctl == 0, dkCause := 6 }
  | .tcmp => { d := .pred, a := vs 2, b := vs 2, dkCause := 6
               ctl := r.ctl.extractLsb' 4 6 == 0 && decide ((r.ctl.extractLsb' 0 3).toNat ≤ 5) }
  | .tspawn => { a := vs 2, ctl := r.ctl == 0 }
  | .grun => { d := .reg 1 1, a := so 2, b := so 2, ctl := r.ctl == 0, dkCause := 6 }
  | .cancel => ctlForm 7 (r.ctl == 0 && decide ((r.x.extractLsb' 0 3).toNat ≤ 4))
  | .rfgive => ctlForm 0x1FF (r.ctl == 0 && r.x.extractLsb' 0 9 != 0 && r.x.extractLsb' 0 3 == 0)
  | .rfclaim =>
    let try_ := r.ctl.extractLsb' 0 1 == 1
    { d := if try_ then .pred else .no, x := .ctl 0x1FF, dkCause := if try_ then 6 else 7
      ctl := r.ctl.extractLsb' 1 9 == 0 && r.x.extractLsb' 0 9 != 0 && r.x.extractLsb' 0 3 == 0 }
  | .regroup | .ungroup =>
    let base := r.x.extractLsb' 0 8
    let n := (r.x.extractLsb' 8 8).toNat + 1
    { a := if o = .regroup then vo 1 else un, x := .ctl 0xFFFF
      extra := [{ vec := true, base := base, n := n, aligned := false, wr := true }]
      ctl := r.ctl == 0 && decide (base.toNat + n ≤ 255) }
  | .exacq => { d := .reg 0 4, a := si 1, x := .imm, dkCause := 6, ctl := r.ctl.extractLsb' 1 9 == 0 }
  | .exrel => { a := si 1, x := .imm, ctl := r.ctl == 0 }
  | .expin => { a := si 1, x := .imm, ctl := r.ctl.extractLsb' 1 9 == 0 }
  | .eret => { d := .reg 0 1, a := so 2, b := so 4, c := so 2, x := .ctl 7, dkCause := 6
               ctl := decide (r.ctl.toNat ≤ 3) && decide ((r.x.extractLsb' 0 3).toNat ≤ 4) }
  | .sysr => { d := .reg 1 1, x := .ctl 0xFFF, dkCause := 6
               ctl := r.ctl == 0 && decide ((r.x.extractLsb' 0 12).toNat ≤ 6) }
  | .sysw => { a := so 1, x := .ctl 0xFFF
               ctl := r.ctl == 0 && decide ((r.x.extractLsb' 0 12).toNat ∈ [0, 1, 2, 4]) }

/-! ### Fates (R89) -/

/-- The three source fields with their entries' specifications. -/
def sources (f : Form) (r : Raw) : List (SSpec × BitVec 2 × BitVec 8) :=
  [(f.a, r.ak, r.a), (f.b, r.bk, r.b), (f.c, r.ck, r.c)]

/-- Registers that a source's kind names: 0 for a kind that is no register. -/
def SSpec.regs (p : SSpec) (k : BitVec 2) : Nat :=
  if p.used && !p.lit then (if k = 0 then p.v else if k = 1 then p.s else 0) else 0

/-- Cause 6 for a source (R43, R44). -/
def srcKindBad (p : SSpec) (k : BitVec 2) (reg : BitVec 8) : Bool :=
  p.used && (if p.lit then k != 0
    else if k = 0 then p.v == 0
    else if k = 1 then p.s == 0
    else if k = 2 then !p.imm
    else p.ix == .no || decide (2 ^ p.ix.bits ≤ reg.toNat))

/-- Cause 7 for a source (R44, R78). -/
def srcUnusedBad (p : SSpec) (k : BitVec 2) (reg : BitVec 8) : Bool :=
  if p.used then k == 2 && reg != 0 else k != 0 || reg != 0

/-- The encodings 192 to 254 of a uniform field (R48). -/
def uniReserved (reg : BitVec 8) : Bool := decide (192 ≤ reg.toNat) && reg != 255

/-- A base that breaks R47, or a uniform range that runs beyond S191 (R48). -/
def rangeBad (vec aligned : Bool) (base : BitVec 8) (n : Nat) : Bool :=
  base != 255 && ((aligned && decide (base.toNat % min n 4 ≠ 0))
    || (!vec && decide (base.toNat ≤ 191) && decide (191 < base.toNat + n - 1)))

/-- Cause 6 for D. -/
def dstKindBad (f : Form) (r : Raw) : Bool :=
  match f.d with
  | .no => r.dk == 1 && f.dkCause == 6
  | .reg v s => if r.dk = 0 then v == 0 else s == 0 && f.dkCause == 6
  | .pred => r.dk == 1 || decide (32 ≤ r.d.toNat)
  | .uni _ => r.dk == 1

/-- The register range that D names, with whether it is a vector range; `none` when D names none. -/
def dstRange (f : Form) (r : Raw) : Option XRange :=
  match f.d with
  | .reg v s => some { vec := r.dk == 0, base := r.d, n := if r.dk = 0 then v else s, wr := true }
  | .uni n => some { vec := false, base := r.d, n := n, wr := true }
  | _ => none

/-- Every register range that the word names, by field and by CTL and XCTL. -/
def ranges (f : Form) (r : Raw) : List XRange :=
  ((dstRange f r).toList.filter (fun g => g.n != 0)) ++
    ((sources f r).filter (fun p => p.1.regs p.2.1 != 0)).map
      (fun p => { vec := p.2.1 == 0, base := p.2.2, n := p.1.regs p.2.1 }) ++ f.extra

/-- The lowest of the causes 1 to 10 of R89 that applies. -/
def encCause (o : Op) (r : Raw) : Option Nat :=
  let f := form o r
  let src := sources f r
  if r.gmode = 3 then some 1
  else if r.gmode = 0 ∧ r.gpred ≠ 0 then some 2
  else if r.rsv ≠ 0 then some 3
  else if !f.ctl || (match f.x with | .ctl m => r.x &&& ~~~m != 0 | _ => false) then some 4
  else if (r.pol ≠ 0 && !f.pol) || (r.reuse = 1 && !f.reuse) || (r.repack = 1 && !f.repack) then some 5
  else if dstKindBad f r || src.any (fun p => srcKindBad p.1 p.2.1 p.2.2) then some 6
  else if (f.d == .no && (r.d != 0 || r.dk == 1)) || src.any (fun p => srcUnusedBad p.1 p.2.1 p.2.2)
      || decide (2 ≤ src.countP (fun p => p.2.1 == 2))
      || (f.x == .imm && r.x != 0 && !src.any (fun p => p.2.1 == 2)) then some 7
  else if (ranges f r).any (fun g => !g.vec && uniReserved g.base) then some 8
  else if (ranges f r).any (fun g => rangeBad g.vec g.aligned g.base g.n) then some 9
  else if r.dk = 1 && (f.dkCause == 10 || f.perThread || src.any (fun p => p.1.used && !p.1.lit && p.2.1 == 0)) then some 10
  else none

/-- Cause 11 for a thread whose window holds `w` registers (R45, R47, R89). -/
def windowBad (o : Op) (r : Raw) (w : Nat) : Bool :=
  (ranges (form o r) r).any (fun g => g.vec && g.base != 255 && decide (w < g.base.toNat + g.n))

end Sys2Proof.Machine
end

