-- ==== Sys2Proof/Machine/Num.lean ====
section
/-! DEFINITION. Number formats and rounding (R12-R42): formats as data, exact values as dyadics, one rounding, the settling of overflow, underflow, infinities and NaN, and the flags. -/

namespace Sys2Proof.Machine

/-! ### Flags (R33) -/

/-- INV. -/
def fINV : Word := 1
/-- DZ. -/
def fDZ : Word := 2
/-- OF. -/
def fOF : Word := 4
/-- UF. -/
def fUF : Word := 8
/-- NX. -/
def fNX : Word := 16

/-- A flag when a condition holds. -/
def flagIf (b : Bool) (f : Word) : Word := if b then f else 0

/-! ### Formats -/

/-- A floating format (R16, R19, R20, R23, R26): element width, fraction bits, bias, sign, the greatest finite magnitude code, the magnitude code of infinity, the canonical NaN code. -/
structure Fmt where
  bits : Nat
  m : Nat
  bias : Nat
  signed : Bool := true
  negZero : Bool := true
  kmax : Nat
  inf : Option Nat := none
  nan : Option Nat := none
  ieee : Bool := false
  deriving DecidableEq, Repr

/-- An IEEE format of a width and fraction (R16, R18). -/
def ieeeFmt (bits m : Nat) : Fmt where
  bits := bits
  m := m
  bias := 2 ^ (bits - m - 2) - 1
  kmax := (2 ^ (bits - m - 1) - 1) * 2 ^ m - 1
  inf := some ((2 ^ (bits - m - 1) - 1) * 2 ^ m)
  nan := some ((2 ^ (bits - m - 1) - 1) * 2 ^ m + 2 ^ (m - 1))
  ieee := true

/-- binary16. -/
def f16 : Fmt := ieeeFmt 16 10
/-- BF16. -/
def bf16 : Fmt := ieeeFmt 16 7
/-- binary32. -/
def f32 : Fmt := ieeeFmt 32 23
/-- binary64. -/
def f64 : Fmt := ieeeFmt 64 52

/-- A binary8 variant by its precision, signedness and domain (R19, R20). -/
def binary8 (p : Nat) (signed ext : Bool) : Fmt where
  bits := 8
  m := p - 1
  bias := if signed then 2 ^ (7 - p) else 2 ^ (8 - p)
  signed := signed
  negZero := false
  kmax := (if signed then 0x7F else 0xFE) - (if ext then 1 else 0)
  inf := if ext then some (if signed then 0x7F else 0xFE) else none
  nan := some (if signed then 0x80 else 0xFF)

/-- FP6 E2M3 (R23). -/
def e2m3 : Fmt := { bits := 6, m := 3, bias := 1, kmax := 31 }
/-- FP6 E3M2 (R23). -/
def e3m2 : Fmt := { bits := 6, m := 2, bias := 3, kmax := 31 }
/-- FP4 E2M1 (R23). -/
def e2m1 : Fmt := { bits := 4, m := 1, bias := 1, kmax := 7 }
/-- The E4M3 scale format (R26). -/
def e4m3 : Fmt := { bits := 8, m := 3, bias := 7, kmax := 0x7E, nan := some 0x7F }

/-- What an element of a format code is (R53). -/
inductive Elem where
  | int (signed : Bool) (w : Nat)
  | flt (f : Fmt)
  | e8m0
  | opaque16
  deriving DecidableEq, Repr

/-- The element of an FMT code (R53). -/
def elemOf (c : BitVec 8) : Elem :=
  match c.toNat with
  | 0x10 => .int true 4 | 0x11 => .int false 4 | 0x12 => .flt e2m1 | 0x20 => .flt e2m3 | 0x21 => .flt e3m2
  | 0x30 => .int true 8 | 0x31 => .int false 8 | 0x32 => .flt e4m3 | 0x33 => .e8m0
  | 0x50 => .int true 16 | 0x51 => .int false 16 | 0x52 => .flt f16 | 0x53 => .flt bf16
  | 0x60 => .int true 32 | 0x61 => .int false 32 | 0x62 => .flt f32
  | 0x70 => .int true 64 | 0x71 => .int false 64 | 0x72 => .flt f64 | 0x73 => .opaque16
  | n => .flt (binary8 (n % 8) (n / 8 % 2 == 0) (n / 16 % 2 == 1))

/-! ### Values -/

/-- An exact dyadic number `m * 2 ^ e`. -/
structure Dy where
  m : Int
  e : Int
  deriving DecidableEq, Repr

/-- The mantissa of a dyadic at an exponent not above its own. -/
def Dy.at (a : Dy) (e : Int) : Int := a.m * 2 ^ (a.e - e).toNat

/-- Exact sum. -/
def Dy.add (a b : Dy) : Dy :=
  if a.m = 0 then b else if b.m = 0 then a
  else let e := min a.e b.e; ⟨a.at e + b.at e, e⟩

/-- Exact product. -/
def Dy.mul (a b : Dy) : Dy := ⟨a.m * b.m, a.e + b.e⟩

/-- Order of two dyadics. -/
def Dy.cmp (a b : Dy) : Ordering := compare ((a.add ⟨-b.m, b.e⟩).m) 0

/-- A decoded value: NaN, infinity, or a finite value with the sign of a zero. -/
inductive FV where
  | nan (signalling : Bool)
  | inf (neg : Bool)
  | fin (neg : Bool) (n : Nat) (e : Int)
  deriving DecidableEq, Repr

/-- A finite value as a dyadic. -/
def dyOf (neg : Bool) (n : Nat) (e : Int) : Dy := ⟨if neg then -(n : Int) else n, e⟩

/-- The magnitude of code `k` (R16, R19): mantissa and exponent. -/
def Fmt.mag (f : Fmt) (k : Nat) : Nat × Int :=
  let lo : Int := 1 - f.bias - f.m
  if k < 2 ^ f.m then (k, lo) else (2 ^ f.m + k % 2 ^ f.m, lo + ((k / 2 ^ f.m : Nat) : Int) - 1)

/-- The sign weight of a signed format. -/
def Fmt.top (f : Fmt) : Nat := 2 ^ (f.bits - 1)

/-- The value of a code (R16-R26). -/
def Fmt.decode (f : Fmt) (c : Nat) : FV :=
  let neg := f.signed && decide (f.top ≤ c)
  let k := if f.signed then c % f.top else c
  if f.ieee then
    let i := f.inf.getD 0
    if k = i then .inf neg
    else if i < k then .nan (k / 2 ^ (f.m - 1) % 2 == 0)
    else let (n, e) := f.mag k; .fin neg n e
  else if f.nan = some c || (f.negZero && f.nan = some k) then .nan false
  else if f.inf = some k then .inf neg
  else let (n, e) := f.mag k; .fin neg n e

/-- A subnormal code of the format: a zero under FTZ (R17). -/
def Fmt.flushIn (f : Fmt) (ftz : Bool) (c : Nat) : FV :=
  match f.decode c with
  | .fin neg n e => if ftz && f.ieee && decide ((if f.signed then c % f.top else c) < 2 ^ f.m) then .fin neg 0 e else .fin neg n e
  | v => v

/-! ### Rounding (R27, R28) -/

/-- Whether a magnitude between code `k` and `k + 1`, `rem / den` of the way, goes up. `b` and `rho` are the random bits of R28. -/
def roundUp (rnd : Rnd) (neg : Bool) (k rem den b rho : Nat) : Bool :=
  if rem = 0 then false else
  match rnd with
  | .rn => decide (den < 2 * rem) || (2 * rem == den && k % 2 == 1)
  | .rz => false
  | .rd => neg
  | .ru => !neg
  | .rs => decide (2 ^ b ≤ rem * 2 ^ b / den + rho)

/-- floor(log2 (n / d)) for positive `n` and `d`. -/
def log2Rat (n d : Nat) : Int :=
  let l : Int := (Nat.log2 n : Int) - Nat.log2 d
  -- n/d lies in (2^(l-1), 2^(l+1))
  if 0 ≤ l then (if d * 2 ^ l.toNat ≤ n then l else l - 1) else (if d ≤ n * 2 ^ (-l).toNat then l else l - 1)

/-- The magnitude `n / d * 2 ^ e` in codes of the format with unbounded range: the code below, and the remainder over its denominator. -/
def Fmt.index (f : Fmt) (n d : Nat) (e : Int) : Nat × Nat × Nat :=
  let qmin : Int := 1 - f.bias - f.m
  let q := max qmin (log2Rat n d + e - f.m)
  let (a, b) := if q ≤ e then (n * 2 ^ (e - q).toNat, d) else (n, d * 2 ^ (q - e).toNat)
  ((q - qmin).toNat * 2 ^ f.m + a / b, a % b, b)

/-- The code of a sign and a magnitude code (R20: no variant of binary8 has a negative zero). -/
def Fmt.code (f : Fmt) (neg : Bool) (k : Nat) : Nat :=
  if neg && f.signed && (f.negZero || k != 0) then f.top + k else k

/-- What a first result of infinity becomes (R29), without its flags. -/
def Fmt.infResult (f : Fmt) (sat neg : Bool) : Nat :=
  match f.inf, f.nan with
  | some i, _ => f.code neg (if sat then f.kmax else i)
  | none, some n => if sat then f.code neg f.kmax else n
  | none, none => f.code neg f.kmax

/-- An infinite result in the format (R29, R30): code and flags. -/
def Fmt.settleInf (f : Fmt) (sat neg : Bool) : Nat × Word :=
  if neg && !f.signed then (if sat then 0 else f.nan.getD 0, fINV)
  else (f.infResult sat neg, flagIf (f.inf.isNone || sat) fINV)

/-- A NaN result in the format (R18, R36): code and flags; `inv` when an operation or a signalling input makes it invalid. -/
def Fmt.settleNan (f : Fmt) (inv : Bool) : Nat × Word :=
  match f.nan with
  | some n => (n, flagIf inv fINV)
  | none => (0, fINV)

/-- One rounding of the exact value `± n / d * 2 ^ e` into the format (R27-R30, R17): code and flags. -/
def Fmt.settle (f : Fmt) (rnd : Rnd) (sat ftz : Bool) (b rho : Nat) (neg : Bool) (n d : Nat) (e : Int) : Nat × Word :=
  if n = 0 then (f.code neg 0, 0)
  else
    let (k, rem, den) := f.index n d e
    let k' := if roundUp rnd neg k rem den b rho then k + 1 else k
    let nx := rem != 0
    if neg && !f.signed then
      if k' = 0 then (0, fUF ||| fNX)
      else if sat then (0, fNX) else (f.nan.getD 0, fINV)
    else if f.kmax < k' then
      let toInf := match rnd with | .rn | .rs => true | .rz => false | .rd => neg | .ru => !neg
      (if toInf then f.infResult sat neg else f.code neg f.kmax, fOF ||| fNX)
    else if ftz && f.ieee && k' != 0 && decide (k' < 2 ^ f.m) then (f.code neg 0, fUF ||| fNX)
    else (f.code neg k', flagIf nx fNX ||| flagIf (nx && decide (k' < 2 ^ f.m)) fUF)

/-- Settle a dyadic. -/
def Fmt.settleDy (f : Fmt) (rnd : Rnd) (sat ftz : Bool) (x : Dy) : Nat × Word :=
  f.settle rnd sat ftz 0 0 (decide (x.m < 0)) x.m.natAbs 1 x.e

/-! ### Arithmetic (R132, R133) -/

/-- a × b + c on decoded values, before rounding: NaN (invalid or not), infinity, signed zero, or a nonzero exact value. -/
inductive Exact where
  | nan (inv : Bool)
  | inf (neg : Bool)
  | zero (neg : Bool)
  | val (x : Dy)
  deriving DecidableEq, Repr

/-- The exact product (R133). -/
def FV.mul : FV → FV → Exact
  | .nan s, .nan t => .nan (s || t)
  | .nan s, _ => .nan s
  | _, .nan t => .nan t
  | .inf a, .inf b => .inf (a != b)
  | .inf a, .fin b n _ => if n = 0 then .nan true else .inf (a != b)
  | .fin a n _, .inf b => if n = 0 then .nan true else .inf (a != b)
  | .fin a n e, .fin b k g => if n = 0 ∨ k = 0 then .zero (a != b) else .val ⟨(dyOf a n e).m * (dyOf b k g).m, e + g⟩

/-- A decoded value as an exact result. -/
def FV.exact : FV → Exact
  | .nan s => .nan s
  | .inf a => .inf a
  | .fin a n e => if n = 0 then .zero a else .val (dyOf a n e)

/-- The exact sum of two results, with the signs of zero of R133. -/
def Exact.add (rnd : Rnd) : Exact → Exact → Exact
  | .nan s, .nan t => .nan (s || t)
  | .nan s, _ => .nan s
  | _, .nan t => .nan t
  | .inf a, .inf b => if a = b then .inf a else .nan true
  | .inf a, _ => .inf a
  | _, .inf b => .inf b
  | .zero a, .zero b => if a = b then .zero a else .zero (rnd == .rd)
  | .zero _, .val y => .val y
  | .val x, .zero _ => .val x
  | .val x, .val y => let z := x.add y; if z.m = 0 then .zero (rnd == .rd) else .val z

/-- Round and settle an exact result (R132). -/
def Exact.settle (f : Fmt) (rnd : Rnd) (sat ftz : Bool) : Exact → Nat × Word
  | .nan inv => f.settleNan inv
  | .inf neg => f.settleInf sat neg
  | .zero neg => (f.code neg 0, 0)
  | .val x => f.settleDy rnd sat ftz x

/-- a + b (R132). -/
def fAdd (f : Fmt) (rnd : Rnd) (sat ftz : Bool) (a b : Nat) : Nat × Word :=
  (((f.flushIn ftz a).exact).add rnd (f.flushIn ftz b).exact).settle f rnd sat ftz

/-- a × b (R132). -/
def fMul (f : Fmt) (rnd : Rnd) (sat ftz : Bool) (a b : Nat) : Nat × Word :=
  ((f.flushIn ftz a).mul (f.flushIn ftz b)).settle f rnd sat ftz

/-- a × b + c, rounded once (R132). -/
def fFma (f : Fmt) (rnd : Rnd) (sat ftz : Bool) (a b c : Nat) : Nat × Word :=
  (((f.flushIn ftz a).mul (f.flushIn ftz b)).add rnd (f.flushIn ftz c).exact).settle f rnd sat ftz

/-- Order of two values that are no NaN; zeros are equal (R136). -/
def FV.cmp : FV → FV → Ordering
  | .inf a, .inf b => if a = b then .eq else if a then .lt else .gt
  | .inf a, _ => if a then .lt else .gt
  | _, .inf b => if b then .gt else .lt
  | .fin a n e, .fin b k g => (dyOf a n e).cmp (dyOf b k g)
  | _, _ => .eq

/-- NaN. -/
def FV.isNan : FV → Bool
  | .nan _ => true
  | _ => false

/-- Signalling NaN. -/
def FV.isSig : FV → Bool
  | .nan s => s
  | _ => false

/-- The sign of a value. -/
def FV.neg : FV → Bool
  | .inf a => a
  | .fin a _ _ => a
  | _ => false

/-- minimumNumber and maximumNumber (R135): code and flags. A flushed input enters as the zero of its sign. -/
def fMinMax (f : Fmt) (ftz max : Bool) (a b : Nat) : Nat × Word :=
  let x := f.flushIn ftz a
  let y := f.flushIn ftz b
  let fl := flagIf (x.isSig || y.isSig) fINV
  let back (v : FV) (c : Nat) : Nat := match v with | .fin n 0 _ => f.code n 0 | _ => c
  if x.isNan && y.isNan then (f.nan.getD 0, fl)
  else if x.isNan then (back y b, fl)
  else if y.isNan then (back x a, fl)
  else
    let less := match x.cmp y with
      | .lt => true
      | .gt => false
      | .eq => x.neg && !y.neg
    (if less != max then back x a else back y b, 0)

/-- FCMP's relation (R136): result and flags. -/
def fCmp (f : Fmt) (ftz : Bool) (rel : Rel) (un : Bool) (a b : Nat) : Bool × Word :=
  let x := f.flushIn ftz a
  let y := f.flushIn ftz b
  let anyNan := x.isNan || y.isNan
  let quiet := un || match rel with | .eq | .lg | .ord => true | _ => false
  let inv := if quiet then x.isSig || y.isSig else anyNan
  let o := x.cmp y
  let t := match rel with
    | .eq => o == .eq | .lg => o != .eq | .lt => o == .lt | .le => o != .gt | .gt => o == .gt | .ge => o != .lt
    | .ord => !un
  (if anyNan then un else t, flagIf inv fINV)

/-- The class bit of a value (R137). -/
def fClass (f : Fmt) (c : Nat) : Nat :=
  match f.decode c with
  | .nan s => if s then 0 else 1
  | .inf neg => if neg then 2 else 9
  | .fin neg n _ =>
    if n = 0 then (if neg then 5 else 6)
    else if c % f.top < 2 ^ f.m then (if neg then 4 else 7)
    else if neg then 3 else 8

/-! ### Conversions (R31, R32, R142) -/

/-- A float to an integer format (R31): code and flags. The rounded integer is held to the range (DESIGN CHOICE, log 103). -/
def cvtFI (signed : Bool) (w : Nat) (rnd : Rnd) (b rho : Nat) (v : FV) : Nat × Word :=
  match v with
  | .nan _ => (0, fINV)
  | .inf neg => (wrapInt w (satInt signed w (if neg then -(2 ^ w : Int) else 2 ^ w)), fINV)
  | .fin neg n e =>
    let (a, d) := if 0 ≤ e then (n * 2 ^ e.toNat, 1) else (n, 2 ^ (-e).toNat)
    let k := if roundUp rnd neg (a / d) (a % d) d b rho then a / d + 1 else a / d
    let x : Int := if neg then -(k : Int) else k
    let y := satInt signed w x
    (wrapInt w y, if x = y then flagIf (a % d != 0) fNX else fINV)

/-- Into E8M0 (R25): code and flags. A NaN sets INV, as R25 says, where R142 says that a conversion into a format with a NaN code never does (DESIGN CHOICE, log 120). -/
def cvtE8 (rnd : Rnd) (b rho : Nat) (v : FV) : Nat × Word :=
  match v with
  | .fin false n e =>
    if n = 0 then (0xFF, fINV)
    else
      let l := Nat.log2 n
      let c : Int := l + e + 127
      let up := roundUp rnd false (c % 2).toNat (n - 2 ^ l) (2 ^ l) b rho
      let c' := if up then c + 1 else c
      if c' < 0 then (0, fUF ||| fNX)
      else if 254 < c' then (254, fOF ||| fNX)
      else (c'.toNat, flagIf (n != 2 ^ l) fNX)
  | _ => (0xFF, fINV)

/-- The value of an E8M0 code (R25). -/
def e8Val (c : Nat) : FV := if c = 0xFF then .nan false else .fin false 1 ((c : Int) - 127)

/-- One element of CVT (R142): source element, destination element, code; `b` and `rho` are its random bits. -/
def cvtElem (src dst : Elem) (rnd : Rnd) (sat ftz : Bool) (b rho c : Nat) : Nat × Word :=
  match src, dst with
  | .int sg w, .int sd wd => (fitInt sat sd wd (sgnVal sg w c), 0)
  | .int sg w, .flt f => let x := sgnVal sg w c; f.settle rnd sat ftz b rho (decide (x < 0)) x.natAbs 1 0
  | .int sg w, .e8m0 => let x := sgnVal sg w c; cvtE8 rnd b rho (.fin (decide (x < 0)) x.natAbs 0)
  | s, .int sd wd =>
    cvtFI sd wd rnd b rho (match s with | .flt f => f.flushIn ftz c | _ => e8Val c)
  | s, .e8m0 => cvtE8 rnd b rho (match s with | .flt f => f.flushIn ftz c | _ => e8Val c)
  | s, .flt f =>
    match (match s with | .flt g => g.flushIn ftz c | _ => e8Val c) with
    | .nan sig => f.settleNan sig
    | .inf neg => f.settleInf sat neg
    | .fin neg n e => f.settle rnd sat ftz b rho neg n 1 e
  | _, .opaque16 => (0, 0)

/-! ### Blocks (R37, R38) -/

/-- floor(log2) of a nonzero magnitude. -/
def magLog2 (n : Nat) (e : Int) : Int := Nat.log2 n + e

/-- The scale of a block of binary32 values (R37): its code and, unless the block is special, the scale as mantissa and exponent. -/
def blockScale (f : Fmt) (sc32 : Bool) (amax : Nat × Int) : Nat × Nat × Int :=
  let (mn, me) := f.mag f.kmax
  if sc32 then
    let s := max (-127) (min 127 (magLog2 amax.1 amax.2 - magLog2 mn me))
    ((s + 127).toNat, 1, s)
  else
    let (c, _) := e4m3.settle .ru true false 0 0 false amax.1 mn (amax.2 - me)
    let (n, e) := e4m3.mag c
    (c, n, e)

/-- The greater of two magnitudes. -/
def magMax (a b : Nat × Int) : Nat × Int :=
  if (Dy.cmp ⟨a.1, a.2⟩ ⟨b.1, b.2⟩) == .lt then b else a

/-- QBLK of a block (R37, R144): scale code, element codes, flags. -/
def qblkBlock (f : Fmt) (sc32 : Bool) (rnd : Rnd) (xs : List Nat) : Nat × List Nat × Word :=
  let vs := xs.map f32.decode
  if vs.any (fun v => match v with | .fin _ _ _ => false | _ => true) then
    (if sc32 then 0xFF else 0x7F, vs.map (fun _ => 0), fINV)
  else
    let amax := vs.foldl (fun m v => match v with | .fin _ n e => magMax m (n, e) | _ => m) (0, 0)
    if amax.1 = 0 then (0, vs.map (fun v => f.code v.neg 0), 0)
    else
      let (c, sn, se) := blockScale f sc32 amax
      let es := vs.map (fun v => match v with
        | .fin neg n e => f.settle rnd true false 0 0 neg n sn (e - se)
        | _ => (0, 0))
      (c, es.map Prod.fst, es.foldl (fun a p => a ||| p.2) 0)

/-- DQBLK of a block (R38, R145): element codes of the destination, flags. An infinity times a zero scale is invalid (DESIGN CHOICE, log 107). -/
def dqblkBlock (src dst : Fmt) (sc32 : Bool) (rnd : Rnd) (sat ftz : Bool) (scale : Nat) (xs : List Nat) : List Nat × Word :=
  let s := if sc32 then e8Val scale else e4m3.decode scale
  if s.isNan then (xs.map (fun _ => dst.nan.getD 0), fINV)
  else
    let es := xs.map (fun c => ((src.decode c).mul s).settle dst rnd sat ftz)
    (es.map Prod.fst, es.foldl (fun a p => a ||| p.2) 0)

/-! ### Matrix sums (R39, R41) -/

/-- The running sum of products and an accumulator: NaN seen, invalid, infinities of each sign, all terms so far −0, exact sum. -/
structure Sum where
  nan : Bool := false
  inv : Bool := false
  pinf : Bool := false
  ninf : Bool := false
  negz : Bool := true
  x : Dy := ⟨0, 0⟩
  deriving DecidableEq, Repr

/-- Add one exact term (R39). -/
def Sum.add (s : Sum) : Exact → Sum
  | .nan inv => { s with nan := true, inv := s.inv || inv, negz := false }
  | .inf neg => { s with pinf := s.pinf || !neg, ninf := s.ninf || neg, negz := false }
  | .zero neg => { s with negz := s.negz && neg }
  | .val y => { s with x := s.x.add y, negz := false }

/-- Multiply an exact value by another, for scaled forms (R41). -/
def Exact.mul : Exact → Exact → Exact
  | .nan s, .nan t => .nan (s || t)
  | .nan s, _ => .nan s
  | _, .nan t => .nan t
  | .inf a, .inf b => .inf (a != b)
  | .inf _, .zero _ => .nan true
  | .zero _, .inf _ => .nan true
  | .inf a, .val y => .inf (a != decide (y.m < 0))
  | .val x, .inf b => .inf (b != decide (x.m < 0))
  | .zero a, .zero b => .zero (a != b)
  | .zero a, .val y => .zero (a != decide (y.m < 0))
  | .val x, .zero b => .zero (b != decide (x.m < 0))
  | .val x, .val y => .val (x.mul y)

/-- The sum as an exact result under round to nearest. -/
def Sum.exact (s : Sum) : Exact :=
  if s.nan || (s.pinf && s.ninf) then .nan (s.inv || (s.pinf && s.ninf))
  else if s.pinf then .inf false else if s.ninf then .inf true
  else if s.x.m = 0 then .zero s.negz else .val s.x

/-- The rounding of a matrix sum to binary32 (R39): code and flags. -/
def Sum.round (s : Sum) : Nat × Word := s.exact.settle f32 .rn false false

end Sys2Proof.Machine
end

