-- ==== Sys2Proof/Machine/Fields.lean ====
section
/-! DEFINITION. From an instruction to the fields of its word and back, field by field as the encoding tables lay them out (R73, R104, R131, R140-R145, R154, R155, R167, R173, R174, R198, R225-R227). -/

namespace Sys2Proof.Machine

/-! ### Reading fields -/

/-- The guard of GMODE and GPRED (R76). -/
def guardOf (r : Raw) : Guard :=
  if r.gmode = 1 then .ifP r.gpred else if r.gmode = 2 then .ifNot r.gpred else .always

/-- The guard and hints of a word (R76, R83). -/
def headOf (r : Raw) : Head where
  guard := guardOf r
  pol := r.pol
  reuse := r.reuse == 1
  repack := r.repack == 1
  yld := r.yld == 1

/-- A source by its kind (R43). -/
def srcOf (k : BitVec 2) (reg : BitVec 8) (x : BitVec 24) : Src :=
  if k = 0 then .v reg else if k = 1 then .s reg else .imm x

/-- Source A. -/
def Raw.srcA (r : Raw) : Src := srcOf r.ak r.a r.x
/-- Source B. -/
def Raw.srcB (r : Raw) : Src := srcOf r.bk r.b r.x
/-- Source C. -/
def Raw.srcC (r : Raw) : Src := srcOf r.ck r.c r.x
/-- Destination D by DK. -/
def Raw.dst (r : Raw) : Dst := if r.dk = 1 then .s r.d else .v r.d
/-- Destination of an entry with UD (R120, R122). -/
def Raw.udst (r : Raw) : Dst := if r.hi9 = 1 then .s r.d else .v r.d
/-- Predicate destination (R103). -/
def Raw.pd (r : Raw) : BitVec 5 := r.d.extractLsb' 0 5
/-- TY of the standard layout as a type. -/
def Raw.tyv (r : Raw) : Ty := tyOf r.ty
/-- SAT as a Bool. -/
def Raw.satv (r : Raw) : Bool := r.sat == 1
/-- The rounding of the standard layout (R80). -/
def Raw.rndv (r : Raw) : Rnd := rndOf r.opx
/-- FTZ of the standard layout (R80). -/
def Raw.ftzv (r : Raw) : Bool := r.hi9 == 1
/-- CTL bit `i`. -/
def Raw.cbit (r : Raw) (i : Nat) : Bool := r.ctl.getLsbD i
/-- XCTL bit `i`. -/
def Raw.xbit (r : Raw) (i : Nat) : Bool := r.x.getLsbD i

/-- The fields of a matrix instruction (R154, R155). -/
def mmArgsOf (r : Raw) : MmArgs where
  set128 := r.cbit 0
  breg := r.cbit 1
  sgnA := r.cbit 2
  sgnB := r.cbit 3
  extA := r.cbit 4
  extB := r.cbit 5
  sat := r.cbit 6
  zacc := r.cbit 7
  d := r.d
  a := r.a
  b := r.b
  c := r.c.extractLsb' 0 4
  sv := r.x.extractLsb' 0 8
  byte := r.x.extractLsb' 8 2
  ub := r.x.extractLsb' 10 8
  pa := r.x.extractLsb' 18 3
  pb := r.x.extractLsb' 21 3

/-- The slot fields of XCTL (R227). -/
def gridXOf (r : Raw) : GridX where
  ag := r.x.extractLsb' 0 6
  agv := r.xbit 6
  rg := r.x.extractLsb' 7 6
  rgv := r.xbit 13

/-- The instruction of an opcode and its fields. -/
def build (o : Op) (r : Raw) : Instr :=
  let h := headOf r
  match o with
  | .nop => .nop h
  | .iadd => .iadd h r.tyv r.satv r.dst r.srcA r.srcB
  | .isub => .isub h r.tyv r.satv r.dst r.srcA r.srcB
  | .imul => .imul h r.tyv r.satv r.dst r.srcA r.srcB
  | .imulh => .imulh h r.tyv r.dst r.srcA r.srcB
  | .imad => .imad h r.tyv r.satv r.dst r.srcA r.srcB r.srcC
  | .imadw => .imadw h r.tyv r.satv r.dst r.srcA r.srcB r.srcC
  | .imin => .imin h r.tyv r.dst r.srcA r.srcB
  | .imax => .imax h r.tyv r.dst r.srcA r.srcB
  | .iabs => .iabs h r.tyv r.satv r.dst r.srcA
  | .ineg => .ineg h r.tyv r.satv r.dst r.srcA
  | .icmp => .icmp h r.tyv (ccOf r.opx) r.ftzv r.pd r.srcA r.srcB
  | .sel => .sel h r.tyv r.d r.srcA r.srcB (r.c.extractLsb' 0 5)
  | .idp4 => .idp4 h r.satv (r.cbit 6) (r.cbit 7) r.dst r.srcA r.srcB r.srcC
  | .idp8 => .idp8 h r.satv (r.cbit 6) (r.cbit 7) r.dst r.srcA r.srcB r.srcC
  | .andB => .andB h r.tyv r.dst r.srcA r.srcB
  | .orB => .orB h r.tyv r.dst r.srcA r.srcB
  | .xorB => .xorB h r.tyv r.dst r.srcA r.srcB
  | .notB => .notB h r.tyv r.dst r.srcA
  | .lut3 => .lut3 h r.tyv r.dst r.srcA r.srcB r.srcC (r.x.extractLsb' 0 8)
  | .shl => .shl h r.tyv r.dst r.srcA r.srcB
  | .shr => .shr h r.tyv r.dst r.srcA r.srcB
  | .sar => .sar h r.tyv r.dst r.srcA r.srcB
  | .fsh => .fsh h (r.cbit 6) r.dst r.srcA r.srcB r.srcC
  | .pcnt => .pcnt h r.tyv r.dst r.srcA
  | .clz => .clz h r.tyv r.dst r.srcA
  | .brev => .brev h r.tyv r.dst r.srcA
  | .bfx => .bfx h r.tyv r.dst r.srcA r.srcB
  | .bfi => .bfi h r.tyv r.dst r.srcA r.srcB r.srcC
  | .bperm => .bperm h r.dst r.srcA r.srcB r.srcC
  | .mov => .mov h r.tyv r.dst r.srcA
  | .movi => .movi h r.dst (r.c ++ r.x)
  | .movs => .movs h (r.cbit 6) r.dst r.a
  | .vtos => .vtos h r.tyv r.d r.a (if r.cbit 6 then none else some r.srcB)
  | .shfl => .shfl h r.tyv (shflOf (r.ctl.extractLsb' 6 2)) r.d r.a r.srcB
  | .vote =>
    let pa := r.a.extractLsb' 0 5
    match (r.ctl.extractLsb' 6 2).toNat with
    | 0 => .vote h (.every r.pd) pa
    | 1 => .vote h (.any r.pd) pa
    | 2 => .vote h (.agree r.pd) pa
    | _ => .vote h (.mask (r.cbit 8) r.udst) pa
  | .matchL => .matchL h r.tyv r.d r.a
  | .redux => .redux h r.tyv r.satv (reduxOf r.opx) r.udst r.a
  | .padd => .padd h (r.tyv == .s64) r.satv r.dst r.srcA r.srcB
  | .pdiff => .pdiff h r.dst r.srcA r.srcB
  | .pchk => .pchk h r.pd r.srcA (r.x.extractLsb' 0 5) (r.x.extractLsb' 8 16)
  | .prstr => .prstr h r.dst r.srcA r.srcB
  | .plop => .plop h r.pd (r.a.extractLsb' 0 5) (r.b.extractLsb' 0 5) (r.c.extractLsb' 0 5) (r.x.extractLsb' 0 8)
  | .ptov => .ptov h r.d
  | .vtop => .vtop h r.srcA r.srcB
  | .cvt => .cvt h (rndOf (r.ctl.extractLsb' 0 3)) (r.cbit 3) (r.cbit 4) (r.ctl.extractLsb' 5 2)
      (r.x.extractLsb' 0 8) (r.x.extractLsb' 8 8) r.dst r.srcA
      (if r.ctl.extractLsb' 0 3 = 4 then some r.srcC else none)
  | .qblk => .qblk h (rndOf (r.ctl.extractLsb' 0 3)) (r.cbit 3) (r.x.extractLsb' 0 8) (r.x.extractLsb' 8 2)
      (r.x.extractLsb' 10 8) r.dst r.srcA
  | .dqblk => .dqblk h (rndOf (r.ctl.extractLsb' 0 3)) (r.cbit 3) (r.ctl.extractLsb' 4 2) (r.cbit 6) (r.cbit 7)
      (r.x.extractLsb' 8 2) (r.x.extractLsb' 10 8) r.dst r.srcA r.srcB
  | .fadd => .fadd h r.satv r.rndv r.ftzv r.dst r.srcA r.srcB
  | .fmul => .fmul h r.satv r.rndv r.ftzv r.dst r.srcA r.srcB
  | .ffma => .ffma h r.satv r.rndv r.ftzv r.dst r.srcA r.srcB r.srcC
  | .fmin => .fmin h r.ftzv r.dst r.srcA r.srcB
  | .fmax => .fmax h r.ftzv r.dst r.srcA r.srcB
  | .fcmp => .fcmp h r.tyv r.ftzv (relOf (r.x.extractLsb' 0 3)) (r.xbit 3) (r.xbit 4) r.pd r.srcA r.srcB
  | .ffn => .ffn h r.ftzv (fnOf (r.x.extractLsb' 0 4)) r.dst r.srcA
  | .ftest => .ftest h r.tyv (r.x.extractLsb' 0 10) (r.xbit 10) r.pd r.srcA
  | .hadd2 => .hadd2 h r.tyv r.satv r.rndv r.ftzv r.dst r.srcA r.srcB
  | .hmul2 => .hmul2 h r.tyv r.satv r.rndv r.ftzv r.dst r.srcA r.srcB
  | .hfma2 => .hfma2 h r.tyv r.satv r.rndv r.ftzv r.dst r.srcA r.srcB r.srcC
  | .hmnx2 => .hmnx2 h r.tyv r.ftzv (r.xbit 0) r.dst r.srcA r.srcB
  | .dadd => .dadd h r.satv r.rndv r.ftzv r.dst r.srcA r.srcB
  | .dmul => .dmul h r.satv r.rndv r.ftzv r.dst r.srcA r.srcB
  | .dfma => .dfma h r.satv r.rndv r.ftzv r.dst r.srcA r.srcB r.srcC
  | .mmbf => .mmbf h (mmArgsOf r)
  | .mmhf => .mmhf h (mmArgsOf r)
  | .mm8p => .mm8p h (mmArgsOf r)
  | .mmi8 => .mmi8 h (mmArgsOf r)
  | .mmi4 => .mmi4 h (mmArgsOf r)
  | .mmf6a => .mmf6a h (mmArgsOf r)
  | .mmf6b => .mmf6b h (mmArgsOf r)
  | .mmf4 => .mmf4 h (mmArgsOf r)
  | .mms8p => .mms8p h (mmArgsOf r)
  | .mmsf6a => .mmsf6a h (mmArgsOf r)
  | .mmsf6b => .mmsf6b h (mmArgsOf r)
  | .mmsf4 => .mmsf4 h (mmArgsOf r)
  | .ldmx => .ldmx h (r.cbit 0) (fragOf (r.ctl.extractLsb' 1 2)) (r.cbit 3) r.d r.srcA (r.b.extractLsb' 0 4) r.x
  | .stmx => .stmx h (r.cbit 0) (fragOf (r.ctl.extractLsb' 1 2)) (r.cbit 3) r.srcA (r.b.extractLsb' 0 4) r.x r.c
  | .ld => .ld h (spaceOf (r.ctl.extractLsb' 0 2)) (sizeOf (r.ctl.extractLsb' 2 3)) (ordOf r.ord) (scopeOf r.scope)
      r.dst r.srcA r.x
  | .st => .st h (spaceOf (r.ctl.extractLsb' 0 2)) (sizeOf (r.ctl.extractLsb' 2 3)) (ordOf r.ord) (scopeOf r.scope)
      r.srcA r.x r.srcB
  | .atom => .atom h (spaceOf (r.ctl.extractLsb' 0 2)) (amoOf (r.x.extractLsb' 0 4)) (tyOf (r.x.extractLsb' 4 5))
      (ordOf r.ord) (scopeOf r.scope) r.dst r.srcA r.srcB (if r.x.extractLsb' 0 4 = 7 then some r.srcC else none)
  | .red => .red h (spaceOf (r.ctl.extractLsb' 0 2)) (amoOf (r.x.extractLsb' 0 4)) (tyOf (r.x.extractLsb' 4 5))
      (ordOf r.ord) (scopeOf r.scope) r.srcA r.srcB
  | .fence => .fence h (semOf r.ord) (scopeOf r.scope)
  | .pref => .pref h (spaceOf (r.ctl.extractLsb' 0 2)) (r.cbit 2) r.srcA r.x
  | .spadj => .spadj h r.d r.srcA
  | .cpy => .cpy h (spaceOf (r.ctl.extractLsb' 0 2)) (spaceOf (r.ctl.extractLsb' 2 2)) (csizeOf (r.ctl.extractLsb' 4 2))
      (scopeOf r.scope) r.d r.srcA r.srcB (r.x.extractLsb' 0 12) (r.x.extractLsb' 12 12)
  | .chapp => .chapp h r.dst r.srcA r.srcB
  | .chadv => .chadv h r.srcA r.srcB
  | .tryw => .tryw h (spaceOf (r.ctl.extractLsb' 0 2)) (r.cbit 2) (r.cbit 5) (scopeOf r.scope) r.pd r.srcA r.x r.srcB
  | .ldsh => .ldsh h (spaceOf (r.ctl.extractLsb' 0 2)) (r.c.extractLsb' 0 4) r.a r.x
  | .setsh => .setsh h (r.ctl.extractLsb' 0 5) (r.c.extractLsb' 0 4) r.srcB
  | .stsh => .stsh h (spaceOf (r.ctl.extractLsb' 0 2)) (r.c.extractLsb' 0 4) r.a r.x
  | .pbinit => .pbinit h r.srcA r.srcB
  | .pbarr => .pbarr h (r.cbit 6) (scopeOf r.scope) r.d r.srcA r.srcB
  | .pbwait => .pbwait h (r.cbit 5) (scopeOf r.scope) r.d (r.x.extractLsb' 0 5) r.srcA r.srcB
  | .pbinv => .pbinv h r.srcA
  | .cvset => .cvset h (r.cbit 0) (r.a.extractLsb' 0 4)
  | .cvsign => .cvsign h (r.a.extractLsb' 0 4)
  | .rcv => .rcv h (if r.cbit 0 then some r.pd else none) (r.x.extractLsb' 0 16)
  | .bra => .bra h r.x
  | .brx => .brx h r.srcA (r.x.extractLsb' 0 16)
  | .call => .call h r.d r.x
  | .callx => .callx h r.d r.srcA (r.x.extractLsb' 0 16)
  | .ret => .ret h r.srcA
  | .land => .land h (r.x.extractLsb' 0 16)
  | .exit => .exit h
  | .yield => .yield h (r.x.extractLsb' 0 16)
  | .gst => .gst h (csizeOf (r.ctl.extractLsb' 0 2)) (r.cbit 6) (scopeOf r.scope) r.srcA r.b r.c (gridXOf r)
  | .gld => .gld h (csizeOf (r.ctl.extractLsb' 0 2)) (r.cbit 5) (scopeOf r.scope) r.d r.srcA r.x r.srcC
  | .gatom => .gatom h (amoOf (r.x.extractLsb' 0 4)) (tyOf (r.x.extractLsb' 4 5)) (ordOf r.ord) (scopeOf r.scope)
      r.d r.srcA r.srcB r.srcC
  | .gred => .gred h (amoOf ((0 : BitVec 1) ++ r.ctl.extractLsb' 0 3)) (gredTyOf (r.ctl.extractLsb' 3 3)) (r.ctl.extractLsb' 6 2)
      (spaceOf (r.ctl.extractLsb' 8 2)) r.srcA r.srcB r.c (gridXOf r) (r.x.extractLsb' 14 10)
  | .gcpy => .gcpy h (spaceOf (r.ctl.extractLsb' 0 2)) (csizeOf (r.ctl.extractLsb' 2 2)) (r.cbit 6) (scopeOf r.scope)
      r.d r.srcA r.srcB r.c (gridXOf r)
  | .garm => .garm h (r.cbit 0) (r.a.extractLsb' 0 6) r.srcB
  | .gwait => .gwait h (r.cbit 5) r.pd (r.a.extractLsb' 0 6)
  | .gstat => .gstat h r.dst (r.a.extractLsb' 0 6)
  | .tminc => .tminc h r.srcA r.srcB r.srcC
  | .tmdec => .tmdec h r.srcA r.srcB r.srcC
  | .fwait => .fwait h (r.cbit 5) r.d (r.x.extractLsb' 0 5) r.srcA r.srcB
  | .fread => .fread h r.dst r.srcA
  | .tadv => .tadv h r.dst r.srcA r.srcB
  | .tcmp => .tcmp h (ccOf (r.ctl.extractLsb' 0 3)) (r.cbit 3) r.pd r.srcA r.srcB
  | .tspawn => .tspawn h r.srcA
  | .grun => .grun h r.dst r.srcA r.srcB
  | .cancel => .cancel h (levelOf (r.x.extractLsb' 0 3))
  | .rfgive => .rfgive h (r.x.extractLsb' 0 9)
  | .rfclaim => .rfclaim h (if r.cbit 0 then some r.pd else none) (r.x.extractLsb' 0 9)
  | .regroup => .regroup h r.a (r.x.extractLsb' 0 8) (r.x.extractLsb' 8 8)
  | .ungroup => .ungroup h (r.x.extractLsb' 0 8) (r.x.extractLsb' 8 8)
  | .exacq => .exacq h (r.cbit 0) r.d r.srcA
  | .exrel => .exrel h r.srcA
  | .expin => .expin h (r.cbit 0) r.srcA
  | .trap => .trap h (r.x.extractLsb' 0 16)
  | .bkpt => .bkpt h (r.x.extractLsb' 0 16)
  | .eret => .eret h (eretOf (r.ctl.extractLsb' 0 3)) (levelOf (r.x.extractLsb' 0 3)) r.d r.a r.b r.c
  | .sysr => .sysr h r.dst (r.x.extractLsb' 0 12)
  | .sysw => .sysw h (r.x.extractLsb' 0 12) r.a

/-! ### Writing fields -/

/-- GMODE and GPRED of a guard (R76), and the hint bits (R83). -/
def headRaw (h : Head) : Raw :=
  let r : Raw := { pol := h.pol, reuse := bit1 h.reuse, repack := bit1 h.repack, yld := bit1 h.yld }
  match h.guard with
  | .always => r
  | .ifP p => { r with gmode := 1, gpred := p }
  | .ifNot p => { r with gmode := 2, gpred := p }

/-- Put a source in A, and its immediate in IMM24. -/
def Raw.putA (r : Raw) (a : Src) : Raw :=
  match a with
  | .v n => { r with a := n } | .s n => { r with a := n, ak := 1 } | .imm i => { r with ak := 2, x := i }
/-- Put a source in B. -/
def Raw.putB (r : Raw) (a : Src) : Raw :=
  match a with
  | .v n => { r with b := n } | .s n => { r with b := n, bk := 1 } | .imm i => { r with bk := 2, x := i }
/-- Put a source in C. -/
def Raw.putC (r : Raw) (a : Src) : Raw :=
  match a with
  | .v n => { r with c := n } | .s n => { r with c := n, ck := 1 } | .imm i => { r with ck := 2, x := i }
/-- Put a destination in D and DK. -/
def Raw.putD (r : Raw) (d : Dst) : Raw :=
  match d with
  | .v n => { r with d := n } | .s n => { r with d := n, dk := 1 }
/-- Put a predicate destination in D. -/
def Raw.putPd (r : Raw) (p : BitVec 5) : Raw := { r with d := p.zeroExtend 8 }
/-- The register of a destination, for an entry with UD (R120). -/
def dstReg : Dst → BitVec 8
  | .v n => n | .s n => n
/-- UD of a destination. -/
def dstUd : Dst → BitVec 1
  | .v _ => 0 | .s _ => 1
/-- Put a kind-11 index in A. -/
def Raw.ixA (r : Raw) (n : Nat) : Raw := { r with a := BitVec.ofNat 8 n, ak := 3 }
/-- Put a kind-11 index in B. -/
def Raw.ixB (r : Raw) (n : Nat) : Raw := { r with b := BitVec.ofNat 8 n, bk := 3 }
/-- Put a kind-11 index in C. -/
def Raw.ixC (r : Raw) (n : Nat) : Raw := { r with c := BitVec.ofNat 8 n, ck := 3 }

/-- The standard layout (R80). -/
def stdCtl (hi9 : BitVec 1) (opx : BitVec 3) (sat : Bool) (t : Ty) : BitVec 10 := hi9 ++ opx ++ bit1 sat ++ tyCode t

/-- Fields of an ALU instruction of the standard layout. -/
def aluRaw (h : Head) (t : Ty) (sat : Bool) (d : Dst) (a : Src) : Raw :=
  (({ headRaw h with ctl := stdCtl 0 0 sat t } : Raw).putD d).putA a

/-- Fields of a floating instruction of the standard layout. -/
def fltRaw (h : Head) (t : Ty) (sat : Bool) (rnd : Rnd) (ftz : Bool) (d : Dst) (a : Src) : Raw :=
  (({ headRaw h with ctl := stdCtl (bit1 ftz) (rndCode rnd) sat t } : Raw).putD d).putA a

/-- Fields of a matrix instruction (R154, R155). -/
def mmRaw (h : Head) (m : MmArgs) : Raw :=
  { headRaw h with
    d := m.d, a := m.a, b := m.b, bk := if m.breg then 0 else 3
    c := m.c.zeroExtend 8, ck := 3
    ctl := (0 : BitVec 2) ++ bit1 m.zacc ++ bit1 m.sat ++ bit1 m.extB ++ bit1 m.extA ++ bit1 m.sgnB ++ bit1 m.sgnA
      ++ bit1 m.breg ++ bit1 m.set128
    x := m.pb ++ m.pa ++ m.ub ++ m.byte ++ m.sv }

/-- XCTL of GST, GRED and GCPY (R227). -/
def gridXRaw (x : GridX) (conv : BitVec 10) : BitVec 24 := conv ++ bit1 x.rgv ++ x.rg ++ bit1 x.agv ++ x.ag

/-- CTL with ORD and SCOPE above five bits (R174). -/
def ordCtl (sc : Scope) (o : Ordr) (low : BitVec 5) : BitVec 10 := scopeCode sc ++ ordCode o ++ low

/-- The ordering of a Boolean acquire. -/
def acqOrd (b : Bool) : Ordr := if b then .acq else .plain
/-- The ordering of a Boolean release. -/
def relOrd (b : Bool) : Ordr := if b then .rel else .plain

/-- A matrix instruction: its opcode and arguments. -/
def mmOf : Instr → Option (Op × Head × MmArgs)
  | .mmbf h m => some (.mmbf, h, m) | .mmhf h m => some (.mmhf, h, m) | .mm8p h m => some (.mm8p, h, m)
  | .mmi8 h m => some (.mmi8, h, m) | .mmi4 h m => some (.mmi4, h, m) | .mmf6a h m => some (.mmf6a, h, m)
  | .mmf6b h m => some (.mmf6b, h, m) | .mmf4 h m => some (.mmf4, h, m) | .mms8p h m => some (.mms8p, h, m)
  | .mmsf6a h m => some (.mmsf6a, h, m) | .mmsf6b h m => some (.mmsf6b, h, m) | .mmsf4 h m => some (.mmsf4, h, m)
  | _ => none

/-- The opcode and fields of an instruction; `none` for a step that is no instruction word of a defined opcode. -/
def fields (i : Instr) : Option (Op × Raw) :=
  match i with
  | .nop h => some (.nop, headRaw h)
  | .iadd h t s d a b => some (.iadd, (aluRaw h t s d a).putB b)
  | .isub h t s d a b => some (.isub, (aluRaw h t s d a).putB b)
  | .imul h t s d a b => some (.imul, (aluRaw h t s d a).putB b)
  | .imulh h t d a b => some (.imulh, (aluRaw h t false d a).putB b)
  | .imad h t s d a b c => some (.imad, ((aluRaw h t s d a).putB b).putC c)
  | .imadw h t s d a b c => some (.imadw, ((aluRaw h t s d a).putB b).putC c)
  | .imin h t d a b => some (.imin, (aluRaw h t false d a).putB b)
  | .imax h t d a b => some (.imax, (aluRaw h t false d a).putB b)
  | .iabs h t s d a => some (.iabs, aluRaw h t s d a)
  | .ineg h t s d a => some (.ineg, aluRaw h t s d a)
  | .icmp h t cc an pd a b =>
    some (.icmp, ((({ headRaw h with ctl := stdCtl (bit1 an) (ccCode cc) false t } : Raw).putPd pd).putA a).putB b)
  | .sel h t d a b pc => some (.sel, ((aluRaw h t false (.v d) a).putB b).ixC pc.toNat)
  | .idp4 h s sa sb d a b c =>
    some (.idp4, ((({ aluRaw h .s32 s d a with ctl := stdCtl 0 ((0 : BitVec 1) ++ bit1 sb ++ bit1 sa) s .s32 } : Raw)).putB b).putC c)
  | .idp8 h s sa sb d a b c =>
    some (.idp8, ((({ aluRaw h .s32 s d a with ctl := stdCtl 0 ((0 : BitVec 1) ++ bit1 sb ++ bit1 sa) s .s32 } : Raw)).putB b).putC c)
  | .andB h t d a b => some (.andB, (aluRaw h t false d a).putB b)
  | .orB h t d a b => some (.orB, (aluRaw h t false d a).putB b)
  | .xorB h t d a b => some (.xorB, (aluRaw h t false d a).putB b)
  | .notB h t d a => some (.notB, aluRaw h t false d a)
  | .lut3 h t d a b c k => some (.lut3, { ((aluRaw h t false d a).putB b).putC c with x := k.zeroExtend 24 })
  | .shl h t d a b => some (.shl, (aluRaw h t false d a).putB b)
  | .shr h t d a b => some (.shr, (aluRaw h t false d a).putB b)
  | .sar h t d a b => some (.sar, (aluRaw h t false d a).putB b)
  | .fsh h rt d a b c =>
    some (.fsh, ((({ aluRaw h .b32 false d a with ctl := stdCtl 0 ((0 : BitVec 2) ++ bit1 rt) false .b32 } : Raw)).putB b).putC c)
  | .pcnt h t d a => some (.pcnt, aluRaw h t false d a)
  | .clz h t d a => some (.clz, aluRaw h t false d a)
  | .brev h t d a => some (.brev, aluRaw h t false d a)
  | .bfx h t d a b => some (.bfx, (aluRaw h t false d a).putB b)
  | .bfi h t d a b c => some (.bfi, ((aluRaw h t false d a).putB b).putC c)
  | .bperm h d a b c => some (.bperm, ((aluRaw h .b32 false d a).putB b).putC c)
  | .mov h t d a => some (.mov, aluRaw h t false d a)
  | .movi h d k =>
    some (.movi, ({ headRaw h with ctl := stdCtl 0 0 false .b32, c := k.extractLsb' 24 8, x := k.extractLsb' 0 24 } : Raw).putD d)
  | .movs h clr d n =>
    some (.movs, (({ headRaw h with
      ctl := stdCtl 0 ((0 : BitVec 2) ++ bit1 clr) false (if n.toNat ∈ [12, 14, 17] then .b64 else .b32) } : Raw).putD d).ixA n.toNat)
  | .vtos h t d a l =>
    some (.vtos, match l with
      | none => { headRaw h with ctl := stdCtl 0 1 false t, d := d, a := a }
      | some b => ({ headRaw h with ctl := stdCtl 0 0 false t, d := d, a := a } : Raw).putB b)
  | .shfl h t m d a b =>
    some (.shfl, ({ headRaw h with ctl := stdCtl 0 ((0 : BitVec 1) ++ shflCode m) false t, d := d, a := a } : Raw).putB b)
  | .vote h op pa =>
    some (.vote, (match op with
      | .every pd => ({ headRaw h with ctl := stdCtl 0 0 false .b32 } : Raw).putPd pd
      | .any pd => ({ headRaw h with ctl := stdCtl 0 1 false .b32 } : Raw).putPd pd
      | .agree pd => ({ headRaw h with ctl := stdCtl 0 2 false .b32 } : Raw).putPd pd
      | .mask cnt d => { headRaw h with ctl := stdCtl (dstUd d) (bit1 cnt ++ (3 : BitVec 2)) false .b32, d := (dstReg d) }).ixA pa.toNat)
  | .matchL h t d a => some (.matchL, { headRaw h with ctl := stdCtl 0 0 false t, d := d, a := a })
  | .redux h t s op d a =>
    some (.redux, { headRaw h with ctl := stdCtl (dstUd d) (reduxCode op) s t, d := (dstReg d), a := a })
  | .padd h w s d a b => some (.padd, (aluRaw h (if w then .s64 else .s32) s d a).putB b)
  | .pdiff h d a b => some (.pdiff, (aluRaw h .s64 false d a).putB b)
  | .pchk h pd a rights size =>
    some (.pchk, ({ ({ headRaw h with ctl := stdCtl 0 0 false .b64 } : Raw).putPd pd with
      x := size ++ (0 : BitVec 3) ++ rights } : Raw).putA a)
  | .prstr h d a b => some (.prstr, (aluRaw h .b64 false d a).putB b)
  | .plop h pd pa pb pc k =>
    some (.plop, (((({ headRaw h with ctl := stdCtl 0 0 false .b32, x := k.zeroExtend 24 } : Raw).putPd pd).ixA pa.toNat).ixB
      pb.toNat).ixC pc.toNat)
  | .ptov h d => some (.ptov, { headRaw h with ctl := stdCtl 0 0 false .b32, d := d })
  | .vtop h a b => some (.vtop, (({ headRaw h with ctl := stdCtl 0 0 false .b32 } : Raw).putA a).putB b)
  | .cvt h rnd s f ln sf df d a c =>
    let r := (({ headRaw h with ctl := (0 : BitVec 3) ++ ln ++ bit1 f ++ bit1 s ++ rndCode rnd
                                x := (0 : BitVec 8) ++ df ++ sf } : Raw).putD d).putA a
    some (.cvt, match c with | none => r | some c => r.putC c)
  | .qblk h rnd k sd byte ef d a =>
    some (.qblk, (({ headRaw h with ctl := (0 : BitVec 6) ++ bit1 k ++ rndCode rnd
                                    x := (0 : BitVec 6) ++ ef ++ byte ++ sd } : Raw).putD d).putA a)
  | .dqblk h rnd k df s f byte ef d a b =>
    some (.dqblk, ((({ headRaw h with ctl := (0 : BitVec 2) ++ bit1 f ++ bit1 s ++ df ++ bit1 k ++ rndCode rnd
                                      x := (0 : BitVec 6) ++ ef ++ byte ++ (0 : BitVec 8) } : Raw).putD d).putA a).putB b)
  | .fadd h s rnd f d a b => some (.fadd, (fltRaw h .f32 s rnd f d a).putB b)
  | .fmul h s rnd f d a b => some (.fmul, (fltRaw h .f32 s rnd f d a).putB b)
  | .ffma h s rnd f d a b c => some (.ffma, ((fltRaw h .f32 s rnd f d a).putB b).putC c)
  | .fmin h f d a b => some (.fmin, (fltRaw h .f32 false .rn f d a).putB b)
  | .fmax h f d a b => some (.fmax, (fltRaw h .f32 false .rn f d a).putB b)
  | .fcmp h t f rel u an pd a b =>
    some (.fcmp, ((({ headRaw h with ctl := stdCtl (bit1 f) 0 false t
                                     x := (0 : BitVec 19) ++ bit1 an ++ bit1 u ++ relCode rel } : Raw).putPd pd).putA a).putB b)
  | .ffn h f fn d a => some (.ffn, { fltRaw h .f32 false .rn f d a with x := (fnCode fn).zeroExtend 24 })
  | .ftest h t cls hi pd a =>
    some (.ftest, (({ headRaw h with ctl := stdCtl 0 0 false t, x := (0 : BitVec 13) ++ bit1 hi ++ cls } : Raw).putPd pd).putA a)
  | .hadd2 h t s rnd f d a b => some (.hadd2, (fltRaw h t s rnd f d a).putB b)
  | .hmul2 h t s rnd f d a b => some (.hmul2, (fltRaw h t s rnd f d a).putB b)
  | .hfma2 h t s rnd f d a b c => some (.hfma2, ((fltRaw h t s rnd f d a).putB b).putC c)
  | .hmnx2 h t f mx d a b => some (.hmnx2, { (fltRaw h t false .rn f d a).putB b with x := (bit1 mx).zeroExtend 24 })
  | .dadd h s rnd f d a b => some (.dadd, (fltRaw h .f64 s rnd f d a).putB b)
  | .dmul h s rnd f d a b => some (.dmul, (fltRaw h .f64 s rnd f d a).putB b)
  | .dfma h s rnd f d a b c => some (.dfma, ((fltRaw h .f64 s rnd f d a).putB b).putC c)
  | .mmbf h m => some (.mmbf, mmRaw h m)
  | .mmhf h m => some (.mmhf, mmRaw h m)
  | .mm8p h m => some (.mm8p, mmRaw h m)
  | .mmi8 h m => some (.mmi8, mmRaw h m)
  | .mmi4 h m => some (.mmi4, mmRaw h m)
  | .mmf6a h m => some (.mmf6a, mmRaw h m)
  | .mmf6b h m => some (.mmf6b, mmRaw h m)
  | .mmf4 h m => some (.mmf4, mmRaw h m)
  | .mms8p h m => some (.mms8p, mmRaw h m)
  | .mmsf6a h m => some (.mmsf6a, mmRaw h m)
  | .mmsf6b h m => some (.mmsf6b, mmRaw h m)
  | .mmsf4 h m => some (.mmsf4, mmRaw h m)
  | .ldmx h m fr w6 d a t ofs =>
    some (.ldmx, ({ ({ headRaw h with ctl := (0 : BitVec 6) ++ bit1 w6 ++ fragCode fr ++ bit1 m, d := d } : Raw).putA a with
      x := ofs } : Raw).ixB t.toNat)
  | .stmx h m fr w6 a t ofs c =>
    some (.stmx, ({ ({ headRaw h with ctl := (0 : BitVec 6) ++ bit1 w6 ++ fragCode fr ++ bit1 m, c := c } : Raw).putA a with
      x := ofs } : Raw).ixB t.toNat)
  | .ld h sp sz o sc d a ofs =>
    some (.ld, { (({ headRaw h with ctl := ordCtl sc o (sizeCode sz ++ spaceCode sp) } : Raw).putD d).putA a with x := ofs })
  | .st h sp sz o sc a ofs b =>
    some (.st, { (({ headRaw h with ctl := ordCtl sc o (sizeCode sz ++ spaceCode sp) } : Raw).putA a).putB b with x := ofs })
  | .atom h sp op t o sc d a b c =>
    let r := ((({ headRaw h with ctl := ordCtl sc o ((0 : BitVec 3) ++ spaceCode sp) } : Raw).putD d).putA a).putB b
    let r := match c with | none => r | some c => r.putC c
    some (.atom, { r with x := (0 : BitVec 15) ++ tyCode t ++ amoCode op })
  | .red h sp op t o sc a b =>
    some (.red, { (({ headRaw h with ctl := ordCtl sc o ((0 : BitVec 3) ++ spaceCode sp) } : Raw).putA a).putB b with
      x := (0 : BitVec 15) ++ tyCode t ++ amoCode op })
  | .fence h sem sc => some (.fence, { headRaw h with ctl := scopeCode sc ++ semCode sem ++ (0 : BitVec 5) })
  | .pref h sp l2 a ofs =>
    some (.pref, { ({ headRaw h with ctl := (0 : BitVec 7) ++ bit1 l2 ++ spaceCode sp } : Raw).putA a with x := ofs })
  | .spadj h d a => some (.spadj, ({ headRaw h with d := d } : Raw).putA a)
  | .cpy h ds ss sz sc d a b dofs sofs =>
    some (.cpy, { (({ headRaw h with ctl := scopeCode sc ++ (0 : BitVec 1) ++ csizeCode sz ++ spaceCode ss ++ spaceCode ds, d := d } :
      Raw).putA a).putB b with x := sofs ++ dofs })
  | .chapp h d a b => some (.chapp, (((headRaw h).putD d).putA a).putB b)
  | .chadv h a b => some (.chadv, ((headRaw h).putA a).putB b)
  | .tryw h sp w acq sc pd a ofs b =>
    some (.tryw, { ((({ headRaw h with ctl := ordCtl sc (acqOrd acq) ((0 : BitVec 2) ++ bit1 w ++ spaceCode sp) } : Raw).putPd
      pd).putA a).putB b with x := ofs })
  | .ldsh h sp t a ofs =>
    some (.ldsh, ({ headRaw h with ctl := (spaceCode sp).zeroExtend 10, a := a, ak := 1, x := ofs } : Raw).ixC t.toNat)
  | .setsh h f t b => some (.setsh, (({ headRaw h with ctl := f.zeroExtend 10 } : Raw).putB b).ixC t.toNat)
  | .stsh h sp t a ofs =>
    some (.stsh, ({ headRaw h with ctl := (spaceCode sp).zeroExtend 10, a := a, ak := 1, x := ofs } : Raw).ixC t.toNat)
  | .pbinit h a b => some (.pbinit, ((headRaw h).putA a).putB b)
  | .pbarr h rel sc d a b =>
    some (.pbarr, (({ headRaw h with ctl := ordCtl sc (relOrd rel) 0, d := d } : Raw).putA a).putB b)
  | .pbwait h acq sc d pd a b =>
    some (.pbwait, (({ headRaw h with ctl := ordCtl sc (acqOrd acq) 0, d := d, x := pd.zeroExtend 24 } : Raw).putA a).putB b)
  | .pbinv h a => some (.pbinv, (headRaw h).putA a)
  | .cvset h m c => some (.cvset, ({ headRaw h with ctl := (bit1 m).zeroExtend 10 } : Raw).ixA c.toNat)
  | .cvsign h c => some (.cvsign, (headRaw h).ixA c.toNat)
  | .rcv h pd bound =>
    some (.rcv, match pd with
      | none => { headRaw h with x := bound.zeroExtend 24 }
      | some p => ({ headRaw h with ctl := 1, x := bound.zeroExtend 24 } : Raw).putPd p)
  | .bra h ofs => some (.bra, { headRaw h with x := ofs })
  | .brx h a tag => some (.brx, { (headRaw h).putA a with x := tag.zeroExtend 24 })
  | .call h d ofs => some (.call, { headRaw h with d := d, x := ofs })
  | .callx h d a tag => some (.callx, { (headRaw h).putA a with d := d, x := tag.zeroExtend 24 })
  | .ret h a => some (.ret, (headRaw h).putA a)
  | .land h tag => some (.land, { headRaw h with x := tag.zeroExtend 24 })
  | .exit h => some (.exit, headRaw h)
  | .yield h n => some (.yield, { headRaw h with x := n.zeroExtend 24 })
  | .gst h sz rel sc a b su x =>
    some (.gst, { ({ headRaw h with ctl := ordCtl sc (relOrd rel) ((0 : BitVec 3) ++ csizeCode sz) } : Raw).putA a with
      b := b, c := su, ck := 1, x := gridXRaw x 0 })
  | .gld h sz acq sc d a ofs c =>
    some (.gld, { (({ headRaw h with ctl := ordCtl sc (acqOrd acq) ((0 : BitVec 3) ++ csizeCode sz), d := d } : Raw).putA a).putC c with
      x := ofs })
  | .gatom h op t o sc d a b c =>
    some (.gatom, { ((({ headRaw h with ctl := ordCtl sc o 0, d := d } : Raw).putA a).putB b).putC c with
      x := (0 : BitVec 15) ++ tyCode t ++ amoCode op })
  | .gred h op t n ss a b su x conv =>
    some (.gred, { (({ headRaw h with ctl := spaceCode ss ++ n ++ gredTyCode t ++ (amoCode op).extractLsb' 0 3 } : Raw).putA a).putB b with
      c := su, ck := 1, x := gridXRaw x conv })
  | .gcpy h ss sz rel sc d a b su x =>
    some (.gcpy, { (({ headRaw h with ctl := ordCtl sc (relOrd rel) ((0 : BitVec 1) ++ csizeCode sz ++ spaceCode ss), d := d } : Raw).putA
      a).putB b with c := su, ck := 1, x := gridXRaw x 0 })
  | .garm h pat g b => some (.garm, (({ headRaw h with ctl := (bit1 pat).zeroExtend 10 } : Raw).putB b).ixA g.toNat)
  | .gwait h acq pd g =>
    some (.gwait, (({ headRaw h with ctl := (0 : BitVec 4) ++ bit1 acq ++ (0 : BitVec 5) } : Raw).putPd pd).ixA g.toNat)
  | .gstat h d g => some (.gstat, ((headRaw h).putD d).ixA g.toNat)
  | .tminc h a b c => some (.tminc, (((headRaw h).putA a).putB b).putC c)
  | .tmdec h a b c => some (.tmdec, (((headRaw h).putA a).putB b).putC c)
  | .fwait h acq d pd a b =>
    some (.fwait, (({ headRaw h with ctl := (0 : BitVec 4) ++ bit1 acq ++ (0 : BitVec 5), d := d, x := pd.zeroExtend 24 } : Raw).putA
      a).putB b)
  | .fread h d a => some (.fread, ((headRaw h).putD d).putA a)
  | .tadv h d a b => some (.tadv, (((headRaw h).putD d).putA a).putB b)
  | .tcmp h cc an pd a b =>
    some (.tcmp, ((({ headRaw h with ctl := (0 : BitVec 6) ++ bit1 an ++ ccCode cc } : Raw).putPd pd).putA a).putB b)
  | .tspawn h a => some (.tspawn, (headRaw h).putA a)
  | .grun h d a b => some (.grun, (((headRaw h).putD d).putA a).putB b)
  | .cancel h l => some (.cancel, { headRaw h with x := (levelCode l).zeroExtend 24 })
  | .rfgive h n => some (.rfgive, { headRaw h with x := n.zeroExtend 24 })
  | .rfclaim h pd n =>
    some (.rfclaim, match pd with
      | none => { headRaw h with x := n.zeroExtend 24 }
      | some p => ({ headRaw h with ctl := 1, x := n.zeroExtend 24 } : Raw).putPd p)
  | .regroup h a base n1 => some (.regroup, { headRaw h with a := a, x := (0 : BitVec 8) ++ n1 ++ base })
  | .ungroup h base n1 => some (.ungroup, { headRaw h with x := (0 : BitVec 8) ++ n1 ++ base })
  | .exacq h nw d a => some (.exacq, ({ headRaw h with ctl := (bit1 nw).zeroExtend 10, d := d, dk := 1 } : Raw).putA a)
  | .exrel h a => some (.exrel, (headRaw h).putA a)
  | .expin h u a => some (.expin, ({ headRaw h with ctl := (bit1 u).zeroExtend 10 } : Raw).putA a)
  | .trap h c => some (.trap, { headRaw h with x := c.zeroExtend 24 })
  | .bkpt h c => some (.bkpt, { headRaw h with x := c.zeroExtend 24 })
  | .eret h act l d a b c =>
    some (.eret, { headRaw h with ctl := (eretCode act).zeroExtend 10, x := (levelCode l).zeroExtend 24
                                  d := d, dk := 1, a := a, ak := 1, b := b, bk := 1, c := c, ck := 1 })
  | .sysr h d n => some (.sysr, ({ headRaw h with x := n.zeroExtend 24 } : Raw).putD d)
  | .sysw h n a => some (.sysw, { headRaw h with x := n.zeroExtend 24, a := a, ak := 1 })
  | _ => none

end Sys2Proof.Machine
end

