-- ==== Sys2Proof/WellFormed.lean ====
section
/-! DEFINITION. Which terms of `Instr` are instructions of the machine: a word that no cause of R89 refuses, and events whose agents exist. -/

namespace Sys2Proof

/-- The low byte of w0 is a reserved opcode (R88, R89). -/
def reservedCode (w0 : Word) : Bool :=
  (Machine.Op.ofCode (w0.toNat % 256)).isNone && w0.toNat % 256 != 255

/-- The agents an event names exist: 4 dies, 160 cores, 4 quarters, 8 engines, 256 queues, 4 slots, 31 links, 4,096 residency entries. -/
def wfEvent : Instr → Bool
  | .reservedOpcode w0 _ _ => reservedCode w0
  | .ill w0 _ _ => w0.toNat % 256 == 255
  | .faultRecordWrite d | .writeleaf d | .migrate d | .writedesc d | .hotread d | .tableLeaseWaitExpiry d
  | .migrateCopyComplete d _ | .frameReturn d _ | .batchCloseTimeout d | .batchSequencing d | .batchArrival d _
  | .frontierAnnouncement d | .crossbarExpansion d | .requestPacketArrival d _ | .detourRelay d _
  | .acknowledgementArrival d _ | .gridReplyArrival d _ | .retryResend d _ _ | .responseRelookup d
  | .contributionResendTimeout d _ _ | .routeSwitch d | .patrolScrub d _ _ => decide (d < 4)
  | .candidateStarving c q | .claimGrant c q => decide (c < 160) && decide (q < 4)
  | .matrixOpStart c | .matrixOpComplete c => decide (c < 160)
  | .linearCopy d e | .tileCopy d e | .windowCopy d e | .fill d e | .barrierArrivalOnly d e | .endOfStream d e
  | .engineEntryComplete d e | .engineEntryFault d e => decide (d < 4) && decide (e < 8)
  | .launch q | .runGraphInstance q | .waitForFrontier q | .frontierWaitComplete q | .signal q
  | .cancelCommand q | .speculationStart q => decide (q < 256)
  | .claimCheck s | .shadowCommitComplete s | .speculationTimeout s => decide (s < 4)
  | .expertFillComplete e | .expertFillFault e | .evictionEnd e => decide (e < 4096)
  | .flitReceive l f => decide (l < 31) && decide (f.length = 64)
  | .replayTimeout l | .laneLock l _ _ | .trainTimeout l | .laneLockLoss l | .failedRetryTimeout l
  | .linkReset l | .flitTransmit l => decide (l < 31)
  | .jobLoad m => decide (1 ≤ m.grid.length) && decide (m.grid.length ≤ 5) && m.grid.all (fun e => decide (1 ≤ e) && decide (e ≤ 32))
      && m.resid.all (fun x => decide (x.1 < 4096) && x.2.length == 32)
  | .cacheEviction (.l1 c) _ => decide (c < 160)
  | .cacheEviction (.l2 d) _ => decide (d < 4)
  | .translationFill (.desc c _) | .leaseExpiry (.desc c _) => decide (c < 160)
  | .translationFill (.leaf d _ _) | .leaseExpiry (.leaf d _ _) => decide (d < 4)
  | .memoryReply _ _ _ _ | .resultWriteback _ | .waitIntervalExpiry _ _ | .trywConditionMet _ _ | .pbwaitRelease _ _
  | .gwaitComplete _ _ | .fwaitComplete _ _ | .exacqEntryReady _ _ | .rcvDeadlineExpiry _ _
  | .repackGatherTimeout _ _ | .yieldExpiry _ _ | .presenceHoldRelease _ _ | .heldTmdecRelease _ _
  | .cpyComplete _ _ | .blockEnd _ | .placementAttempt | .contextSave _ | .contextRestore _ | .batchAckArrival _ _ _
  | .batchResendTimeout _ _ | .registerWrite _ _ | .rdmaWrite _ _ | .rdmaRead _ _ | .rdmaAtomic _ _ _ _
  | .unsupportedRdmaOpcode _ _ | .hostResponse _ _ _ | .queuePairCreate _ _ _ _ _ | .queuePairDestroy _ | .jobGo
  | .jobEnd | .jobEndingComplete | .standbyPower | .recoveryImage _ | .firmwareUpdate _ | .powerLoss _
  | .sensorSample _ | .securityAlarm | .attestation _ | .evictionRequest _ | .evictNotice _ | .spareReady
  | .quiesceComplete | .transferPacket _ _ _ | .transferComplete | .drainComplete | .evictionBudgetExpiry
  | .storeQueueDrain _ _ | .dieResetEnd | .peerRouteDrain _ _ | .abortCancelNotice _ => true
  | _ => false

/-- What the types of the operands do not say: source C stands with `.rs` alone (R131) and with CAS alone (R178), GREDC has no PKMAX and its TY is one of seven (R226). -/
def operandsFit : Instr → Bool
  | .cvt _ rnd _ _ _ _ _ _ _ c => (rnd == .rs) == c.isSome
  | .atom _ _ op _ _ _ _ _ _ c => (op == .cas) == c.isSome
  | .gred _ op t _ _ _ _ _ _ _ => op != .pkmax && Machine.gredTyOf (Machine.gredTyCode t) == t
  | _ => true

/-- Well-formed: operands that fit and fields of a word with none of the causes 1 to 10, or an event of agents that exist. -/
def wf (i : Instr) : Bool :=
  operandsFit i &&
  match Machine.fields i with
  | some (o, r) => (Machine.encCause o r).isNone
  | none => wfEvent i

end Sys2Proof
end

