-- ==== Sys2Proof/Decode.lean ====
section
/-! DEFINITION. Bytes to instructions and back (R73, R88, R89). A word that the decoder refuses is refused by the number of the illegal-encoding cause; a reserved opcode is the step RESERVED_OPCODE and opcode 0xFF is ILL, which both trap. -/

namespace Sys2Proof

/-- Why the decoder gives no instruction: fewer than 12 bytes, or a cause of R89. -/
inductive Reject where
  | short
  | cause (n : Nat)
  deriving DecidableEq, Repr

/-- The instruction of three words, or the cause of its illegal-encoding trap (R89). -/
def decodeWords (w0 w1 w2 : Word) : Except Reject Instr :=
  let opc := w0.toNat % 256
  match Machine.Op.ofCode opc with
  | some o =>
    let r := Machine.Raw.ofWords w0 w1 w2
    match Machine.encCause o r with
    | some c => .error (.cause c)
    | none => .ok (Machine.build o r)
  | none => .ok (if opc = 255 then .ill w0 w1 w2 else .reservedOpcode w0 w1 w2)

/-- The little-endian word of four bytes (R4). -/
def wordOf (b0 b1 b2 b3 : Byte) : Word := b3 ++ b2 ++ b1 ++ b0

/-- The first instruction of a list of bytes, with the bytes after it (R73). -/
def decode : List Byte → Except Reject (Instr × List Byte)
  | a0 :: a1 :: a2 :: a3 :: b0 :: b1 :: b2 :: b3 :: c0 :: c1 :: c2 :: c3 :: rest =>
    match decodeWords (wordOf a0 a1 a2 a3) (wordOf b0 b1 b2 b3) (wordOf c0 c1 c2 c3) with
    | .ok i => .ok (i, rest)
    | .error e => .error e
  | _ => .error .short

/-- The three words of an instruction; `none` for an event, which has no word. -/
def encodeWords (i : Instr) : Option (Word × Word × Word) :=
  match Machine.fields i with
  | some (o, r) => some (r.w0 (BitVec.ofNat 8 o.code), r.w1, r.w2)
  | none =>
    match i with
    | .reservedOpcode w0 w1 w2 => some (w0, w1, w2)
    | .ill w0 w1 w2 => some (w0, w1, w2)
    | _ => none

/-- The bytes of a word, lowest address first (R4, R73). -/
def wordBytes (w : Word) : List Byte :=
  [w.extractLsb' 0 8, w.extractLsb' 8 8, w.extractLsb' 16 8, w.extractLsb' 24 8]

/-- The twelve bytes of an instruction, none for an event (R73). -/
def encode (i : Instr) : List Byte :=
  match encodeWords i with
  | some (w0, w1, w2) => wordBytes w0 ++ wordBytes w1 ++ wordBytes w2
  | none => []

/-- The instruction that the decoder reads from a word whose bits are numbered from the first word up, the bits at and above `nbits` zero. -/
def decodeTableWord (nbits w : Nat) : Option Instr :=
  match decode (Machine.natBytes 12 (w % 2 ^ nbits)) with
  | .ok (i, _) => some i
  | .error _ => none

end Sys2Proof
end

