-- ==== Sys2Proof/Machine/StateCore.lean ====
section
/-! DEFINITION. The state of threads, wheels, blocks and cores as plain data (R45-R60, R146-R152, R191, R247-R251, R265-R280). Maps are lists of (key, value); registers that a list leaves out read 0. -/

namespace Sys2Proof.Machine

/-- A map from numbers. -/
abbrev Sparse (α : Type) := List (Nat × α)

/-- A register, predicate, shape register or gather slot on a scoreboard (R85). -/
inductive Use where
  | v (base n : Nat)
  | s (base n : Nat)
  | p (k : Nat)
  | t (k : Nat)
  | g (k : Nat)
  /-- FOFS (R182, R254). -/
  | fofs
  deriving DecidableEq, Repr

/-- A pending write (R85): what is written, and the end of the cycle that writes it (R254), or the tag of the reply that does. -/
structure Pend where
  use : Use
  due : Option Nat
  tag : Nat := 0
  deriving DecidableEq, Repr

/-- The stored states of R249; a hazard is read off the scoreboard. A suspended thread waits in the wait with its number. -/
inductive TState where
  | ready
  | suspended (wid : Nat)
  | blocked
  | parked
  | ended
  deriving DecidableEq, Repr

/-- A thread (R247). -/
structure Thread where
  tid : Nat
  wheel : Nat
  lane : Nat
  pwheel : Nat := 0
  plane : Nat := 0
  pc : Cap := 0
  preds : Word := 0
  vregs : Sparse Word := []
  fofs : Nat := 0
  st : TState := .ready
  /-- The re-formed wheel of R204. -/
  reformed : Option Nat := none
  pend : List Pend := []
  /-- The first cycle in which it was a candidate at its address (R251). -/
  stamp : Option Nat := none
  /-- Its place in the saved stamp order after a restore, until it takes a new stamp (R258). -/
  rank : Nat := 0
  yielded : Bool := false
  /-- The target of its re-formed wheel's gather (R203, R251). -/
  target : Cap := 0
  /-- Ranges of it that a reuse latch holds (R163): convergence register, base, count. -/
  latched : List (Nat × Nat × Nat) := []
  /-- Status registers of its copies, each an acquire at a scope when the thread reads it (R274). -/
  acqs : List (Nat × Scope) := []
  deriving DecidableEq, Repr

/-- A store in a wheel's queue (R270): the threads that issued it, its bytes by place, its POLICY (R177), and the other threads that have read it from the queue. -/
structure QStore where
  tids : List Nat
  /-- The line of its line access: the stores of one beat to one line leave the queue together (R307). -/
  line : Option (Nat × Nat) := none
  bytes : List (Nat × Byte)
  pol : Nat := 0
  seen : List Nat := []
  /-- The instruction and the address, for the record of a refusal (R374). -/
  pc : Cap := 0
  words : Word × Word × Word := (0, 0, 0)
  cap : Cap := 0
  deriving DecidableEq, Repr

/-- A read of %fstat that takes its value at its retirement (R34, R117). -/
structure FRead where
  clr : Bool
  uni : Bool
  d : Nat
  tids : List Nat
  deriving DecidableEq, Repr

/-- What reaches %fstat at the end of a cycle: the flags of an instruction, or a read (R34). -/
structure Retire where
  due : Nat
  flags : Word := 0
  read : Option FRead := none
  deriving DecidableEq, Repr

/-- A wheel (R248): uniform registers, flags, window, quarter and slot, store queue. -/
structure Wheel where
  idx : Nat
  core : Nat := 0
  quarter : Nat := 0
  slot : Nat := 0
  role : Nat := 0
  window : Nat := 8
  sregs : Sparse Word := []
  fstat : Word := 0
  /-- Flags and reads of %fstat that have not retired (R34). -/
  retire : List Retire := []
  pend : List Pend := []
  stores : List QStore := []
  /-- Increments issued and not yet accepted (R239). -/
  unaccepted : Nat := 0
  /-- Base of the wheel's private region in its die's canopy (R171). -/
  frame : Nat := 0
  deriving DecidableEq, Repr

/-- A signature on a convergence register (R148): thread, void or not, the SET bit and its instruction words. -/
structure Signer where
  tid : Nat
  void : Bool
  m128 : Bool := false
  words : Word × Word × Word := (0, 0, 0)
  /-- The address, home wheel and lane at the signature, for a record (R395). -/
  pc : Cap := 0
  wheel : Nat := 0
  lane : Nat := 0
  deriving DecidableEq, Repr

/-- A convergence register on one core (R57, R146, R148): masks, group latch, the open generation's signers and the signatures held. -/
structure Conv where
  exp : BitVec 128 := 0
  sgn : BitVec 128 := 0
  group : Option Nat := none
  signers : List Signer := []
  held : List Signer := []
  deriving DecidableEq, Repr

/-- A gather slot (R58), with the pattern that set EXPECTED (R236). -/
structure GSlot where
  arrived : Nat := 0
  expected : Nat := 0
  void : Nat := 0
  complete : Bool := false
  mismatch : Bool := false
  overrun : Bool := false
  poison : Bool := false
  unreach : Bool := false
  armed : Bool := false
  pattern : Option (BitVec 64) := none
  deriving DecidableEq, Repr

/-- A thread's target in a .repack gather (R203): whether its check failed, and the fault's class, cause and INFO. -/
structure Target where
  tid : Nat
  pc : Cap
  bad : Option (Nat × Nat) := none
  info : BitVec 64 := 0
  deriving DecidableEq, Repr

/-- A write of a shape register of a spread block, on its way to the other cores' copies (R56): register, low bit, width, value. -/
structure TWrite where
  reg : Nat
  lo : Nat
  n : Nat
  v : Nat
  deriving DecidableEq, Repr

/-- A thread in a regrouping (R210, R211): its key, its address, and the instruction it executed. -/
structure RPart where
  tid : Nat
  key : Nat
  pc : Cap
  un : Bool
  base : Nat
  n : Nat
  words : Word × Word × Word
  deriving DecidableEq, Repr

/-- What a suspension waits for, with the operands captured at issue. -/
inductive WaitKind where
  /-- TRYW (R192): predicate, acquire scope, and each lane's thread, byte places and target. -/
  | tryw (pd : Nat) (acq : Option Scope) (lanes : List (Nat × List Nat × Nat))
  /-- PBWAIT (R197): each lane's thread, barrier place and token; a lane already decided holds its status. -/
  | pbwait (d pd : Nat) (acq : Option Scope) (lanes : List (Nat × Nat × Nat × Option Nat))
  /-- GWAIT (R237). -/
  | gwait (pd g : Nat) (acq : Bool)
  /-- FWAIT (R240): each lane's thread, location and time. -/
  | fwait (d pd : Nat) (acq : Bool) (lanes : List (Nat × Nat × BitVec 64))
  /-- EXACQ (R213): entry, destination, took and started. -/
  | exacq (e d : Nat) (took started : Bool)
  /-- An open RCV instance (R205): home wheel, address, predicate. -/
  | rcv (wheel : Nat) (pc : Cap) (pd : Option Nat)
  /-- YIELD (R207). -/
  | yield
  /-- A register claim (R209): core, quarter, wheel, registers, predicate. -/
  | claim (core quarter wheel n : Nat)
  /-- A .repack gather (R203): core, quarter, branch address and words, and each thread's target. -/
  | gather (core quarter : Nat) (pc : Cap) (words : Word × Word × Word) (targets : List Target)
  /-- Threads that a gather or a regrouping holds for a count of cycles (R203, R210). -/
  | pause
  /-- A REGROUP or UNGROUP wait on a core (R210, R211). -/
  | regroup (core : Nat) (parts : List RPart)
  /-- A matrix read or an access waits for absent lines: 2 × a shared line, 2 × a scratchpad line + 1 (R176). -/
  | presence (keys : List Nat)
  /-- A TMDEC waits for its wheel's increments to be accepted (R239). -/
  | tmdec (wheel : Nat)
  /-- A fence or release waits for the acknowledgements of earlier remote operations (R234, R278). -/
  | acks (die : Nat) (tags : List Nat) (host : List Nat)
  /-- An access waits for a table entry (R373). -/
  | miss (e : LeaseAt)
  /-- An access is refused by a pin, or waits for a full resource, and is tried again (R243, R279). -/
  | retry
  /-- A remote instruction's contributions wait in stage 2 (R286, R290). -/
  | room
  deriving DecidableEq, Repr

/-- A suspension (R249): its number, threads and kind, and the cycle in which its interval ends. -/
structure Wait where
  wid : Nat
  tids : List Nat
  kind : WaitKind
  deadline : Option Nat := none
  /-- The length of its interval, which restarts at a restore (R258). -/
  span : Nat := 0
  /-- The instruction, for a wait that watches memory of peers or the host. -/
  pc : Cap := 0
  words : Word × Word × Word := (0, 0, 0)
  deriving DecidableEq, Repr

/-- Who issued a write that left the device: context, threads, instruction and address, for the record of a refusal (R374). -/
structure Issuer where
  ctx : Nat
  tids : List Nat := []
  pc : Cap := 0
  words : Word × Word × Word := (0, 0, 0)
  cap : Cap := 0
  /-- Its line access counts at the port when the other side has served it (R376, R398). -/
  counts : Bool := false
  deriving DecidableEq, Repr

/-- An outstanding load, atomic or copy of the context (R390). -/
structure OLoad where
  ltag : Nat
  tids : List Nat
  wheel : Nat
  /-- First destination register and count; uniform or vector. -/
  uni : Bool := false
  dreg : Nat
  nreg : Nat
  pc : Cap := 0
  words : Word × Word × Word := (0, 0, 0)
  cap : Cap := 0
  coord : Nat := 0
  /-- Bytes of the reply, and sign extension of narrow loads. -/
  nbytes : Nat := 4
  signed : Bool := false
  /-- The places of the access and those of the request that serves it, which lanes of one line share (R307); the bytes that the core held at its issue. -/
  places : List Nat := []
  asked : List Nat := []
  known : List (Option Byte) := []
  /-- POLICY (R177), and the levels that the reply enters: none, L2 alone, or L1 as well. -/
  pol : Nat := 0
  fill : Nat := 2
  /-- A prefetch (R181); a load that a pin refuses (R279); an atomic (R375). -/
  pref : Bool := false
  pinned : Bool := false
  atom : Bool := false
  /-- Its line access counts at the port when the other side has served it (R376, R398). -/
  counts : Bool := false
  /-- Scope of an acquire that the reply completes. -/
  acq : Option Scope := none
  /-- Lanes of a CPY: thread, source places, destination places (R183). -/
  cpy : List (Nat × List Nat × List Nat) := []
  rel : Option Scope := none
  /-- A copy has moved its bytes, and its release is not over (R274). -/
  moved : Bool := false
  arrived : Bool := false
  refused : Bool := false
  /-- The remote cause of a refusal that a saved context keeps (R391). -/
  cause : Nat := 2
  data : List Byte := []
  deriving DecidableEq, Repr

/-- REGROUP in force on a core (R211): range, and each thread's wheel and lane before it. -/
structure Regrouped where
  base : Nat
  n : Nat
  old : List (Nat × Nat × Nat)
  deriving DecidableEq, Repr

/-- A range lock (R191): object, byte range, source or destination, and the chain sequence of its entry. -/
structure RLock where
  obj : Nat
  lo : Nat
  hi : Nat
  dst : Bool
  seq : Nat
  /-- The chain, and the context that published the entry. -/
  chain : Cap
  ctx : Nat
  /-- The core of its table, or the one it had before the save. -/
  core : Nat := 0
  deriving DecidableEq, Repr

/-- A kernel's resources, from its record (R98). -/
structure Kernel where
  entry : Cap := 0
  regs : Nat := 8
  roles : List Nat := []
  spec : Bool := false
  shared : Nat := 0
  priv : Nat := 0
  mtch : Nat := 0
  narg : Nat := 0
  asize : Nat := 0
  deriving DecidableEq, Repr

/-- An owner of counts (R337): a context, a launch, a graph generation, or the job. -/
inductive Owner where
  | unit (ctx : Nat)
  | launch (no : Nat)
  | graph (inst : Cap) (gen : Nat)
  | job
  deriving DecidableEq, Repr

/-- A task record in a die's hardware task queue (R325-R327). -/
structure Task where
  entry : Cap
  args : Cap
  tile : BitVec 64
  /-- A start task of its graph run (R317). -/
  start : Bool := false
  succ : Cap
  time : BitVec 64
  loc : Nat
  flags : Nat
  gen : Nat
  /-- The queued copy's capability (%task), the spawning launch and phase, and the cycle of the spawn. -/
  cap : Cap := 0
  launch : Nat := 0
  phase : Nat := 0
  spawned : Nat := 0
  saved : Option Nat := none
  /-- The priority and the owner of its count until it is placed (R326, R337). -/
  prio : Nat := 0
  owner : Owner := .job
  /-- The number of its queued copy (R327). -/
  copy : Nat := 0
  deriving DecidableEq, Repr

/-- A context: a block, or a task's wheel, on the device (R386). -/
structure Ctx where
  launch : Nat := 0
  block : Nat := 0
  dim : Nat := 32
  ltime : BitVec 64 := 0
  loc : Nat := 0
  task : Cap := 0
  /-- Graph instance and node, and generation, of a task (R325, R327), and its record. -/
  graph : Option (Cap × Nat × Nat) := none
  trec : Option Task := none
  phase : Nat := 0
  gtag : Nat := 0
  prio : Nat := 0
  arg : Cap := 0
  handler : Bool := false
  /-- A handler context that a fault of its own has stopped (R220). -/
  stopped : Bool := false
  /-- A save of it has begun (R386); the cycle of its placement or restore (R323); the bytes of its save area and the area's offset in the die's save pool (R389). -/
  saving : Bool := false
  /-- A cancel has stopped it, and its end waits for engine entries into its shared memory (R206, R245). -/
  cancelled : Bool := false
  /-- The stop of a block whose run is being claimed (R362). -/
  paused : Bool := false
  placed : Nat := 0
  area : Nat := 0
  areaAt : Nat := 0
  /-- The speculation slot of a run that has not been promoted (R355), and %spec (R60). -/
  spec : Option Nat := none
  specBit : Bool := false
  die : Nat := 0
  /-- The cores of the shares in order, and the slice of shared memory each holds (R263). -/
  cores : List Nat := []
  slice : Nat := 0
  kernel : Kernel := {}
  threads : List Thread := []
  wheels : List Wheel := []
  /-- Shape registers by core and index, and the writes of this cycle that the cores' copies take at its end (R56, R264). -/
  tregs : Sparse (BitVec 512) := []
  twrites : List TWrite := []
  /-- Convergence registers by core and index. -/
  cregs : Sparse Conv := []
  gslots : Sparse GSlot := []
  /-- Lines of shared memory whose presence bit is clear, with the copies that cleared them (R176). -/
  absent : List (Nat × Nat) := []
  waits : List Wait := []
  regrouped : Sparse Regrouped := []
  held : List Nat := []
  loads : List OLoad := []
  /-- Contributions whose acknowledgements are outstanding, by thread: (thread, tag) (R234). -/
  remotes : List (Nat × Nat) := []
  /-- Writes and reductions at peers and the host that are not acknowledged, by tag (R374). -/
  posted : List (Nat × Issuer) := []
  /-- Withdrawn generations of a saved context (R152): core before the save, register, group, signers. -/
  withdrawn : List (Nat × Nat × Nat × List Signer) := []
  /-- Range locks of its entries while it is saved (R387). -/
  locks : List RLock := []
  deriving DecidableEq, Repr

/-- A cached copy: place, byte, dirty (R266, R267). -/
abbrev Cache := List (Nat × Byte × Bool)

/-- A matrix operation queued for a core (R150, R164), with the cycle of its close and its last signer's quarter and wheel, 1024 × quarter + wheel. -/
structure MOp where
  ctx : Nat
  creg : Nat
  group : Nat
  signers : List Signer
  closed : Nat := 0
  order : Nat := 0
  deriving DecidableEq, Repr

/-- A matrix operation's results, held until R161's eighth cycle ends: the cycle, the base of D, and each signer's registers. -/
structure MDone where
  op : MOp
  due : Nat
  d : Nat
  outs : List (Nat × List Word)
  deriving DecidableEq, Repr

/-- A reuse latch (R163): block, convergence register, group, A base and registers, and the A fragment of each member. -/
structure Latch where
  ctx : Nat
  creg : Nat
  group : Nat
  base : Nat
  n : Nat := 0
  frags : List (Nat × Nat)
  deriving DecidableEq, Repr

/-- A cached descriptor (R373): object, EXTENT, RIGHTS, LEAFOFS, and the cycle in which its lease ends; `valid` false records that the table holds none. -/
structure CDesc where
  obj : Nat
  valid : Bool
  extent : Nat
  rights : Nat
  leafofs : Nat
  till : Nat
  deriving DecidableEq, Repr

/-- A cached leaf entry (R373): object, page, the entry's word, and the cycle in which its lease ends. -/
structure CLeaf where
  obj : Nat
  page : Nat
  word : BitVec 64
  till : Nat
  deriving DecidableEq, Repr

/-- A core (R265, R279, R191, R164, R163, R196, R373). -/
structure Core where
  l1 : Cache := []
  /-- Lines of L1 that received .ef (1) or .el (2) (R177). -/
  hints : Sparse Nat := []
  locks : List RLock := []
  /-- Pinned lines in the order of their pins, with the pinning context (R279). -/
  pins : List (Nat × Nat) := []
  mqueue : List MOp := []
  /-- The first cycle in which the unit is free (R161). -/
  mfree : Nat := 0
  mdone : List MDone := []
  latches : List Latch := []
  stalearr : Word := 0
  dcache : List CDesc := []
  deriving DecidableEq, Repr

/-- The escapement of a quarter (R251, R252, R134). -/
structure Quarter where
  /-- The slot that won the last issue; none before slot 0. -/
  ptr : Option Nat := none
  /-- The first cycle in which the vector datapath is free (R134). -/
  free : Nat := 0
  /-- A starving candidate excludes the others (R252). -/
  starving : Bool := false
  deriving DecidableEq, Repr

/-- The beat being issued (R250): context, core, quarter, address, threads, words. -/
structure Beat where
  ctx : Nat
  core : Nat
  quarter : Nat
  pc : Cap
  tids : List Nat
  words : Word × Word × Word
  deriving DecidableEq, Repr

/-- A fault record (R393): `open` records await an ERET (R395). -/
structure FaultRec where
  cls : Nat
  cause : Nat
  opn : Bool := true
  wheelwide : Bool := false
  chain : Bool := false
  saved : Bool := false
  lanes : Word := 0
  launch : Nat := 0
  block : Nat := 0
  wheel : Nat := 0
  core : Nat := 0
  quarter : Nat := 0
  die : Nat := 0
  pc : Cap := 0
  words : Word × Word × Word := (0, 0, 0)
  addr : BitVec 64 := 0
  info : BitVec 64 := 0
  /-- What the record names: the context and threads it parked, or a chain. -/
  ctx : Nat := 0
  tids : List Nat := []
  deriving DecidableEq, Repr

end Sys2Proof.Machine
end

