-- ==== Sys2Proof/Machine/StateUnits.lean ====
section
/-! DEFINITION. The state of the units beside the cores: queues, launches, tasks and graphs (R313-R330), the regulator and the sequencer (R331-R350), prediction and the shadow store (R351-R367), tables and residency (R368-R385), saved areas (R386-R391). -/

namespace Sys2Proof.Machine

/-- Where a contribution, a request or a batch stands for one destination (R290, R297, R346, R420): not sent, sent over a link at a cycle (none: within the device), to be resent at a cycle. -/
inductive DestState where
  | fresh
  | sent (link : Option Nat) (at_ : Nat)
  | retryAt (c : Nat)
  deriving DecidableEq, Repr

/-! ### Queues and launches -/

/-- A launch command's fields (R316). -/
structure LaunchCmd where
  krec : Cap := 0
  code : Cap := 0
  blocks : Nat := 0
  blockdim : Nat := 0
  gtag : Nat := 0
  loc : Nat := 0
  ltime : BitVec 64 := 0
  args : Cap := 0
  deriving DecidableEq, Repr

/-- One launch of a queue's history (R351): the command's fields, and the argument slots and the kernel record read at the take. -/
structure Hist where
  cmd : LaunchCmd
  argv : List (BitVec 64) := []
  kernel : Kernel := {}
  deriving DecidableEq, Repr

/-- A command taken and not completed (R317, R320): sequence, entry, SCOPE and completion record, %launch or generation. -/
structure Pending where
  seq : Nat
  entry : Cap
  op : Nat
  crec : Option Cap := none
  value : Nat := 0
  /-- A launch number (level 1), or a graph instance and generation. -/
  launch : Option Nat := none
  inst : Option (Cap × Nat) := none
  /-- Location and time of a wait command. -/
  wait : Option (Nat × BitVec 64) := none
  /-- STATUS and the last field of the record, while the record's release waits for acknowledgements (R278, R320). -/
  fin : Option (Nat × Nat) := none
  done : Bool := false
  deriving DecidableEq, Repr

/-- A hardware queue's state beside its descriptor (R313, R317, R321) and its predictor (R351-R354, R367). -/
structure Queue where
  /-- Sequence and capability of the last command taken. -/
  taken : Nat := 0
  last : Cap := 0
  /-- The capability before `last`, for a replay of the last command. -/
  prev : Cap := 0
  pend : List Pending := []
  /-- A chain fault waits for the handler (R445). -/
  faulted : Bool := false
  /-- A PUBSEQ above APPSEQ was written by RDMA, and none that restores the queue since (R445). -/
  badPub : Bool := false
  ended : Bool := false
  hist : List Hist := []
  conf : Nat := 0
  lastCause : Nat := 0
  lastTake : Nat := 0
  /-- The place of the descriptor's EN byte (R313, R351). -/
  enAt : Option Nat := none
  deriving DecidableEq, Repr

/-- A live launch (R318, R324): its command, kernel, priority, phase, the next block to place, the unended units, the restore list. -/
structure Launch where
  no : Nat
  cmd : LaunchCmd := {}
  kernel : Kernel := {}
  prio : Nat := 0
  phase : Nat := 0
  queue : Nat := 0
  seq : Nat := 0
  next : Nat := 0
  units : Nat := 0
  /-- Saved blocks, in save order (R323). -/
  restore : List Nat := []
  taken : Nat := 0
  ended : List Nat := []
  specBit : Bool := false
  cancelled : Bool := false
  /-- The speculation slot whose claim this launch is (R363). -/
  slot : Option Nat := none
  deriving DecidableEq, Repr

/-- A live generation of a graph instance (R324, R330). -/
structure Graph where
  inst : Cap
  gen : Nat
  phase : Nat := 0
  prio : Nat := 0
  tasks : Nat := 0
  launch : Nat := 0
  seq : Option (Nat × Nat) := none
  cancelled : Bool := false
  /-- Start tasks that wait for room in their die's queue (R243, R317). -/
  waiting : List Task := []
  deriving DecidableEq, Repr

/-! ### Logical time -/

/-- A count of a pair (R335). -/
structure Count where
  loc : Nat
  time : BitVec 64
  n : Int
  deriving DecidableEq, Repr

/-- An owner's net of a pair (R337). -/
structure Net where
  owner : Owner
  loc : Nat
  time : BitVec 64
  n : Int
  deriving DecidableEq, Repr

/-- An update issued and not yet in a batch (R341): its owner, the wheel that issued it, and the retirement batch it belongs to. -/
structure Issued where
  upd : Upd
  /-- None for an update of an instance that a cancel has retracted (R347). -/
  owner : Option Owner
  /-- The wheel that waits for the acceptance of an increment (R239). -/
  wheel : Option (Nat × Nat) := none
  /-- Updates of one retirement or retraction batch carry its number (R342). -/
  group : Option Nat := none
  /-- Core, quarter, PC and words of the instruction that issued an increment, for the record of a late one (R339, R393). -/
  site : Option (Nat × Nat × Cap × (Word × Word × Word)) := none
  at_ : Nat := 0
  deriving DecidableEq, Repr

/-- A batch submitted to the sequencer (R340). -/
structure Submitted where
  die : Nat
  items : List Issued
  deriving DecidableEq, Repr

/-- A batch in the send buffer (R346): sequence, updates, and each destination that has not acknowledged it. -/
structure Sent where
  seq : Nat
  upds : List Upd
  dests : List (Nat × DestState)
  deriving DecidableEq, Repr

/-- A die's regulator (R335-R350). -/
structure Regulator where
  view : List Count := []
  owners : List Net := []
  issued : List Issued := []
  /-- Announced frontiers by location: none when empty; a location that is not listed has never been announced. -/
  front : Sparse (Option (BitVec 64)) := []
  /-- The affected frontiers are announced at this cycle (R338). -/
  announce : Option Nat := none
  floors : Sparse (BitVec 64) := []
  stopped : Bool := false
  /-- Next expected SEQ by source coordinate, 1 when not listed (R345). -/
  next : Sparse Nat := []
  reorder : List Batch := []
  heldRoom : List Batch := []
  lateinc : Nat := 0
  regerr : Nat := 0
  unreach : Nat := 0
  /-- Pairs and locations whose image faulted already (R334). -/
  seenErr : List (Nat × BitVec 64 × Nat) := []
  deriving DecidableEq, Repr

/-! ### Prediction -/

/-- The states of a speculative run (R362). -/
inductive RunState where
  | idle | running | done | claiming | commit
  deriving DecidableEq, Repr

/-- A speculation slot (R355-R363). -/
structure Slot where
  state : RunState := .idle
  queue : Nat := 0
  pred : Hist := { cmd := {} }
  kernel : Kernel := {}
  next : Nat := 0
  ended : Nat := 0
  /-- The read set and each port's write monitor, as lists of hash bits (R360). -/
  readSet : List Nat := []
  monitors : Sparse (List Nat) := []
  doneAt : Nat := 0
  /-- The launch that was claimed, the sequence of its command, and whether the run had ended. -/
  claim : Option (Nat × Nat) := none
  wasDone : Bool := false
  /-- The launch taken that claims the run, its kernel and PHASE, should the check fail (R362). -/
  real : LaunchCmd := {}
  realKernel : Kernel := {}
  phase : Nat := 0
  /-- The argument object that its blocks were started with (R356). -/
  argobj : Nat := 0
  deriving DecidableEq, Repr

/-- A page of the shadow store in use (R359, R370): slot, home die, frame, its number, and the offsets of its written bytes. -/
structure Shadow where
  slot : Nat
  die : Nat
  frame : Nat
  page : Nat := 0
  mask : List Nat := []
  deriving DecidableEq, Repr

/-- PECTL and the predictor counters (R366). -/
structure PeCtl where
  en : Bool := true
  maxrun : Nat := 4
  argobj : Nat := 0
  starts : Nat := 0
  claims : Nat := 0
  discards : Nat := 0
  deriving DecidableEq, Repr, Inhabited

/-! ### Tables and residency -/

/-- An expert residency entry (R382), with the frames its weights hold and the cycle in which an eviction ends. -/
structure Resid where
  state : Nat := 0
  refill : Bool := false
  err : Bool := false
  refs : Nat := 0
  wobj : Nat := 0
  wdie : Nat := 0
  tmpl : Cap := 0
  nt : Nat := 0
  stamp : Nat := 0
  frames : List Nat := []
  evictAt : Nat := 0
  /-- The order in which fills started, and whether the fill has its frames. -/
  fillNo : Nat := 0
  mapped : Bool := false
  /-- Templates completed, and whether one has faulted. -/
  filled : Nat := 0
  bad : Bool := false
  deriving DecidableEq, Repr

/-- A table command in its lease wait (R379). -/
structure TWait where
  till : Nat
  /-- REQSEQ and PAGE of the command. -/
  seq : Nat := 0
  page : Cap := 0
  /-- STATUS to write with DONE; none: a MIGRATE in step 1 or 2. -/
  status : Option Nat := none
  /-- MIGRATE: the old entry, the target frame once taken, and whether the copy runs. -/
  old : BitVec 64 := 0
  target : Nat := 0
  frame : Option Nat := none
  deriving DecidableEq, Repr

/-- A hotness counter (R376): page, requester, count. -/
structure Hot where
  obj : Nat
  page : Nat
  req : Nat
  n : Nat
  deriving DecidableEq, Repr

/-! ### Engines -/

/-- An entry handed to an engine: a copy command of a queue (R317), or a template copied for the fill of a residency entry (R383). -/
structure Handed where
  seq : Nat
  entry : Cap
  copy : Option (List Byte) := none
  owner : Nat := 0
  /-- The engine that a queue's command names (R317). -/
  eng : Nat := 0
  deriving DecidableEq, Repr

/-- A chain bound to an engine of a die (R187): control block, engine, its publications, a host queue if it has one, and a rebinding that waits. -/
structure Chain where
  ccb : Cap
  die : Nat
  eng : Nat
  /-- Who published: the last sequence of each publication, the context and the core, oldest first. -/
  pubs : List (Nat × Nat × Nat) := []
  queue : Option Nat := none
  /-- The hardware fill chain of a die (R383). -/
  fill : Bool := false
  /-- Entries handed over, of a queue or of the fill chain. -/
  cmds : List Handed := []
  /-- A rebinding that waits: die and engine. -/
  next : Option (Nat × Nat) := none
  ended : Bool := false
  faulted : Bool := false
  /-- Sequence and capability of the last entry taken. -/
  taken : Nat := 0
  last : Cap := 0
  deriving DecidableEq, Repr

/-- An entry in progress in an engine (R187). -/
structure Running where
  ccb : Cap
  seq : Nat
  entry : Cap
  /-- The entry's 128 bytes as they were read at its issue. -/
  ent : List Byte := []
  queue : Option Nat := none
  /-- The residency entry whose fill it serves (R383). -/
  owner : Option Nat := none
  ctx : Nat := 0
  core : Nat := 0
  /-- The tag of the lines that it made absent. -/
  tag : Nat := 0
  /-- CAUSE of R190 when the entry has faulted. -/
  fault : Option Nat := none
  dropped : Bool := false
  /-- Requests for bytes of peers and the host, and writes to them not yet acknowledged. -/
  reads : List Nat := []
  writes : List Nat := []
  moved : Bool := false
  valid : Nat := 0
  deriving DecidableEq, Repr

/-- A request of an engine to a peer or the host (R374, R424): its places, and the answer. -/
structure EngReq where
  tag : Nat
  places : List Nat := []
  data : List Byte := []
  got : Bool := false
  refused : Bool := false
  /-- The queue pair whose host request it serves. -/
  host : Option Nat := none
  /-- A look of the command unit at a control block behind an aperture (R313). -/
  poll : Bool := false
  /-- It asks a peer whether a write would be performed (R425). -/
  check : Bool := false
  deriving DecidableEq, Repr

/-- A copy engine (R187): the entry in progress and the last chain served. -/
structure Engine where
  run : Option Running := none
  last : Cap := 0
  deriving DecidableEq, Repr

end Sys2Proof.Machine
end

