-- ==== Sys2Proof/Machine/StateGrid.lean ====
section
/-! DEFINITION. The state of grid addressing: contributions and requests in a die's buffer, the reassembly table, held responses (R286-R299, R420). -/

namespace Sys2Proof.Machine

/-- A contribution, or a GLD or GATOM request, in a die's buffer (R288-R290): its packets without destination, the destinations not yet acknowledged, and what a response needs. -/
structure Contrib where
  cseq : Nat
  ctx : Nat
  tids : List Nat
  /-- The slot that counts acknowledgements (R227), and the tag of the load that a reply completes. -/
  ag : Option Nat := none
  ltag : Option Nat := none
  pkts : List Pkt := []
  dests : List (Nat × DestState) := []
  wheel : Nat := 0
  lanes : Word := 0
  launch : Nat := 0
  graph : Option (Cap × Nat) := none
  block : Nat := 0
  core : Nat := 0
  quarter : Nat := 0
  pc : Cap := 0
  words : Word × Word × Word := (0, 0, 0)
  cap : Cap := 0
  deriving DecidableEq, Repr

/-- A contribution in reassembly (R296): source, packets performed, and what they met. -/
structure Reasm where
  srcc : Nat
  srcDie : Nat
  cseq : Nat
  got : List Nat
  refused : Bool := false
  poison : Bool := false
  /-- Duplicates met, each acknowledged again with the contribution's own STATUS (R420). -/
  dups : Nat := 0
  deriving DecidableEq, Repr

/-- A message of the management channel (R413, R442, R443): TYPE, source and destination; a transfer packet's offset, bytes and whether it is the last; the coordinate that a reroute message names stands as its offset (log 20). -/
structure Mail where
  ty : Nat
  src : Nat
  dst : Nat
  ofs : Nat := 0
  data : List Byte := []
  last : Bool := false
  deriving DecidableEq, Repr

/-- What a link carries (R289, R344, R413): a packet of grid addressing, a batch to a device, the acknowledgement of a batch, with detour, version and relayed marks of the last two; a management message. -/
inductive Msg where
  | pkt (p : Pkt)
  | mgmt (m : Mail)
  | batch (b : Batch) (dst : Nat) (detour ver relayed : Bool)
  | back (src seq status dst : Nat) (detour ver relayed : Bool)
  deriving DecidableEq, Repr

/-- A response waiting for a route (R297), with the cycle of its next look-up. -/
structure HeldResp where
  msg : Msg
  at_ : Nat
  deriving DecidableEq, Repr

/-- A contribution that waits in stage 2 for room in the buffer, with the wait of its beat (R286, R290). -/
structure Staged where
  wid : Nat
  contrib : Contrib
  deriving DecidableEq, Repr

/-- A contribution of a source die that was last answered with retry (R297, R298): the packet that was refused, and the order of the answers. -/
structure Retried where
  cseq : Nat
  pktidx : Nat
  ord : Nat
  deriving DecidableEq, Repr

/-- The grid side of a die. -/
structure GridUnit where
  contribs : List Contrib := []
  cseq : Nat := 0
  staged : List Staged := []
  reasm : List Reasm := []
  held : List HeldResp := []
  /-- HIGHCSEQ by source die, 4 × rank + die (R420), and the responses to each, the newest first. -/
  high : Sparse Nat := []
  lastResp : Sparse (List Pkt) := []
  /-- Contributions answered with retry by source die, the earliest first (R298). -/
  retried : Sparse (List Retried) := []
  deriving DecidableEq, Repr

end Sys2Proof.Machine
end

