-- ==== Sys2Proof/Machine/StateNet.lean ====
section
/-! DEFINITION. The state of links and routing (R408-R423), the host endpoint and the job's control words (R424-R432), and the management controller (R433-R442). -/

namespace Sys2Proof.Machine

/-- Link states (R421). -/
inductive LinkState where
  | down | train | up | failed
  deriving DecidableEq, Repr

/-- A fabric link (R408-R423). -/
structure Link where
  state : LinkState := .down
  since : Nat := 0
  miswire : Bool := false
  replays : Nat := 0
  crcerr : Nat := 0
  peercoord : Nat := 0
  peerdie : Nat := 0
  lexpPeer : Nat := 0
  lexpChk : Bool := false
  /-- Receiver: EXP, the NAK flag and its sequence, each channel's buffer and the channel of the unfinished packet (R413), cumulative credits freed. -/
  exp : Nat := 0
  nakv : Bool := false
  ackv : Bool := false
  rx : Sparse (List (List Byte)) := []
  rxChan : Option Nat := none
  freed : Sparse Nat := []
  /-- Sender: next sequence, replay buffer, flits not yet resent, last NAK acted on, cycle of the last progress, rounds, credits taken and granted by channel, queue, last channel chosen, flits since an idle one. -/
  nextSeq : Nat := 0
  replay : List (Nat × List Byte) := []
  resend : List Nat := []
  nakSeen : Option Nat := none
  ackAt : Nat := 0
  rounds : Nat := 0
  taken : Sparse Nat := []
  granted : Sparse Nat := []
  txq : List Msg := []
  cur : List (List Byte) := []
  lastChan : Nat := 4
  sinceIdle : Nat := 0
  /-- The last flit put on the wire. -/
  out : List Byte := []
  deriving DecidableEq, Repr

/-- A routing rule (R416). -/
structure Rule where
  valid : Bool := false
  pfx : Nat := 0
  len : Nat := 0
  port : Nat := 0
  detour : Bool := false
  deriving DecidableEq, Repr

/-- USE and HOLD of a destination word (R417); PEND is read off the packets not yet acknowledged. -/
structure DestWord where
  use : Bool := false
  hold : Bool := false
  deriving DecidableEq, Repr

/-- A die's fabric control block (R415-R418). -/
structure Fabric where
  /-- MYCOORD (R415). -/
  mycoord : Nat := 0
  curver : Bool := false
  busy : Bool := false
  rules : Sparse Rule := []
  dests : Sparse DestWord := []
  deriving DecidableEq, Repr

/-- A host queue pair (R424, R425): die, key tag, control right, path MTU, registered base. -/
structure QPair where
  die : Nat
  tag : Nat
  control : Bool
  mtu : Nat
  base : Nat
  deriving DecidableEq, Repr

/-- What the endpoint sends to the host (R424, R425): answers, and its own requests. -/
inductive HostMsg where
  | ack (qp : Nat)
  | data (qp : Nat) (bytes : List Byte)
  | old (qp : Nat) (v : BitVec 64)
  | nakInvalid (qp : Nat)
  | nakAccess (qp : Nat)
  | write (qp tag addr : Nat) (bytes : List Byte)
  | read (qp tag addr n : Nat)
  | atomic (qp tag addr : Nat) (cas : Bool) (v cmp : BitVec 64)
  deriving DecidableEq, Repr

/-- A request of the device to the host that awaits its response (R278, R424): tag, and the context whose load it serves. -/
structure HostReq where
  tag : Nat
  ctx : Option Nat := none
  deriving DecidableEq, Repr

/-- The answer to a peer-aperture request (R374): the device that asked, its tag, whether it was refused, and the bytes. -/
structure PeerAns where
  dst : Nat
  tag : Nat
  refused : Bool
  data : List Byte
  deriving DecidableEq, Repr

/-- A host request that a pin delays (R425), and a peer's request that a pin delays (R279). -/
structure Delayed where
  req : Instr
  deriving DecidableEq, Repr

/-- JOBCTL states (R426). -/
inductive JobState where
  | idle | loading | run | ending
  deriving DecidableEq, Repr, Inhabited

/-- OTBL of a die (R427). -/
structure OTbl where
  dirframe : Nat := 0
  nobj : Nat := 0
  leafframe : Nat := 0
  leafbytes : Nat := 0
  /-- The four reserved words, 0 at GO. -/
  rsv : List Nat := []
  deriving DecidableEq, Repr

/-- HANDLER of a die (R427). -/
structure HandlerWord where
  krec : Cap := 0
  code : Cap := 0
  args : Cap := 0
  /-- The reserved word, 0 at GO. -/
  rsv : Nat := 0
  deriving DecidableEq, Repr

/-- The job's control words (R426, R427). -/
structure Job where
  state : JobState := .idle
  err : Nat := 0
  qtbl : Cap := 0
  savepool : Nat := 0
  respages : Nat := 0
  privpool : Nat := 0
  scrblks : Nat := 0
  gmeta : Cap := 0
  psum : Cap := 0
  /-- The object id of the table control object (R394), read from the handler's argument block at GO. -/
  tco : Nat := 0
  otbl : Sparse OTbl := []
  handler : Sparse HandlerWord := []
  /-- The cycle until which ENDING lasts (R381). -/
  endAt : Nat := 0
  deriving DecidableEq, Repr, Inhabited

/-- A die's pools of canopy frames in force during the job (R380, R383, R389, R427): the frames that are not in the pool, the number of frames set aside from it, free private bytes, free save bytes, residency frames. -/
structure Pools where
  used : List Nat := []
  aside : Nat := 0
  priv : Nat := 0
  save : Nat := 0
  res : List Nat := []
  /-- Frames that return to the pool, with the cycle of their return (R381). -/
  back : List (Nat × Nat) := []
  /-- Frames that return to the residency budget. -/
  resBack : List (Nat × Nat) := []
  deriving DecidableEq, Repr

/-- Power states of the module (R431, R436). -/
inductive Power where
  | off | recovery | standby | main
  deriving DecidableEq, Repr, Inhabited

/-- An event log entry (R435). -/
structure Event where
  at_ : Nat
  /-- The offset to wall time when it was logged. -/
  wall : Option Nat := none
  source : Nat
  code : Nat
  data : List Nat
  deriving DecidableEq, Repr

/-- SECCFG (R439). -/
structure SecCfg where
  resp : Nat := 0
  lock : Bool := false
  deriving DecidableEq, Repr, Inhabited

/-- States of the eviction handshake (R441). -/
inductive EvState where
  | run | evictReq | quiesce | transfer | drain | safe | abort
  deriving DecidableEq, Repr, Inhabited

/-- EVCTL (R441, R442). -/
structure EvCtl where
  state : EvState := .run
  unlatch : Bool := false
  aborted : Bool := false
  spare : Nat := 0
  /-- The cycles of REQ and of the present state, and ELAPSED once SAFE is reached. -/
  reqAt : Nat := 0
  stateAt : Nat := 0
  deriving DecidableEq, Repr, Inhabited

/-- The management controller (R433-R441). -/
structure Mgmt where
  power : Power := .off
  /-- Cycles since standby power before the last core reset, and the offset to wall time that the host supplied (R435). -/
  base : Nat := 0
  wall : Option Nat := none
  fw : Image := { bytes := [], version := 0, sig := [] }
  /-- The stored image is not whole, and the image being written with the cycles that it still takes (R437). -/
  torn : Bool := false
  writing : Option (Image × Nat) := none
  /-- The identity key is erased (R439). -/
  keysErased : Bool := false
  clockSteps : Nat := 0
  sensors : Sensors := {}
  /-- The cycle of the last sample (R434). -/
  sampleAt : Nat := 0
  /-- Corrected errors (R440). -/
  corrected : Nat := 0
  log : List Event := []
  seccfg : SecCfg := {}
  evctl : EvCtl := {}
  /-- The spare's side of a handover (R442): source of the notice, and bytes received. -/
  evictSrc : Option Nat := none
  rx : List Host.Cell := []
  rxDone : Bool := false
  /-- How many bytes have come, and the end of them, known once the last packet has come. -/
  rxGot : Nat := 0
  rxEnd : Option Nat := none
  /-- The evicted side's transfer packets that are still to be sent (R443). -/
  tx : List Mail := []
  /-- Messages sent on the management channel: type and destination. -/
  sent : List (Nat × Nat) := []
  /-- The last attestation: the hashed parts and the nonce, signed. -/
  attest : List Byte := []
  /-- Die reset is in progress (R431). -/
  inReset : Bool := false
  deriving DecidableEq, Repr, Inhabited

/-- The controller's part of a handover is over: what it received is gone (R2, R442). -/
def Mgmt.noTransfer (m : Mgmt) : Mgmt := { m with evictSrc := none, rx := [], rxDone := false, rxGot := 0, rxEnd := none, tx := [] }

end Sys2Proof.Machine
end

