-- ==== Sys2Proof/Machine/State.lean ====
section
/-! DEFINITION. The state of the machine as plain data, why a step can stop, and the state after reset. -/

namespace Sys2Proof.Machine

/-- A die: system registers (R223), L2 copies (R267), presence of scratchpad lines (R176), caches of the memory port (R373), fault records (R393-R395), and its units. -/
structure Die where
  waitiv : Nat := 2048
  rcvwait : Nat := 2048
  bkpten : Bool := true
  l2 : Cache := []
  hints : Sparse Nat := []
  /-- Tags of the writes of evicted or released bytes to peers and the host that are not acknowledged (R278). -/
  evAcks : List Nat := []
  /-- The address of each of those writes, for the record of a refusal (R374). -/
  evCaps : List (Nat × Cap) := []
  scrAbsent : List (Nat × Nat) := []
  lcache : List CLeaf := []
  hot : List Hot := []
  twait : Option TWait := none
  /-- The order in which the REQSEQ of its command block was last written (R378). -/
  reqAt : Nat := 0
  ringHead : Nat := 0
  recs : List FaultRec := []
  openRecs : List (Nat × FaultRec) := []
  rseq : Nat := 0
  tasks : List Task := []
  reg : Regulator := {}
  grid : GridUnit := {}
  fabric : Fabric := {}
  engines : Sparse Engine := []
  pools : Pools := {}
  deriving DecidableEq, Repr

/-- The machine. -/
structure State where
  /-- Cycles since core reset (R60 %clock). -/
  cycle : Nat := 0
  /-- Home bytes of every storage of the device, by place (Ops). -/
  mem : List Host.Cell := []
  /-- The home writes of the step in progress, the newest first; empty between steps. -/
  wr : List Host.Cell := []
  /-- Lines marked poisoned (R440). -/
  poison : List Nat := []
  ctxs : Sparse Ctx := []
  saved : Sparse Ctx := []
  nextCtx : Nat := 0
  nextWid : Nat := 0
  nextTag : Nat := 0
  /-- Tags of outstanding requests whose replies enter no cache (R276). -/
  late : List Nat := []
  cores : Sparse Core := []
  quarters : Sparse Quarter := []
  dies : Sparse Die := []
  links : Sparse Link := []
  -- the command unit and the distributor
  queues : Sparse Queue := []
  prioPtr : Sparse Nat := []
  launches : List Launch := []
  launchNo : Nat := 0
  graphs : List Graph := []
  /-- Graph instances that have run, whose count of tasks hardware keeps (R330). -/
  insts : List Cap := []
  distPtr : Option Nat := none
  newtag : Nat := 0
  -- the progress sequencer
  seq : Nat := 1
  submitted : List Submitted := []
  sendbuf : List Sent := []
  -- prediction
  slots : Sparse Slot := []
  shadow : List Shadow := []
  pectl : PeCtl := {}
  -- chains, tables and residency
  chains : List Chain := []
  engReqs : List EngReq := []
  /-- The cycle of the command unit's last take (R321). -/
  tookAt : Option Nat := none
  hotth : Nat := 0xFFFF
  resid : Sparse Resid := []
  fillNo : Nat := 0
  /-- Lease exponents, 15 for a class not listed (R426). -/
  leases : Sparse Nat := [(0, 0)]
  -- job, host, fabric and management
  job : Job := {}
  grid : List Nat := [1]
  qps : Sparse QPair := []
  hostReqs : List HostReq := []
  hostOut : List HostMsg := []
  delayed : List Delayed := []
  peerOut : List PeerReq := []
  peerAns : List PeerAns := []
  mgmt : Mgmt := {}
  /-- The model's own: the beat in issue, the events that happen next, the quarters that have had their turn in the cycle, the counter of free values. -/
  beat : Option Beat := none
  agenda : List Instr := []
  turns : List Nat := []
  free : Nat := 0
  deriving DecidableEq, Repr, Inhabited

/-- Why the machine stops with a fault: nothing raises one. Every fault and trap of the spec is a next state, so there is no constructor; safe. -/
inductive Fault where
  deriving DecidableEq, Repr

/-- Why an instruction has no meaning. -/
inductive Refusal where
  /-- The instruction is not modelled; raised by the dispatch of an instruction without a meaning; safe. -/
  | notModelled (mnemonic : String)
  deriving DecidableEq, Repr

/-- The outcome of a step. -/
abbrev Out := Host.Outcome State Fault Refusal

/-- The machine right after reset (R432): every unit at its reset value, die reset about to end (R431 step 4). -/
def State.reset : State := { mgmt := { power := .main, inReset := true } }

end Sys2Proof.Machine
end

