-- ==== Sys2Proof/Machine/Ops.lean ====
section
/-! DEFINITION. The named operations over the state: sparse maps, memory bytes, the parts of the machine, the beat in issue, waits, taking a fault and returning from one (R63, R89, R172, R249, R392-R396, R220, R221). -/

namespace Sys2Proof.Machine

/-! ### Sparse maps -/

/-- The value of a key. -/
def sGet {α : Type} : Sparse α → Nat → Option α
  | [], _ => none
  | (k', v) :: m, k => if k' = k then some v else sGet m k

/-- The map with a key set, in place if it is listed. -/
def sPut {α : Type} : Sparse α → Nat → α → Sparse α
  | [], k, v => [(k, v)]
  | (k', v') :: m, k, v => if k' = k then (k, v) :: m else (k', v') :: sPut m k v

/-- The map without a key. -/
def sDel {α : Type} (m : Sparse α) (k : Nat) : Sparse α := m.filter (fun e => e.1 != k)

/-! ### Memory -/

/-- The byte at a place; a place not listed reads 0 (R432). -/
def mGet : List Host.Cell → Nat → Byte
  | [], _ => 0
  | (a, b) :: m, p => if a = p then b else mGet m p

/-- The memory without a place. -/
def mDrop : List Host.Cell → Nat → List Host.Cell
  | [], _ => []
  | (a, b) :: m, p => if a = p then mDrop m p else (a, b) :: mDrop m p

/-- A cell inserted in rising order. -/
def mIns : List Host.Cell → Nat → Byte → List Host.Cell
  | [], p, v => [(p, v)]
  | (a, b) :: m, p, v => if p < a then (p, v) :: (a, b) :: m else (a, b) :: mIns m p v

/-- A write of one byte; a zero is not listed. -/
def mPut (m : List Host.Cell) (p : Nat) (v : Byte) : List Host.Cell :=
  if v = 0 then mDrop m p else mIns (mDrop m p) p v

/-- Writes performed from the oldest, the last of the list, to the newest. -/
def mPuts (m : List Host.Cell) : List Host.Cell → List Host.Cell
  | [] => m
  | (p, v) :: w => mPut (mPuts m w) p v

/-- The canonical form: places strictly rising, no zero byte. -/
def Memory.wf : List Host.Cell → Bool
  | [] => true
  | [(_, b)] => b != 0
  | (a, b) :: (a', b') :: m => b != 0 && decide (a < a') && Memory.wf ((a', b') :: m)

/-- The home byte at a place in the step in progress. -/
def State.byte (s : State) (p : Nat) : Byte :=
  match sGet s.wr p with
  | some b => b
  | none => mGet s.mem p

/-- A home write of the step in progress. -/
def State.putByte (s : State) (p : Nat) (b : Byte) : State := { s with wr := (p, b) :: s.wr }

/-- A state with the writes of its step performed. -/
def State.seal (m : List Host.Cell) (s : State) : State := { s with mem := mPuts m s.wr, wr := [] }

/-- A step of the machine whose effect is `f`: its home writes are performed together at its end. -/
def act (f : State → State) (s : State) : Out := .next ((f s).seal s.mem)

/-! ### Places (R170, R171, R265, R370) -/

/-- A place of a kind: 0 canopy, 1 private, 2 scratchpad, 3 shared, 4 shadow, 5 peer, 6 host, 7 table control object. -/
def place (tag x : Nat) : Nat := 8 * x + tag

/-- Kind of a place. -/
def pTag (p : Nat) : Nat := p % 8
/-- Index of a place within its kind. -/
def pIdx (p : Nat) : Nat := p / 8

/-- The place of a canopy byte: die and address. -/
def canopyP (die a : Nat) : Nat := place 0 (2 ^ 37 * die + a)
/-- The base of a die's private addresses. A region's address is the model's name for it: what the die's pool bounds is the bytes it has free (R427), and no region meets another die's (log entry 134). -/
def privBase (die : Nat) : Nat := 2 ^ 60 * die
/-- The place of a byte of a private region: die and address (R171). -/
def privP (die a : Nat) : Nat := place 1 (privBase die + a)
/-- The place of a scratchpad byte. -/
def scratchP (die a : Nat) : Nat := place 2 (2 ^ 32 * die + a)
/-- The place of a shared byte of a context. -/
def sharedP (ctx a : Nat) : Nat := place 3 (2 ^ 32 * ctx + a)
/-- The place of a byte of a shadow page. -/
def shadowP (page a : Nat) : Nat := place 4 (65536 * page + a)
/-- The place of a byte of a die's queued copy of a task record (R327). -/
def taskP (copy a : Nat) : Nat := place 4 (2 ^ 40 + 64 * copy + a)
/-- The places of the registers of a context, which carry poison marks alone (R440). -/
def regsP (ctx : Nat) : Nat := 2 ^ 80 + 8 * 2 ^ 24 * ctx
/-- The place of a vector register of a thread. -/
def vregP (ctx tid n : Nat) : Nat := place 4 (regsP ctx + 8 * (256 * tid + n))
/-- The place of a uniform register of a wheel. -/
def sregP (ctx wheel n : Nat) : Nat := place 4 (regsP ctx + 8 * (256 * wheel + n) + 4)
/-- The place of a byte behind a peer aperture (R374). -/
def peerP (coord obj ofs : Nat) : Nat := place 5 (2 ^ 64 * coord + 2 ^ 44 * obj + ofs)
/-- The place of a byte behind a host aperture (R370). -/
def hostP (qp a : Nat) : Nat := place 6 (2 ^ 64 * qp + a)
/-- The place of a byte of the table control object (R378). -/
def tcoP (a : Nat) : Nat := place 7 a

/-- The die that is the home of a place, for canopy, private and shadow bytes (R267). -/
def homeDie (p : Nat) : Option Nat :=
  if pTag p = 0 then some (pIdx p / 2 ^ 37) else if pTag p = 1 then some (pIdx p / 2 ^ 60) else if pTag p = 4 then some (pIdx p / 65536 / 512) else none

/-- The 128-byte line of a place, as the place of its first byte. -/
def lineOf (p : Nat) : Nat := place (pTag p) (pIdx p / 128 * 128)

/-- The 32-byte sector of a place, as the place of its first byte (R266). -/
def sectorOf (p : Nat) : Nat := place (pTag p) (pIdx p / 32 * 32)

/-- `n` consecutive places from `p`. -/
def run (p n : Nat) : List Nat := (List.range n).map (fun i => p + 8 * i)

/-- The filter bit of a frame on its home die (R360). -/
def frameHash (loc h : Nat) : Nat := (loc % 65536) ^^^ (loc / 65536) ^^^ (h * 16384 % 65536)

/-- Every write monitor that records takes the bit of a written canopy frame (R360). -/
def State.noteWrite (s : State) (p : Nat) : State :=
  if pTag p = 0 then
    let h := pIdx p / 2 ^ 37
    let bit := frameHash (pIdx p % 2 ^ 37 / 65536) h
    { s with slots := s.slots.map (fun e =>
        if e.2.state = .idle then e
        else
          let m := (sGet e.2.monitors h).getD []
          if m.contains bit then e else (e.1, { e.2 with monitors := sPut e.2.monitors h (bit :: m) })) }
  else s

/-- A queue whose descriptor is written with EN clear loses its history (R351). -/
def Queue.noteEn (q : Queue) (cells : List (Nat × Byte)) : Queue :=
  match q.enAt with
  | none => q
  | some p => if cells.any (fun c => c.1 == p && c.2.toNat % 2 == 0) then { q with hist := [] } else q

/-- Home writes at the receiving level: the bytes, the monitors, the queues that EN clears, and the poison mark of a whole word written (R269, R351, R360, R440). -/
def State.homeWrites (s : State) (cells : List (Nat × Byte)) : State :=
  let s := cells.foldl (fun s c => (s.putByte c.1 c.2).noteWrite c.1) s
  let s : State := { s with queues := s.queues.map (fun q => (q.1, q.2.noteEn cells)) }
  { s with poison := s.poison.filter (fun w => !(run w 4).all (fun p => cells.any (fun c => c.1 == p))) }

/-- The home bytes at `n` places from `p`. -/
def State.bytes (s : State) (p n : Nat) : List Byte := (run p n).map s.byte

/-- A little-endian number at home places. -/
def State.num (s : State) (p n : Nat) : Nat := bytesNat (s.bytes p n)

/-- A little-endian number written at home places. -/
def State.putNum (s : State) (p n v : Nat) : State :=
  s.homeWrites ((run p n).zip (natBytes n v))

/-- Every byte of a range of one kind reads 0; the frames that it lies in count as written (R2, R360, R381). -/
def State.zeroRange (s : State) (p n : Nat) : State :=
  let s := if s.slots.isEmpty || pTag p != 0 then s else (List.range (cdiv n 65536)).foldl (fun s i => s.noteWrite (p + 8 * 65536 * i)) s
  let inR := fun q => decide (pTag q = pTag p) && decide (pIdx p ≤ pIdx q) && decide (pIdx q < pIdx p + n)
  { s with wr := ((s.mem.filter (fun c => inR c.1)).map (fun c => (c.1, 0))) ++
      (s.wr.filter (fun c => inR c.1)).map (fun c => (c.1, 0)) ++ s.wr
           poison := s.poison.filter (fun w => !inR w) }

/-- Uncorrectable data in `n` registers from a base, of which `p` gives the places; base 255 is the zero register (R46, R440). -/
def State.badRegs (s : State) (p : Nat → Nat) (base n : Nat) : Bool :=
  !s.poison.isEmpty && base != 255 && (List.range n).any (fun i => s.poison.contains (p (base + i)))

/-- The poison marks of a context's registers go (R2, R440). -/
def State.cleanRegs (s : State) (ctx : Nat) : State :=
  { s with poison := s.poison.filter (fun w => !(decide (pTag w = 4) && decide (regsP ctx ≤ pIdx w) && decide (pIdx w < regsP (ctx + 1)))) }

/-! ### Parts of the machine -/

/-- A free value: the counter steps. -/
def State.fresh (s : State) : Nat × State := (s.free, { s with free := s.free + 1 })

def State.core (s : State) (c : Nat) : Core := (sGet s.cores c).getD {}
def State.modCore (s : State) (c : Nat) (f : Core → Core) : State :=
  { s with cores := sPut s.cores c (f (s.core c)) }
def State.quarter (s : State) (k : Nat) : Quarter := (sGet s.quarters k).getD {}
def State.modQuarter (s : State) (k : Nat) (f : Quarter → Quarter) : State :=
  { s with quarters := sPut s.quarters k (f (s.quarter k)) }
def State.die (s : State) (d : Nat) : Die := (sGet s.dies d).getD {}
def State.modDie (s : State) (d : Nat) (f : Die → Die) : State :=
  { s with dies := sPut s.dies d (f (s.die d)) }
/-- MYCOORD of a die (R415). -/
def State.coordAt (s : State) (d : Nat) : Nat := (s.die d).fabric.mycoord
/-- The device's coordinate, as die 0 holds it: the four dies hold the same (R415). -/
def State.mycoord (s : State) : Nat := s.coordAt 0
def State.link (s : State) (l : Nat) : Link := (sGet s.links l).getD {}
def State.modLink (s : State) (l : Nat) (f : Link → Link) : State :=
  { s with links := sPut s.links l (f (s.link l)) }
def State.queue (s : State) (q : Nat) : Queue := (sGet s.queues q).getD {}
def State.modQueue (s : State) (q : Nat) (f : Queue → Queue) : State :=
  { s with queues := sPut s.queues q (f (s.queue q)) }
def State.slot (s : State) (k : Nat) : Slot := (sGet s.slots k).getD {}
def State.modSlot (s : State) (k : Nat) (f : Slot → Slot) : State :=
  { s with slots := sPut s.slots k (f (s.slot k)) }
def State.modReg (s : State) (d : Nat) (f : Regulator → Regulator) : State :=
  s.modDie d (fun x => { x with reg := f x.reg })
def State.modGrid (s : State) (d : Nat) (f : GridUnit → GridUnit) : State :=
  s.modDie d (fun x => { x with grid := f x.grid })
def State.setCtx (s : State) (k : Nat) (c : Ctx) : State := { s with ctxs := sPut s.ctxs k c }
def State.modCtx (s : State) (k : Nat) (f : Ctx → Ctx) : State :=
  match sGet s.ctxs k with
  | none => s
  | some c => s.setCtx k (f c)
/-- A context that is placed, or saved (R386). -/
def State.anyCtx (s : State) (k : Nat) : Option Ctx :=
  match sGet s.ctxs k with
  | some c => some c
  | none => sGet s.saved k
/-- A change to a context, placed or saved (R390, R395). -/
def State.modAny (s : State) (k : Nat) (f : Ctx → Ctx) : State :=
  match sGet s.ctxs k with
  | some c => s.setCtx k (f c)
  | none =>
    match sGet s.saved k with
    | none => s
    | some c => { s with saved := sPut s.saved k (f c) }

/-- The die of a core number 0 to 159. -/
def dieOf (core : Nat) : Nat := core / 40

/-- An entry of the event log, a ring of 262,144 entries (R435); its source is a die and a unit of it, by the model's numbers (log 19). -/
def State.logEvent (s : State) (die unit code : Nat) (data : List Nat) : State :=
  let l := s.mgmt.log ++ [{ at_ := s.mgmt.base + s.cycle, wall := s.mgmt.wall, source := die + 256 * unit, code := code, data := data }]
  { s with mgmt := { s.mgmt with log := if l.length > 262144 then l.drop 1 else l } }

/-! ### Threads, wheels and registers -/

def Ctx.thread (c : Ctx) (tid : Nat) : Option Thread := c.threads.find? (fun t => t.tid == tid)
def Ctx.wheel (c : Ctx) (w : Nat) : Option Wheel := c.wheels.find? (fun x => x.idx == w)
def Ctx.modT (c : Ctx) (p : Thread → Bool) (f : Thread → Thread) : Ctx :=
  { c with threads := c.threads.map (fun t => if p t then f t else t) }
def Ctx.modW (c : Ctx) (w : Nat) (f : Wheel → Wheel) : Ctx :=
  { c with wheels := c.wheels.map (fun x => if x.idx = w then f x else x) }
def Ctx.modConv (c : Ctx) (k : Nat) (f : Conv → Conv) : Ctx :=
  { c with cregs := sPut c.cregs k (f ((sGet c.cregs k).getD {})) }
def Ctx.slotOf (c : Ctx) (g : Nat) : GSlot := (sGet c.gslots g).getD {}

/-- A wheel has ended: its last thread has, and its window is back in the pool (R206). -/
def Wheel.gone (w : Wheel) : Bool := w.window == 0

/-- A thread is live until it has ended (R249). -/
def Thread.live (t : Thread) : Bool := t.st != .ended

/-- Register `n` of a thread's window; VZ is handled by the operand forms (R46). -/
def Thread.v (t : Thread) (n : Nat) : Word := (sGet t.vregs n).getD 0
/-- Register `n` of a wheel. -/
def Wheel.s (w : Wheel) (n : Nat) : Word := (sGet w.sregs n).getD 0

/-- Registers written from `d` on, unless the base is the zero register (R46, R47). -/
def regsPut (m : Sparse Word) (d : Nat) : List Word → Sparse Word
  | [] => m
  | w :: ws => regsPut (sPut m d w) (d + 1) ws

/-- Predicate `k` of a thread. -/
def Thread.p (t : Thread) (k : Nat) : Bool := t.preds.getLsbD k
/-- A predicate word with bit `k` set to `b`. -/
def setPred (w : Word) (k : Nat) (b : Bool) : Word :=
  if b then w ||| BitVec.ofNat 32 (2 ^ k) else w &&& ~~~(BitVec.ofNat 32 (2 ^ k))

/-! ### The beat in issue (R250, R76) -/

/-- A thread of the beat with its home wheel. -/
structure Lane where
  t : Thread
  w : Wheel
  deriving DecidableEq, Repr

/-- Where a beat executes: the beat, its context before the step, and its active lanes in ascending home lane. -/
structure Site where
  b : Beat
  c : Ctx
  lanes : List Lane
  deriving DecidableEq, Repr

/-- The thread is active under the guard (R76). -/
def guardOn (g : Guard) (t : Thread) : Bool :=
  match g with
  | .always => true
  | .ifP k => t.p k.toNat
  | .ifNot k => !t.p k.toNat

/-- The lanes of threads, in the order given. -/
def Ctx.lanes (c : Ctx) (tids : List Nat) : List Lane :=
  tids.filterMap (fun i =>
    match c.thread i with
    | none => none
    | some t => (c.wheel t.wheel).map (fun w => { t := t, w := w }))

/-- The next instruction's address: the offset advances by 12 (R74). -/
def nextPc (pc : Cap) : Cap := pc + 12

/-- The threads of a beat move on to the next instruction (R76, R84). -/
def Ctx.advance (c : Ctx) (b : Beat) (yld : Bool) : Ctx :=
  c.modT (fun t => b.tids.contains t.tid)
    (fun t => { t with pc := nextPc b.pc, stamp := none, yielded := yld })

/-- The effect `f` on the active lanes of the beat in issue, after its threads have moved on; no beat, no effect. -/
def onBeat (h : Head) (f : Site → State → State) (s : State) : State :=
  match s.beat with
  | none => s
  | some b =>
    match sGet s.ctxs b.ctx with
    | none => s
    | some c =>
      f { b := b, c := c, lanes := (c.lanes b.tids).filter (fun l => guardOn h.guard l.t) }
        (s.setCtx b.ctx (c.advance b h.yld))

/-- The distinct home wheels of lanes, ascending, each with its first lane (R77). -/
def wheelsOf (ls : List Lane) : List Lane :=
  let ws := sortBy id (ls.map (fun l => l.w.idx)).dedup
  ws.filterMap (fun i => ls.find? (fun l => l.w.idx == i))

/-! ### Waits (R249) -/

/-- The threads of a list enter a wait. -/
def State.suspend (s : State) (ctx : Nat) (tids : List Nat) (kind : WaitKind) (deadline : Option Nat) : State :=
  let wid := s.nextWid
  { s.modCtx ctx (fun c =>
      { c.modT (fun t => tids.contains t.tid) (fun t => { t with st := .suspended wid, stamp := none }) with
        waits := c.waits ++ [{ wid := wid, tids := tids, kind := kind, deadline := deadline, span := (deadline.getD s.cycle) - s.cycle }] }) with
    nextWid := wid + 1 }

/-- The threads of the beat in issue enter a wait that names its instruction. -/
def State.suspendAt (s : State) (b : Beat) (tids : List Nat) (kind : WaitKind) (deadline : Option Nat) : State :=
  (s.suspend b.ctx tids kind deadline).modCtx b.ctx (fun c => { c with
    waits := c.waits.map (fun w => if w.wid = s.nextWid then { w with pc := b.pc, words := b.words } else w) })

/-- The beat is held at its instruction, which it issues again when the hold ends (R176, R373). -/
def State.hold (s : State) (b : Beat) (kind : WaitKind) : State :=
  (s.modCtx b.ctx (fun c => c.modT (fun t => b.tids.contains t.tid)
    (fun t => { t with pc := b.pc, yielded := false }))).suspend b.ctx b.tids kind none

/-- A wait ends: its threads are ready, unless they have left it. -/
def Ctx.wake (c : Ctx) (wid : Nat) : Ctx :=
  { c.modT (fun t => t.st == .suspended wid) (fun t => { t with st := .ready, stamp := none }) with
    waits := c.waits.filter (fun w => w.wid != wid) }

/-- A wait by its number. -/
def Ctx.waitOf (c : Ctx) (wid : Nat) : Option Wait := c.waits.find? (fun w => w.wid == wid)

/-! ### Pending results (R85, R254) -/

/-- A pending write of the beat's cycle that ends `lat` cycles later. -/
def mkPend (s : State) (u : Use) (lat : Nat) : List Pend := [{ use := u, due := some (s.cycle + lat) }]

/-- A thread with vector registers written; base 255 discards (R46), a latched range that the write reaches is released (R163), and a copy's status word that it overwrites is no longer there to be read (R274). -/
def Thread.put (t : Thread) (d : Nat) (ws : List Word) (pend : List Pend) : Thread :=
  if d = 255 then t
  else { t with
    vregs := regsPut t.vregs d ws, pend := t.pend ++ pend
    latched := t.latched.filter (fun r => !(decide (d < r.2.1 + r.2.2) && decide (r.2.1 < d + ws.length)))
    acqs := t.acqs.filter (fun a => !(decide (d ≤ a.1) && decide (a.1 < d + ws.length))) }

/-- A wheel with uniform registers written; base 255 discards (R48). -/
def Wheel.put (w : Wheel) (d : Nat) (ws : List Word) (pend : List Pend) : Wheel :=
  if d = 255 then w else { w with sregs := regsPut w.sregs d ws, pend := w.pend ++ pend }

/-- A change to the thread of each lane. -/
def Ctx.eachLane (c : Ctx) (ls : List Lane) (f : Lane → Thread → Thread) : Ctx :=
  { c with threads := c.threads.map (fun t =>
      match ls.find? (fun l => l.t.tid == t.tid) with
      | some l => f l t
      | none => t) }

/-- A change to the home wheel of lanes, once for each, with its first lane (R77). -/
def Ctx.eachWheel (c : Ctx) (ls : List Lane) (f : Lane → Wheel → Wheel) : Ctx :=
  { c with wheels := c.wheels.map (fun w =>
      match ls.find? (fun l => l.w.idx == w.idx) with
      | some l => f l w
      | none => w) }

/-- Vector registers from `d` written in each lane by an instruction of latency `lat` (R254). -/
def State.writeV (s : State) (e : Site) (d lat : Nat) (f : Lane → List Word) : State :=
  s.modCtx e.b.ctx (fun c => c.eachLane e.lanes (fun l t =>
    t.put d (f l) (mkPend s (.v d (f l).length) lat)))

/-- Uniform registers from `d` written in each home wheel by an instruction of latency `lat` (R77). -/
def State.writeS (s : State) (e : Site) (d lat : Nat) (f : Lane → List Word) : State :=
  s.modCtx e.b.ctx (fun c => c.eachWheel e.lanes (fun l w =>
    w.put d (f l) (mkPend s (.s d (f l).length) lat)))

/-- A predicate written in each lane (R103). -/
def State.writeP (s : State) (e : Site) (k lat : Nat) (f : Lane → Bool) : State :=
  s.modCtx e.b.ctx (fun c => c.eachLane e.lanes (fun l t =>
    { t with preds := setPred t.preds k (f l), pend := t.pend ++ mkPend s (.p k) lat }))

/-! ### Speculative runs that end (R362, R364) -/

/-- .shared rounded up (R97, R261, R264). -/
def Kernel.sharedBytes (k : Kernel) : Nat := cdiv k.shared 128 * 128

/-- The bytes of a wheel's private region (R427). -/
def privBytes (k : Kernel) : Nat := cdiv (32 * k.priv) 128 * 128

/-- A context leaves the device; its die awaits what it has sent (R278): its shared and private memory read 0, its private regions, register windows, slots and latches are free (R2, R206, R308). -/
def State.dropCtx (s : State) (k : Nat) : State :=
  match sGet s.ctxs k with
  | none => s
  | some c =>
    let s := s.zeroRange (sharedP k 0) (2 ^ 32)
    let n := privBytes c.kernel
    let s := c.wheels.foldl (fun s w => s.zeroRange (privP c.die w.frame) n) s
    let s := s.modDie c.die (fun d => { d with
      pools := { d.pools with priv := d.pools.priv + n * c.wheels.length, save := d.pools.save + c.area }
      evAcks := d.evAcks ++ c.posted.map (fun x => x.1)
      evCaps := d.evCaps ++ c.posted.map (fun x => (x.1, x.2.cap))
      l2 := d.l2.filter (fun e => !(c.wheels.any (fun w =>
        decide (pTag e.1 = 1) && decide (privBase c.die + w.frame ≤ pIdx e.1) && decide (pIdx e.1 < privBase c.die + w.frame + n)))) })
    let s := c.cores.foldl (fun s o => s.modCore o (fun x => { x with
      l1 := x.l1.filter (fun e => !(c.wheels.any (fun w =>
        decide (pTag e.1 = 1) && decide (privBase c.die + w.frame ≤ pIdx e.1) && decide (pIdx e.1 < privBase c.die + w.frame + n))))
      pins := x.pins.filter (fun e => e.2 != k)
      mqueue := x.mqueue.filter (fun o => o.ctx != k)
      mdone := x.mdone.filter (fun o => o.op.ctx != k)
      latches := x.latches.filter (fun l => l.ctx != k) })) s
    { s.cleanRegs k with ctxs := sDel s.ctxs k }

/-- The shadow pages of a slot are free and read 0 (R364). -/
def State.freeShadow (s : State) (slot : Nat) : State :=
  let s := (s.shadow.filter (fun p => p.slot == slot)).foldl (fun s x => s.zeroRange (shadowP x.page 0) 65536) s
  { s with shadow := s.shadow.filter (fun p => p.slot != slot) }

/-- A run is discarded with a cause of R365: its blocks, shadow pages, filter and monitors go, and nothing else is written (R364). -/
def State.discardRun (s : State) (slot cause : Nat) : State :=
  let x := s.slot slot
  if x.state = .idle then s
  else
    let s := (s.ctxs.filter (fun e => e.2.spec == some slot)).foldl (fun s e => s.dropCtx e.1) s
    let s := s.freeShadow slot
    let s := { s with
      pectl := { s.pectl with discards := min (s.pectl.discards + 1) 0xFFFFFFFF } }
    let s := s.modQueue x.queue (fun q => { q with
      lastCause := cause
      conf := if cause ∈ [1, 2, 3, 9] then min q.conf 3 else q.conf })
    s.modSlot slot (fun _ => {})

/-! ### Taking a fault (R172, R249, R393, R396) -/

/-- A lane that faults: thread, class and cause, ADDR and INFO (R392). -/
structure FLane where
  tid : Nat
  cls : Nat
  cause : Nat := 0
  addr : BitVec 64 := 0
  info : BitVec 64 := 0
  deriving DecidableEq, Repr

/-- A thread parks at an address; a re-formed membership ends (R249). -/
def Thread.park (t : Thread) (pc : Cap) : Thread :=
  { t with st := .parked, pc := pc, reformed := none, yielded := false, stamp := none }

/-- The records of faulting lanes: one for each class, cause and home wheel, the wheels of a class and cause ascending (R393). -/
def faultRecs (c : Ctx) (ctx : Nat) (pc : Cap) (words : Word × Word × Word) (wide : Bool) (fs : List FLane) :
    List FaultRec :=
  let keys := (fs.map (fun f => (f.cls, f.cause))).dedup
  keys.flatMap (fun k =>
    let gs := fs.filter (fun f => f.cls == k.1 && f.cause == k.2)
    let ls := (c.lanes (gs.map (fun f => f.tid)))
    (wheelsOf ls).map (fun x =>
      let mine := ls.filter (fun l => l.w.idx == x.w.idx)
      let low := mine.foldl (fun a l => if l.t.lane < a.t.lane then l else a) x
      let f := (gs.find? (fun f => f.tid == low.t.tid)).getD { tid := 0, cls := 0 }
      { cls := k.1, cause := k.2, opn := true, wheelwide := wide
        lanes := mine.foldl (fun a l => a ||| BitVec.ofNat 32 (2 ^ l.t.lane)) 0
        launch := c.launch, block := c.block, wheel := x.w.idx
        core := x.w.core % 40, quarter := x.w.quarter, die := dieOf x.w.core
        pc := pc, words := words, addr := f.addr, info := f.info
        ctx := ctx, tids := mine.map (fun l => l.t.tid) }))

/-- A fault of a handler context stops it and is reported on the management bus (R220). -/
def State.stopHandler (s : State) (ctx : Nat) (c : Ctx) (cls cause : Nat) (pc : Cap) : State :=
  (s.setCtx ctx { c with stopped := true }).logEvent c.die (c.cores.headD 0 % 40) cls [cause, pc.toNat]

/-- Faulting lanes park at the instruction and their records go to the die of their core. A handler context stops instead (R220), and a speculative run ends silently with cause 2 (R358). -/
def State.faultLanes (s : State) (ctx : Nat) (pc : Cap) (words : Word × Word × Word) (wide : Bool) (fs : List FLane) :
    State :=
  match fs, sGet s.ctxs ctx with
  | [], _ => s
  | _, none => s
  | f :: _, some c =>
    match c.spec with
    | some slot => s.discardRun slot 2
    | none =>
      let parked := c.modT (fun t => fs.any (fun f => f.tid == t.tid)) (fun t => t.park pc)
      if c.handler then
        s.stopHandler ctx parked f.cls f.cause pc
      else
        let rs := faultRecs c ctx pc words wide fs
        rs.foldl (fun s r => s.modDie r.die (fun d => { d with recs := d.recs ++ [r] })) (s.setCtx ctx parked)

/-- Faults of the beat in issue. -/
def State.beatFault (s : State) (b : Beat) (wide : Bool) (fs : List FLane) : State :=
  s.faultLanes b.ctx b.pc b.words wide fs

/-- A closed record that parks nothing, for the queue of a die (R395). -/
def State.closedRec (s : State) (die : Nat) (r : FaultRec) : State :=
  s.modDie die (fun d => { d with recs := d.recs ++ [{ r with opn := false }] })

/-- Threads parked by a record resume at an address in their home wheel (R221, R257). -/
def State.resume (s : State) (ctx : Nat) (tids : List Nat) (pc : Thread → Cap) : State :=
  s.modAny ctx (fun c => c.modT (fun t => tids.contains t.tid && t.st == .parked)
    (fun t => { t with st := .ready, pc := pc t, stamp := none }))

end Sys2Proof.Machine
end

