-- ==== Sys2Proof/Machine/Flags.lean ====
section
/-! DEFINITION. %fstat: flags reach it at the retirement of the instruction that raises them, and a MOVS of it takes its value at its own (R33, R34, R117). -/

namespace Sys2Proof.Machine

/-- The flags of each lane are on their way to its home wheel's %fstat (R34). -/
def State.raise (s : State) (e : Site) (lat : Nat) (f : Lane → Word) : State :=
  s.modCtx e.b.ctx (fun c => { c with wheels := c.wheels.map (fun w =>
    let fl := (e.lanes.filter (fun l => l.w.idx == w.idx)).foldl (fun a l => a ||| f l) 0
    if fl = 0 then w else { w with retire := w.retire ++ [{ due := s.cycle + lat, flags := fl }] }) })

/-- The flags of a uniform instruction, raised once for each home wheel (R34). -/
def State.raiseS (s : State) (e : Site) (lat : Nat) (f : Lane → Word) : State :=
  s.modCtx e.b.ctx (fun c => c.eachWheel e.lanes (fun l w =>
    if f l = 0 then w else { w with retire := w.retire ++ [{ due := s.cycle + lat, flags := f l }] }))

/-- A read of %fstat is on its way (R117). -/
def State.readFlags (s : State) (e : Site) (clr : Bool) (d : Dst) (lat : Nat) : State :=
  s.modCtx e.b.ctx (fun c => c.eachWheel e.lanes (fun l w =>
    let tids := (e.lanes.filter (fun x => x.w.idx == l.w.idx)).map (fun x => x.t.tid)
    let r : FRead := match d with
      | .v r => { clr := clr, uni := false, d := r.toNat, tids := tids }
      | .s r => { clr := clr, uni := true, d := r.toNat, tids := tids }
    { w with retire := w.retire ++ [{ due := s.cycle + lat, read := some r }] }))

/-- Flags that retire in one cycle enter %fstat after the cycle's reads (R117). -/
def Wheel.retireAt (w : Wheel) (due : Nat) : Wheel × List (FRead × Word) :=
  let now := w.retire.filter (fun r => r.due == due)
  let reads := now.filterMap (fun r => r.read)
  let val := w.fstat
  let kept := if reads.any (fun r => r.clr) then 0 else val
  ({ w with
      fstat := now.foldl (fun a r => a ||| r.flags) kept
      retire := w.retire.filter (fun r => r.due != due) },
   reads.map (fun r => (r, val)))

/-- The reads of a wheel write their destinations. -/
def Ctx.flagReads (c : Ctx) (w : Nat) : List (FRead × Word) → Ctx
  | [] => c
  | (r, v) :: rs =>
    let c := if r.uni then c.modW w (fun x => x.put r.d [v] [])
      else c.modT (fun t => r.tids.contains t.tid) (fun t => t.put r.d [v] [])
    c.flagReads w rs

/-- Everything of one cycle retires on a wheel. -/
def Ctx.retireWheel (c : Ctx) (w due : Nat) : Ctx :=
  match c.wheel w with
  | none => c
  | some x =>
    let y := x.retireAt due
    (c.modW w (fun _ => y.1)).flagReads w y.2

/-- The cycles before `now` in which something retires, ascending. -/
def Wheel.dues (w : Wheel) (now : Nat) : List Nat :=
  sortBy id ((w.retire.map (fun r => r.due)).filter (fun d => decide (d < now))).dedup

/-- Results whose cycle has passed are written: scoreboard entries go and flags retire (R85, R254, R34). -/
def Ctx.writeback (c : Ctx) (now : Nat) : Ctx :=
  let keep := fun (p : Pend) => match p.due with
    | some d => decide (now ≤ d)
    | none => true
  let c := c.wheels.foldl (fun c w => (w.dues now).foldl (fun c d => c.retireWheel w.idx d) c) c
  { c with
    threads := c.threads.map (fun t => { t with pend := t.pend.filter keep })
    wheels := c.wheels.map (fun w => { w with pend := w.pend.filter keep }) }

/-- Some result of the context is due before `now`. -/
def Ctx.writebackDue (c : Ctx) (now : Nat) : Bool :=
  let past := fun (p : Pend) => match p.due with
    | some d => decide (d < now)
    | none => false
  c.threads.any (fun t => t.pend.any past) || c.wheels.any (fun w => w.pend.any past || w.retire.any (fun r => decide (r.due < now)))

end Sys2Proof.Machine
end

