-- ==== Sys2Proof/Machine/Operands.lean ====
section
/-! DEFINITION. Operand forms (R43-R48, R100) and the shapes of instruction that compute registers and predicates (R77, R86, R102, R103). -/

namespace Sys2Proof.Machine

/-- The bit string of `n` vector registers from a base, VZ reading 0 (R45-R47). -/
def readV (t : Thread) (n : Nat) (r : BitVec 8) : Nat :=
  if r = 255 then 0 else wordsNat ((List.range n).map (fun i => t.v (r.toNat + i)))

/-- The bit string of `n` uniform registers from a base, SZ reading 0 (R48). -/
def readS (w : Wheel) (n : Nat) (r : BitVec 8) : Nat :=
  if r = 255 then 0 else wordsNat ((List.range n).map (fun i => w.s (r.toNat + i)))

/-- The bit string of `n` registers of a source; an immediate is sign-extended (R43). -/
def readSrc (l : Lane) (n : Nat) : Src → Nat
  | .v r => readV l.t n r
  | .s r => readS l.w n r
  | .imm i => wrapInt (32 * n) (immVal i)

/-- A predicate of the lane's thread. -/
def readP (l : Lane) (k : BitVec 5) : Bool := l.t.p k.toNat

/-- Element width of a type (R81). -/
def tyW : Ty → Nat
  | .s8 | .n8 => 8
  | .s16 | .n16 | .f16 | .bf16 => 16
  | .s4 | .n4 => 4
  | .s64 | .n64 | .b64 | .f64 => 64
  | .b128 => 128
  | _ => 32

/-- The type is a signed integer type (R7). -/
def tySigned : Ty → Bool
  | .s32 | .s64 | .s16 | .s8 | .s4 => true
  | _ => false

/-- Elements of a type in its registers (R15). -/
def tyElems (ty : Ty) : Nat := 32 * tyRegs ty / tyW ty

/-- The elements of a source; an immediate gives every element the same value (R100). -/
def readElems (l : Lane) (ty : Ty) (a : Src) : List Nat :=
  match a with
  | .imm i => (List.range (tyElems ty)).map (fun _ => wrapInt (tyW ty) (immVal i))
  | _ => (List.range (tyElems ty)).map (fun e => elemAt (tyW ty) e (readSrc l (tyRegs ty) a))

/-- Registers of packed elements of a type. -/
def packTy (ty : Ty) (es : List Nat) : List Word := natWords (tyRegs ty) (packElems (tyW ty) es)

/-- An instruction that writes D with the registers and flags that `f` computes: in each active lane for a vector D, once for each home wheel for a uniform one (R77, R86). -/
def aluOp (h : Head) (d : Dst) (lat : Nat) (f : Lane → List Word × Word) : State → State :=
  onBeat h (fun e s =>
    match d with
    | .v r => (s.writeV e r.toNat lat (fun l => (f l).1)).raise e lat (fun l => (f l).2)
    | .s r => (s.writeS e r.toNat lat (fun l => (f l).1)).raiseS e lat (fun l => (f l).2))

/-- An instruction that writes D and raises no flag. -/
def regOp (h : Head) (d : Dst) (lat : Nat) (f : Lane → List Word) : State → State :=
  onBeat h (fun e s =>
    match d with
    | .v r => s.writeV e r.toNat lat f
    | .s r => s.writeS e r.toNat lat f)

/-- An instruction that writes a predicate and raises no flag (R103). -/
def predOp (h : Head) (pd : BitVec 5) (lat : Nat) (f : Lane → Bool) : State → State :=
  onBeat h (fun e s => s.writeP e pd.toNat lat f)

/-- The quarter's vector datapath is held for some cycles by a vector form (R134). -/
def holdPath (d : Dst) (n : Nat) (s : State) : State :=
  match d, s.beat with
  | .v _, some b => s.modQuarter (4 * b.core + b.quarter) (fun q => { q with free := s.cycle + n })
  | _, _ => s

end Sys2Proof.Machine
end

