-- ==== Sys2Proof/Machine/Amo.lean ====
section
/-! DEFINITION. The memory-side arithmetic of the atomics (R178, R179). -/

namespace Sys2Proof.Machine

/-- ord of a binary32 score (R179). -/
def pkOrd (s : Nat) : Nat :=
  if (f32.decode s).isNan then 0 else if s < 2 ^ 31 then s + 2 ^ 31 else 2 ^ 32 - 1 - s

/-- The key of .pkmax for a pair of score and index (R179). -/
def pkKey (b : Nat) : Nat := pkOrd (natBits b 32 32) * 2 ^ 32 + (2 ^ 32 - 1 - natBits b 0 32)

/-- The new memory value of an atomic: old `m`, operands `b` and `c` (R178, R179). -/
def amoNew (op : AmoOp) (ty : Ty) (m b c : Nat) : Nat :=
  let w := tyW ty
  let v := sgnVal (tySigned ty) w
  match op with
  | .add => if ty = .f32 then (fAdd f32 .rn false false m b).1 else wrapInt w (v m + v b)
  | .min => if ty = .f32 then (fMinMax f32 false false m b).1 else wrapInt w (min (v m) (v b))
  | .max => if ty = .f32 then (fMinMax f32 false true m b).1 else wrapInt w (max (v m) (v b))
  | .and => m &&& b
  | .or => m ||| b
  | .xor => m ^^^ b
  | .exch => b
  | .cas => if m = b then c else m
  | .pkmax => max m (pkKey b)

/-- An OP and TY that a host performs: fetch-and-add, and compare-and-swap (R375). -/
def amoHost (op : AmoOp) (ty : Ty) : Bool :=
  match op with
  | .add => ty == .s64 || ty == .n64
  | .cas => ty == .b64
  | _ => false

end Sys2Proof.Machine
end

