-- ==== Sys2Proof/Machine/Route.lean ====
section
/-! DEFINITION. Coordinates, grid strings, patterns and the rule table (R64-R68, R227, R291, R292, R376, R416, R417). -/

namespace Sys2Proof.Machine

/-- Axis `k` of a packed coordinate (R64). -/
def coordAxis (c k : Nat) : Nat := natBits c (5 * k) 5

/-- Extent of axis `k` of the job's grid; an undeclared axis has extent 1 (R65). -/
def extentOf (g : List Nat) (k : Nat) : Nat := (g[k]?).getD 1

/-- %gridshape (R65). -/
def gridShape (g : List Nat) : Nat :=
  (List.range 5).foldl (fun a k => a + (extentOf g k - 1) * 2 ^ (5 * k)) 0 + g.length * 2 ^ 25

/-- Every axis value of a coordinate lies below its extent, and no bit stands above the fifth axis (R64). -/
def coordOk (g : List Nat) (c : Nat) : Bool :=
  decide (c < 2 ^ 25) && (List.range 5).all (fun k => decide (coordAxis c k < extentOf g k))

/-- The rank of a coordinate (R376). -/
def coordRank (g : List Nat) (c : Nat) : Nat :=
  ((List.range 5).foldl (fun (a : Nat × Nat) k => (a.1 + coordAxis c k * a.2, a.2 * extentOf g k)) (0, 1)).1

/-- The coordinate of a rank. -/
def rankCoord (g : List Nat) (r : Nat) : Nat :=
  ((List.range 5).foldl (fun (a : Nat × Nat) k =>
    (a.1 + (a.2 % extentOf g k) * 2 ^ (5 * k), a.2 / extentOf g k)) (0, r)).1

/-- Devices of the grid. -/
def gridSize (g : List Nat) : Nat := (List.range 5).foldl (fun a k => a * extentOf g k) 1

/-- The width of a grid string (R227, R291). -/
def gridWidth (g : List Nat) : Nat := (List.range 5).foldl (fun a k => a + clog2 (extentOf g k)) 0

/-- The grid string of a coordinate, axis 0 in the most significant bits (R227). -/
def gridString (g : List Nat) (c : Nat) : Nat :=
  (List.range 5).foldl (fun a k => a * 2 ^ clog2 (extentOf g k) + coordAxis c k) 0

/-- The coordinate of a grid string (R227). -/
def stringCoord (g : List Nat) (w : Nat) : Nat :=
  ((List.range 5).foldl (fun (a : Nat × Nat) j =>
    let k := 4 - j
    let b := clog2 (extentOf g k)
    (a.1 + (a.2 % 2 ^ b) * 2 ^ (5 * k), a.2 / 2 ^ b)) (0, w)).1

/-! ### Patterns (R66-R68) -/

/-- LO of axis `k`. -/
def patLo (p : BitVec 64) (k : Nat) : Nat := natBits p.toNat (12 * k) 5
/-- HI of axis `k`. -/
def patHi (p : BitVec 64) (k : Nat) : Nat := natBits p.toNat (12 * k + 5) 5
/-- KIND of axis `k`. -/
def patKind (p : BitVec 64) (k : Nat) : Nat := natBits p.toNat (12 * k + 10) 2
/-- EXSELF. -/
def patExself (p : BitVec 64) : Bool := p.getLsbD 60

/-- One axis of a pattern passes R67. -/
def patAxisOk (g : List Nat) (p : BitVec 64) (k : Nat) : Bool :=
  let lo := patLo p k
  let hi := patHi p k
  if g.length ≤ k then patKind p k = 0 && lo = 0 && hi = 0
  else match patKind p k with
    | 0 => decide (lo < extentOf g k) && hi = 0
    | 1 => decide (lo ≤ hi) && decide (hi < extentOf g k)
    | 2 => lo = 0 && hi = 0
    | _ => false

/-- A pattern passes the checks of R67. -/
def patOk (g : List Nat) (p : BitVec 64) : Bool :=
  natBits p.toNat 61 3 = 0 && (List.range 5).all (patAxisOk g p)

/-- Axis `k` of the pattern matches a value (R66). -/
def patAxisMatch (p : BitVec 64) (k v : Nat) : Bool :=
  match patKind p k with
  | 0 => v = patLo p k
  | 1 => decide (patLo p k ≤ v) && decide (v ≤ patHi p k)
  | _ => true

/-- The pattern's axes match a coordinate (R66). -/
def patMatch (p : BitVec 64) (c : Nat) : Bool := (List.range 5).all (fun k => patAxisMatch p k (coordAxis c k))

/-- Count of axis `k` (R66). -/
def patAxisCount (g : List Nat) (p : BitVec 64) (k : Nat) : Nat :=
  match patKind p k with
  | 0 => 1
  | 1 => patHi p k - patLo p k + 1
  | _ => extentOf g k

/-- The derived count of a pattern on the device `self` (R68). -/
def patCount (g : List Nat) (self : Nat) (p : BitVec 64) : Nat :=
  (List.range 5).foldl (fun a k => a * patAxisCount g p k) 1 - (if patExself p && patMatch p self then 1 else 0)

/-- The coordinates a pattern matches on the device `self`, in ascending order of their grid strings (R291). -/
def patDests (g : List Nat) (self : Nat) (p : BitVec 64) : List Nat :=
  sortBy (gridString g) (((List.range (gridSize g)).map (rankCoord g)).filter
    (fun c => patMatch p c && !(patExself p && c == self)))

/-! ### The rule table (R292, R416, R417) -/

/-- Rule `i` of a bank: the candidate's LEN when it matches a grid string of width `w`. -/
def ruleLen (f : Fabric) (bank w str i : Nat) : Option Nat :=
  match sGet f.rules (bank * 64 + i) with
  | none => none
  | some r =>
    if r.valid && decide (r.len ≤ 10) && decide (r.len ≤ w) && decide (r.port ≤ 30)
        && natBits r.pfx 0 r.len = natBits str (w - r.len) r.len then some r.len else none

/-- The rule chosen for a grid string: the greatest LEN, then the lowest index (R292). -/
def chooseRule (f : Fabric) (bank w str : Nat) : Option Nat :=
  ((List.range 64).foldl (fun (a : Option (Nat × Nat)) i =>
    match ruleLen f bank w str i, a with
    | none, _ => a
    | some n, none => some (n, i)
    | some n, some (m, j) => if m < n then some (n, i) else some (m, j)) none).map (fun x => x.2)

/-- The link and the DETOUR bit for a coordinate under a bank; `none` when it is unreachable (R292). -/
def State.route (s : State) (die bank coord : Nat) : Option (Nat × Bool) :=
  let f := (s.die die).fabric
  match chooseRule f bank (gridWidth s.grid) (gridString s.grid coord) with
  | none => none
  | some i =>
    match sGet f.rules (bank * 64 + i) with
    | none => none
    | some r => if (s.link r.port).state = .up then some (r.port, r.detour) else none

/-- The bank of CURVER of a die (R415). -/
def State.curBank (s : State) (die : Nat) : Nat := if (s.die die).fabric.curver then 1 else 0

/-- The destination word of a rank (R417). -/
def State.destWord (s : State) (die r : Nat) : DestWord :=
  (sGet (s.die die).fabric.dests r).getD { use := (s.die die).fabric.curver }

/-- The bank that packets to a coordinate use (R417). -/
def State.useBank (s : State) (die coord : Nat) : Nat :=
  if (s.destWord die (coordRank s.grid coord)).use then 1 else 0

end Sys2Proof.Machine
end

