-- ==== Sys2Proof/Machine/Places.lean ====
section
/-! DEFINITION. From addresses to places and bytes: the object table and its caches (R63, R368-R377), the checks of an access (R170-R172, R176, R191, R279, R358), L1 and L2 (R265-R272), releases and acquires (R273, R278), pins (R279, R280). -/

namespace Sys2Proof.Machine

/-! ### Leases and the object table (R368-R372) -/

/-- The exponent of a lease class; `none` for a reserved class (R372). -/
def State.leaseExp (s : State) (k : Nat) : Option Nat :=
  if 16 ≤ k then none
  else
    let e := (sGet s.leases k).getD 15
    if 13 ≤ e then none else some e

/-- The length of a lease class in cycles (R372). -/
def State.leaseLen (s : State) (k : Nat) : Nat := 2 ^ (10 + (s.leaseExp k).getD 0)

/-- Lmax: the longest length among the valid classes (R372). -/
def State.lmax (s : State) : Nat :=
  (List.range 16).foldl (fun a k => match s.leaseExp k with
    | none => a
    | some e => max a (2 ^ (10 + e))) 1024

/-- OTBL of a die (R427). -/
def State.otbl (s : State) (d : Nat) : OTbl := (sGet s.job.otbl d).getD {}

/-- The place of a descriptor in a die's copy (R368). -/
def State.descP (s : State) (d obj : Nat) : Nat := canopyP d ((s.otbl d).dirframe * 65536 + 32 * obj)

/-- A descriptor counts as one: VALID, no reserved bit, a valid class, a nonzero EXTENT (R368). -/
def State.descOk (s : State) (w : Nat) : Bool :=
  natBits w 69 1 = 1 && natBits w 44 20 = 0 && natBits w 70 2 = 0 && natBits w 76 20 = 0 && natBits w 128 128 = 0
    && (s.leaseExp (natBits w 72 4)).isSome && natBits w 0 44 != 0

/-- The descriptor of an object in a die's copy, as it is read now (R368). -/
def State.readDesc (s : State) (d obj : Nat) : Option Nat :=
  if obj < (s.otbl d).nobj then
    let w := s.num (s.descP d obj) 32
    if s.descOk w then some w else none
  else none

/-- EXTENT of a descriptor. -/
def dExtent (w : Nat) : Nat := natBits w 0 44
/-- RIGHTS of a descriptor. -/
def dRights (w : Nat) : Nat := natBits w 64 5
/-- DLEASE of a descriptor. -/
def dLease (w : Nat) : Nat := natBits w 72 4
/-- LEAFOFS of a descriptor. -/
def dLeafofs (w : Nat) : Nat := natBits w 96 32

/-- The place of a leaf entry in a die's copy (R369). -/
def State.leafP (s : State) (d leafofs page : Nat) : Nat :=
  canopyP d ((s.otbl d).leafframe * 65536 + leafofs + 8 * page)

/-- V of a leaf entry (R369). -/
def lfV (w : Nat) : Bool := natBits w 0 1 = 1
/-- APERTURE. -/
def lfAp (w : Nat) : Nat := natBits w 1 3
/-- W. -/
def lfW (w : Nat) : Bool := natBits w 4 1 = 1
/-- RAP. -/
def lfRap (w : Nat) : Bool := natBits w 5 1 = 1
/-- HOT. -/
def lfHot (w : Nat) : Bool := natBits w 6 1 = 1
/-- POISON. -/
def lfPoison (w : Nat) : Bool := natBits w 7 1 = 1
/-- LOCATION. -/
def lfLoc (w : Nat) : Nat := natBits w 8 32
/-- LEASE. -/
def lfLease (w : Nat) : Nat := natBits w 40 8

/-- Bits of LOCATION that its aperture names (R370). -/
def locBits (ap : Nat) : Nat :=
  match ap with
  | 0 => 21 | 1 => 23 | 2 => 25 | 3 => 32 | 4 => 13 | _ => 11

/-- Cause 2 of R371 for a leaf entry, on a device and in or outside the handler context. -/
def State.leafBad (s : State) (w : Nat) (handler : Bool) : Bool :=
  decide (6 ≤ lfAp w) || natBits w 48 16 != 0 || decide (2 ^ locBits (lfAp w) ≤ lfLoc w)
    || (s.leaseExp (lfLease w)).isNone || (lfAp w = 5 && !handler)
    || (lfAp w = 2 && (lfLoc w = s.mycoord || !coordOk s.grid (lfLoc w)))

/-- The place of an offset in a page by its leaf entry, on a die (R370). -/
def State.leafPlace (s : State) (d obj ofs w : Nat) : Nat :=
  let o := ofs % 65536
  let loc := lfLoc w
  match lfAp w with
  | 0 => canopyP d (natBits loc 0 21 * 65536 + o)
  | 1 => canopyP (natBits loc 21 2) (natBits loc 0 21 * 65536 + o)
  | 2 => peerP loc obj ofs
  | 3 =>
    let qp := natBits loc 0 12
    hostP qp (((sGet s.qps (qp + 0x10)).map (fun q => q.base)).getD 0 + 65536 * natBits loc 12 20 + o)
  | 4 => scratchP (natBits loc 11 2) (natBits loc 0 11 * 65536 + o)
  | _ => shadowP (natBits loc 0 11) o

/-! ### Access by the units beside the cores, which read the tables afresh -/

/-- The causes 1 to 5 of R63 on a descriptor read. -/
def r63 (desc : Option Nat) (obj : Nat) (ofs : Int) (n need : Nat) : Option Nat :=
  if obj = 0 then some 1
  else if obj = 0xFFFFF then some 2
  else match desc with
    | none => some 3
    | some w =>
      if dRights w &&& need ≠ need then some 4
      else if ofs < 0 || decide ((dExtent w : Int) < ofs + n) || decide ((2 ^ 44 : Int) ≤ ofs) then some 5
      else none

/-- An access of a unit of die `d`: R63 and R371, then the place of its first byte. `Except` gives class and cause of R392. -/
def State.unitPlace (s : State) (d : Nat) (c : Cap) (n need : Nat) (write handler : Bool) :
    Except (Nat × Nat) Nat :=
  let obj := capObj c
  let ofs := capOfs c
  let desc := s.readDesc d obj
  match r63 desc obj ofs n need, desc with
  | some k, _ => .error (3, k)
  | none, none => .error (3, 3)
  | none, some w =>
    let leaf := s.num (s.leafP d (dLeafofs w) (ofs / 65536)) 8
    if !lfV leaf then .error (0x0B, 1)
    else if s.leafBad leaf handler then .error (0x0B, 2)
    else if write && !lfW leaf then .error (0x0B, 3)
    else if lfPoison leaf then .error (0x0A, 0)
    else .ok (s.leafPlace d obj ofs leaf)

/-- The places of a range that a unit of die `d` reaches, 4 KiB of steps at most, page by page. -/
def State.unitRange (s : State) (d : Nat) (c : Cap) (n need : Nat) (write handler : Bool) :
    Except (Nat × Nat) (List Nat) :=
  let ofs := capOfs c
  let last := ofs % 65536 + n
  let pages := last / 65536 + (if last % 65536 = 0 then 0 else 1)
  (List.range pages).foldl (fun acc i =>
    match acc with
    | .error e => .error e
    | .ok ps =>
      let lo := if i = 0 then ofs else (ofs / 65536 + i) * 65536
      let hi := min (ofs + n) ((ofs / 65536 + i + 1) * 65536)
      match s.unitPlace d (mkCap (capObj c) lo) (if i = 0 then n else hi - lo) need write handler with
      | .error e => .error e
      | .ok p => .ok (ps ++ run p (hi - lo))) (.ok [])

/-- A number read by a unit at a capability; `none` when the access fails. -/
def State.unitNum (s : State) (d : Nat) (c : Cap) (n : Nat) : Option Nat :=
  match s.unitPlace d c n 1 false false with
  | .error _ => none
  | .ok p => some (s.num p n)

/-- A capability advanced by bytes. -/
def capAdd (c : Cap) (n : Nat) : Cap := mkCap (capObj c) (capOfs c + n)

/-! ### The caches of a core and a port (R373) -/

/-- The descriptor a core holds. -/
def Core.desc (x : Core) (obj : Nat) : Option CDesc := x.dcache.find? (fun e => e.obj == obj)
/-- The leaf entry a port holds. -/
def Die.leaf (x : Die) (obj page : Nat) : Option CLeaf := x.lcache.find? (fun e => e.obj == obj && e.page == page)

/-- The port drops its entry of a page (R371). -/
def State.dropLeaf (s : State) (d obj page : Nat) : State :=
  s.modDie d (fun x => { x with lcache := x.lcache.filter (fun e => !(e.obj == obj && e.page == page)) })

/-! ### Hotness (R376, R377) -/

/-- The requester `req` counts a request to a page of die `d`'s port; at HOTTH a page with HOT posts a notification. -/
def State.countHot (s : State) (d obj page req : Nat) (hot : Bool) : State :=
  let x := s.die d
  let old := ((x.hot.find? (fun h => h.obj == obj && h.page == page && h.req == req)).map (fun h => h.n)).getD 0
  let n := min (old + 1) 65535
  let rest := x.hot.filter (fun h => !(h.obj == obj && h.page == page && h.req == req))
  let rest := if 4096 ≤ rest.length then rest.drop 1 else rest
  let s := s.modDie d (fun x => { x with hot := rest ++ [{ obj := obj, page := page, req := req, n := n }] })
  if hot && n = s.hotth && old < n then
    let base := 0x1000 + 4096 * d
    let head := (s.die d).ringHead
    let r := tcoP (base + 16 + 16 * (head % 255))
    let s := s.putNum r 8 (obj * 2 ^ 44 + page * 65536)
    let s := s.putNum (r + 64) 8 (req + n * 65536)
    let s := s.putNum (tcoP base) 8 (head + 1)
    s.modDie d (fun x => { x with ringHead := (head + 1) % 2 ^ 64 })
  else s

/-- A thread's access to a page counts when the page is remote from its die (R376). -/
def State.touch (s : State) (d obj page leaf : Nat) : State :=
  let remote := match lfAp leaf with
    | 0 => false
    | 1 => true
    | 2 => true
    | 3 => true
    | _ => false
  if remote then s.countHot d obj page d (lfHot leaf) else s

/-! ### Copies and queued stores -/

/-- The place is behind a peer or host aperture. -/
def isRemote (p : Nat) : Bool := decide (pTag p = 5) || decide (pTag p = 6)

/-- The place is behind L1: canopy, private, peer or host (R266). -/
def isCached (p : Nat) : Bool := decide (pTag p ≤ 1) || isRemote p

/-- A byte of a cache with its dirty mark. -/
def cacheGet : Cache → Nat → Option (Byte × Bool)
  | [], _ => none
  | (q, v) :: m, p => if q = p then some v else cacheGet m p

/-- The shadow byte of a run at a canopy place (R359). -/
def State.shadowByte (s : State) (slot p : Nat) : Option Byte :=
  if pTag p = 0 then
    let die := pIdx p / 2 ^ 37
    let frame := pIdx p % 2 ^ 37 / 65536
    match s.shadow.find? (fun x => x.slot == slot && x.die == die && x.frame == frame) with
    | none => none
    | some x => if x.mask.contains (pIdx p % 65536) then some (s.byte (shadowP x.page (pIdx p % 65536))) else none
  else none

/-- The store is of a thread that passes a test, or such a thread has read it from the queue (R270). -/
def QStore.of (e : QStore) (f : Nat → Bool) : Bool := e.tids.any f || e.seen.any f

/-- The issuer of a store. -/
def QStore.issuer (q : QStore) (ctx : Nat) : Issuer := { ctx := ctx, tids := q.tids, pc := q.pc, words := q.words, cap := q.cap }

/-- The POLICY .na (R177). -/
def QStore.na (e : QStore) : Bool := e.pol == 3

/-- The youngest store of a queue to a place, among those of threads that pass a test or that they have read (R270). -/
def queueByte (q : List QStore) (f : Nat → Bool) (p : Nat) : Option Byte :=
  q.foldl (fun a e => if e.of f then (match sGet e.bytes p with | some b => some b | none => a) else a) none

/-! ### The checks of a thread's access (R170-R172) -/

/-- What an access does: its space, bytes, rights, whether it writes or is an atomic, and how range locks see it. -/
structure Want where
  sp : Space
  n : Nat
  align : Nat
  need : Nat
  write : Bool := false
  atomic : Bool := false
  /-- An OP and TY that the host performs (R375). -/
  hostOp : Bool := false
  /-- Locked as a write or as a read (R191); atomics and stores are writes. -/
  lock : Bool := true
  fetch : Bool := false
  deriving DecidableEq, Repr

/-- How a thread's access resolves: its places with the pages it touched, a fault, a missing table entry, absent lines (2 × a shared line, 2 × a scratchpad line + 1), a refusal to be retried, or the end of a speculative run. -/
inductive Res where
  | ok (ps : List Nat) (pages : List (Nat × Nat × Nat))
  | bad (cls cause : Nat) (addr info : BitVec 64)
  | miss (e : LeaseAt)
  | absent (lines : List Nat)
  | retry
  | ends (cause : Nat)
  deriving DecidableEq, Repr

/-- The slot of the speculative run that a context belongs to, until it is promoted (R355). -/
def Ctx.run (c : Ctx) : Option Nat := c.spec

/-- The range lock of a core that forbids an access (R191). -/
def State.lockOf (s : State) (core obj lo n : Nat) (write : Bool) : Option RLock :=
  (s.core core).locks.find? (fun l =>
    l.obj == obj && decide (lo < l.hi) && decide (l.lo < lo + n) && (write || l.dst))

/-- A line is pinned by another core (R279). -/
def State.pinned (s : State) (core line : Nat) : Bool :=
  s.cores.any (fun e => e.1 != core && e.2.pins.any (fun p => p.1 == line))

/-- A place lies in a line that some core pins (R279). -/
def State.pinnedAny (s : State) (p : Nat) : Bool := s.cores.any (fun e => e.2.pins.any (fun x => x.1 == lineOf p))

/-- An effect of a unit beside the cores that writes memory is refused as a whole while a core pins a line that it writes, but for a line that the cores `own`, whose own bytes the effect writes back, pin themselves; the step that raised it is due again (R279). -/
def retryPinsFor (own : List Nat) (f : State → State) (s : State) : State :=
  let t := f s
  if t.wr.any (fun c => pTag c.1 == 0 && t.cores.any (fun e => !own.contains e.1 && e.2.pins.any (fun x => x.1 == lineOf c.1))) then s else t

/-- The same for an effect that writes back no core's bytes. -/
def retryPins (f : State → State) (s : State) : State := retryPinsFor [] f s

/-- A canopy, peer or host place: the .g spaces behind the caches. -/
def isGlobal (p : Nat) : Bool := decide (pTag p = 0) || decide (pTag p = 5) || decide (pTag p = 6)

/-- One page's part of a .g access: translation by R371 and R375, after the descriptor's checks. -/
def State.translate (s : State) (die : Nat) (handler : Bool) (w : Want) (obj ofs : Nat) (addr : Cap) : Res :=
  let page := ofs / 65536
  match (s.die die).leaf obj page with
  | none => .miss (.leaf die obj page)
  | some e =>
    let leaf := e.word.toNat
    let bad := fun cls k => Res.bad cls k addr e.word
    if !lfV leaf then bad 0x0B 1
    else if s.leafBad leaf handler then bad 0x0B 2
    else if w.write && !lfW leaf then bad 0x0B 3
    else if lfAp leaf = 2 && (s.route die (s.useBank die (lfLoc leaf)) (lfLoc leaf)).isNone then bad 0x0B 4
    else if w.atomic && (lfAp leaf = 2 || lfAp leaf = 3) && !lfRap leaf then bad 9 1
    else if w.atomic && lfAp leaf = 3 && !w.hostOp then bad 9 2
    else if lfPoison leaf then .bad 0x0A 0 addr 0
    else .ok (run (s.leafPlace die obj ofs leaf) (min w.n w.align)) [(obj, page, leaf)]

/-- A port's entry of a page names a peer, host, scratchpad or shadow aperture (R358, R370). -/
def State.awayPage (s : State) (die obj page : Nat) : Bool :=
  ((s.die die).leaf obj page).any (fun e => lfV e.word.toNat && decide (2 ≤ lfAp e.word.toNat) && decide (lfAp e.word.toNat ≤ 5))

/-- Joined results of the parts of one access. -/
def Res.join : Res → Res → Res
  | .ok a p, .ok b q => .ok (a ++ b) (p ++ q)
  | .ok _ _, r => r
  | r, _ => r

/-- The place of a read within the queued copy of the task's own record (R327). Such a read passes without the descriptor, right and bound checks of R63 (DESIGN CHOICE, log 118: the spec gives the copy no descriptor). -/
def Ctx.taskAt (c : Ctx) (w : Want) (obj : Nat) (ofs : Int) : Option Nat :=
  match c.trec with
  | none => none
  | some t =>
    if !w.write && !w.fetch && obj = capObj t.cap && decide ((capOfs t.cap : Int) ≤ ofs) && decide (ofs + w.n ≤ capOfs t.cap + 64)
        && decide (ofs.toNat % w.align = 0) then some (taskP t.copy (ofs.toNat - capOfs t.cap))
    else none

/-- A .g access of a thread on a core (R63, R172). -/
def State.resolveG (s : State) (core : Nat) (c : Ctx) (w : Want) (obj : Nat) (ofs : Int) : Res :=
  let die := dieOf core
  let addr := mkCap obj (ofs % (2 ^ 44 : Int)).toNat
  let info : BitVec 64 := BitVec.ofNat 64 w.n
  if obj = 0 then .bad 3 1 addr info
  else if obj = 0xFFFFF then .bad 3 2 addr info
  else match c.taskAt w obj ofs with
  | some p => .ok (run p w.n) []
  | none => match (s.core core).desc obj with
  | none => .miss (.desc core obj)
  | some d =>
    if !d.valid then .bad 3 3 addr info
    else if d.rights &&& w.need ≠ w.need then .bad 3 4 addr info
    else if ofs < 0 || decide ((d.extent : Int) < ofs + w.n) || decide ((2 ^ 44 : Int) ≤ ofs) then .bad 3 5 addr info
    else
      let o := ofs.toNat
      if o % w.align ≠ 0 then .bad 7 0 addr info
      else match (if w.fetch then none else s.lockOf core obj o w.n w.lock) with
      | some l => .bad 8 0 addr (BitVec.ofNat 64 l.seq)
      | none =>
        if obj = s.job.tco && s.job.tco != 0 then
          (if c.run.isSome then .ends 9 else .ok (run (tcoP o) w.n) [])
        else
          ((List.range (cdiv w.n w.align)).map (fun i =>
            if c.run.isSome && s.awayPage die obj ((o + w.align * i) / 65536) then .ends 9
            else s.translate die c.handler { w with n := w.n - w.align * i } obj (o + w.align * i) addr)).foldl Res.join (.ok [] [])

/-- The word of a place. -/
def wordOf (p : Nat) : Nat := place (pTag p) (pIdx p / 4 * 4)

/-- A thread's read or atomic meets a poisoned word (R172, R440): the mark of a word holds at its home, and not for one all of whose bytes the reader has newer, in its queued stores, its run's pages or the copies of its core and die; an atomic, which is performed at the home, has those that are written back first. -/
def State.poisonRead (s : State) (c : Ctx) (l : Lane) (atomic : Bool) (p : Nat) : Bool :=
  let newer := fun q =>
    (queueByte (((c.wheel l.w.idx).map (fun w => w.stores)).getD []) (fun t => t == l.t.tid) q).isSome
      || (c.run.bind (fun k => s.shadowByte k q)).isSome
      || (match cacheGet (s.core l.w.core).l1 q with | some (_, d) => d || !atomic | none => false)
      || (match cacheGet (s.die (dieOf l.w.core)).l2 q with | some (_, d) => d || !atomic | none => false)
  s.poison.contains (wordOf p) && !(run (wordOf p) 4).all newer

/-- The byte of R171 within the wheel's private region. -/
def privOfs (lane e : Nat) : Nat := (e / 4 * 32 + lane) * 4 + e % 4

/-- The lines of an access that are absent (R176). -/
def absentOf (absent : List (Nat × Nat)) (lo n : Nat) : List Nat :=
  ((absent.map (fun a => a.1)).filter (fun l => decide (l * 128 < lo + n) && decide (lo < l * 128 + 128))).dedup

/-- The address operand of a space: the object, 0 outside .g, and the effective address at unbounded width (R170). -/
def effAddr (sp : Space) (fofs : Nat) (a : Nat) (ofs : Int) : Nat × Int :=
  match sp with
  | .g => (a / 2 ^ 44 % 2 ^ 20, ((a % 2 ^ 44 : Nat) : Int) + ofs)
  | .p => (0, (fofs : Int) + sgnVal true 32 a + ofs)
  | .s => (0, ((a % 2 ^ 32 : Nat) : Int) + ofs)
  | .d => (0, ((a % 2 ^ 32 : Nat) : Int) + ofs)

/-- A copy of the same thread that has not completed keeps an access to its bytes waiting (R183). -/
def Ctx.cpyHolds (c : Ctx) (tid : Nat) (write : Bool) (ps : List Nat) : Bool :=
  c.loads.any (fun o => o.cpy.any (fun l => l.1 == tid &&
    (l.2.2.any (fun p => ps.contains p) || (write && l.2.1.any (fun p => ps.contains p)))))

/-- The checks of R172 for one thread's access at an effective address. An absent line holds every instruction that passes here (R176; DESIGN CHOICE, log 109, for CPY and TRYW). -/
def State.resolve (s : State) (ctx : Nat) (c : Ctx) (l : Lane) (w : Want) (obj : Nat) (e : Int) : Res :=
  let core := l.w.core
  let die := dieOf core
  let addr : BitVec 64 := BitVec.ofInt 64 e
  let info : BitVec 64 := BitVec.ofNat 64 w.n
  let bounded := fun (cls size : Nat) => if e < 0 || decide ((size : Int) < e + w.n) then some (Res.bad cls 0 addr info)
    else if e.toNat % w.align ≠ 0 then some (Res.bad 7 0 addr info) else none
  let r := match w.sp with
    | .g => if w.atomic && c.run.isSome then Res.ends 1 else s.resolveG core c w obj e
    | .p =>
      match bounded 4 c.kernel.priv with
      | some r => r
      | none => .ok ((List.range w.n).map (fun i => privP die (((c.wheel l.t.pwheel).map (fun (x : Wheel) => x.frame)).getD 0 + privOfs l.t.plane (e.toNat + i)))) []
    | .s =>
      match bounded 5 c.kernel.sharedBytes with
      | some r => r
      | none =>
        match absentOf c.absent e.toNat w.n with
        | [] => .ok (run (sharedP ctx e.toNat) w.n) []
        | ls => .absent (ls.map (fun x => 2 * x))
    | .d =>
      if c.run.isSome then (if w.atomic then .ends 1 else .ends 9)
      else match bounded 6 (65536 * s.job.scrblks) with
      | some r => r
      | none =>
        match absentOf (s.die die).scrAbsent e.toNat w.n with
        | [] => .ok (run (scratchP die e.toNat) w.n) []
        | ls => .absent (ls.map (fun x => 2 * x + 1))
  match r with
  | .ok ps pages =>
    if (!w.write || w.atomic) && ps.any (s.poisonRead c l w.atomic) then
      .bad 0x0A 0 (if w.sp = .g then mkCap obj e.toNat else addr) 0
    else if c.cpyHolds l.t.tid w.write ps then .retry
    else .ok ps pages
  | r => r

/-! ### The table control object (R377, R378, R382) -/

/-- Bit fields of a residency entry (R382). -/
def residNum (r : Resid) : Nat :=
  r.state + (if r.refill then 8 else 0) + (if r.err then 16 else 0) + r.refs * 2 ^ 16 + r.wobj * 2 ^ 32
    + r.wdie * 2 ^ 52 + r.tmpl.toNat * 2 ^ 64 + r.nt * 2 ^ 128 + r.stamp * 2 ^ 160

/-- A byte of the table control object: HOTTH, the residency table, and the command blocks and rings. -/
def State.tcoByte (s : State) (a : Nat) : Byte :=
  if 0x100 ≤ a ∧ a < 0x104 then BitVec.ofNat 8 (s.hotth / 256 ^ (a - 0x100))
  else if 0x10000 ≤ a ∧ a < 0x30000 then
    BitVec.ofNat 8 (residNum ((sGet s.resid ((a - 0x10000) / 32)).getD {}) / 256 ^ (a % 32))
  else s.byte (tcoP a)

/-- A residency entry with a byte of its RW fields replaced (R382). -/
def Resid.setByte (r : Resid) (i : Nat) (b : Byte) : Resid :=
  let v := b.toNat
  let put := fun (w lo : Nat) => natSetBits w lo 8 v
  match i with
  | 4 => { r with wobj := put r.wobj 0 }
  | 5 => { r with wobj := put r.wobj 8 }
  | 6 => { r with wobj := natSetBits r.wobj 16 4 (v % 16), wdie := v / 16 % 4 }
  | 16 => { r with nt := v % 16 }
  | _ => if 8 ≤ i ∧ i < 16 then { r with tmpl := BitVec.ofNat 64 (natSetBits r.tmpl.toNat (8 * (i - 8)) 8 v) } else r

/-- A byte written to the table control object: the RW fields of the command blocks, HOTTH and the residency table; other bytes are kept by the unit (R377, R378, R382). -/
def State.tcoPut (s : State) (a : Nat) (b : Byte) : State :=
  if a < 0x100 then
    let s := if 32 ≤ a % 64 ∧ a % 64 < 40 then { s.modDie (a / 64) (fun x => { x with reqAt := s.nextTag }) with nextTag := s.nextTag + 1 } else s
    if a % 64 < 40 then s.putByte (tcoP a) b else s
  else if a < 0x102 then { s with hotth := natSetBits s.hotth (8 * (a - 0x100)) 8 b.toNat }
  else if 0x10000 ≤ a ∧ a < 0x30000 then
    let e := (a - 0x10000) / 32
    let r := (sGet s.resid e).getD {}
    if r.state = 0 ∧ r.refs = 0 then { s with resid := sPut s.resid e (r.setByte (a % 32) b) } else s
  else s

/-! ### Cache levels (R265-R269) -/

/-- A byte set in a cache. -/
def cachePut : Cache → Nat → Byte → Bool → Cache
  | [], p, b, d => [(p, b, d)]
  | (q, v) :: m, p, b, d => if q = p then (p, b, d) :: m else (q, v) :: cachePut m p b d

/-- Bytes set in a cache. -/
def cachePuts (m : Cache) (cells : List (Nat × Byte)) (d : Bool) : Cache := cells.foldl (fun m c => cachePut m c.1 c.2 d) m

/-- Clean bytes set in a cache; a dirty byte stays (R266). -/
def cacheMerge (m : Cache) (cells : List (Nat × Byte)) : Cache :=
  cells.foldl (fun m c => match cacheGet m c.1 with
    | some (_, true) => m
    | _ => cachePut m c.1 c.2 false) m

/-- Bytes of a cache that it holds are set, and stay as dirty as `d` says. -/
def cacheRenew (m : Cache) (cells : List (Nat × Byte)) : Cache :=
  cells.foldl (fun m c => match cacheGet m c.1 with
    | none => m
    | some _ => cachePut m c.1 c.2 false) m

/-- The cache holds every byte of some places. -/
def cacheHas (m : Cache) (ps : List Nat) : Bool := ps.all (fun p => (cacheGet m p).isSome)

/-- A cache of `n` lines holds a line, or has room for it (R265). -/
def cacheRoom (m : Cache) (n line : Nat) : Bool :=
  m.any (fun e => lineOf e.1 == line) || decide (((m.map (fun e => lineOf e.1)).dedup).length < n)

/-- Lines of L1: 320 KiB (R265). -/
def l1Lines : Nat := 2560
/-- Lines of an L2: 64 MiB (R265). -/
def l2Lines : Nat := 524288

/-- The L2 of a die is the home of a place, or the place is not one behind an L2 (R267). -/
def homeHere (die p : Nat) : Bool :=
  match homeDie p with
  | some h => h == die
  | none => !isRemote p

/-- The bytes that the levels below L1 supply for one access: the home's; or the die's copies, all of them when it holds every byte, else its dirty ones; `none` for a peer or host byte that no copy supplies (R266, R267, R285). -/
def State.below (s : State) (die : Nat) (ps : List Nat) : List (Option Byte) :=
  let m := (s.die die).l2
  let all := cacheHas m ps
  ps.map (fun p =>
    if pTag p = 7 then some (s.tcoByte (pIdx p))
    else if homeHere die p then some (s.byte p)
    else match cacheGet m p with
      | some (b, d) => if all || d then some b else if isRemote p then none else some (s.byte p)
      | none => if isRemote p then none else some (s.byte p))

/-- The bytes of the core order and the levels below it for one access, without the store queues: L1's when it holds every byte, else its dirty ones merged with the level below (R266, R285). -/
def State.coreBytes (s : State) (core : Nat) (ps : List Nat) : List (Option Byte) :=
  let m := (s.core core).l1
  let all := cacheHas m ps
  (ps.zip (s.below (dieOf core) ps)).map (fun x => match cacheGet m x.1 with
    | some (b, d) => if all || d then some b else x.2
    | none => x.2)

/-- Clean bytes of an L1 that pass a test become invalid (R278). -/
def State.dropL1 (s : State) (core : Nat) (f : Nat → Bool) : State :=
  s.modCore core (fun x => { x with l1 := x.l1.filter (fun e => e.2.2 || !f e.1) })

/-- Clean bytes of a die's copies that pass a test become invalid (R278). -/
def State.dropL2 (s : State) (die : Nat) (f : Nat → Bool) : State :=
  s.modDie die (fun x => { x with l2 := x.l2.filter (fun e => e.2.2 || !f e.1) })

/-- A sector of which an access needs bytes that L1 lacks is fetched: into the die's copy when that lacks them too, and from there, or from the home, into L1, under the dirty masks (R266, R267). A full cache takes no new line. -/
def State.fetchSector (s : State) (core q : Nat) (need : List Nat) : State :=
  if cacheHas (s.core core).l1 need then s
  else
    let die := dieOf core
    let home := ((run q 32).filter (fun p => !s.poison.contains (wordOf p))).map (fun p => (p, s.byte p))
    let s := if homeHere die q || isRemote q || cacheHas (s.die die).l2 need || !cacheRoom (s.die die).l2 l2Lines (lineOf q) then s
      else s.modDie die (fun x => { x with l2 := cacheMerge x.l2 home })
    let m := (s.die die).l2
    let cells := if homeHere die q then home
      else if cacheHas m need then (run q 32).filterMap (fun p => (cacheGet m p).map (fun v => (p, v.1)))
      else if isRemote q then []
      else home.map (fun c => match cacheGet m c.1 with
        | some (b, true) => (c.1, b)
        | _ => c)
    if cells.isEmpty || !cacheRoom (s.core core).l1 l1Lines (lineOf q) then s
    else s.modCore core (fun x => { x with l1 := cacheMerge x.l1 cells })

/-- The sectors of an access enter the caches; a missing .na access reads past them, and the clean bytes that it passes leave them, so that none is read again (R177, R266, R276). -/
def State.fillFor (s : State) (core pol : Nat) (ps : List Nat) : State :=
  let ps := ps.filter isCached
  if cacheHas (s.core core).l1 ps then s
  else if pol = 3 then
    let s := s.dropL1 core (fun p => ps.contains p)
    if cacheHas (s.die (dieOf core)).l2 ps then s else s.dropL2 (dieOf core) (fun p => ps.contains p)
  else ((ps.map sectorOf).dedup).foldl (fun s q => s.fetchSector core q (ps.filter (fun p => sectorOf p == q))) s

/-- The mark of a line after an access with a POLICY: .el stays until the line is filled again (R177). -/
def hintPut (m : Cache) (h : Sparse Nat) (line pol : Nat) : Sparse Nat :=
  let old := if m.any (fun e => lineOf e.1 == line) then (sGet h line).getD 0 else 0
  let new := if pol = 1 ∨ pol = 2 then max old pol else old
  if new = 0 then sDel h line else sPut h line new

/-- The lines of an access take its POLICY in L1 and in the die's copies (R83, R177). -/
def State.hint (s : State) (core pol : Nat) (ps : List Nat) : State :=
  let die := dieOf core
  if pol = 3 || (pol == 0 && (s.core core).hints.isEmpty && (s.die die).hints.isEmpty) then s
  else (((ps.filter isCached).map lineOf).dedup).foldl (fun s x =>
    let s := s.modCore core (fun y => { y with hints := hintPut y.l1 y.hints x pol })
    if homeHere die x then s else s.modDie die (fun y => { y with hints := hintPut y.l2 y.hints x pol })) s

/-- The line that a cache gives up when it is to evict one: an evict-first line if there is any, and an evict-last line only when there is no other (R83, R177). -/
def evictee (m : Cache) (h : Sparse Nat) (line : Nat) : Nat :=
  let ls := (m.map (fun e => lineOf e.1)).dedup
  let mark := fun x => (sGet h x).getD 0
  match ls.find? (fun x => mark x == 1) with
  | some x => if mark line = 1 then line else x
  | none => if mark line = 2 then (ls.find? (fun x => mark x == 0)).getD line else line

/-- A request for bytes that a beat needs before it can issue, or that it watches: it writes no register. -/
def OLoad.isFill (o : OLoad) : Bool := o.nreg == 0 && o.cpy.isEmpty && !o.pref

/-- The byte of an answered request of some threads. -/
def Ctx.fillByte (c : Ctx) (tids : List Nat) (p : Nat) : Option Byte :=
  c.loads.findSome? (fun o => if o.isFill && o.arrived && o.tids.any (fun t => tids.contains t) then sGet (o.asked.zip o.data) p else none)

/-- The bytes that a load of some threads of a wheel reads (R270): their queued stores, the run's shadow page, the core order and the levels below, or the answer to their request. -/
def State.loadBytes (s : State) (ctx : Nat) (l : Lane) (tids : List Nat) (ps : List Nat) : List (Option Byte) :=
  match sGet s.ctxs ctx with
  | none => s.coreBytes l.w.core ps
  | some c =>
    let q := ((c.wheel l.w.idx).map (fun w => w.stores)).getD []
    (ps.zip (s.coreBytes l.w.core ps)).map (fun x =>
      match queueByte q (fun t => tids.contains t) x.1 with
      | some b => some b
      | none =>
        match c.run.bind (fun k => s.shadowByte k x.1) with
        | some b => some b
        | none =>
          match x.2 with
          | some b => some b
          | none => c.fillByte tids x.1)

/-- The bytes that a thread's load reads. -/
def State.laneBytes (s : State) (ctx : Nat) (l : Lane) (ps : List Nat) : List (Option Byte) := s.loadBytes ctx l [l.t.tid] ps

/-- Bytes that are there. -/
def held (bs : List (Option Byte)) : List Byte := bs.map (fun b => b.getD 0)

/-- A read of a run records the frame in its read set (R360). -/
def State.noteRead (s : State) (c : Ctx) (p : Nat) : State :=
  match c.run with
  | none => s
  | some k =>
    if pTag p = 0 then
      let bit := frameHash (pIdx p % 2 ^ 37 / 65536) (pIdx p / 2 ^ 37)
      s.modSlot k (fun x => if x.readSet.contains bit then x else { x with readSet := bit :: x.readSet })
    else s

/-! ### Requests that leave the device (R374, R375) -/

/-- A fresh tag for a request that leaves the device. -/
def State.newTag (s : State) : Nat × State := (s.nextTag, { s with nextTag := s.nextTag + 1 })

/-- The peer's coordinate, object and offset of a peer place (R374). -/
def peerOf (p : Nat) : Nat × Nat × Nat :=
  (pIdx p / 2 ^ 64, pIdx p / 2 ^ 44 % 2 ^ 20, pIdx p % 2 ^ 44)

/-- The queue pair's number and the address of a host place, which holds its index (R370, R424). -/
def hostOf (p : Nat) : Nat × Nat := (pIdx p / 2 ^ 64 + 0x10, pIdx p % 2 ^ 64)

/-- Cells in runs of consecutive places, joined while `ok` holds of neighbours. -/
def runsBy (ok : Nat → Nat → Bool) : List (Nat × Byte) → List (Nat × List Byte)
  | [] => []
  | (p, b) :: rest =>
    match runsBy ok rest with
    | (q, bs) :: rs => if q = p + 8 && ok p q then (p, b :: bs) :: rs else (p, [b]) :: (q, bs) :: rs
    | [] => [(p, [b])]

/-- Cells in runs of consecutive places. -/
def runsOf : List (Nat × Byte) → List (Nat × List Byte) := runsBy (fun _ _ => true)

/-- Cells in ascending order, in runs within lines. -/
def lineRuns (cells : List (Nat × Byte)) : List (Nat × List Byte) :=
  runsBy (fun p q => lineOf p == lineOf q) (sortBy (fun c => c.1) cells)

/-- One write to a peer or the host, under a tag. -/
def State.sendRun (s : State) (p : Nat) (bs : List Byte) : Nat × State :=
  let (tag, s) := s.newTag
  if pTag p = 5 then
    let (co, obj, ofs) := peerOf p
    (tag, { s with peerOut := s.peerOut ++ [{ src := co, tag := tag, obj := obj, ofs := ofs, n := bs.length, op := .write bs }] })
  else
    let (qp, a) := hostOf p
    (tag, { s with hostOut := s.hostOut ++ [.write qp tag a bs], hostReqs := s.hostReqs ++ [{ tag := tag }] })

/-- Outstanding requests for some remote bytes: their replies enter no cache (R276). -/
def State.stale (s : State) (f : Nat → Bool) : State :=
  { s with late := s.late ++ s.ctxs.flatMap (fun e => (e.2.loads.filter (fun o => o.asked.any f)).map (fun o => o.ltag)) }

/-- The address of a peer or host byte: a peer's place names the object, a host's the page of the port that maps it (R370, R374). -/
def State.capAt (s : State) (die p : Nat) : Cap :=
  if pTag p = 5 then mkCap (peerOf p).2.1 (peerOf p).2.2
  else match (s.die die).lcache.find? (fun e => lfV e.word.toNat && lfAp e.word.toNat == 3
      && (let q := s.leafPlace die e.obj (e.page * 65536) e.word.toNat
          decide (pIdx q ≤ pIdx p) && decide (pIdx p < pIdx q + 65536))) with
    | none => 0
    | some e => mkCap e.obj (e.page * 65536 + (pIdx p - pIdx (s.leafPlace die e.obj (e.page * 65536) e.word.toNat)))

/-- Bytes of peer or host pages are sent to their homes; threads of a context, or else the die, await the acknowledgements (R278). -/
def State.sendHome (s : State) (die : Nat) (who : Option Issuer) (cells : List (Nat × Byte)) : State :=
  (lineRuns cells).zipIdx.foldl (fun s x =>
    let r := x.1
    let cap := s.capAt die r.1
    let (tag, s) := (s.stale (fun p => decide (lineOf p = lineOf r.1))).sendRun r.1 r.2
    match who with
    | none => s.modDie die (fun x => { x with evAcks := x.evAcks ++ [tag], evCaps := x.evCaps ++ [(tag, cap)] })
    | some w =>
      let s := s.modAny w.ctx (fun c => { c with
        posted := c.posted ++ [(tag, { w with cap := if w.cap = 0 then cap else w.cap, counts := w.counts && x.2 == 0 })]
        remotes := if pTag r.1 = 5 then c.remotes ++ w.tids.map (fun t => (t, tag)) else c.remotes })
      if pTag r.1 = 5 then s
      else { s with hostReqs := s.hostReqs.map (fun q => if q.tag = tag then { q with ctx := some w.ctx } else q) }) s

/-! ### Write-backs (R266, R269, R278, R279) -/

/-- Bytes leave a die's copies for their homes, together. -/
def State.toHome (s : State) (die : Nat) (who : Option Issuer) (cells : List (Nat × Byte)) : State :=
  let far := cells.filter (fun c => isRemote c.1)
  let s := s.homeWrites (cells.filter (fun c => !isRemote c.1))
  if far.isEmpty then s else s.sendHome die who far

/-- Bytes that leave L1: to the home, or into the die's copies as dirty bytes; a full L2 passes them on. -/
def State.passDown (s : State) (die : Nat) (who : Option Issuer) (cells : List (Nat × Byte)) : State :=
  let s := s.homeWrites (cells.filter (fun c => homeHere die c.1))
  let r := (cells.filter (fun c => !homeHere die c.1)).foldl (fun (r : State × List (Nat × Byte)) c =>
    if cacheRoom (r.1.die die).l2 l2Lines (lineOf c.1) then (r.1.modDie die (fun x => { x with l2 := cachePut x.l2 c.1 c.2 true }), r.2)
    else (r.1, r.2 ++ [c])) (s, [])
  if r.2.isEmpty then r.1 else r.1.toHome die who r.2

/-- Dirty bytes of a core's L1 that pass a test are written back, unless another core's pin refuses it (R278, R279). -/
def State.flushL1 (s : State) (core : Nat) (f : Nat → Bool) : State :=
  let cells := ((s.core core).l1.filter (fun e => e.2.2 && f e.1 && !s.pinned core (lineOf e.1))).map (fun e => (e.1, e.2.1))
  if cells.isEmpty then s
  else (s.passDown (dieOf core) none cells).modCore core (fun x => { x with l1 := cachePuts x.l1 cells false })

/-- Dirty bytes of a die's non-home copies that pass a test go to their homes, unless a pin of another core than `core` refuses it (R278, R279). -/
def State.flushL2 (s : State) (who : Option Issuer) (core die : Nat) (f : Nat → Bool) : State :=
  let cells := ((s.die die).l2.filter (fun e => e.2.2 && f e.1 && !s.pinned core (lineOf e.1))).map (fun e => (e.1, e.2.1))
  if cells.isEmpty then s
  else (s.toHome die who cells).modDie die (fun x => { x with l2 := cachePuts x.l2 cells false })

/-! ### Stores leave their queue (R266, R270, R359) -/

/-- The run's shadow page takes a byte (R359). -/
def State.shadowPut (s : State) (slot p : Nat) (b : Byte) : State :=
  let die := pIdx p / 2 ^ 37
  let frame := pIdx p % 2 ^ 37 / 65536
  let o := pIdx p % 65536
  match s.shadow.find? (fun x => x.slot == slot && x.die == die && x.frame == frame) with
  | none => s
  | some x =>
    let s := s.putByte (shadowP x.page o) b
    { s with shadow := s.shadow.map (fun y => if y = x ∧ !x.mask.contains o then { x with mask := o :: x.mask } else y) }

/-- Bytes behind L1 enter the core order: into L1 as dirty bytes, or past a full L1 to the level below; with .na to their homes and into the copies that L1 and L2 hold (R177, R266). -/
def State.performCached (s : State) (core : Nat) (who : Issuer) (pol : Nat) (cells : List (Nat × Byte)) : State :=
  let die := dieOf core
  if pol = 3 then
    let s := s.modCore core (fun x => { x with l1 := cacheRenew x.l1 cells })
    (s.modDie die (fun x => { x with l2 := cacheRenew x.l2 cells })).toHome die (some who) cells
  else
    let r := cells.foldl (fun (r : State × List (Nat × Byte)) c =>
      if cacheRoom (r.1.core core).l1 l1Lines (lineOf c.1) then (r.1.modCore core (fun x => { x with l1 := cachePut x.l1 c.1 c.2 true }), r.2)
      else (r.1, r.2 ++ [c])) (s, [])
    if r.2.isEmpty then r.1 else r.1.passDown die (some who) r.2

/-- The bytes of one access enter the core order, together (R266, R268, R270, R359). -/
def State.perform (s : State) (c : Ctx) (core : Nat) (who : Issuer) (pol : Nat) (cells : List (Nat × Byte)) : State :=
  let s := (cells.filter (fun x => pTag x.1 == 7)).foldl (fun s x => s.tcoPut (pIdx x.1) x.2) s
  let s := s.homeWrites (cells.filter (fun x => decide (2 ≤ pTag x.1) && decide (pTag x.1 ≤ 4)))
  let far := cells.filter (fun x => isCached x.1)
  match c.run with
  | none => s.performCached core who pol far
  | some k =>
    let s := (far.filter (fun x => pTag x.1 == 0)).foldl (fun s x => s.shadowPut k x.1 x.2) s
    s.performCached core who 0 (far.filter (fun x => pTag x.1 != 0))

/-- A store waits in its queue while another core's pin refuses its write-through (R279). -/
def State.storeRefused (s : State) (c : Ctx) (core : Nat) (q : QStore) : Bool :=
  c.run.isNone && q.bytes.any (fun e => s.pinned core (lineOf e.1) && (q.na || !cacheRoom (s.core core).l1 l1Lines (lineOf e.1)))

/-- The stores behind a store of a queue that belong to its line access (R307). -/
def QStore.mates (q : QStore) (rest : List QStore) : List QStore :=
  if q.line.isNone then [] else rest.takeWhile (fun e => e.line == q.line)

/-- The oldest store of a wheel's queue enters the core order with those of its line access, all their bytes at once (R175, R307; DESIGN CHOICE, log 108). -/
def State.drainOne (s : State) (ctx wheel : Nat) : State :=
  match sGet s.ctxs ctx with
  | none => s
  | some c =>
    match c.wheel wheel with
    | none => s
    | some w =>
      match w.stores with
      | [] => s
      | q :: rest =>
        let qs := q :: q.mates rest
        if qs.any (s.storeRefused c w.core) then s
        else (s.setCtx ctx (c.modW wheel (fun x => { x with stores := rest.drop (q.mates rest).length }))).perform c w.core
          { q.issuer ctx with tids := (qs.flatMap (fun e => e.tids)).dedup, counts := q.na } q.pol (qs.flatMap (fun e => e.bytes))

/-- `n` stores at most leave a wheel's queue. -/
def drainN : Nat → State → Nat → Nat → State
  | 0, s, _, _ => s
  | n + 1, s, ctx, wheel => drainN n (s.drainOne ctx wheel) ctx wheel

/-- A wheel's queue drains into the core order, as far as pins let it. -/
def State.drain (s : State) (ctx wheel : Nat) : State :=
  match (sGet s.ctxs ctx).bind (fun c => c.wheel wheel) with
  | none => s
  | some w => drainN w.stores.length s ctx wheel

/-- A wheel's queue is empty. -/
def State.drained (s : State) (ctx wheel : Nat) : Bool :=
  match (sGet s.ctxs ctx).bind (fun c => c.wheel wheel) with
  | none => true
  | some w => w.stores.isEmpty

/-- Every queue of a context drains. -/
def State.drainAll (s : State) (ctx : Nat) : State :=
  match sGet s.ctxs ctx with
  | none => s
  | some c => c.wheels.foldl (fun s w => s.drain ctx w.idx) s

/-! ### Pins (R279, R280) -/

/-- A line's dirty bytes leave a core's L1. -/
def State.flushLine (s : State) (core line : Nat) : State := s.flushL1 core (fun p => lineOf p == line)

/-- A core unpins a line after writing its dirty bytes to L2. -/
def State.unpin (s : State) (core line : Nat) : State :=
  let s := s.flushLine core line
  s.modCore core (fun x => { x with pins := x.pins.filter (fun e => e.1 != line) })

/-- Every pin of a context ends (R280). -/
def State.unpinCtx (s : State) (ctx : Nat) : State :=
  s.cores.foldl (fun s e =>
    (e.2.pins.filter (fun p => p.2 == ctx)).foldl (fun s p => s.unpin e.1 p.1) s) s

/-- A release at wheel scope, or block scope of a block on one core, pins its line; the 257th pin first ends the oldest (R279). A line that another core pins is refused before the release. -/
def State.pin (s : State) (core ctx line : Nat) : State :=
  if (s.core core).pins.any (fun p => p.1 == line) then s
  else
    let s := match (s.core core).pins with
      | [] => s
      | p :: _ => if 256 ≤ (s.core core).pins.length then s.unpin core p.1 else s
    s.modCore core (fun x => { x with pins := x.pins ++ [(line, ctx)] })

/-! ### Releases and acquires (R273, R278) -/

/-- Rank of a scope, after a block scope on several cores counts as die (R278). -/
def scopeRank (c : Ctx) (sc : Scope) : Nat :=
  match sc with
  | .wheel => 0
  | .blk => if c.cores.length ≤ 1 then 0 else 2
  | .die => 2
  | .dev => 3
  | .dom => 4
  | .sys => 5

/-- The non-home copies that a release or acquire of a rank reaches (R278). -/
def inRank (r p : Nat) : Bool :=
  (decide (3 ≤ r) && pTag p == 0) || (decide (4 ≤ r) && pTag p == 5) || (decide (5 ≤ r) && pTag p == 6)

/-- The cache actions of a release by threads of a wheel (R278, R280). -/
def State.release (s : State) (c : Ctx) (wheel core : Nat) (who : Issuer) (sc : Scope) : State :=
  let r := scopeRank c sc
  if r = 0 then s
  else
    let s := (s.drain who.ctx wheel).flushL1 core (fun p => pTag p != 1)
    if 3 ≤ r then s.flushL2 (some who) core (dieOf core) (inRank r) else s

/-- A release at die scope or wider that is over ends the pins of its block (R280). -/
def State.releaseEnd (s : State) (c : Ctx) (ctx : Nat) (sc : Scope) : State :=
  if sc = .blk || scopeRank c sc = 0 then s else s.unpinCtx ctx

/-- A pin of another core has refused a store or a write-back of a release, which is tried again (R279). -/
def State.relRefused (s : State) (ctx : Nat) (c : Ctx) (wheel core : Nat) (sc : Scope) : Bool :=
  let r := scopeRank c sc
  r != 0 && (!s.drained ctx wheel || (s.core core).l1.any (fun e => e.2.2 && pTag e.1 != 1)
    || (decide (3 ≤ r) && (s.die (dieOf core)).l2.any (fun e => e.2.2 && inRank r e.1)))

/-- The acknowledgements that a release at a scope waits for (R234, R278): tags of the threads' remote operations and of every write that carries bytes of their die to peers, tags of host writes: another release may have sent the threads' bytes (R275). -/
def State.relWaits (s : State) (ctx : Nat) (c : Ctx) (tids : List Nat) (sc : Scope) : List Nat × List Nat :=
  let r := scopeRank c sc
  let rem := (((sGet s.ctxs ctx).map (fun c => c.remotes)).getD []).filter (fun e => tids.contains e.1)
  let back := ((c.cores.map dieOf).dedup).flatMap (fun d => (s.die d).evAcks
    ++ ((s.ctxs ++ s.saved).filter (fun e => e.2.die == d)).flatMap (fun e => e.2.posted.map (fun x => x.1)))
  let toHost := fun t => s.hostReqs.any (fun q => q.tag == t)
  (if 4 ≤ r then (rem.map (fun e => e.2) ++ back.filter (fun t => !toHost t)).dedup else [],
   if 5 ≤ r then ((s.hostReqs.filter (fun q => q.ctx == some ctx)).map (fun q => q.tag) ++ back.filter toHost).dedup else [])

/-- The cache actions of an acquire on a core (R278); a reply still on its way brings no older byte (R276). -/
def State.acquire (s : State) (c : Ctx) (core : Nat) (sc : Scope) : State :=
  let r := scopeRank c sc
  if r = 0 then s
  else
    let s := (s.dropL1 core isGlobal).stale isRemote
    if 3 ≤ r then s.dropL2 (dieOf core) (inRank r) else s

/-- An acquire when an ordering asks for one. -/
def State.acquireIf (s : State) (on : Bool) (c : Ctx) (core : Nat) (sc : Scope) : State :=
  if on then s.acquire c core sc else s

end Sys2Proof.Machine
end

