-- ==== Sys2Proof/Machine/Access.lean ====
section
/-! DEFINITION. What the memory instructions share: waiting, faulting or going on lane by lane (R172, R176, R279), loads, stores and atomics of one lane (R175, R178, R270, R272), releases and acquires of an instruction (R274, R278). -/

namespace Sys2Proof.Machine

/-- The access of one lane. -/
structure Acc where
  l : Lane
  r : Res
  /-- How many of the last bytes it only writes (R358). -/
  wrote : Nat := 0
  /-- Its peer and host lines count when they have been answered (R398). -/
  far : Bool := false
  deriving DecidableEq, Repr

/-- What the access waits for. -/
def Res.waits : Res → Option WaitKind
  | .miss e => some (.miss e)
  | .absent ls => some (.presence ls)
  | .retry => some .retry
  | _ => none

/-- The cause with which the access ends a speculative run. -/
def Res.endsRun : Res → Option Nat
  | .ends k => some k
  | _ => none

/-- The access faults. -/
def Res.isBad : Res → Bool
  | .bad _ _ _ _ => true
  | _ => false

/-- The fault of a thread. -/
def Res.fault (tid : Nat) : Res → List FLane
  | .bad cls cause addr info => [{ tid := tid, cls := cls, cause := cause, addr := addr, info := info }]
  | _ => []

/-- The lanes that act: every active lane, or one for each home wheel of a uniform form (R77). -/
def Site.actors (e : Site) (uni : Bool) : List Lane := if uni then wheelsOf e.lanes else e.lanes

/-- The lanes that a fault of an actor parks (R172). -/
def Site.hit (e : Site) (uni : Bool) (l : Lane) : List Lane :=
  if uni then e.lanes.filter (fun x => x.w.idx == l.w.idx) else [l]

/-- A translation fault or a remote-atomic fault drops the port's entry that failed (R371). -/
def State.dropBad (s : State) (die : Nat) (r : Res) : State :=
  match r with
  | .bad cls _ addr info =>
    let page := capOfs addr / 65536
    if cls ≠ 0x0B ∧ cls ≠ 9 then s
    else s.modDie die (fun x => { x with lcache := x.lcache.filter (fun e =>
      !(e.obj == capObj addr && (e.page == page || e.page == page + 1) && e.word == info)) })
  | _ => s

/-- A run's read set takes the frames of an access (R360). -/
def State.noteAccess (s : State) (c : Ctx) (a : Acc) : State :=
  match a.r with
  | .ok ps _ => (ps.take (ps.length - a.wrote)).foldl (fun s p => s.noteRead c p) s
  | _ => s

/-- The page, of some that an access touched, that holds a place. -/
def State.pageOf (s : State) (die : Nat) (pages : List (Nat × Nat × Nat)) (p : Nat) : Option (Nat × Nat × Nat) :=
  pages.find? (fun g =>
    let q := s.leafPlace die g.1 (g.2.1 * 65536) g.2.2
    pTag q == pTag p && decide (pIdx q ≤ pIdx p) && decide (pIdx p < pIdx q + 65536))

/-- The lines of an access that a port translates, each with its page (R307, R376). -/
def State.accLines (s : State) (a : Acc) : List (Nat × Nat × Nat × Nat × Nat) :=
  match a.r with
  | .ok ps pages =>
    if pages.isEmpty then []
    else (((ps.filter isGlobal).map lineOf).dedup).filterMap (fun x =>
      (s.pageOf (dieOf a.l.w.core) pages ((ps.find? (fun p => lineOf p == x)).getD x)).map (fun g => (x, a.l.w.core, g)))
  | _ => []

/-- A load that a context has sent since `s0`, or whose request a pin holds back, reaches a line. -/
def State.asks (s s0 : State) (ctx line : Nat) : Bool :=
  match sGet s.ctxs ctx with
  | none => false
  | some c => c.loads.any (fun o => decide (s0.nextTag ≤ o.ltag) && o.nreg != 0 && o.cpy.isEmpty
      && (if o.pinned then o.places else o.asked).any (fun p => lineOf p == line))

/-- The line accesses of a beat count at the port in ascending line order, one for each distinct line: none for a load's line whose needed bytes were all in L1 when the beat issued, `s0`, and none for a line that a peer or the host serves, which counts when it has been answered (R307, R376, R398). -/
def State.countBeat (s s0 : State) (ctx : Nat) (accs : List Acc) (read : Bool) : State :=
  let need := fun x => (accs.flatMap (fun a => match a.r with | .ok ps _ => ps | _ => [])).filter (fun p => lineOf p == x)
  (sortBy (fun x => x.1) ((accs.flatMap s0.accLines).dedup)).foldl (fun s x =>
    if read && cacheHas (s0.core x.2.1).l1 (need x.1) then s
    else if isRemote x.1 && (accs.any (fun a => a.far) || s.asks s0 ctx x.1) then s
    else s.touch (dieOf x.2.1) x.2.2.1 x.2.2.2.1 x.2.2.2.2) s

/-- A line access that a peer or the host has served counts at the port of a die (R376, R398). -/
def State.countServed (s : State) (die : Nat) (cap : Cap) : State :=
  let hot := ((s.die die).leaf (capObj cap) (capOfs cap / 65536)).any (fun e => lfHot e.word.toNat)
  s.countHot die (capObj cap) (capOfs cap / 65536) die hot

/-- The beat stands at its instruction again: it is held. -/
def State.isHeld (s : State) (b : Beat) : Bool :=
  match sGet s.ctxs b.ctx with
  | none => true
  | some c => b.tids.any (fun i => (c.thread i).any (fun t => t.pc == b.pc && (match t.st with | .suspended _ => true | _ => false)))

/-- A fill that another side refused holds a place. -/
def Ctx.refusedFor (c : Ctx) (p : Nat) : Bool := c.loads.any (fun o => o.isFill && o.refused && o.asked.contains p)

/-- An access whose fill the other side refused takes the translation fault (R371, R374). -/
def refusedFill (c : Ctx) (r : Res) : Res :=
  match r with
  | .ok ps pages =>
    match ps.find? c.refusedFor with
    | none => r
    | some p =>
      let g := pages.headD (0, 0, 0)
      .bad 0x0B 4 (mkCap g.1 (g.2.1 * 65536 + pIdx p % 65536)) (BitVec.ofNat 64 g.2.2)
  | r => r

/-- A load or atomic at a peer or the host, an acquiring one of another device, or a copy whose lanes have not moved, that later accesses of its threads follow (R271, R272, R275). -/
def OLoad.orders (o : OLoad) : Bool :=
  o.nreg != 0 && (if o.cpy.isEmpty then !o.places.isEmpty || o.acq.isSome else !o.moved) && !o.arrived && !o.refused

/-- The outstanding accesses that an access of some threads must follow. -/
def Ctx.behind (c : Ctx) (tids : List Nat) : List Nat :=
  (c.loads.filter (fun o => o.orders && o.tids.any (fun t => tids.contains t))).map (fun o => o.ltag)

/-- The effect `f` once the earlier accesses of some threads have been performed (R271, R272). -/
def State.inOrder (s : State) (e : Site) (tids : List Nat) (f : State → State) : State :=
  match e.c.behind tids with
  | [] => f s
  | tags => s.hold e.b (.acks (dieOf e.b.core) tags [])

/-- The accesses of a beat: the end of a speculative run, a hold of the whole beat, or the effect `f` on the lanes that passed and the faults of the others (R172, R176, R271, R358). The accesses of a run are not counted (DEDUCED, log 130: R364 leaves no trace of them). -/
def State.gate (s : State) (e : Site) (uni read : Bool) (accs : List Acc)
    (f : List (Lane × List Nat) → State → State) : State :=
  let accs := accs.map (fun a => { a with r := refusedFill e.c a.r })
  match e.c.run, accs.findSome? (fun a => a.r.endsRun) with
  | some slot, some k => s.discardRun slot k
  | _, _ =>
    match accs.findSome? (fun a => a.r.waits) with
    | some k => s.hold e.b k
    | none =>
      let bad := accs.filter (fun a => a.r.isBad)
      let oks := accs.filterMap (fun a => match a.r with | .ok ps _ => some (a.l, ps) | _ => none)
      match e.c.run, bad with
      | some slot, _ :: _ => s.discardRun slot 2
      | _, _ =>
        s.inOrder e (oks.flatMap (fun x => if x.2.isEmpty then [] else (e.hit uni x.1).map (fun l => l.t.tid))) (fun s =>
          let t := f oks (if read then accs.foldl (fun s a => s.noteAccess e.c a) s else s)
          let s := if t.isHeld e.b || e.c.run.isSome then t else t.countBeat s e.b.ctx accs read
          let s := bad.foldl (fun s a => s.dropBad (dieOf a.l.w.core) a.r) s
          let s := if bad.isEmpty then s
            else s.modCtx e.b.ctx (fun c => { c with loads := c.loads.filter (fun o => !(o.refused && o.isFill)) })
          s.beatFault e.b uni (bad.flatMap (fun a => (e.hit uni a.l).flatMap (fun l => a.r.fault l.t.tid))))

/-- An access meets a line that another core pins, and cannot do with the core's own copy (R279). -/
def State.pinBars (s : State) (core : Nat) (always : Bool) (ps : List Nat) : Bool :=
  ps.any (fun p => isGlobal p && s.pinned core (lineOf p) && (always || (cacheGet (s.core core).l1 p).isNone))

/-- An access that must reach L2 is refused while another core pins its line (R279). -/
def State.pinCheck (s : State) (core : Nat) (always : Bool) (r : Res) : Res :=
  match r with
  | .ok ps _ => if s.pinBars core always ps then .retry else r
  | r => r

/-- The access of a lane at an address operand and an offset (R170, R172). -/
def State.access (s : State) (e : Site) (l : Lane) (w : Want) (a : Src) (ofs : Int) : Res :=
  let n := if w.sp = .g then 2 else 1
  let x := effAddr w.sp l.t.fofs (readSrc l n a) ofs
  s.resolve e.b.ctx e.c l w x.1 x.2

/-- The capability or address that an access names. -/
def accessCap (l : Lane) (sp : Space) (a : Src) (ofs : Int) : Cap :=
  let x := effAddr sp l.t.fofs (readSrc l (if sp = .g then 2 else 1) a) ofs
  if sp = .g then mkCap x.1 (x.2 % (2 ^ 44 : Int)).toNat else BitVec.ofInt 64 x.2

/-! ### Stores (R270, R359) -/

/-- A store of the beat in issue joins its wheel's queue. -/
def State.enqueue (s : State) (e : Site) (wheel : Nat) (tids : List Nat) (line : Option (Nat × Nat)) (bytes : List (Nat × Byte)) (pol : Nat) (cap : Cap) : State :=
  s.modCtx e.b.ctx (fun c => c.modW wheel (fun w => { w with
    stores := w.stores ++ [{ tids := tids, line := line, bytes := bytes, pol := pol, pc := e.b.pc, words := e.b.words, cap := cap }] }))

/-- The stores of a beat from the cells of its lanes, with the lines of their line accesses: in .g and .p one for each line and lane, the lines ascending, in .s and .d one for each lane (R268, R307). -/
def beatStores (sp : Space) (cells : List (Lane × List (Nat × Byte))) : List (Option Nat × Lane × List (Nat × Byte)) :=
  if sp = .g ∨ sp = .p then
    (sortBy id ((cells.flatMap (fun x => x.2.map (fun b => lineOf b.1))).dedup)).flatMap (fun y => cells.filterMap (fun x =>
      let bs := x.2.filter (fun b => lineOf b.1 == y)
      if bs.isEmpty then none else some (some y, x.1, bs)))
  else cells.map (fun x => (none, x.1, x.2))

/-- The stores of a beat join the queues of their lanes' wheels. -/
def State.enqueueAll (s : State) (e : Site) (sp : Space) (tids : Lane → List Nat) (pol : Nat) (cap : Lane → Cap) (cells : List (Lane × List (Nat × Byte))) : State :=
  (beatStores sp cells).foldl (fun s x =>
    s.enqueue e x.2.1.w.idx (tids x.2.1) (x.1.map (fun y => (s.cycle, y))) x.2.2 pol (cap x.2.1)) s

/-- A shadow page for the frame of a place, the free one of the lowest number; `none` when no page is free (R359). (DESIGN CHOICE, log 70: which free page.) -/
def State.shadowRoom (s : State) (slot p : Nat) : Option State :=
  if pTag p = 0 then
    let die := pIdx p / 2 ^ 37
    let frame := pIdx p % 2 ^ 37 / 65536
    if s.shadow.any (fun x => x.slot == slot && x.die == die && x.frame == frame) then some s
    else if 2048 ≤ s.shadow.length then none
    else
      let page := ((List.range (s.shadow.length + 1)).find? (fun n => s.shadow.all (fun x => x.page != n))).getD 0
      some { s with shadow := s.shadow ++ [{ slot := slot, die := die, frame := frame, page := page }] }
  else some s

/-- Shadow pages for every place that a run is about to write. -/
def State.shadowRooms (s : State) (c : Ctx) (ps : List Nat) : Option State :=
  match c.run with
  | none => some s
  | some slot => ps.foldl (fun a p => a.bind (fun s => s.shadowRoom slot p)) (some s)

/-- The writes of a beat go on when the run has shadow pages for them; otherwise it ends (R358). -/
def State.ifRoom (s : State) (e : Site) (ps : List Nat) (f : State → State) : State :=
  match s.shadowRooms e.c ps, e.c.run with
  | some s, _ => f s
  | none, some slot => s.discardRun slot 3
  | none, none => s

/-! ### Releases and acquires of an instruction -/

/-- The beat as the issuer of what some threads send (R374). -/
def Site.issuer (e : Site) (tids : List Nat) : Issuer := { ctx := e.b.ctx, tids := tids, pc := e.b.pc, words := e.b.words }

/-- The effect once the acknowledgements that a scope asks for have come (R234, R278). -/
def State.acksGate (s : State) (e : Site) (tids : List Nat) (sc : Scope) (f : State → State) : State :=
  match s.relWaits e.b.ctx e.c tids sc with
  | ([], []) => f s
  | (tags, host) => s.hold e.b (.acks (dieOf e.b.core) tags host)

/-- The effect after a release by some threads; the beat is held while a pin refuses a write-back, and while acknowledgements are outstanding (R234, R278, R279). -/
def State.relFor (s : State) (e : Site) (tids : List Nat) (sc : Scope) (f : State → State) : State :=
  s.inOrder e tids (fun s =>
    let ws := wheelsOf e.lanes
    let s := ws.foldl (fun s l => s.release e.c l.w.idx l.w.core (e.issuer tids) sc) s
    if ws.any (fun l => s.relRefused e.b.ctx e.c l.w.idx l.w.core sc) then s.hold e.b .retry
    else s.acksGate e tids sc (fun s => f (if e.lanes.isEmpty then s else s.releaseEnd e.c e.b.ctx sc)))

/-- The effect after the release that the instruction asks for (R278). -/
def State.relGate (s : State) (e : Site) (rel : Bool) (sc : Scope) (f : State → State) : State :=
  if rel then s.relFor e (e.lanes.map (fun l => l.t.tid)) sc f else f s

/-- The effect once the stores of the lanes' wheels are in the core order; the beat is held while a pin refuses one (R272, R279). -/
def State.drainGate (s : State) (e : Site) (on : Bool) (f : State → State) : State :=
  if on then
    let ws := wheelsOf e.lanes
    let s := ws.foldl (fun s l => s.drain e.b.ctx l.w.idx) s
    if ws.all (fun l => s.drained e.b.ctx l.w.idx) then f s else s.hold e.b .retry
  else f s

/-- A release that writes memory has been issued: its bytes enter the core order; a narrow scope pins their lines (R279), a wider one sends them on. -/
def State.afterRel (s : State) (e : Site) (rel : Bool) (sc : Scope) (ps : List Nat) : State :=
  if rel && e.c.run.isNone then
    let s := (wheelsOf e.lanes).foldl (fun s l => s.drain e.b.ctx l.w.idx) s
    let tids := e.lanes.map (fun l => l.t.tid)
    if scopeRank e.c sc = 0 then ((ps.filter isGlobal).map lineOf).dedup.foldl (fun s x => s.pin e.b.core e.b.ctx x) s
    else
      let s := s.flushL1 e.b.core (fun p => ps.contains p)
      if 3 ≤ scopeRank e.c sc then s.flushL2 (some (e.issuer tids)) e.b.core (dieOf e.b.core) (fun p => ps.contains p) else s
  else s

/-! ### Requests that leave the device (R374, R375) -/

/-- A read of peer or host bytes, or a fetch of an instruction, is sent under a tag. -/
def State.askBy (s : State) (fetch : Bool) (tag : Nat) (ps : List Nat) : State :=
  match ps with
  | [] => s
  | p :: _ =>
    if pTag p = 5 then
      let (co, obj, ofs) := peerOf p
      { s with peerOut := s.peerOut ++ [{ src := co, tag := tag, obj := obj, ofs := ofs, n := ps.length, op := if fetch then .fetch else .read }] }
    else
      let (qp, a) := hostOf p
      { s with hostOut := s.hostOut ++ [.read qp tag a ps.length], hostReqs := s.hostReqs ++ [{ tag := tag }] }

/-- A read of peer or host bytes is sent under a tag. -/
def State.askRead (s : State) (tag : Nat) (ps : List Nat) : State := s.askBy false tag ps

/-- An atomic on peer or host bytes is sent under a tag. -/
def State.askAtomic (s : State) (tag : Nat) (op : AmoOp) (ty : Ty) (b c : Nat) (ps : List Nat) : State :=
  match ps with
  | [] => s
  | p :: _ =>
    if pTag p = 5 then
      let (co, obj, ofs) := peerOf p
      { s with peerOut := s.peerOut ++ [{ src := co, tag := tag, obj := obj, ofs := ofs, n := ps.length,
                                          op := .atomic op ty (BitVec.ofNat 64 b) (BitVec.ofNat 64 c) }] }
    else
      let (qp, a) := hostOf p
      let m := if op = .cas then HostMsg.atomic qp tag a true (BitVec.ofNat 64 c) (BitVec.ofNat 64 b)
        else HostMsg.atomic qp tag a false (BitVec.ofNat 64 b) 0
      { s with hostOut := s.hostOut ++ [m], hostReqs := s.hostReqs ++ [{ tag := tag }] }

/-- An outstanding load joins the context and its destination becomes pending (R85, R390). -/
def State.addLoad (s : State) (ctx : Nat) (o : OLoad) : State :=
  let pend : List Pend := [{ use := if o.uni then .s o.dreg o.nreg else .v o.dreg o.nreg, due := none, tag := o.ltag }]
  s.modCtx ctx (fun c =>
    let c := { c with loads := c.loads ++ [o] }
    if o.nreg = 0 || o.dreg = 255 then c
    else if o.uni then c.modW o.wheel (fun w => { w with pend := w.pend ++ pend })
    else c.modT (fun t => o.tids.contains t.tid) (fun t => { t with pend := t.pend ++ pend }))

/-- Registers of a lane or of its home wheel are written. -/
def State.putD (s : State) (ctx : Nat) (uni : Bool) (l : Lane) (d : Nat) (ws : List Word) (pend : List Pend) : State :=
  s.modCtx ctx (fun c =>
    if uni then c.modW l.w.idx (fun w => w.put d ws pend)
    else c.modT (fun t => t.tid == l.t.tid) (fun t => t.put d ws pend))

/-- Registers of a destination from loaded bytes: zero- or sign-extended (R175). -/
def extendBytes (nreg : Nat) (signed : Bool) (bs : List Byte) : List Word :=
  natWords nreg (wrapInt (32 * nreg) (sgnVal signed (8 * bs.length) (bytesNat bs)))

/-! ### A beat that needs bytes which no copy holds -/

/-- The requests of some threads that fill are forgotten. -/
def Ctx.dropFills (c : Ctx) (tids : List Nat) : Ctx :=
  { c with loads := c.loads.filter (fun o => !(o.isFill && o.tids.any (fun t => tids.contains t))) }

/-- The bytes of a request that serves lanes of one line: from the lowest to the highest that they need (R307, R374; DEDUCED, log 96). -/
def spanOf (ps : List Nat) : List Nat :=
  match ps with
  | [] => []
  | p :: _ =>
    let lo := ps.foldl min p
    let hi := ps.foldl max p
    run lo ((hi - lo) / 8 + 1)

/-- The remote bytes of the accesses of some lanes are requested, a request for each line in ascending order (R307, R374). -/
def State.askFill (s : State) (e : Site) (pol : Nat) (fetch : Bool) (reads : List (Lane × List Nat)) : State :=
  (sortBy id ((reads.flatMap (fun x => (x.2.filter isRemote).map lineOf)).dedup)).foldl (fun s line =>
    let mine := reads.filter (fun x => x.2.any (fun p => isRemote p && lineOf p == line))
    let asked := spanOf (mine.flatMap (fun x => x.2.filter (fun p => isRemote p && lineOf p == line)))
    let (tag, s) := s.newTag
    (s.askBy fetch tag asked).addLoad e.b.ctx
      { ltag := tag, tids := mine.map (fun x => x.1.t.tid), wheel := (mine.head?.map (fun x => x.1.w.idx)).getD 0, dreg := 255, nreg := 0
        pc := e.b.pc, words := e.b.words, places := asked, asked := asked, pol := pol, fill := if pol = 3 then 0 else 2 }) s

/-- The effect `f` once every byte that the lanes read is there; otherwise the missing ones are requested and the beat is held until they arrive (R267, R374). -/
def State.withBytesBy (s : State) (e : Site) (pol : Nat) (fetch : Bool) (reads : List (Lane × List Nat)) (f : State → State) : State :=
  let lacking := reads.filter (fun x => (s.laneBytes e.b.ctx x.1 x.2).any (fun b => b.isNone))
  match lacking with
  | [] =>
    if e.c.loads.any (fun o => o.isFill) then (f s).modCtx e.b.ctx (fun c => c.dropFills ((reads.filter (fun x => !x.2.isEmpty)).map (fun x => x.1.t.tid))) else f s
  | _ =>
    let new := lacking.filter (fun x => !e.c.loads.any (fun o => o.isFill && o.tids.contains x.1.t.tid && !o.arrived))
    let s := (s.modCtx e.b.ctx (fun c => c.dropFills (new.map (fun x => x.1.t.tid)))).askFill e pol fetch new
    let tags := (((s.anyCtx e.b.ctx).map (fun c => c.loads)).getD []).filter (fun o => o.isFill && !o.arrived)
    s.hold e.b (.acks (dieOf e.b.core) (tags.map (fun o => o.ltag)) [])

/-- The same for a load's bytes. -/
def State.withBytes (s : State) (e : Site) (pol : Nat) (reads : List (Lane × List Nat)) (f : State → State) : State := s.withBytesBy e pol false reads f

/-! ### Loads (R175, R270, R307) -/

/-- At the hardware's choice some threads read a queued store of other threads of their wheel to bytes that they load (R270). -/
def QStore.look (q : QStore) (tids ps : List Nat) (on : Bool) : QStore :=
  if on && q.bytes.any (fun x => ps.contains x.1) then { q with seen := tids ++ q.seen } else q

/-- The choice for each store of the wheel's queue. -/
def State.lookQueue (s : State) (ctx wheel : Nat) (tids ps : List Nat) : State :=
  let (k, s) := s.fresh
  s.modCtx ctx (fun c => c.modW wheel (fun w => { w with
    stores := w.stores.zipIdx.map (fun q => q.1.look tids ps (Config.readsQueued k q.2)) }))

/-- The loads of a beat: registers written at once, or one request to the peer or the host for each line, in ascending order (R175, R267, R307). A load that a pin refuses stays outstanding, its destination pending, and is tried again (R279). -/
def State.loadLanes (s : State) (e : Site) (uni : Bool) (pol : Nat) (o : Lane → OLoad) (oks : List (Lane × List Nat)) : State :=
  let ctx := e.b.ctx
  let tids := fun (l : Lane) => (e.hit uni l).map (fun x => x.t.tid)
  let s := oks.foldl (fun s x => s.lookQueue ctx x.1.w.idx (tids x.1) x.2) s
  let s := s.hint e.b.core pol (oks.flatMap (fun x => x.2))
  let late := oks.filter (fun x => s.pinBars x.1.w.core false x.2)
  let s := oks.foldl (fun s x => if s.pinBars x.1.w.core false x.2 then s else s.fillFor x.1.w.core pol x.2) s
  let got := (oks.filter (fun x => !s.pinBars x.1.w.core false x.2)).map (fun x => (x, s.loadBytes ctx x.1 (tids x.1) x.2))
  let far := got.filter (fun x => x.2.any (fun b => b.isNone))
  let s := (got.filter (fun x => x.2.all (fun b => b.isSome))).foldl (fun s x =>
    let o := o x.1.1
    s.putD ctx uni x.1.1 o.dreg (extendBytes o.nreg o.signed (held x.2))
      (mkPend s (if uni then .s o.dreg o.nreg else .v o.dreg o.nreg) 0)) s
  let s := (sortBy id ((far.map (fun x => lineOf (x.1.2.headD 0))).dedup)).foldl (fun s line =>
    let mine := far.filter (fun x => lineOf (x.1.2.headD 0) == line)
    let asked := spanOf (mine.flatMap (fun x => x.1.2))
    let (tag, s) := s.newTag
    mine.foldl (fun s x => s.addLoad ctx { o x.1.1 with
      ltag := tag, tids := tids x.1.1, wheel := x.1.1.w.idx, places := x.1.2, asked := asked, known := x.2, counts := true }) (s.askRead tag asked)) s
  late.foldl (fun s x =>
    let (tag, s) := s.newTag
    s.addLoad ctx { o x.1 with ltag := tag, tids := tids x.1, wheel := x.1.w.idx, places := x.2, pinned := true, counts := x.2.any isRemote }) s

/-! ### Atomics (R178, R272, R375) -/

/-- A core's dirty bytes of the lines of some places are written back, through its die's copy, and the lines leave its L1 and that copy; replies on their way do not bring them back (R272, R276). -/
def State.dropLines (s : State) (who : Issuer) (core : Nat) (ps : List Nat) : State :=
  let ls := ((ps.filter isCached).map lineOf).dedup
  let on := fun p => ls.contains (lineOf p)
  if ls.isEmpty then s
  else
    let die := dieOf core
    let s := s.flushL1 core on
    let s := s.flushL2 (some who) core die on
    let s := if ps.any isRemote then s.stale on else s
    (s.dropL1 core on).dropL2 die on

/-- The old value and the effect of a read-modify-write at the place that performs it. -/
def State.rmw (s : State) (ps : List Nat) (f : Nat → Nat) : Nat × State :=
  let old := bytesNat (ps.map (fun p => if pTag p = 7 then s.tcoByte (pIdx p) else s.byte p))
  let cells := ps.zip (natBytes ps.length (f old))
  (old, if ps.any (fun p => pTag p == 7) then cells.foldl (fun s x => s.tcoPut (pIdx x.1) x.2) s else s.homeWrites cells)

/-- The lanes of an atomic's beat, each with whether it is the first on its line, whose line access it counts as (R398). -/
def leads (oks : List (Lane × List Nat)) : List ((Lane × List Nat) × Bool) :=
  oks.zipIdx.map (fun x => (x.1, !(oks.take x.2).any (fun y => lineOf (y.2.headD 0) == lineOf (x.1.2.headD 0))))

/-- One lane's ATOM or RED: at its place on this device, or sent to the peer or the host; RED names no destination (`nreg` 0). -/
def State.amoLane (s : State) (e : Site) (o : OLoad) (op : AmoOp) (ty : Ty) (b c : Nat) (l : Lane) (ps : List Nat) : State :=
  let who : Issuer := { e.issuer [l.t.tid] with cap := o.cap }
  let s := s.dropLines who l.w.core ps
  let who : Issuer := { who with counts := o.counts }
  if ps.any isRemote then
    let (tag, s) := s.newTag
    let s := s.askAtomic tag op ty b c ps
    if o.nreg = 0 then
      let s := s.modCtx e.b.ctx (fun x => { x with
        posted := x.posted ++ [(tag, who)], remotes := if ps.any (fun p => pTag p == 5) then x.remotes ++ [(l.t.tid, tag)] else x.remotes })
      if ps.any (fun p => pTag p == 5) then s
      else { s with hostReqs := s.hostReqs.map (fun q => if q.tag = tag then { q with ctx := some e.b.ctx } else q) }
    else s.addLoad e.b.ctx { o with
      ltag := tag, tids := (e.hit o.uni l).map (fun x => x.t.tid), wheel := l.w.idx, places := ps, asked := ps, fill := 0, atom := true }
  else
    let (old, s) := s.rmw ps (fun m => amoNew op ty m b c)
    if o.nreg = 0 then s
    else s.putD e.b.ctx o.uni l o.dreg (natWords o.nreg old) (mkPend s (if o.uni then .s o.dreg o.nreg else .v o.dreg o.nreg) 0)

end Sys2Proof.Machine
end

