-- ==== Sys2Proof/Machine/Shape.lean ====
section
/-! DEFINITION. Shape registers: their fields, their checks, the swizzle and the fill (R52-R56). -/

namespace Sys2Proof.Machine

/-- The fields of a shape register (R52). -/
structure Shape where
  fmt : BitVec 8
  rank : Nat
  mode : Nat
  fill : Nat
  swz : Nat
  rsv : Nat
  dims : List Nat
  strides : List Nat
  box : List Nat
  wlo : List Int
  whi : List Int
  pixels : Nat
  channels : Nat
  deriving DecidableEq, Repr

/-- The fields of a shape register's value (R52). -/
def shapeOf (t : BitVec 512) : Shape :=
  let f := fun lo n => natBits t.toNat lo n
  { fmt := BitVec.ofNat 8 (f 0 8), rank := f 8 3, mode := f 11 2, fill := f 13 2, swz := f 15 3, rsv := f 18 14
    dims := [f 32 32, f 64 32, f 96 32, f 128 32, f 160 32]
    strides := [0, f 192 40, f 232 40, f 272 40, f 312 40]
    box := [f 352 16, f 368 16, f 384 16, f 400 16, f 416 16]
    wlo := [0, sgnVal true 8 (f 432 8), sgnVal true 8 (f 440 8), sgnVal true 8 (f 448 8)]
    whi := [0, sgnVal true 8 (f 456 8), sgnVal true 8 (f 464 8), sgnVal true 8 (f 472 8)]
    pixels := f 480 16
    channels := f 496 16 }

/-- Extent of dimension `k`. -/
def Shape.dim (s : Shape) (k : Nat) : Nat := (s.dims[k]?).getD 0
/-- Byte stride of dimension `k` from 1 on. -/
def Shape.stride (s : Shape) (k : Nat) : Nat := (s.strides[k]?).getD 0
/-- Box extent of dimension `k`. -/
def Shape.boxk (s : Shape) (k : Nat) : Nat := (s.box[k]?).getD 0
/-- Bits of an element. -/
def Shape.ebits (s : Shape) : Nat := fmtBits s.fmt

/-- The element has a NaN code (R54). -/
def elemNan (e : Elem) : Option Nat :=
  match e with
  | .flt f => f.nan
  | .e8m0 => some 0xFF
  | _ => none

/-- The maximum-negative fill (R54); an opaque element takes 0. -/
def elemMaxNeg (e : Elem) : Nat :=
  match e with
  | .int sg w => if sg then 2 ^ (w - 1) else 0
  | .flt f => if f.signed then f.code true (f.inf.getD f.kmax) else 0
  | _ => 0

/-- The code of an element out of range (R54). -/
def Shape.fillCode (s : Shape) : Nat :=
  match s.fill with
  | 1 => (elemNan (elemOf s.fmt)).getD 0
  | 2 => elemMaxNeg (elemOf s.fmt)
  | _ => 0

/-- The shape fault's conditions (R54). -/
def Shape.bad (s : Shape) : Bool :=
  let ks := List.range s.rank
  !fmtOk s.fmt || s.rank == 0 || decide (6 ≤ s.rank) || decide (2 ≤ s.mode) || s.fill == 3 || decide (5 ≤ s.swz)
    || s.rsv != 0
    || ks.any (fun k => s.dim k == 0)
    || (s.mode == 0 && ks.any (fun k => s.boxk k == 0))
    || ks.any (fun k => decide (1 ≤ k) && s.stride k % 16 != 0)
    || (s.dim 0 * s.ebits) % 8 != 0
    || (s.mode == 1 && (decide (s.rank < 3) || s.pixels == 0 || s.channels == 0))
    || (s.fill == 1 && (elemNan (elemOf s.fmt)).isNone)

/-- The conditions of a matrix operand: R54, RANK 2 and tile mode (R158, R168). -/
def Shape.badMatrix (s : Shape) : Bool := s.bad || s.rank != 2 || s.mode != 0

/-- The place of a shared byte under a SWIZZLE code (R55). -/
def swizzle (k a : Nat) : Nat :=
  if k = 0 ∨ 4 < k then a
  else natSetBits a 4 k (natBits a 4 k + natBits a (4 + k) k)

/-- The key of a core's copy of a shape or convergence register (R146, R264). -/
def cvKey (core n : Nat) : Nat := core * 16 + n

/-- Shape register `t` of a block, in a core's copy (R264). -/
def Ctx.tval (c : Ctx) (core t : Nat) : BitVec 512 := (sGet c.tregs (cvKey core t)).getD 0

/-- A bit field of a shape register replaced. -/
def tSet (t : BitVec 512) (lo n v : Nat) : BitVec 512 := BitVec.ofNat 512 (natSetBits t.toNat lo n v)

/-- A core's copy takes a write of a shape register. -/
def Ctx.tput (c : Ctx) (core : Nat) (w : TWrite) : Ctx :=
  { c with tregs := sPut c.tregs (cvKey core w.reg) (tSet (c.tval core w.reg) w.lo w.n w.v) }

/-- A write of a shape register by a wheel: its core's copy takes it, and the other copies of a spread block take it at the end of the cycle (R56). (DESIGN CHOICE, log 92.) -/
def Ctx.twrite (c : Ctx) (core t lo n v : Nat) : Ctx :=
  let w : TWrite := { reg := t, lo := lo, n := n, v := v }
  let c := c.tput core w
  if c.cores.length ≤ 1 then c else { c with twrites := c.twrites ++ [w] }

/-- The cycle's writes of shape registers reach every copy, in write order (R56). -/
def Ctx.tspread (c : Ctx) : Ctx :=
  { c.twrites.foldl (fun c w => c.cores.dedup.foldl (fun c k => c.tput k w) c) c with twrites := [] }

/-- The bytes, by index, that an element at a bit address occupies, after the swizzle: shared address and the element's bits below. -/
def elemBytes (swz bit w : Nat) : List Nat :=
  (List.range ((bit % 8 + w + 7) / 8)).map (fun i => swizzle swz (bit / 8 + i))

/-- An element's bits from the bytes of `elemBytes`. -/
def elemOfBytes (bit w : Nat) (bs : List Byte) : Nat := natBits (bytesNat bs) (bit % 8) w

end Sys2Proof.Machine
end

