-- ==== Sys2Proof/Machine/Memory.lean ====
section
/-! DEFINITION. Memory, copy and barrier instructions (R170-R183, R186, R192-R197), and the steps that complete them: replies, copies, waits, store queues, evictions. -/

namespace Sys2Proof.Machine

/-! ### Sizes -/

/-- Bytes of a MEM size (R174). -/
def szBytes : Size → Nat
  | .n8 | .s8 => 1
  | .n16 | .s16 => 2
  | .b32 => 4
  | .b64 => 8
  | .b128 => 16

/-- Registers of a MEM size (R175). -/
def szRegs : Size → Nat
  | .b64 => 2
  | .b128 => 4
  | _ => 1

/-- The size sign-extends (R175). -/
def szSigned : Size → Bool
  | .s8 | .s16 => true
  | _ => false

/-- Bytes of a copy size (R174, R226). -/
def cszBytes : CSize → Nat
  | .b32 => 4
  | .b64 => 8
  | .b128 => 16

/-- The ordering is a release. -/
def ordRel : Ordr → Bool
  | .rel | .ar => true
  | _ => false

/-- The ordering is an acquire. -/
def ordAcq : Ordr → Bool
  | .acq | .ar => true
  | _ => false

/-- The number of a destination register, and whether it is uniform. -/
def dstNum : Dst → Nat × Bool
  | .v r => (r.toNat, false)
  | .s r => (r.toNat, true)

/-! ### Loads and stores (R175-R177) -/

/-- LD (R175). -/
def execLd (h : Head) (sp : Space) (sz : Size) (ord : Ordr) (sc : Scope) (d : Dst) (a : Src) (ofs : BitVec 24)
    (s : State) : Out :=
  act (onBeat h (fun e s =>
    let n := szBytes sz
    let w : Want := { sp := sp, n := n, align := n, need := 1, lock := false }
    let (dn, uni) := dstNum d
    let accs := (e.actors uni).map (fun l => { l := l, r := s.access e l w a ofs.toInt : Acc })
    s.gate e uni true accs (fun oks s =>
      let s := s.loadLanes e uni h.pol.toNat (fun l =>
        { ltag := 0, tids := [], wheel := 0, uni := uni, dreg := dn, nreg := szRegs sz, pc := e.b.pc, words := e.b.words
          cap := accessCap l sp a ofs.toInt, nbytes := n, signed := szSigned sz, pol := h.pol.toNat, fill := if h.pol == 3 then 0 else 2
          acq := if ordAcq ord then some sc else none }) oks
      s.acquireIf (ordAcq ord && !oks.isEmpty) e.c e.b.core sc))) s

/-- A byte of a store beat with the value of the highest lane that writes its place (R175). -/
def highest (cells : List (List (Nat × Byte))) (c : Nat × Byte) : Nat × Byte :=
  cells.foldl (fun a x => match sGet x a.1 with
    | some b => (a.1, b)
    | none => a) c

/-- ST (R175): the value of the highest active lane remains where lanes meet. -/
def execSt (h : Head) (sp : Space) (sz : Size) (ord : Ordr) (sc : Scope) (a : Src) (ofs : BitVec 24) (b : Src)
    (s : State) : Out :=
  act (onBeat h (fun e s =>
    let n := szBytes sz
    let w : Want := { sp := sp, n := n, align := n, need := 2, write := true }
    let narrow := ordRel ord && scopeRank e.c sc == 0 && e.c.run.isNone
    let accs := e.lanes.map (fun l =>
      let r := s.access e l w a ofs.toInt
      { l := l, r := if narrow then s.pinCheck l.w.core true r else r, far := h.pol == 3 : Acc })
    s.gate e false false accs (fun oks s =>
      let ps := oks.flatMap (fun x => x.2)
      s.ifRoom e ps (fun s => s.relGate e (ordRel ord) sc (fun s =>
        let cells := oks.map (fun x => (x.1, x.2.zip (natBytes n (readSrc x.1 (szRegs sz) b))))
        let last := highest (cells.map (fun x => x.2))
        let s := (s.hint e.b.core h.pol.toNat ps).enqueueAll e sp (fun l => [l.t.tid]) h.pol.toNat (fun l => accessCap l sp a ofs.toInt)
          (cells.map (fun x => (x.1, x.2.map last)))
        s.afterRel e (ordRel ord) sc (if sp = .g then ps else [])))))) s

/-! ### Atomics (R178, R179) -/

/-- The access of an atomic's lane (R172). -/
def amoWant (sp : Space) (op : AmoOp) (ty : Ty) : Want :=
  { sp := sp, n := 4 * tyRegs ty, align := 4 * tyRegs ty, need := 8, write := true, atomic := true, hostOp := amoHost op ty }

/-- ATOM (R178): lanes in ascending home lane, each with the old value of its own application. -/
def execAtom (h : Head) (sp : Space) (op : AmoOp) (ty : Ty) (ord : Ordr) (sc : Scope) (d : Dst) (a b : Src)
    (c : Option Src) (s : State) : Out :=
  act (onBeat h (fun e s =>
    let (dn, uni) := dstNum d
    let w := amoWant sp op ty
    let n := tyRegs ty
    let accs := (e.actors uni).map (fun l => { l := l, r := s.pinCheck l.w.core true (s.access e l w a 0), far := true : Acc })
    s.gate e uni false accs (fun oks s => s.relGate e (ordRel ord) sc (fun s => s.drainGate e true (fun s =>
      let s := (leads oks).foldl (fun s y => let x := y.1; s.amoLane e
        { ltag := 0, tids := [], wheel := 0, uni := uni, dreg := dn, nreg := n, pc := e.b.pc, words := e.b.words
          cap := accessCap x.1 sp a 0, nbytes := 4 * n, acq := if ordAcq ord then some sc else none, counts := y.2 }
        op ty (readSrc x.1 n b) ((c.map (readSrc x.1 n)).getD 0) x.1 x.2) s
      let s := s.afterRel e (ordRel ord) sc (if sp = .g then oks.flatMap (fun x => x.2) else [])
      s.acquireIf (ordAcq ord && !oks.isEmpty) e.c e.b.core sc))))) s

/-- RED (R178). -/
def execRed (h : Head) (sp : Space) (op : AmoOp) (ty : Ty) (ord : Ordr) (sc : Scope) (a b : Src) (s : State) : Out :=
  act (onBeat h (fun e s =>
    let w := amoWant sp op ty
    let accs := e.lanes.map (fun l => { l := l, r := s.pinCheck l.w.core true (s.access e l w a 0), far := true : Acc })
    s.gate e false false accs (fun oks s => s.relGate e (ordRel ord) sc (fun s => s.drainGate e true (fun s =>
      let s := (leads oks).foldl (fun s y => let x := y.1; s.amoLane e { ltag := 0, tids := [], wheel := 0, dreg := 255, nreg := 0, pc := e.b.pc
                                                                         words := e.b.words, cap := accessCap x.1 sp a 0, counts := y.2 }
        op ty (readSrc x.1 (tyRegs ty) b) 0 x.1 x.2) s
      s.afterRel e (ordRel ord) sc (if sp = .g then oks.flatMap (fun x => x.2) else [])))))) s

/-! ### Fences, prefetch and the private frame (R180-R182) -/

/-- The semantics contains a release. -/
def semRel : Sem → Bool
  | .acq => false
  | _ => true

/-- The semantics contains an acquire. -/
def semAcq : Sem → Bool
  | .rel => false
  | _ => true

/-- FENCE (R180, R277, R278). -/
def execFence (h : Head) (sem : Sem) (sc : Scope) (s : State) : Out :=
  act (onBeat h (fun e s =>
    let tids := e.lanes.map (fun l => l.t.tid)
    s.relGate e (semRel sem) sc (fun s => s.inOrder e tids (fun s => s.acksGate e tids sc (fun s => s.drainGate e (semRel sem) (fun s =>
      s.acquireIf (semAcq sem && !e.lanes.isEmpty) e.c e.b.core sc)))))) s

/-- A line is brought into L1, or into L2 alone; a peer's or a host's is requested, as far as its object reaches (R181). -/
def State.prefetch (s : State) (e : Site) (l2 : Bool) (pol : Nat) (l : Lane) (p : Nat) (obj : Nat) : State :=
  let core := l.w.core
  let die := dieOf core
  let s := s.hint core pol [p]
  let line := run (lineOf p) 128
  if isRemote p then
    let ext := match (s.core core).desc obj with
      | some d => d.extent
      | none => 0
    let ps := if pTag p = 5 then line.filter (fun q => decide ((peerOf q).2.2 < ext)) else line
    let (tag, s) := s.newTag
    (s.askRead tag ps).addLoad e.b.ctx { ltag := tag, tids := [], wheel := l.w.idx, dreg := 255, nreg := 0, asked := ps, pol := pol
                                         fill := if l2 then 1 else 2, pref := true }
  else if !l2 then (List.range 4).foldl (fun s i => s.fetchSector core (lineOf p + 8 * 32 * i) (run (lineOf p + 8 * 32 * i) 32)) s
  else if homeHere die p || !cacheRoom (s.die die).l2 l2Lines (lineOf p) then s
  else s.modDie die (fun x => { x with l2 := cacheMerge x.l2 ((line.filter (fun q => !s.poison.contains (wordOf q))).map (fun q => (q, s.byte q))) })

/-- PREF (R181): the lines of the addresses that pass their checks, each once, ascending (R307); a missing table entry holds the beat (R373). -/
def execPref (h : Head) (sp : Space) (l2 : Bool) (a : Src) (ofs : BitVec 24) (s : State) : Out :=
  act (onBeat h (fun e s =>
    let accs := e.lanes.map (fun l => (l, s.pinCheck l.w.core false (s.access e l { sp := sp, n := 1, align := 1, need := 1, lock := false } a ofs.toInt)))
    match accs.findSome? (fun x => x.2.waits) with
    | some k => s.hold e.b k
    | none =>
      if h.pol == 3 then s
      else
        let hits := accs.filterMap (fun x => match x.2 with
          | .ok (p :: _) pages => if isCached p then some (x.1, p, (pages.headD (0, 0, 0)).1) else none
          | _ => none)
        (sortBy id ((hits.map (fun x => lineOf x.2.1)).dedup)).foldl (fun s y =>
          match hits.find? (fun x => lineOf x.2.1 == y) with
          | some x => s.prefetch e l2 h.pol.toNat x.1 x.2.1 x.2.2
          | none => s) s)) s

/-- SPADJ (R182, R254): FOFS and D in the lanes that pass. -/
def execSpadj (h : Head) (d : BitVec 8) (a : Src) (s : State) : Out :=
  act (onBeat h (fun e s =>
    let new := fun (l : Lane) => (l.t.fofs : Int) + sgnVal true 32 (readSrc l 1 a)
    let cls := fun (l : Lane) =>
      if new l % 4 ≠ 0 then some 7 else if new l < 0 || decide ((e.c.kernel.priv : Int) < new l) then some 4 else none
    let good := e.lanes.filter (fun l => (cls l).isNone)
    let s := s.modCtx e.b.ctx (fun c => c.eachLane good (fun l t =>
      let t := t.put d.toNat [BitVec.ofInt 32 (new l)] (mkPend s (.v d.toNat 1) 3)
      { t with fofs := (new l).toNat, pend := t.pend ++ mkPend s .fofs 3 }))
    s.beatFault e.b false ((e.lanes.filter (fun l => (cls l).isSome)).map (fun l =>
      { tid := l.t.tid, cls := (cls l).getD 0, addr := BitVec.ofInt 64 (new l) })))) s

/-! ### Per-lane copies (R183) -/

/-- Lines of places in .s and .d: (scratchpad or not, line). -/
def linesOf (ps : List Nat) : List (Bool × Nat) :=
  ((ps.filter (fun p => decide (pTag p = 2) || decide (pTag p = 3))).map (fun p =>
    (decide (pTag p = 2), pIdx p % 2 ^ 32 / 128))).dedup

/-- Lines become absent for a copy (R176). -/
def State.clearLines (s : State) (ctx die tag : Nat) (ls : List (Bool × Nat)) : State :=
  let s := s.modAny ctx (fun c => { c with absent := c.absent ++ ((ls.filter (fun l => !l.1)).map (fun l => (l.2, tag))) })
  s.modDie die (fun x => { x with scrAbsent := x.scrAbsent ++ ((ls.filter (fun l => l.1)).map (fun l => (l.2, tag))) })

/-- The lines that a copy made absent are present again for it (R176). -/
def State.setLines (s : State) (ctx die tag : Nat) : State :=
  let s := s.modAny ctx (fun c => { c with absent := c.absent.filter (fun e => e.2 != tag) })
  s.modDie die (fun x => { x with scrAbsent := x.scrAbsent.filter (fun e => e.2 != tag) })

/-- A write that goes past L1, with .na or past a full L1, meets a line that another core pins (R279). -/
def State.passBars (s : State) (core pol : Nat) (ps : List Nat) : Bool :=
  ps.any (fun p => isGlobal p && s.pinned core (lineOf p) && (pol == 3 || !cacheRoom (s.core core).l1 l1Lines (lineOf p)))

/-- A write that such a pin refuses. -/
def State.passCheck (s : State) (core pol : Nat) (r : Res) : Res :=
  match r with
  | .ok ps _ => if s.passBars core pol ps then .retry else r
  | r => r

/-- CPY (R183): sources and destinations checked and captured, the destination lines absent, D pending. -/
def execCpy (h : Head) (dsp ssp : Space) (sz : CSize) (sc : Scope) (d : BitVec 8) (a b : Src) (dofs sofs : BitVec 12)
    (s : State) : Out :=
  act (onBeat h (fun e s =>
    let n := cszBytes sz
    let acc := fun (l : Lane) =>
      (s.pinCheck l.w.core false (s.access e l { sp := ssp, n := n, align := n, need := 1, lock := false } b sofs.toInt)).join
        (s.passCheck l.w.core h.pol.toNat (s.access e l { sp := dsp, n := n, align := n, need := 2, write := true } a dofs.toInt))
    s.gate e false true (e.lanes.map (fun l => { l := l, r := acc l, wrote := n })) (fun oks s =>
      let dsts := oks.flatMap (fun x => x.2.drop n)
      let srcs := oks.map (fun x => (x.1, x.2.take n))
      s.ifRoom e dsts (fun s => s.withBytes e h.pol.toNat srcs (fun s =>
        if oks.isEmpty then s
        else
          let far := srcs.flatMap (fun x => (x.2.zip (s.laneBytes e.b.ctx x.1 x.2)).map (fun y => if isRemote y.1 then y.2 else none))
          let (tag, s) := (s.hint e.b.core h.pol.toNat (oks.flatMap (fun x => x.2))).newTag
          (s.clearLines e.b.ctx (dieOf e.b.core) tag (linesOf dsts)).addLoad e.b.ctx
            { ltag := tag, tids := oks.map (fun x => x.1.t.tid), wheel := 0, dreg := d.toNat, nreg := 1, pc := e.b.pc
              words := e.b.words, known := far, pol := h.pol.toNat, rel := some sc
              cpy := oks.map (fun x => (x.1.t.tid, x.2.take n, x.2.drop n)) }))))) s

/-- The registers of an outstanding load are written and no longer pending (R85, R390). -/
def Ctx.landLoad (c : Ctx) (o : OLoad) (ws : List Word) : Ctx :=
  let clear := fun (p : List Pend) => p.filter (fun x => !(x.due.isNone && x.tag == o.ltag))
  let c := { c with loads := c.loads.filter (fun x => !(x.ltag == o.ltag && x.tids == o.tids)) }
  if o.uni then c.modW o.wheel (fun w => { (w.put o.dreg ws []) with pend := clear w.pend })
  else c.modT (fun t => o.tids.contains t.tid) (fun t => { (t.put o.dreg ws []) with
    pend := clear t.pend, acqs := if o.cpy.isEmpty then t.acqs else t.acqs ++ (o.rel.map (fun sc => (o.dreg, sc))).toList })

/-- The registers of an outstanding load are no longer pending, and are not written. -/
def Ctx.dropLoad (c : Ctx) (o : OLoad) : Ctx :=
  let clear := fun (p : List Pend) => p.filter (fun x => !(x.due.isNone && x.tag == o.ltag))
  let c := { c with loads := c.loads.filter (fun x => !(x.ltag == o.ltag && x.tids == o.tids)) }
  if o.uni then c.modW o.wheel (fun w => { w with pend := clear w.pend })
  else c.modT (fun t => o.tids.contains t.tid) (fun t => { t with pend := clear t.pend })

/-- Every lane's bytes of a copy move, in ascending lane order, each lane reading its source before it writes (R183): a byte that an earlier lane has written as that lane wrote it, other bytes of peers and the host as they were captured. -/
def State.moveCopy (s : State) (ctx : Nat) (c : Ctx) (o : OLoad) : State :=
  (o.cpy.zipIdx.foldl (fun (r : State × List (Nat × Byte)) x =>
    match (c.lanes [x.1.1]).head? with
    | none => r
    | some l =>
      let n := x.1.2.1.length
      let s := r.1.fillFor l.w.core o.pol x.1.2.1
      let far := (o.known.drop (n * x.2)).take n
      let vals := (x.1.2.1.zip (s.laneBytes ctx l x.1.2.1)).zipIdx.map (fun y =>
        match sGet r.2 y.1.1 with
        | some b => b
        | none => ((far[y.2]?).getD none).getD (y.1.2.getD 0))
      let cells := x.1.2.2.zip vals
      (s.perform c l.w.core { ctx := ctx, tids := [l.t.tid], pc := o.pc, words := o.words } o.pol cells, cells ++ r.2)) (s, [])).1.setLines ctx c.die o.ltag

/-- A pin of another core refuses a lane's load or store of a copy, which is tried again (R183, R279). -/
def State.copyBarred (s : State) (c : Ctx) (o : OLoad) : Bool :=
  c.run.isNone && o.cpy.any (fun x => (c.lanes [x.1]).any (fun l => s.pinBars l.w.core false x.2.1 || s.passBars l.w.core o.pol x.2.2))

/-- The release of a copy's status word is over: no pin refuses a write-back, and its acknowledgements have come (R183, R274, R278). -/
def State.copyReleased (s : State) (ctx : Nat) (c : Ctx) (o : OLoad) (l : Lane) (sc : Scope) : Bool :=
  !s.relRefused ctx c l.w.idx l.w.core sc && s.relWaits ctx c o.tids sc == ([], [])

/-- CPY_COMPLETE (R183): the bytes move, the lines are present, and once the release at the copy's scope is over D is written. -/
def execCpyComplete (ctx ltag : Nat) (s : State) : Out :=
  act (fun s =>
    match sGet s.ctxs ctx with
    | none => s
    | some c =>
      match c.loads.find? (fun o => o.ltag == ltag && !o.cpy.isEmpty) with
      | none => s
      | some o =>
        let ls := c.lanes (o.cpy.map (fun x => x.1))
        let ws := wheelsOf ls
        let s := ws.foldl (fun s l => s.drain ctx l.w.idx) s
        if !o.moved && (ws.any (fun l => !s.drained ctx l.w.idx) || s.copyBarred c o) then s
        else
          let s := if o.moved then s else s.moveCopy ctx c o
          let who : Issuer := { ctx := ctx, tids := o.tids, pc := o.pc, words := o.words }
          let done := [BitVec.ofNat 32 (0x80000000 + o.tids.length)]
          match ls.head?, o.rel with
          | some l, some sc =>
            let s := s.release c l.w.idx l.w.core who sc
            if s.copyReleased ctx c o l sc then (s.releaseEnd c ctx sc).modCtx ctx (fun c => c.landLoad o done)
            else s.modCtx ctx (fun c => { c with loads := c.loads.map (fun x => if x.ltag = ltag then { x with moved := true } else x) })
          | _, _ => s.modCtx ctx (fun c => c.landLoad o done)) s

/-! ### Command chains: CHAPP and CHADV (R184, R186) -/

/-- An access to a chain control block that lands on a peer or host page has no place to run (R375; log 48). -/
def chainRes (cap : Cap) (r : Res) : Res :=
  match r with
  | .ok ps pages =>
    if ps.any (fun p => pTag p == 5 || pTag p == 6) then .bad 9 2 cap (BitVec.ofNat 64 ((pages.headD (0, 0, 0)).2.2)) else r
  | r => r

/-- The access to a chain control block by a lane (R186). CHAPP and CHADV meet range locks as writes (DESIGN CHOICE, log 125: R191's table names neither, nor TRYW, which meets them as a read). -/
def State.ccbAccess (s : State) (e : Site) (l : Lane) (a : Src) : Res :=
  chainRes (accessCap l .g a 0) (s.pinCheck l.w.core true
    (s.access e l { sp := .g, n := 64, align := 64, need := 11, write := true, atomic := true } a 0))

/-- A number written at places of a die's home memories, of a peer or of the host (R374, R424). -/
def State.putAway (s : State) (die : Nat) (who : Issuer) (p n v : Nat) : State := s.toHome die (some who) ((run p n).zip (natBytes n v))

/-- The place of the tail entry's NEXT, when its own access passes (R186). -/
def State.tailNext (s : State) (die blk : Nat) : Option Nat :=
  match s.unitPlace die (capAdd (BitVec.ofNat 64 (s.num (blk + 8 * 8) 8)) 56) 8 2 true false with
  | .ok p => some p
  | .error _ => none

/-- One append at the home of the block (R186). A tail entry whose own access fails keeps its NEXT (DESIGN CHOICE, log 124: the rule does not say what happens then). -/
def State.append (s : State) (die : Nat) (who : Issuer) (blk ent : Nat) (b : Cap) : Nat × State :=
  let s := s.putAway die who (ent + 8 * 56) 8 0
  let s := if s.num (blk + 8 * 8) 8 = 0 then s.putNum blk 8 b.toNat
    else match s.tailNext die blk with
      | some p => s.putAway die who p 8 b.toNat
      | none => s
  let s := s.putNum (blk + 8 * 8) 8 b.toNat
  let seq := (s.num (blk + 8 * 16) 8 + 1) % 2 ^ 64
  (seq, s.putNum (blk + 8 * 16) 8 seq)

/-- CHAPP (R186). -/
def execChapp (h : Head) (d : Dst) (a b : Src) (s : State) : Out :=
  act (onBeat h (fun e s =>
    let (dn, uni) := dstNum d
    let acc := fun (l : Lane) => (s.ccbAccess e l a).join
      (s.pinCheck l.w.core true (s.access e l { sp := .g, n := 128, align := 128, need := 3, write := true } b 0))
    let tail := fun (s : State) (x : Lane × List Nat) => (s.tailNext (dieOf x.1.w.core) (x.2.headD 0)).toList
    s.gate e uni false ((e.actors uni).map (fun l => { l := l, r := acc l })) (fun oks s => s.drainGate e true (fun s =>
      if oks.any (fun x => s.pinBars x.1.w.core true (tail s x)) then s.hold e.b .retry
      else oks.foldl (fun s x =>
        let who := { e.issuer [x.1.t.tid] with cap := accessCap x.1 .g b 0 }
        let s := s.dropLines who x.1.w.core x.2
        let s := s.dropLines who x.1.w.core (tail s x)
        let (seq, s) := s.append (dieOf x.1.w.core) who (x.2.headD 0) ((x.2.drop 64).headD 0) (accessCap x.1 .g b 0)
        s.putD e.b.ctx uni x.1 dn (natWords 2 seq) (mkPend s (if uni then .s dn 2 else .v dn 2) 0)) s)))) s

/-- The enabled hardware queue whose chain a control block is (R313). -/
def State.queueOf (s : State) (ccb : Cap) : Option Nat :=
  if s.job.qtbl = 0 then none
  else (List.range 256).find? (fun q =>
    s.unitNum 0 (capAdd s.job.qtbl (32 * q)) 8 == some ccb.toNat &&
      (match s.unitNum 0 (capAdd s.job.qtbl (32 * q + 9)) 1 with | some b => b % 2 == 1 | none => false))

/-- A publication binds the chain to an engine of a die, at once or when the engine that runs one of its entries is done (R187). -/
def State.bindChain (s : State) (ccb : Cap) (die eng upto ctx core : Nat) (fill : Bool) : State :=
  let busy := s.dies.any (fun d => d.2.engines.any (fun g => match g.2.run with | some r => r.ccb == ccb | none => false))
  match s.chains.find? (fun x => x.ccb == ccb) with
  | none => { s with chains := s.chains ++ [{ ccb := ccb, die := die, eng := eng, pubs := [(upto, ctx, core)], fill := fill }] }
  | some _ =>
    { s with chains := s.chains.map (fun x =>
        if x.ccb = ccb then
          let x := { x with pubs := (if x.pubs.any (fun p => decide (upto < p.1)) then [] else x.pubs) ++ [(upto, ctx, core)] }
          if x.die = die ∧ x.eng = eng then { x with next := none }
          else if busy then { x with next := some (die, eng) } else { x with die := die, eng := eng, next := none }
        else x) }

/-- One publication on a chain control block at place `blk` (R186, R187). -/
def State.publish (s : State) (ccb : Cap) (blk v die ctx core : Nat) : State :=
  let pub := max (s.num (blk + 8 * 24) 8) v
  let s := s.putNum (blk + 8 * 24) 8 pub
  match s.queueOf ccb with
  | some q => s.modQueue q (fun x => { x with badPub := false })
  | none => s.bindChain ccb die (s.num (blk + 8 * 40) 1 % 8) pub ctx core false

/-- CHADV (R186, R190). -/
def execChadv (h : Head) (a b : Src) (s : State) : Out :=
  act (onBeat h (fun e s =>
    s.gate e false false (e.lanes.map (fun l => { l := l, r := s.ccbAccess e l a })) (fun oks s =>
      s.relGate e true .dev (fun s =>
        let r := oks.foldl (fun (r : State × List FLane) x =>
          let s := r.1.dropLines (e.issuer [x.1.t.tid]) x.1.w.core x.2
          let blk := x.2.headD 0
          let v := readSrc x.1 2 b
          if s.num (blk + 8 * 16) 8 < v then
            (s, r.2 ++ [{ tid := x.1.t.tid, cls := 0x14, cause := 7, addr := accessCap x.1 .g a 0
                          info := BitVec.ofNat 64 (s.num (blk + 8 * 48) 8) }])
          else (s.publish (accessCap x.1 .g a 0) blk v (dieOf x.1.w.core) e.b.ctx x.1.w.core, r.2)) (s, [])
        r.1.beatFault e.b false r.2)))) s

/-! ### Waiting on words (R192) -/

/-- The byte that a waiting thread watches: its own queued store, the run's shadow page, a dirty byte of its core or die, or the home; a peer's or a host's byte is the answer to its last request. -/
def State.watch (s : State) (c : Ctx) (l : Lane) (p : Nat) : Option Byte :=
  match queueByte l.w.stores (fun t => t == l.t.tid) p with
  | some b => some b
  | none =>
    match c.run.bind (fun k => s.shadowByte k p) with
    | some b => some b
    | none =>
      match cacheGet (s.core l.w.core).l1 p, cacheGet (s.die (dieOf l.w.core)).l2 p with
      | some (b, true), _ => some b
      | _, some (b, true) => some b
      | _, _ =>
        if isRemote p then c.fillByte [l.t.tid] p
        else some (if pTag p = 7 then s.tcoByte (pIdx p) else s.byte p)

/-- The word that a lane of TRYW watches, compared with its operand (R192); it cannot be read while another core pins its line (R279). -/
def State.trywMet (s : State) (c : Ctx) (x : Nat × List Nat × Nat) : Bool :=
  match (c.lanes [x.1]).head? with
  | none => false
  | some l =>
    let bs := x.2.1.map (s.watch c l)
    bs.all (fun b => b.isSome) && decide (x.2.2 ≤ bytesNat (held bs)) && !s.pinBars l.w.core true x.2.1

/-- Clean copies of watched bytes leave the caches, so that later loads read no older value (R276). -/
def State.refresh (s : State) (core : Nat) (ps : List Nat) : State :=
  (s.dropL1 core (fun p => ps.contains p)).dropL2 (dieOf core) (fun p => ps.contains p)

/-- Waiting threads that watch bytes of peers or the host ask for them again, once the last answer has not ended the wait (R192, R276). -/
def State.pollWaits (s : State) : State :=
  s.ctxs.foldl (fun s e => e.2.waits.foldl (fun s w =>
    match w.kind with
    | .tryw _ _ lanes =>
      if lanes.all (s.trywMet e.2) then s
      else (lanes.filter (fun x => x.2.1.any isRemote)).foldl (fun s x =>
        let mine := fun (o : OLoad) => o.isFill && o.tids.contains x.1
        match (e.2.lanes [x.1]).head? with
        | none => s
        | some l =>
          if e.2.loads.any (fun o => mine o && !o.arrived) then s
          else
            let b : Beat := { ctx := e.1, core := l.w.core, quarter := 0, pc := w.pc, tids := [x.1], words := w.words }
            (s.modCtx e.1 (fun c => c.dropFills [x.1])).askFill { b := b, c := e.2, lanes := [] } 3 false [(l, x.2.1)]) s
    | _ => s) s) s

/-- The end of a TRYW: Pd in each thread, and the acquire of a true result (R192). -/
def State.trywEnd (s : State) (ctx : Nat) (c : Ctx) (pd : Nat) (acq : Option Scope) (lanes : List (Nat × List Nat × Nat)) : State :=
  let res := lanes.map (fun x => (x.1, s.trywMet c x, x.2.1))
  let ls := c.lanes (lanes.map (fun x => x.1))
  let core := (ls.head?.map (fun l => l.w.core)).getD 0
  let s := s.refresh core (lanes.flatMap (fun x => x.2.1))
  let s := s.modCtx ctx (fun c => (c.dropFills (lanes.map (fun x => x.1))).modT (fun t => res.any (fun r => r.1 == t.tid))
    (fun t => { t with preds := setPred t.preds pd ((res.find? (fun r => r.1 == t.tid)).map (fun r => r.2.1) |>.getD false) }))
  match acq with
  | none => s
  | some sc => s.acquireIf (res.any (fun r => r.2.1)) c core sc

/-- The interval of a new wait on a core (R192, R223). -/
def State.waitUntil (s : State) (core : Nat) : Option Nat := some (s.cycle + (s.die (dieOf core)).waitiv)

/-- TRYW (R192). -/
def execTryw (h : Head) (sp : Space) (wide acq : Bool) (sc : Scope) (pd : BitVec 5) (a : Src) (ofs : BitVec 24) (b : Src)
    (s : State) : Out :=
  act (onBeat h (fun e s =>
    let n := if wide then 8 else 4
    let w : Want := { sp := sp, n := n, align := n, need := 1, lock := false }
    let accs := e.lanes.map (fun l => { l := l, r := s.access e l w a ofs.toInt : Acc })
    s.gate e false true accs (fun oks s =>
      let lanes := oks.map (fun x => (x.1.t.tid, x.2, readSrc x.1 (if wide then 2 else 1) b))
      let acq := if acq then some sc else none
      match lanes with
      | [] => s
      | _ =>
        if lanes.all (s.trywMet e.c) then s.trywEnd e.b.ctx e.c pd.toNat acq lanes
        else s.suspendAt e.b (lanes.map (fun x => x.1)) (.tryw pd.toNat acq lanes) (s.waitUntil e.b.core)))) s

/-- TRYW_CONDITION_MET (R192). -/
def execTrywConditionMet (ctx wid : Nat) (s : State) : Out :=
  act (fun s =>
    match sGet s.ctxs ctx with
    | none => s
    | some c =>
      match c.waitOf wid with
      | some { kind := .tryw pd acq lanes, .. } =>
        if lanes.all (s.trywMet c) then (s.trywEnd ctx c pd acq lanes).modCtx ctx (fun c => c.wake wid) else s
      | _ => s) s

/-! ### Shape registers (R56, R193) -/

/-- The bits that a FIELD of SETSH names: low bit and width (R52, R193). -/
def setshField (f : Nat) : Nat × Nat :=
  if f = 0 then (0, 8) else if f = 1 then (8, 3) else if f = 2 then (11, 2) else if f = 3 then (13, 2)
  else if f = 4 then (15, 3) else if f ≤ 9 then (32 + 32 * (f - 5), 32) else if f ≤ 13 then (192 + 40 * (f - 10), 40)
  else if f ≤ 18 then (352 + 16 * (f - 14), 16) else if f ≤ 21 then (432 + 8 * (f - 19), 8)
  else if f ≤ 24 then (456 + 8 * (f - 22), 8) else if f = 25 then (480, 16) else if f = 26 then (496, 16) else (0, 0)

/-- SETSH (R193). -/
def execSetsh (h : Head) (field : BitVec 5) (t : BitVec 4) (b : Src) (s : State) : Out :=
  act (onBeat h (fun e s =>
    let f := setshField field.toNat
    (wheelsOf e.lanes).foldl (fun s l => s.modCtx e.b.ctx (fun c =>
      c.twrite l.w.core t.toNat f.1 f.2 (readSrc l 2 b))) s)) s

/-- The 64-byte access of LDSH and STSH (R193). -/
def shWant (sp : Space) (write : Bool) : Want :=
  { sp := sp, n := 64, align := 16, need := if write then 2 else 1, write := write, lock := write }

/-- LDSH (R193). -/
def execLdsh (h : Head) (sp : Space) (t : BitVec 4) (a : BitVec 8) (ofs : BitVec 24) (s : State) : Out :=
  act (onBeat h (fun e s =>
    let accs := (e.actors true).map (fun l =>
      { l := l, r := s.pinCheck l.w.core false (s.access e l (shWant sp false) (.s a) ofs.toInt) : Acc })
    s.gate e true true accs (fun oks s => s.withBytes e h.pol.toNat oks (fun s => oks.foldl (fun s x =>
      let tids := (e.hit true x.1).map (fun l => l.t.tid)
      let s := (s.lookQueue e.b.ctx x.1.w.idx tids x.2).fillFor x.1.w.core h.pol.toNat x.2
      let v := bytesNat (held (s.loadBytes e.b.ctx x.1 tids x.2))
      s.modCtx e.b.ctx (fun c => c.twrite x.1.w.core t.toNat 0 512 v)) s)))) s

/-- STSH (R193). -/
def execStsh (h : Head) (sp : Space) (t : BitVec 4) (a : BitVec 8) (ofs : BitVec 24) (s : State) : Out :=
  act (onBeat h (fun e s =>
    let accs := (e.actors true).map (fun l => { l := l, r := s.access e l (shWant sp true) (.s a) ofs.toInt : Acc })
    s.gate e true false accs (fun oks s => s.ifRoom e (oks.flatMap (fun x => x.2)) (fun s =>
      s.enqueueAll e sp (fun l => (e.hit true l).map (fun x => x.t.tid)) 0 (fun l => accessCap l sp (.s a) ofs.toInt)
        (oks.map (fun x => (x.1, x.2.zip (natBytes 64 (e.c.tval x.1.w.core t.toNat).toNat)))))))) s

/-! ### Phase barriers (R194-R197) -/

/-- The fields of a barrier word: PENDING, EXPECTED, PHASE, GEN (R194). -/
structure PBar where
  pending : Nat
  expected : Nat
  phase : Nat
  gen : Nat
  deriving DecidableEq, Repr

/-- The fields of a word (R194). -/
def pbOf (w : Nat) : PBar :=
  { pending := natBits w 0 32, expected := natBits w 32 16, phase := natBits w 48 1, gen := natBits w 49 15 }

/-- The word of the fields (R194). -/
def pbWord (b : PBar) : Nat :=
  b.pending % 2 ^ 32 + b.expected % 2 ^ 16 * 2 ^ 32 + b.phase % 2 * 2 ^ 48 + b.gen % 2 ^ 15 * 2 ^ 49

/-- One arrival of `cnt` (R195, R196). -/
def PBar.arrive (b : PBar) (cnt : Nat) : PBar :=
  let p := b.pending - cnt
  if p = 0 then { b with phase := 1 - b.phase, pending := b.expected } else { b with pending := p }

/-- Every waiter of a barrier word has status 2 (R195, R197). -/
def Ctx.freeWaiters (c : Ctx) (p : Nat) : Ctx :=
  { c with waits := c.waits.map (fun w =>
      match w.kind with
      | .pbwait d pd acq lanes =>
        { w with kind := .pbwait d pd acq (lanes.map (fun x => if x.2.1 = p then (x.1, x.2.1, x.2.2.1, some 2) else x)) }
      | _ => w) }

/-- The access to a barrier word by a lane (R195). -/
def State.pbAccess (s : State) (e : Site) (l : Lane) (a : Src) : Res :=
  s.access e l { sp := .s, n := 8, align := 8, need := 1, write := true, atomic := true } a 0

/-- Barrier lanes in ascending home lane, each at the word as the lanes before it left it; `f` answers the new word, or the barrier fault's cause and count, and the state after. -/
def State.pbLanes (s : State) (e : Site) (a : Src) (rel : Bool) (sc : Scope)
    (f : Lane → Nat → PBar → State → Except (Nat × Nat) State) : State :=
  s.gate e false false (e.lanes.map (fun l => { l := l, r := s.pbAccess e l a })) (fun oks s =>
    s.relGate e rel sc (fun s => s.drainGate e true (fun s =>
      let r := oks.foldl (fun (r : State × List FLane) x =>
        let p := x.2.headD 0
        match f x.1 p (pbOf (r.1.num p 8)) r.1 with
        | .ok s => (s, r.2)
        | .error (cause, cnt) => (r.1, r.2 ++ [{ tid := x.1.t.tid, cls := 0x13, cause := cause
                                                 addr := BitVec.ofNat 64 (pIdx p % 2 ^ 32), info := BitVec.ofNat 64 cnt }])) (s, [])
      r.1.beatFault e.b false r.2)))

/-- PBINIT (R195). -/
def execPbinit (h : Head) (a b : Src) (s : State) : Out :=
  act (onBeat h (fun e s => s.pbLanes e a false .wheel (fun l p w s =>
    let cnt := readSrc l 1 b
    if cnt = 0 ∨ 65535 < cnt then .error (1, cnt)
    else .ok ((s.modCtx e.b.ctx (fun c => c.freeWaiters p)).putNum p 8
      (pbWord { pending := cnt, expected := cnt, phase := 0, gen := w.gen + 1 }))))) s

/-- PBINV (R195). -/
def execPbinv (h : Head) (a : Src) (s : State) : Out :=
  act (onBeat h (fun e s => s.pbLanes e a false .wheel (fun _ p w s =>
    .ok ((s.modCtx e.b.ctx (fun c => c.freeWaiters p)).putNum p 8
      (pbWord { w with pending := 0, expected := 0, gen := w.gen + 1 }))))) s

/-- PBARR (R195). -/
def execPbarr (h : Head) (rel : Bool) (sc : Scope) (d : BitVec 8) (a b : Src) (s : State) : Out :=
  act (onBeat h (fun e s => s.pbLanes e a rel sc (fun l p w s =>
    let cnt := readSrc l 1 b
    if w.expected = 0 ∨ cnt = 0 ∨ w.pending < cnt then .error (2, cnt)
    else
      .ok ((s.putNum p 8 (pbWord (w.arrive cnt))).putD e.b.ctx false l d.toNat
        [BitVec.ofNat 32 (w.gen * 2 + w.phase)] (mkPend s (.v d.toNat 1) 0))))) s

/-- The status of a lane of PBWAIT; `none` while it waits (R197). -/
def State.pbStatus (s : State) (x : Nat × Nat × Nat × Option Nat) : Option Nat :=
  match x.2.2.2 with
  | some k => some k
  | none =>
    let w := pbOf (s.num x.2.1 8)
    if w.gen ≠ natBits x.2.2.1 1 15 then some 2 else if w.phase ≠ x.2.2.1 % 2 then some 0 else none

/-- The end of a PBWAIT (R197): D and Pd in each thread, 1 where a lane still waits. -/
def State.pbwaitEnd (s : State) (ctx : Nat) (c : Ctx) (d pd : Nat) (acq : Option Scope)
    (lanes : List (Nat × Nat × Nat × Option Nat)) : State :=
  let res := lanes.map (fun x => (x.1, (s.pbStatus x).getD 1))
  let core := ((c.lanes (lanes.map (fun x => x.1))).head?.map (fun l => l.w.core)).getD 0
  let s := s.modCtx ctx (fun c => c.modT (fun t => res.any (fun r => r.1 == t.tid)) (fun t =>
    let k := ((res.find? (fun r => r.1 == t.tid)).map (fun r => r.2)).getD 1
    { (t.put d [BitVec.ofNat 32 k] []) with preds := setPred t.preds pd (k == 0) }))
  match acq with
  | none => s
  | some sc => s.acquireIf (res.any (fun r => r.2 == 0)) c core sc

/-- PBWAIT (R197). -/
def execPbwait (h : Head) (acq : Bool) (sc : Scope) (d : BitVec 8) (pd : BitVec 5) (a b : Src) (s : State) : Out :=
  act (onBeat h (fun e s =>
    let accs := e.lanes.map (fun l => { l := l, r := s.access e l { sp := .s, n := 8, align := 8, need := 1 } a 0 : Acc })
    s.gate e false true accs (fun oks s => s.drainGate e true (fun s =>
      let lanes := oks.map (fun x => (x.1.t.tid, x.2.headD 0, readSrc x.1 1 b, (none : Option Nat)))
      let acq := if acq then some sc else none
      match lanes with
      | [] => s
      | _ =>
        if lanes.all (fun x => (s.pbStatus x).isSome) then s.pbwaitEnd e.b.ctx e.c d.toNat pd.toNat acq lanes
        else s.suspend e.b.ctx (lanes.map (fun x => x.1)) (.pbwait d.toNat pd.toNat acq lanes) (s.waitUntil e.b.core))))) s

/-- PBWAIT_RELEASE (R197). -/
def execPbwaitRelease (ctx wid : Nat) (s : State) : Out :=
  act (fun s =>
    match sGet s.ctxs ctx with
    | none => s
    | some c =>
      match c.waitOf wid with
      | some { kind := .pbwait d pd acq lanes, .. } =>
        if lanes.all (fun x => (s.pbStatus x).isSome) then (s.pbwaitEnd ctx c d pd acq lanes).modCtx ctx (fun c => c.wake wid)
        else s
      | _ => s) s

/-! ### Replies (R85, R371, R374, R390) -/

/-- The leaf entry of a page that a die's port holds, as INFO of a translation fault (R392). -/
def State.leafInfo (s : State) (die : Nat) (c : Cap) : BitVec 64 :=
  (((s.die die).leaf (capObj c) (capOfs c / 65536)).map (fun e => e.word)).getD 0

/-- A refusal parks the threads of the loads that a request served, at their instruction; the port drops its entry of the page (R371, R374). -/
def State.refuseLoads (s : State) (ctx : Nat) (os : List OLoad) (cls cause : Nat) (info : OLoad → BitVec 64) : State :=
  let s := s.modCtx ctx (fun c => os.foldl (fun c o => c.dropLoad o) c)
  ((os.map (fun o => (o.pc, o.words))).dedup).foldl (fun s k =>
    let mine := os.filter (fun o => (o.pc, o.words) == k)
    s.faultLanes ctx k.1 k.2 (mine.any (fun o => o.uni)) (mine.flatMap (fun o => o.tids.map (fun t =>
      { tid := t, cls := cls, cause := cause, addr := o.cap, info := info o })))) s

/-- The bytes of a reply as the load reads them: those that the core held at its issue first. -/
def OLoad.bytes (o : OLoad) (data : List Byte) : List Byte :=
  if o.known.isEmpty then data
  else (o.places.zip o.known).map (fun x => match x.2 with
    | some b => b
    | none => (sGet (o.asked.zip data) x.1).getD 0)

/-- The copies of a die and a core take the bytes of a reply (R267, R374); a reply that may be older than what another access has read, that of an atomic, and one that allocates no line leave no clean copy of those bytes (R276). -/
def State.fillReply (s : State) (core : Nat) (o : OLoad) (data : List Byte) : State :=
  let die := dieOf core
  let cells := o.asked.zip data
  let on := fun p => o.asked.contains p
  if cells.isEmpty then s
  else if s.late.contains o.ltag || o.atom || o.fill == 0 then ((s.dropL1 core on).dropL2 die on).stale on
  else
    let s := s.stale on
    let s := cells.foldl (fun s c => if cacheRoom (s.die die).l2 l2Lines (lineOf c.1) then s.modDie die (fun x => { x with l2 := cacheMerge x.l2 [c] }) else s) s
    if o.fill = 2 then
      cells.foldl (fun s c => if cacheRoom (s.core core).l1 l1Lines (lineOf c.1) then s.modCore core (fun x => { x with l1 := cacheMerge x.l1 [c] }) else s) s
    else s

/-- A request is no longer outstanding. -/
def State.forget (s : State) (tag : Nat) : State := { s with late := s.late.filter (fun t => t != tag) }

/-- The reply of a request lands in the loads that it serves, of a placed context: registers are written, a fill keeps its bytes for the beat that waits, a prefetch is over. -/
def State.landReply (s : State) (ctx : Nat) (c : Ctx) (os : List OLoad) (data : List Byte) : State :=
  match os with
  | [] => s
  | o :: _ =>
    let core := (((c.lanes o.tids).head?.map (fun l => l.w.core)).getD (((c.wheel o.wheel).map (fun w => w.core)).getD 0))
    let s := (s.fillReply core o data).forget o.ltag
    if o.pref then s.modCtx ctx (fun c => { c with loads := c.loads.filter (fun x => x.ltag != o.ltag) })
    else if o.isFill then
      s.modCtx ctx (fun c => { c with loads := c.loads.map (fun x => if x.ltag = o.ltag then { x with arrived := true, data := data } else x) })
    else
      let s := s.modCtx ctx (fun c => os.foldl (fun c o => c.landLoad o (extendBytes o.nreg o.signed (o.bytes data))) c)
      match o.acq with
      | none => s
      | some sc => s.acquireIf true c core sc

/-- A refused fill: the beat that waits for it issues again and takes the fault; a wait that watches the bytes ends, and its instruction issues again. -/
def State.refuseFill (s : State) (ctx : Nat) (o : OLoad) : State :=
  s.modCtx ctx (fun c =>
    let c : Ctx := { c with loads := c.loads.map (fun x => if x.ltag = o.ltag then { x with refused := true } else x) }
    match c.waits.find? (fun w => (match w.kind with | .tryw _ _ _ => true | _ => false) && w.tids.any (fun t => o.tids.contains t)) with
    | none => c
    | some w => (c.modT (fun t => t.st == .suspended w.wid) (fun t => { t with pc := w.pc })).wake w.wid)

/-- An answer to a request of an engine. -/
def State.engReply (s : State) (tag : Nat) (refused : Bool) (data : List Byte) : State :=
  { s with engReqs := s.engReqs.map (fun r =>
      if r.tag = tag ∧ !r.got ∧ !r.refused then (if refused then { r with refused := true } else { r with got := true, data := data }) else r) }

/-- A write or reduction that left the device is acknowledged, or refused: its issuer takes the translation fault, a saved one at its restore; a write-back without an issuer leaves a closed record (R371, R374, R391). -/
def State.ackPosted (s : State) (tag : Nat) (refused : Bool) : State :=
  let back := (s.dies.filter (fun d => d.2.evAcks.contains tag)).map (fun d => (d.1, (sGet d.2.evCaps tag).getD 0))
  let s : State := if back.isEmpty then s
    else { s with dies := s.dies.map (fun d => (d.1, { d.2 with evAcks := d.2.evAcks.filter (fun t => t != tag), evCaps := sDel d.2.evCaps tag })) }
  let s := if refused then back.foldl (fun s d =>
      (s.closedRec d.1 { cls := 0x0B, cause := 4, die := d.1, addr := d.2, info := s.leafInfo d.1 d.2 }).dropLeaf d.1 (capObj d.2) (capOfs d.2 / 65536)) s
    else s
  match (s.ctxs ++ s.saved).findSome? (fun e => (sGet e.2.posted tag).map (fun w => (e.1, e.2, w))) with
  | none => s
  | some (k, c, w) =>
    let s := s.modAny k (fun c => { c with posted := sDel c.posted tag, remotes := c.remotes.filter (fun r => r.2 != tag) })
    if !refused then (if w.counts then s.countServed c.die w.cap else s)
    else
      let live := w.tids.filter (fun i => (c.thread i).any (fun t => t.live && t.st != TState.parked))
      if (sGet s.ctxs k).isSome then
        let s := s.faultLanes k w.pc w.words false (live.map (fun t =>
          { tid := t, cls := 0x0B, cause := 4, addr := w.cap, info := s.leafInfo c.die w.cap }))
        s.dropLeaf c.die (capObj w.cap) (capOfs w.cap / 65536)
      else s.modAny k (fun c => { c with loads := c.loads ++ [{
        ltag := tag, tids := live, wheel := 0, dreg := 255, nreg := 1, pc := w.pc, words := w.words, cap := w.cap, refused := true }] })

/-- A reply for a tag of a context: its loads land or are refused, saved loads keep the data (R390), or an acknowledgement has arrived. -/
def State.reply (s : State) (ctx ltag : Nat) (refused : Bool) (data : List Byte) (cls cause : Nat) : State :=
  let s := (s.engReply ltag refused data).ackPosted ltag refused
  let mine := fun (o : OLoad) => o.ltag == ltag && o.cpy.isEmpty && !o.arrived && !o.refused && !o.pinned
  match sGet s.ctxs ctx with
  | some c =>
    match c.loads.filter mine with
    | [] => s.modCtx ctx (fun c => { c with remotes := c.remotes.filter (fun r => r.2 != ltag) })
    | o :: os =>
      let die := dieOf (((c.lanes o.tids).head?.map (fun l => l.w.core)).getD 0)
      if !refused then (if (o :: os).any (fun o => o.counts) && c.run.isNone then s.countServed die o.cap else s).landReply ctx c (o :: os) data
      else
        let s := s.forget ltag
        if o.pref then s.modCtx ctx (fun c => { c with loads := c.loads.filter (fun x => x.ltag != ltag) })
        else if o.isFill then s.refuseFill ctx o
        else
          let s := s.refuseLoads ctx (o :: os) cls cause (fun o => s.leafInfo die o.cap)
          (o :: os).foldl (fun s o => s.dropLeaf die (capObj o.cap) (capOfs o.cap / 65536)) s
  | none =>
    let s := match s.anyCtx ctx with
      | some c => if refused then s else ((c.loads.filter (fun o => mine o && o.counts)).take 1).foldl (fun (s : State) (o : OLoad) => s.countServed c.die o.cap) s
      | none => s
    (s.forget ltag).modAny ctx (fun c =>
      { c with
        loads := c.loads.map (fun o => if mine o then (if refused then { o with refused := true } else { o with arrived := true, data := data }) else o)
        remotes := c.remotes.filter (fun r => r.2 != ltag) })

/-- MEMORY_REPLY (R85, R254, R390): a refusal by the peer or the host is the translation fault, cause 4 (R371). -/
def execMemoryReply (ctx ltag : Nat) (refused : Bool) (data : List Byte) (s : State) : Out :=
  act (fun s => s.reply ctx ltag refused data 0x0B 4) s

/-- A load that a pin refused is performed once no pin bars it (R249, R279). -/
def State.serveLoad (s : State) (ctx : Nat) (c : Ctx) (o : OLoad) : State :=
  match (c.lanes o.tids).head? with
  | none => s
  | some l =>
    if s.pinBars l.w.core false o.places then s
    else
      let s := s.fillFor l.w.core o.pol o.places
      let bs := s.loadBytes ctx l o.tids o.places
      if bs.all (fun b => b.isSome) then
        let s := s.modCtx ctx (fun c => c.landLoad o (extendBytes o.nreg o.signed (held bs)))
        match o.acq with
        | none => s
        | some sc => s.acquireIf true c l.w.core sc
      else
        let asked := spanOf o.places
        (s.askRead o.ltag asked).modCtx ctx (fun c => { c with loads := c.loads.map (fun x =>
          if x.ltag = o.ltag then { x with pinned := false, asked := asked, known := bs } else x) })

/-- Every refused load is tried again. -/
def State.serveLoads (s : State) : State :=
  s.ctxs.foldl (fun s e => (e.2.loads.filter (fun o => o.pinned)).foldl (fun s o => s.serveLoad e.1 e.2 o) s) s

/-! ### Holds (R176, R243, R278) -/

/-- What a hold waits for has come about. -/
def State.holdOver (s : State) (c : Ctx) (k : WaitKind) : Bool :=
  match k with
  | .presence keys => keys.all (fun x =>
      if x % 2 = 0 then c.absent.all (fun e => e.1 != x / 2) else (s.die c.die).scrAbsent.all (fun e => e.1 != x / 2))
  | .retry => true
  | .acks _ tags host =>
    tags.all (fun t => c.remotes.all (fun r => r.2 != t) && c.loads.all (fun o => o.ltag != t || o.refused || o.arrived || o.moved)
        && s.dies.all (fun d => !d.2.evAcks.contains t) && (s.ctxs ++ s.saved).all (fun e => (sGet e.2.posted t).isNone))
      && host.all (fun t => s.hostReqs.all (fun q => q.tag != t))
  | _ => false

/-- PRESENCE_HOLD_RELEASE (R176): the beat may issue again. -/
def execPresenceHoldRelease (ctx wid : Nat) (s : State) : Out :=
  act (fun s =>
    match sGet s.ctxs ctx with
    | none => s
    | some c =>
      match c.waitOf wid with
      | some w => if s.holdOver c w.kind then s.setCtx ctx (c.wake wid) else s
      | none => s) s

/-! ### Queues and caches (R266, R267, R270) -/

/-- STORE_QUEUE_DRAIN (R270): the oldest store of a wheel enters the core order. -/
def execStoreQueueDrain (ctx wheel : Nat) (s : State) : Out := act (fun s => s.drainOne ctx wheel) s

/-- CACHE_EVICTION (R266, R267, R269): a line leaves L1, or a non-home copy leaves L2, its dirty bytes written back first. -/
def execCacheEviction (at_ : CacheAt) (line : Nat) (s : State) : Out :=
  act (fun s =>
    match at_ with
    | .l1 core => (s.flushLine core line).dropL1 core (fun p => lineOf p == line)
    | .l2 die =>
      let s := s.flushL2 none (40 * die) die (fun p => lineOf p == line)
      s.dropL2 die (fun p => lineOf p == line)) s

end Sys2Proof.Machine
end

