-- ==== Sys2Proof/Machine/Queue.lean ====
section
/-! DEFINITION. What the units beside the cores share: their reads and writes of memory, and the hardware queues: descriptors, states, the command unit's choice, completion (R313-R321, R445). -/

namespace Sys2Proof.Machine

/-! ### Memory of the units -/

/-- The last answer of a peer or the host that holds a byte (R374, R424). -/
def State.farByte (s : State) (p : Nat) : Option Byte :=
  ((s.engReqs.filter (fun r => r.got && r.host.isNone)).reverse).findSome? (fun r => sGet (r.places.zip r.data) p)

/-- The byte that a unit of a die reads: a dirty byte of the die's L2, or the home's; of a peer or the host, the last answer. -/
def State.unitByte (s : State) (die p : Nat) : Byte :=
  if pTag p = 7 then s.tcoByte (pIdx p)
  else if isRemote p && (s.farByte p).isSome then (s.farByte p).getD 0
  else match cacheGet (s.die die).l2 p with
    | some (b, true) => b
    | some (b, false) => if pTag p = 5 || pTag p = 6 then b else s.byte p
    | none => s.byte p

/-- A unit of a die writes bytes of this device at their homes, together; the die's copies of them go. -/
def State.unitPuts (s : State) (die : Nat) (cells : List (Nat × Byte)) : State :=
  let own := cells.filter (fun c => pTag c.1 != 7)
  let s := (cells.filter (fun c => pTag c.1 == 7)).foldl (fun s c => s.tcoPut (pIdx c.1) c.2) s
  if own.isEmpty then s
  else (s.homeWrites own).modDie die (fun x => { x with l2 := x.l2.filter (fun e => !own.any (fun c => c.1 == e.1)) })

/-- Cells written by a unit of a die, each at its home; the tags of the writes that left the device. -/
def State.unitCells (s : State) (die : Nat) (cells : List (Nat × Byte)) : List Nat × State :=
  let s := s.unitPuts die (cells.filter (fun c => !isRemote c.1))
  (runsOf (cells.filter (fun c => isRemote c.1))).foldl (fun (a : List Nat × State) r =>
    let x := a.2.sendRun r.1 r.2
    (a.1 ++ [x.1], x.2)) ([], s)

/-- The places that a unit of a die reads, or the class and cause of its fault; uncorrectable data faults too (R440). -/
def State.unitSrc (s : State) (d : Nat) (c : Cap) (n : Nat) : Except (Nat × Nat) (List Nat) :=
  match s.unitRange d c n 1 false false with
  | .error k => .error k
  | .ok ps => if ps.any (fun p => s.poison.contains (wordOf p)) then .error (0x0A, 0) else .ok ps

/-- Bytes that a unit of a die reads at a capability; none when the access fails or lies outside the device. -/
def State.unitRead (s : State) (d : Nat) (c : Cap) (n : Nat) : Option (List Byte) :=
  match s.unitSrc d c n with
  | .error _ => none
  | .ok ps => if ps.any isRemote then none else some (ps.map (s.unitByte d))

/-- A number that a unit reads. -/
def State.unitGet (s : State) (d : Nat) (c : Cap) (n : Nat) : Option Nat := (s.unitRead d c n).map bytesNat

/-- Bytes written by a unit of a die at a capability; nothing when the access fails. -/
def State.unitWrite (s : State) (d : Nat) (c : Cap) (bs : List Byte) : State :=
  match s.unitRange d c bs.length 2 true false with
  | .error _ => s
  | .ok ps => (s.unitCells d (ps.zip bs)).2

/-- A number written by a unit of a die at a capability. -/
def State.unitSet (s : State) (d : Nat) (c : Cap) (n v : Nat) : State := s.unitWrite d c (natBytes n v)

/-- The release at system scope of a unit: every dirty byte of the dies' copies goes to its home, unless a pin refuses it (R278, R279, R320). -/
def State.releaseAll (s : State) : State :=
  (List.range 4).foldl (fun s d => s.flushL2 none 160 d (fun _ => true)) s

/-- The release of a unit at a scope is over: no dirty copy is left that it reaches, and peers, or peers and the host, have acknowledged the write-backs (R278, R279). -/
def State.allReleased (s : State) (toSys : Bool) : Bool :=
  let toHost := fun t => s.hostReqs.any (fun q => q.tag == t)
  s.dies.all (fun d => d.2.l2.all (fun e => !e.2.2 || pTag e.1 == 1 || (!toSys && pTag e.1 == 6))
    && d.2.evAcks.all (fun t => !toSys && toHost t))

/-- A contribution or request of some blocks is not acknowledged by every destination (R234, R278). -/
def State.owesGrid (s : State) (f : Contrib → Bool) : Bool := s.dies.any (fun d => d.2.grid.contribs.any f)

/-- A command's grid operations, those of its launch's or its generation's blocks, are not all acknowledged (R278, R320). -/
def State.cmdOwes (s : State) (p : Pending) : Bool :=
  p.launch.any (fun n => s.owesGrid (fun c => c.launch == n && c.graph.isNone)) || p.inst.any (fun i => s.owesGrid (fun c => c.graph == some i))

/-- Some line of a range that a unit of a die reads is pinned: the unit is refused and tries again (R279). -/
def State.unitPinned (s : State) (d : Nat) (c : Cap) (n : Nat) : Bool :=
  s.cores.any (fun e => !e.2.pins.isEmpty) && (match s.unitRange d c n 1 false false with
    | .error _ => false
    | .ok ps => ps.any s.pinnedAny)

/-- What a unit of a die reads: bytes, the runs of peer or host bytes that it must ask for or waits for, or nothing when the access fails. -/
inductive Far where
  | here (bs : List Byte)
  | lacking (runs : List (List Nat))
  | failed
  deriving DecidableEq, Repr

/-- A unit's read that may reach a peer or the host: answers to its requests supply those bytes (R374, R446). -/
def State.farRead (s : State) (d : Nat) (c : Cap) (n : Nat) : Far :=
  match s.unitRange d c n 1 false false with
  | .error _ => .failed
  | .ok ps =>
    let runs := (runsOf ((ps.filter isRemote).map (fun p => (p, 0)))).map (fun r => run r.1 r.2.length)
    let mine := s.engReqs.filter (fun r => r.host.isNone && !r.poll && runs.contains r.places)
    if mine.any (fun r => r.refused) then .failed
    else if runs.all (fun r => mine.any (fun q => q.places == r && q.got)) then
      .here (ps.map (fun p => if isRemote p then (mine.findSome? (fun q => sGet (q.places.zip q.data) p)).getD 0 else s.unitByte d p))
    else .lacking runs

/-- The requests of a unit's read that are not yet out are sent. -/
def State.askFar (s : State) (runs : List (List Nat)) : State :=
  runs.foldl (fun s ps =>
    if s.engReqs.any (fun r => r.host.isNone && !r.poll && r.places == ps) then s
    else
      let (tag, s) := s.newTag
      { s.askRead tag ps with engReqs := s.engReqs ++ [{ tag := tag, places := ps }] }) s

/-- The answers that a unit's read used are forgotten. -/
def State.dropFar (s : State) (d : Nat) (c : Cap) (n : Nat) : State :=
  match s.unitRange d c n 1 false false with
  | .error _ => s
  | .ok ps =>
    let runs := (runsOf ((ps.filter isRemote).map (fun p => (p, 0)))).map (fun r => run r.1 r.2.length)
    if runs.isEmpty then s else { s with engReqs := s.engReqs.filter (fun r => !(r.host.isNone && !r.poll && runs.contains r.places)) }

/-- The bytes of such a read once they are there. -/
def State.farBytes (s : State) (d : Nat) (c : Cap) (n : Nat) : Option (List Byte) :=
  match s.farRead d c n with
  | .here bs => some bs
  | _ => none

/-- Such a read waits for answers. -/
def State.farWaits (s : State) (d : Nat) (c : Cap) (n : Nat) : Bool :=
  match s.farRead d c n with
  | .lacking _ => true
  | _ => false

/-- What such a read lacks is requested. -/
def State.askFor (s : State) (d : Nat) (c : Cap) (n : Nat) : State :=
  match s.farRead d c n with
  | .lacking runs => s.askFar runs
  | _ => s

/-- A field of an entry or record. -/
def fld (e : List Byte) (lo n : Nat) : Nat := bytesNat ((e.drop lo).take n)

/-- A capability field. -/
def fldCap (e : List Byte) (lo : Nat) : Cap := BitVec.ofNat 64 (fld e lo 8)

/-! ### Descriptors and control blocks (R184, R313) -/

/-- A queue descriptor: chain, priority, EN, HOST, and whether its reserved fields are 0. -/
structure QDesc where
  chain : Cap
  prio : Nat
  en : Bool
  host : Bool
  clean : Bool
  deriving DecidableEq, Repr

/-- The capability of a queue's descriptor (R313). -/
def State.qdescCap (s : State) (q : Nat) : Cap := capAdd s.job.qtbl (32 * q)

/-- The descriptor of a queue. -/
def State.qdesc (s : State) (q : Nat) : Option QDesc :=
  if s.job.qtbl = 0 then none
  else (s.unitRead 0 (s.qdescCap q) 32).map (fun e =>
    { chain := fldCap e 0, prio := fld e 8 1 % 8, en := fld e 9 1 % 2 == 1, host := fld e 9 1 / 2 % 2 == 1
      clean := decide (fld e 8 1 < 8) && decide (fld e 9 1 < 4) && fld e 11 5 == 0 && fld e 24 8 == 0 })

/-- The place of a chain control block that passes its checks (R63, R184). -/
def State.ccbAt (s : State) (d : Nat) (c : Cap) : Option Nat :=
  if capOfs c % 64 ≠ 0 then none
  else match s.unitPlace d c 64 3 true false with
    | .error _ => none
    | .ok p => some p

/-- The command unit's looks at a control block behind an aperture (R313). -/
def State.polls (s : State) (blk : Nat) : List EngReq := s.engReqs.filter (fun r => r.poll && r.places == run blk 64)

/-- The place of a chain control block, when a unit of a die reaches it: one behind an aperture once a look at it has been answered. -/
def State.ccbPlace (s : State) (d : Nat) (c : Cap) : Option Nat :=
  match s.ccbAt d c with
  | none => none
  | some p => if isRemote p && !(s.polls p).any (fun r => r.got) then none else some p

/-- A field of a chain control block at a place. -/
def State.ccb (s : State) (die blk lo n : Nat) : Nat := bytesNat ((run (blk + 8 * lo) n).map (s.unitByte die))

/-- A field of a chain control block written; an answered look shows it, and one on its way is made again. -/
def State.setCcb (s : State) (die blk lo n v : Nat) : State :=
  let cells := (run (blk + 8 * lo) n).zip (natBytes n v)
  if !isRemote blk then s.unitPuts die cells
  else
    let s := (s.unitCells die cells).2
    let mine := fun (r : EngReq) => r.poll && r.places == run blk 64
    { s with engReqs := (s.engReqs.filter (fun r => !mine r || r.got)).map (fun r =>
        if mine r then { r with data := (r.places.zip r.data).map (fun x => (sGet cells x.1).getD x.2) } else r) }

/-- The reserved fields of a control block are 0 (R184). -/
def State.ccbClean (s : State) (die blk : Nat) : Bool :=
  decide (s.ccb die blk 40 1 < 8) && s.ccb die blk 42 6 == 0 && s.ccb die blk 56 8 == 0

/-- The capability of the command after the last one taken (R184). -/
def State.nextEntry (s : State) (x : Queue) (blk : Nat) : Cap :=
  BitVec.ofNat 64 (if x.taken = 0 then s.ccb 0 blk 0 8 else ((s.farBytes 0 (capAdd x.last 56) 8).map bytesNat).getD 0)

/-- The next command of a queue: its sequence, capability and bytes; no bytes when they cannot be read. -/
structure Cmd where
  q : Nat
  ccb : Cap
  blk : Nat
  prio : Nat
  seq : Nat
  entry : Cap
  e : List Byte
  deriving DecidableEq, Repr

/-- OP of a command. -/
def Cmd.op (c : Cmd) : Nat := fld c.e 0 1
/-- FLAGS bit of a command. -/
def Cmd.flag (c : Cmd) (k : Nat) : Bool := natBits (fld c.e 2 2) k 1 == 1

/-- The command of a queue after the last one taken, when it is published (R314, R321). -/
def State.qNext (s : State) (q : Nat) : Option Cmd :=
  match s.qdesc q with
  | none => none
  | some d =>
    match s.ccbPlace 0 d.chain with
    | none => none
    | some blk =>
      let x := s.queue q
      if s.ccb 0 blk 24 8 ≤ x.taken || s.unitPinned 0 (s.qdescCap q) 32 || s.unitPinned 0 d.chain 64 || (x.taken != 0 && s.unitPinned 0 x.last 128) then none
      else if x.taken != 0 && s.farWaits 0 (capAdd x.last 56) 8 then none
      else
        let entry := s.nextEntry x blk
        let e := if capOfs entry % 128 = 0 then (s.farBytes 0 entry 128).getD [] else []
        if s.unitPinned 0 entry 128 || s.farWaits 0 entry 128 then none
        else some { q := q, ccb := d.chain, blk := blk, prio := d.prio, seq := x.taken + 1, entry := entry, e := e }

/-- What the command unit needs of a queue's chain behind apertures is requested: its control block again and again while the queue is enabled, and the next command (R313, R314). -/
def State.pollQueue (s : State) (q : Nat) : State :=
  match s.qdesc q with
  | none => s
  | some d =>
    match s.ccbAt 0 d.chain with
    | none => s
    | some blk =>
      let s := if !d.en || !isRemote blk || (s.polls blk).any (fun r => !r.got && !r.refused) then s
        else
          let (tag, s) := s.newTag
          let mine := fun (r : EngReq) => r.poll && r.places == run blk 64
          let kept := (s.polls blk).getLast?.toList.filter (fun r => r.got)
          { s.askRead tag (run blk 64) with
            engReqs := s.engReqs.filter (fun r => !mine r) ++ kept ++ [{ tag := tag, places := run blk 64, poll := true }] }
      let x := s.queue q
      if !d.en || (s.ccbPlace 0 d.chain).isNone || s.ccb 0 blk 24 8 ≤ x.taken then s
      else
        let s := if x.taken = 0 then s else s.askFor 0 (capAdd x.last 56) 8
        if x.taken != 0 && s.farWaits 0 (capAdd x.last 56) 8 then s else if capOfs (s.nextEntry x blk) % 128 = 0 then s.askFor 0 (s.nextEntry x blk) 128 else s

/-! ### Holds and choice (R317, R319, R321) -/

/-- A launch has blocks, or a graph run start tasks, that are not placed (R317). -/
def State.unplaced (s : State) (p : Pending) : Bool :=
  (match p.launch with
    | none => false
    | some n => s.launches.any (fun l => l.no == n && !l.cancelled && decide (l.next < l.cmd.blocks)))
  || (match p.inst with
    | none => false
    | some (i, g) => s.graphs.any (fun x => x.inst == i && x.gen == g && !x.waiting.isEmpty) || s.dies.any (fun d => d.2.tasks.any (fun t =>
        t.start && t.gen == g && capObj t.succ == capObj i && capOfs t.succ / 8192 * 8192 == capOfs i)))

/-- A graph instance is live already, or may become so: at most 256 are (R319). -/
def State.instRoom (s : State) (i : Cap) : Bool :=
  s.graphs.any (fun g => g.inst == i) || decide (((s.graphs.map (fun g => g.inst)).dedup).length < 256)

/-- The STATE that holds a queue; a claim in its check counts as blocks not yet placed (R362): 5, 4, 3, or 0 for none (R313, R317, R319). -/
def State.qHold (s : State) (q : Nat) (next : Option Cmd) : Nat :=
  let open_ := (s.queue q).pend.filter (fun p => !p.done)
  let ended := (s.queue q).ended
  let claims := (s.slots.filter (fun x => decide (x.2.state = .claiming))).length
  if open_.any (fun p => s.unplaced p) || s.slots.any (fun x => x.2.queue == q && decide (x.2.state = .claiming)) then 5
  else if (match next with
    | none => false
    | some c => !ended && ((c.op == 0x20 && decide (1024 ≤ s.launches.length + claims)) || (c.op == 0x21 && !s.instRoom (fldCap c.e 8))))
  then 5
  else if open_.any (fun p => p.op == 0x22) then 4
  else match next with
    | none => 0
    | some c => if (c.flag 0 || c.op == 0x23) && !open_.isEmpty then 3 else 0

/-- An enabled queue's descriptor or control block is faulty: a reserved field, a CHAIN that fails R63, a PUBSEQ above APPSEQ (R184, R313, R314). (DEDUCED, log 99: a reserved field of the control block counts as a faulty descriptor.) -/
def State.qBad (s : State) (d : QDesc) : Bool :=
  !d.clean || (s.ccbAt 0 d.chain).isNone || (match s.ccbPlace 0 d.chain with
    | none => false
    | some blk => !s.ccbClean 0 blk || decide (s.ccb 0 blk 16 8 < s.ccb 0 blk 24 8))

/-- A queue is faulted: a chain fault or a PUBSEQ above APPSEQ, or, enabled, a faulty descriptor (R313, R314, R445). -/
def State.qFaulty (s : State) (q : Nat) (d : QDesc) : Bool :=
  (s.queue q).faulted || (s.queue q).badPub || (d.en && s.qBad d)

/-- STATE of a queue (R313). -/
def State.qState (s : State) (q : Nat) : Nat :=
  match s.qdesc q with
  | none => 0
  | some d =>
    if s.qFaulty q d then 6
    else if !d.en then 0
    else
      let n := s.qNext q
      let h := s.qHold q n
      if h ≠ 0 then h else if n.isSome then 2 else 1

/-- The job runs and its device is not being handed over (R429, R442). -/
def State.serving (s : State) : Bool := decide (s.job.state = .run) && decide (s.mgmt.evctl.state ∈ [.run, .evictReq])

/-- The queue that the command unit serves next: the highest priority, then the first after that priority's last winner (R321). -/
def State.chooseQueue (s : State) : Option Nat :=
  if s.job.qtbl = 0 ∨ !s.serving ∨ s.tookAt = some s.cycle then none
  else
    let ready := ((List.range 256).filter (fun q => s.qState q == 2)).map (fun q => (q, ((s.qdesc q).map (fun d => d.prio)).getD 0))
    let top := ready.foldl (fun a x => max a x.2) 0
    let qs := (ready.filter (fun x => x.2 == top)).map (fun x => x.1)
    match sGet s.prioPtr top with
    | none => qs.head?
    | some k => match qs.find? (fun q => decide (k < q)) with
      | some q => some q
      | none => qs.head?

/-- The command that the command unit takes next (R321). -/
def State.nextCmd (s : State) : Option Cmd := s.chooseQueue.bind s.qNext

/-- The command of a queue, if it is the one taken next and its OP is the given one. -/
def State.myCmd (s : State) (q op : Nat) : Option Cmd :=
  match s.nextCmd with
  | some c => if c.q = q ∧ c.op = op then some c else none
  | none => none

/-! ### Taking and completing (R317, R320) -/

/-- The place of the EN byte of a queue's descriptor. -/
def State.enPlace (s : State) (q : Nat) : Option Nat :=
  match s.unitRange 0 (capAdd (s.qdescCap q) 9) 1 1 false false with
  | .ok [p] => some p
  | _ => none

/-- STATE and TAKENSEQ of a queue as its descriptor shows them (R313). -/
def State.showQueue (s : State) (q : Nat) : State :=
  let s := if (s.queue q).hist.isEmpty || (s.queue q).enAt == s.enPlace q then s else s.modQueue q (fun x => { x with enAt := s.enPlace q })
  let s := if s.unitGet 0 (capAdd (s.qdescCap q) 16) 8 = some (s.queue q).taken then s
    else s.unitSet 0 (capAdd (s.qdescCap q) 16) 8 (s.queue q).taken
  let v := s.qState q
  if s.unitGet 0 (capAdd (s.qdescCap q) 10) 1 = some v then s else s.unitSet 0 (capAdd (s.qdescCap q) 10) 1 v

/-- Every descriptor shows its queue's STATE and TAKENSEQ at the end of a cycle, whatever has changed them or was written over them (R313, R319). (DESIGN CHOICE, log 61.) -/
def State.showQueues (s : State) : State :=
  if s.job.qtbl = 0 ∨ s.job.state ≠ .run then s else (List.range 256).foldl (fun s q => retryPins (fun s => s.showQueue q) s) s

/-- STATE of a queue's control block, from what the queue has taken and completed (R184). -/
def State.chainState (s : State) (q : Nat) : State :=
  match (s.qdesc q).bind (fun d => s.ccbPlace 0 d.chain) with
  | none => s
  | some blk =>
    let x := s.queue q
    let v := if x.faulted then 3 else if x.ended then 2 else if s.ccb 0 blk 24 8 ≤ s.ccb 0 blk 32 8 then 0 else 1
    if s.ccb 0 blk 41 1 = v then s else s.setCcb 0 blk 41 1 v

/-- A command is taken: it is the queue's last, and it is open until it completes. -/
def State.takeCmd (s : State) (c : Cmd) : State :=
  let s := (s.dropFar 0 (capAdd (s.queue c.q).last 56) 8).dropFar 0 c.entry 128
  let s := s.modQueue c.q (fun x => { x with
    taken := c.seq, prev := x.last, last := c.entry, lastTake := s.cycle
    pend := x.pend ++ [{ seq := c.seq, entry := c.entry, op := c.op, crec := if c.flag 1 then some (fldCap c.e 72) else none }] })
  { s.chainState c.q with prioPtr := sPut s.prioPtr c.prio c.q, tookAt := some s.cycle }

/-- A change to an open command. -/
def State.modPend (s : State) (q seq : Nat) (f : Pending → Pending) : State :=
  s.modQueue q (fun x => { x with pend := x.pend.map (fun p => if p.seq = seq then f p else p) })

/-- STATUS of a command (R320). -/
def statusWord (valid code cause : Nat) : Nat := valid % 65536 + code * 65536 + cause * 2 ^ 24

/-- DONESEQ rises to the highest sequence at or below which every command has completed (R320). -/
def State.advanceDone (s : State) (q : Nat) : State :=
  let x := s.queue q
  let rest := x.pend.dropWhile (fun p => p.done)
  let done := match rest with
    | [] => x.taken
    | p :: _ => p.seq - 1
  let s := s.modQueue q (fun x => { x with pend := rest })
  match (s.qdesc q).bind (fun d => s.ccbPlace 0 d.chain) with
  | none => s
  | some blk => (s.setCcb 0 blk 32 8 done).chainState q

/-- A command whose end is decided writes STATUS and, once the record's release at system scope is over, its record, and is done (R278, R320). -/
def State.finishCmd (s : State) (q seq : Nat) : State :=
  match (s.queue q).pend.find? (fun p => p.seq == seq && !p.done) with
  | none => s
  | some p =>
    match p.fin with
    | none => s
    | some (st, value) =>
      let s := if p.crec.isSome then s.releaseAll else s
      if p.crec.isSome && (!s.allReleased true || s.cmdOwes p) then s
      else
        let s := s.unitSet 0 (capAdd p.entry 28) 4 st
        let s := match p.crec with
          | none => s
          | some c => s.unitWrite 0 c (natBytes 8 p.seq ++ natBytes 4 st ++ natBytes 4 value)
        ((s.modPend q seq (fun p => { p with done := true })).advanceDone q).showQueue q

/-- A command completes (R320). `value` is the record's last field. -/
def State.completeCmd (s : State) (q seq valid code cause value : Nat) : State :=
  (s.modPend q seq (fun p => if p.fin.isSome || p.done then p else { p with fin := some (statusWord valid code cause, value) })).finishCmd q seq

/-- Commands whose records wait for acknowledgements are looked at again. -/
def State.finishCmds (s : State) : State :=
  s.queues.foldl (fun s q => (q.2.pend.filter (fun p => p.fin.isSome && !p.done)).foldl (fun s p => retryPins (fun s => s.finishCmd q.1 p.seq) s) s) s

/-- A command that a refusal ends at once, with CODE 3 (R320, R446); a CREC that fails its own check gets no record. -/
def State.refuseCmd (s : State) (c : Cmd) (cause : Nat) (crecOk : Bool) : State :=
  let s := s.takeCmd c
  let s := if crecOk then s else s.modPend c.q c.seq (fun p => { p with crec := none })
  s.completeCmd c.q c.seq 0 3 cause 0


/-- A context number that no context has or will have, for a record that names none. -/
def State.noCtx (s : State) : Nat × State := (s.nextCtx, { s with nextCtx := s.nextCtx + 1 })

/-- A command of a queue meets the chain fault: STATUS, STATE 6, FAULTSEQ and an open record on die q mod 4 (R445). -/
def State.faultQueue (s : State) (c : Cmd) : State :=
  let s := s.takeCmd c
  let s := s.unitSet 0 (capAdd c.entry 28) 4 (statusWord 0 2 7)
  let s := s.modQueue c.q (fun x => { x with faulted := true })
  let s := (s.chainState c.q).setCcb 0 c.blk 48 8 c.seq
  let die := c.q % 4
  let (k, s) := s.noCtx
  let r : FaultRec := { cls := 0x14, cause := 7, chain := true, die := die, addr := c.ccb, info := BitVec.ofNat 64 c.seq, ctx := k }
  (s.modDie die (fun d => { d with recs := d.recs ++ [r] })).showQueue c.q

/-! ### Checks of a command (R315, R316, R446) -/

/-- Some byte of a list of ranges (first, count) is not 0. -/
def anyByte (e : List Byte) (rs : List (Nat × Nat)) : Bool := rs.any (fun r => fld e r.1 r.2 != 0)

/-- A reserved field of a command other than a copy is not 0 (R315, R316). An end of stream has the SPACES and SCOPE of R185, and AFTER in bit 0 of FLAGS (DEDUCED, log 113). -/
def cmdReserved (c : Cmd) : Bool :=
  let fl := fld c.e 2 2
  let sp := fld c.e 1 1
  let common := decide (32 ≤ fl) || fld c.e 6 2 != 0 || (c.op != 0x20 && c.op != 0x21 && fld c.e 4 2 != 0)
    || (if c.op = 0x0F then decide (64 ≤ sp) || sp % 4 == 1 || sp / 4 % 4 == 1 || !decide (fl / 4 % 8 ∈ [2, 3, 4, 5])
        else sp != 0 || (c.op != 0x23 && fl / 4 % 8 != 0))
  common || match c.op with
    | 0x20 => anyByte c.e [(24, 4), (44, 4), (80, 48)]
    | 0x21 => anyByte c.e [(16, 12), (32, 16), (64, 8), (80, 48)]
    | 0x22 => anyByte c.e [(8, 20), (32, 10), (44, 4), (64, 8), (80, 48)]
    | 0x23 => anyByte c.e [(24, 4), (32, 24), (64, 8), (80, 48)] || decide (6 ≤ fl / 4 % 8)
    | 0x24 => anyByte c.e [(9, 7), (24, 4), (32, 24), (64, 8), (80, 48)]
    | 0x0F => fld c.e 52 4 != 0
    | _ => true

/-- A range that the command unit may access: R63 with rights, and an alignment (R446). -/
def State.capOk (s : State) (c : Cap) (n need align : Nat) : Bool :=
  decide (capOfs c % align = 0) && (match s.unitRange 0 c n need (need / 2 % 2 == 1) false with
    | .ok _ => true
    | .error _ => false)

/-- CREC passes its check, or is not asked for (R446). -/
def State.crecOk (s : State) (c : Cmd) : Bool := !c.flag 1 || s.capOk (fldCap c.e 72) 16 2 8

/-- A command taken after the end of the stream is dropped; a CREC that fails its check gets no record (R187, R317, R446). -/
def State.dropCmd (s : State) (c : Cmd) : State :=
  let ok := s.crecOk c
  let s := s.takeCmd c
  (if ok then s else s.modPend c.q c.seq (fun p => { p with crec := none })).completeCmd c.q c.seq 0 1 0 0

end Sys2Proof.Machine
end

