-- ==== Sys2Proof/Machine/Fabric.lean ====
section
/-! DEFINITION. Links and routing (R408-R423): packets and batches as flits (R289, R344), the checksum, receiving and sending with replay, credits and channels, link states, what a lost link leaves to be resent, relays (R293), responses (R297), and route switches (R418). -/

namespace Sys2Proof

/-- The element size code that a device takes for a reply whose request it does not hold, by the reply's LTAG: a response names no element size (R289), and the spec does not say how a relay finds it (log entry 13). -/
opaque Config.replyCode : Nat → Nat

/-- The link over which the controller sends a message to a device that no link of its own reaches; the spec names no rule for it (log entry 20). -/
opaque Config.mgmtPath : Nat → Nat

namespace Machine

/-- An event that happens next. -/
def State.push (s : State) (e : Instr) : State := { s with agenda := s.agenda ++ [e] }

/-! ### Packets as flits (R289, R344) -/

/-- A payload of 60 bytes. -/
def pad60 (bs : List Byte) : List Byte := bs.take 60 ++ List.replicate (60 - bs.length) 0

/-- `n` payloads of a byte stream. -/
def chunk60 : Nat → List Byte → List (List Byte)
  | 0, _ => []
  | n + 1, bs => pad60 bs :: chunk60 n (bs.drop 60)

/-- A byte. -/
def byteOf (n : Nat) : Byte := BitVec.ofNat 8 n
/-- A bit as a number. -/
def bitN (b : Bool) (k : Nat) : Nat := if b then 2 ^ k else 0

/-- The TYPE is a request. -/
def isReqType (ty : Nat) : Bool := decide (1 ≤ ty) && decide (ty ≤ 5)
/-- The TYPE is a response. -/
def isRespType (ty : Nat) : Bool := decide (0x10 ≤ ty) && decide (ty ≤ 0x12)
/-- Code of an element size (R289). -/
def esizeCode (n : Nat) : Nat := if n = 4 then 0 else if n = 8 then 1 else 2
/-- Element size of a code. -/
def esizeOf (c : Nat) : Nat := 4 * 2 ^ c

/-- Bytes that an element of a request accesses, and that its reply carries for it: half of a .cas pair (R232, R289). -/
def gridBytes (p : Pkt) : Nat := if p.ty = 5 && p.op == 7 then p.esize / 2 else p.esize

/-- The header payload of a packet. -/
def pktHeader (p : Pkt) : List Byte :=
  [byteOf p.ty, byteOf (bitN p.void 0 + bitN p.poison 1 + bitN p.rgv 2 + bitN p.detour 3 + bitN p.ver 4 + bitN p.relayed 5),
   byteOf (if isRespType p.ty then p.status else esizeCode p.esize), byteOf p.op, byteOf p.tyc, byteOf p.nelem, byteOf p.rg,
   byteOf p.pktidx] ++ natBytes 4 (p.srcc + p.srcDie * 2 ^ 25) ++ natBytes 4 p.dstc ++ natBytes 8 p.pattern.toNat
    ++ natBytes 6 (p.page + p.obj * 2 ^ 28) ++ natBytes 2 p.gtag ++ natBytes 4 p.block ++ natBytes 2 p.cseq
    ++ [byteOf p.npkt, 0] ++ natBytes 2 p.ltag ++ natBytes 2 p.conv ++ List.replicate 12 0
    ++ natBytes 2 ((p.offs[0]?).getD 0) ++ natBytes 2 ((p.offs[1]?).getD 0)

/-- Data flits of a packet (R289). -/
def dataFlits (nelem bytes : Nat) : Nat := cdiv (nelem * bytes) 60

/-- The flits of a packet. -/
def pktFlits (p : Pkt) : List (List Byte) :=
  pad60 (pktHeader p) :: (if 2 < p.nelem then [pad60 ((p.offs.drop 2).flatMap (natBytes 2))] else [])
    ++ chunk60 (dataFlits p.nelem p.esize) p.data

/-- The element size that the flits of a packet go by at a die: a request names it; a response has that of the request that the die's buffer holds, where the die is its destination (R289, R290). -/
def State.headBytes (s : State) (die : Nat) (h : List Byte) : Nat :=
  if isRespType (fld h 0 1) then
    match (s.die (fld h 8 4 / 2 ^ 25 % 4)).grid.contribs.find? (fun c => fld h 12 4 == s.coordAt die && c.cseq == fld h 36 2) with
    | some c => gridBytes (c.pkts.headD {})
    | none => esizeOf (Config.replyCode (fld h 40 2) % 3)
  else esizeOf (fld h 2 1 % 4)

/-- A packet header holds a reserved value (R289). -/
def headBad (h : List Byte) : Bool :=
  let ty := fld h 0 1
  !(isReqType ty || isRespType ty) || decide (64 ≤ fld h 1 1) || (isReqType ty && decide (3 ≤ fld h 2 1))
    || (isRespType ty && decide (6 ≤ fld h 2 1)) || decide (32 < fld h 5 1) || decide (64 ≤ fld h 6 1)
    || decide (2 ^ 27 ≤ fld h 8 4) || decide (2 ^ 25 ≤ fld h 12 4) || fld h 39 1 != 0 || fld h 44 12 != 0

/-- The packet of its flits, with the element size that they go by. -/
def pktOfFlits (esz : Nat) (fs : List (List Byte)) : Pkt :=
  let h := fs.headD []
  let n := fld h 5 1
  let ty := fld h 0 1
  let fl := fld h 1 1
  let offs := [fld h 56 2, fld h 58 2] ++
    (if 2 < n then (List.range 30).map (fun i => fld ((fs.drop 1).headD []) (2 * i) 2) else [])
  let body := (fs.drop (if 2 < n then 2 else 1)).flatten
  { ty := ty, void := natBits fl 0 1 = 1, poison := natBits fl 1 1 = 1, rgv := natBits fl 2 1 = 1
    detour := natBits fl 3 1 = 1, ver := natBits fl 4 1 = 1, relayed := natBits fl 5 1 = 1
    esize := esz, status := if isRespType ty then fld h 2 1 else 0
    op := fld h 3 1, tyc := fld h 4 1, nelem := n, rg := fld h 6 1 % 64, pktidx := fld h 7 1
    srcc := fld h 8 4 % 2 ^ 25, srcDie := fld h 8 4 / 2 ^ 25 % 4, dstc := fld h 12 4
    pattern := BitVec.ofNat 64 (fld h 16 8), page := fld h 24 6 % 2 ^ 28, obj := fld h 24 6 / 2 ^ 28
    gtag := fld h 30 2, block := fld h 32 4, cseq := fld h 36 2, npkt := fld h 38 1, ltag := fld h 40 2
    conv := fld h 42 2, offs := offs.take n
    data := if ty = 4 then [] else body.take (n * esz), bad := headBad h }

/-- An update as bytes (R344). -/
def updBytes (u : Upd) : List Byte :=
  natBytes 8 u.time.toNat ++ natBytes 2 u.loc ++ natBytes 2 (bitN u.poison 0) ++ natBytes 4 (wrapInt 32 u.delta)

/-- An update of its bytes. -/
def updOfBytes (b : List Byte) : Upd :=
  { loc := fld b 8 2, time := BitVec.ofNat 64 (fld b 0 8), poison := fld b 10 2 % 2 == 1, delta := sgnVal true 32 (fld b 12 4) }

/-- Data flits of updates, three to a flit. -/
def updFlits : Nat → List Upd → List (List Byte)
  | 0, _ => []
  | n + 1, us => pad60 ((us.take 3).flatMap updBytes) :: updFlits n (us.drop 3)

/-- The header payload of a batch or its acknowledgement; a detoured one names its destination in bytes 16 to 19 (log entry 13). -/
def batchHead (ty status nupd src seq dst : Nat) (detour ver relayed : Bool) : List Byte :=
  pad60 ([byteOf ty, byteOf (bitN detour 3 + bitN ver 4 + bitN relayed 5), byteOf status, 0] ++ natBytes 2 nupd ++ [0, 0]
    ++ natBytes 4 src ++ natBytes 4 seq ++ natBytes 4 (if detour then dst else 0))

/-- The flit of a management message: its layout is the model's (DESIGN CHOICE, log 20). -/
def Mail.flit (m : Mail) : List Byte :=
  pad60 ([byteOf m.ty, byteOf (bitN m.last 0)] ++ natBytes 2 m.data.length ++ natBytes 4 m.dst ++ natBytes 4 m.src ++ natBytes 8 m.ofs ++ m.data)

/-- The management message of its flit. -/
def Mail.ofFlit (h : List Byte) : Mail :=
  { ty := fld h 0 1, src := fld h 8 4, dst := fld h 4 4, ofs := fld h 12 8, data := (h.drop 20).take (fld h 2 2), last := fld h 1 1 % 2 == 1 }

/-- The flits of a message. -/
def Msg.flits : Msg → List (List Byte)
  | .pkt p => pktFlits p
  | .mgmt m => [m.flit]
  | .batch b dst d v r => batchHead 0x20 0 b.upds.length b.src b.seq dst d v r :: updFlits (cdiv b.upds.length 3) b.upds
  | .back src seq status dst d v r => [batchHead 0x21 status 0 src seq dst d v r]

/-- The flits of the message that a header opens; `esz` is the element size of a packet. -/
def needFlits (esz : Nat) (h : List Byte) : Nat :=
  let ty := fld h 0 1
  if ty = 0x20 then (if decide (1 ≤ fld h 4 2) && decide (fld h 4 2 ≤ 64) then 1 + cdiv (fld h 4 2) 3 else 1)
  else if ty = 0x21 ∨ (0x30 ≤ ty ∧ ty ≤ 0x3F) then 1
  else 1 + (if 2 < fld h 5 1 then 1 else 0) + dataFlits (fld h 5 1) esz

/-- A batch holds a reserved value in its header, an update or the rest of its data flits (R344). -/
def batchBad (h : List Byte) (us : List (List Byte)) (rest : List Byte) : Bool :=
  let fl := fld h 1 1
  fl % 8 != 0 || decide (64 ≤ fl) || fld h 2 2 != 0 || fld h 6 2 != 0 || decide (2 ^ 25 ≤ fld h 8 4)
    || fld h 20 40 != 0 || (fl / 8 % 2 == 0 && fld h 16 4 != 0) || fld h 4 2 = 0 || decide (64 < fld h 4 2)
    || us.any (fun u => decide (2 ≤ fld u 10 2) || fld u 12 4 == 0) || rest.any (fun b => b != 0)

/-- The message of its flits. -/
def Msg.ofFlits (esz : Nat) (fs : List (List Byte)) : Msg :=
  let h := fs.headD []
  let ty := fld h 0 1
  let fl := fld h 1 1
  let d := natBits fl 3 1 = 1
  let v := natBits fl 4 1 = 1
  let r := natBits fl 5 1 = 1
  if ty = 0x20 then
    let us := (fs.drop 1).flatMap (fun f => [f.take 16, (f.drop 16).take 16, (f.drop 32).take 16])
    let n := fld h 4 2
    let rest := (us.drop n).flatten ++ (fs.drop 1).flatMap (fun f => f.drop 48)
    let us := us.take n
    .batch { src := fld h 8 4, seq := fld h 12 4, upds := us.map updOfBytes, bad := batchBad h us rest } (fld h 16 4) d v r
  else if ty = 0x21 then .back (fld h 8 4) (fld h 12 4) (fld h 2 1) (fld h 16 4) d v r
  else if 0x30 ≤ ty ∧ ty ≤ 0x3F then .mgmt (Mail.ofFlit h)
  else .pkt (pktOfFlits esz fs)

/-- The channel of a header (R413). -/
def chanOf (ty fl : Nat) : Nat :=
  if 0x30 ≤ ty ∧ ty ≤ 0x3F then 4
  else if natBits fl 5 1 = 1 then 3
  else if ty = 0x20 ∨ ty = 0x21 then 2
  else if isRespType ty then 1
  else 0

/-- The channel of a message. -/
def Msg.chan : Msg → Nat
  | .pkt p => if p.relayed then 3 else if isRespType p.ty then 1 else 0
  | .mgmt _ => 4
  | .batch _ _ _ _ r => if r then 3 else 2
  | .back _ _ _ _ _ _ r => if r then 3 else 2

/-- The destination of a message. -/
def Msg.dst : Msg → Nat
  | .pkt p => p.dstc
  | .mgmt m => m.dst
  | .batch _ dst _ _ _ => dst
  | .back _ _ _ dst _ _ _ => dst

/-- A message with its DETOUR, VER and RELAYED marks. -/
def Msg.mark (m : Msg) (d v r : Bool) : Msg :=
  match m with
  | .pkt p => .pkt { p with detour := d, ver := v, relayed := r }
  | .mgmt m => .mgmt m
  | .batch b dst _ _ _ => .batch b dst d v r
  | .back src seq st dst _ _ _ => .back src seq st dst d v r

/-! ### The checksum (R409) -/

/-- Eight shifts of the register. -/
def crcBits : Nat → Nat → Nat
  | 0, r => r
  | n + 1, r => crcBits n (if r % 2 = 1 then (r / 2) ^^^ 0xEDB88320 else r / 2)

/-- CRC-32 of bytes from a seed. -/
def crc32 (seed : Nat) (bs : List Byte) : Nat :=
  (bs.foldl (fun r b => crcBits 8 (r ^^^ b.toNat)) seed) ^^^ 0xFFFFFFFF

/-- The seed of a sequence. -/
def seqSeed (q : Nat) : Nat := 0xFFFFF000 + q % 4096

/-- A flit: a payload sealed under a seed. -/
def sealFlit (seed : Nat) (p : List Byte) : List Byte := p ++ natBytes 4 (crc32 seed p)

/-- A flit passes under a seed. -/
def flitOk (seed : Nat) (f : List Byte) : Bool := fld f 60 4 == crc32 seed (f.take 60)

/-! ### Receiving (R410, R411, R413) -/

/-- Buffer of a channel in flits (R413). -/
def chanBuf (c : Nat) : Nat := ([256, 128, 64, 128, 32][c]?).getD 0

/-- The idle flit of a link (R410). -/
def Link.idle (k : Link) : List Byte :=
  natBytes 2 ((k.exp + 4095) % 4096 * (if k.ackv then 1 else 0) + bitN k.ackv 15)
    ++ natBytes 2 (k.exp * (if k.nakv then 1 else 0) + bitN k.nakv 15)
    ++ (List.range 5).flatMap (fun c => natBytes 2 ((sGet k.freed c).getD 0)) ++ List.replicate 46 0

/-- A resend round from the oldest of some held sequences (R412); after 16 rounds in a row the link fails. -/
def Link.round (k : Link) (qs : List Nat) : Link × Bool :=
  if 16 ≤ k.rounds then (k, true)
  else ({ k with resend := qs, rounds := k.rounds + 1, replays := min 255 (k.replays + 1) }, false)

/-- An ACK covers the held flits up to a sequence (R412). -/
def Link.acked (k : Link) (q now : Nat) : Link :=
  if k.replay.any (fun x => x.1 == q) then
    let rest := (k.replay.dropWhile (fun x => x.1 != q)).drop 1
    { k with replay := rest, resend := k.resend.filter (fun r => rest.any (fun x => x.1 == r)), ackAt := now, rounds := 0 }
  else k

/-- An idle flit's ACK, NAK and credits are applied; whether the link fails (R410-R412). -/
def Link.control (k : Link) (f : List Byte) (now : Nat) : Link × Bool :=
  let a := fld f 0 2
  let n := fld f 2 2
  let k := if a / 2 ^ 15 = 1 then k.acked (a % 4096) now else k
  let k := { k with granted := (List.range 5).map (fun c => (c, fld f (4 + 2 * c) 2)) }
  let q := n % 4096
  if n / 2 ^ 15 = 1 && k.replay.any (fun x => x.1 == q) && !(k.nakSeen == some q && !k.resend.isEmpty) then
    let r := k.round ((k.replay.dropWhile (fun x => x.1 != q)).map (fun x => x.1))
    ({ r.1 with nakSeen := some q }, r.2)
  else (k, false)

/-- An accepted payload goes to the buffer of its packet's channel; the message that it completes, whose flits are drained, and their element size (R411, R413). -/
def Link.accept (k : Link) (esize : List Byte → Nat) (p : List Byte) : Link × Option Msg :=
  let c := k.rxChan.getD (chanOf (fld p 0 1) (fld p 1 1))
  let rx := (sGet k.rx c).getD [] ++ [p]
  let k := { k with exp := (k.exp + 1) % 4096, nakv := false, ackv := true }
  let h := rx.headD []
  if needFlits (esize h) h ≤ rx.length then
    ({ k with rx := sDel k.rx c, rxChan := none, freed := sPut k.freed c (((sGet k.freed c).getD 0 + rx.length) % 65536) },
      some (Msg.ofFlits (esize h) rx))
  else ({ k with rx := sPut k.rx c rx, rxChan := some c }, none)

/-! ### Lost links (R420, R421) -/

/-- A destination that was sent over a lost link is to be sent again at once, under its USE (R420). -/
def DestState.lost (l : Nat) (d : DestState) : DestState :=
  match d with
  | .sent (some k) _ => if k = l then .retryAt 0 else d
  | d => d

/-- A link leaves UP: what was sent over it and is not acknowledged is looked up again, its queued responses are held, other queued messages go with it (R420). -/
def State.loseLink (s : State) (l : Nat) (next : LinkState) : State :=
  let k := s.link l
  let back := k.txq.filter (fun m => m.chan == 1 || (match m with | .back _ _ _ _ _ _ r => !r | _ => false))
  let s := s.modLink l (fun k => { k with
    state := next, since := s.cycle, rx := [], rxChan := none, txq := [], cur := [], replay := [], resend := [] })
  let s : State := { s with
    dies := s.dies.map (fun d => (d.1, { d.2 with grid := { d.2.grid with
      contribs := d.2.grid.contribs.map (fun c => { c with dests := c.dests.map (fun x => (x.1, x.2.lost l)) }) } }))
    sendbuf := s.sendbuf.map (fun b => { b with dests := b.dests.map (fun x => (x.1, x.2.lost l)) }) }
  s.modGrid (l / 8) (fun g => { g with held := g.held ++ back.map (fun m => { msg := m, at_ := s.cycle }) })

/-! ### Responses and relays (R293, R297) -/

/-- A message joins a link's queue. -/
def State.enlink (s : State) (port : Nat) (m : Msg) : State := s.modLink port (fun k => { k with txq := k.txq ++ [m] })

/-- The event of a response that arrives on this device. -/
def respEvent (p : Pkt) : Instr :=
  if p.ty = 0x10 then .acknowledgementArrival p.srcDie p else .gridReplyArrival p.srcDie p

/-- A response or acknowledgement leaves a die under the current version, or is held until a link carries it (R297). -/
def State.respond (s : State) (die : Nat) (m : Msg) : State :=
  match m with
  | .pkt p =>
    if p.dstc = s.coordAt die then s.push (respEvent p)
    else match s.route die (s.curBank die) p.dstc with
      | some (port, d) => s.enlink port (m.mark d (s.curBank die == 1) false)
      | none => s.modGrid die (fun g => { g with held := g.held ++ [{ msg := m, at_ := s.cycle + 256 }] })
  | _ =>
    match s.route die (s.curBank die) m.dst with
    | some (port, d) => s.enlink port (m.mark d (s.curBank die == 1) false)
    | none => s.modGrid die (fun g => { g with held := g.held ++ [{ msg := m, at_ := s.cycle + 256 }] })

/-- The response to a request packet with a STATUS: it carries the request's CSEQ and source die, and names the packet's destination as its source, also when a relay or another device answers for it (R293, R297; DEDUCED, log 25). -/
def answerTo (p : Pkt) (status : Nat) : Pkt :=
  { ty := if p.ty = 4 then 0x11 else if p.ty = 5 then 0x12 else 0x10, status := status, rgv := p.rgv, rg := p.rg
    srcc := p.dstc, srcDie := p.srcDie, dstc := p.srcc, esize := gridBytes p, gtag := p.gtag, block := p.block, cseq := p.cseq, npkt := p.npkt
    ltag := p.ltag }

/-- A detoured message at the relay: forwarded on a direct link, or answered as unreachable when it is a request or a batch; its source sends a response that is lost here again (R293, R346, R420). -/
def State.relay (s : State) (die : Nat) (m : Msg) (ver : Bool) : State :=
  match s.route die (if ver then 1 else 0) m.dst with
  | some (port, false) => s.enlink port (m.mark false ver true)
  | _ =>
    match m with
    | .pkt p => if isReqType p.ty then s.respond die (.pkt (answerTo p 4)) else s
    | .batch b dst _ _ _ => s.respond die (.back dst b.seq 4 b.src false false false)
    | .back _ _ _ _ _ _ _ => s
    | .mgmt _ => s

/-- DETOUR_RELAY (R293). -/
def execDetourRelay (die : Nat) (p : Pkt) (s : State) : Out :=
  act (fun s => if p.detour && !p.relayed then s.relay die (.pkt p) p.ver else s) s

/-- RESPONSE_RELOOKUP (R297): held responses whose cycle has come are looked up again. -/
def execResponseRelookup (die : Nat) (s : State) : Out :=
  act (fun s =>
    let due := (s.die die).grid.held.filter (fun h => decide (h.at_ ≤ s.cycle))
    let s := s.modGrid die (fun g => { g with held := g.held.filter (fun h => !decide (h.at_ ≤ s.cycle)) })
    due.foldl (fun s h => s.respond die h.msg) s) s

/-! ### Flits (R411-R414) -/

/-- The link of this device whose far end is a device, the lowest that is UP (R421, R423). -/
def State.linkTo (s : State) (coord : Nat) : Option Nat :=
  (List.range 31).find? (fun l => decide ((s.link l).state = .up) && (s.link l).peercoord == coord)

/-- What a management message makes happen at its destination (R442; TYPEs by log 20). -/
def Mail.event (m : Mail) : Option Instr :=
  match m.ty with
  | 0x30 => some (.evictNotice m.src)
  | 0x31 => some .spareReady
  | 0x32 => some (.abortCancelNotice m.src)
  | 0x33 => some (.peerRouteDrain m.ofs m.src)
  | 0x34 => some (.transferPacket m.ofs m.data m.last)
  | 0x35 => some .transferComplete
  | _ => none

/-- A management message at a device: its event, or one hop more on a direct link to its destination (R443). -/
def State.mailIn (s : State) (m : Mail) : State :=
  if m.dst = s.mycoord then (match m.event with
    | some e => s.push e
    | none => s)
  else match s.linkTo m.dst with
    | some l => s.enlink l (.mgmt m)
    | none => s

/-- A message has arrived on a link of a die: it is relayed, or its event happens next. A detoured batch with a reserved value is not relayed: it is discarded, counted and answered with retry (R344). -/
def State.incoming (s : State) (die : Nat) (m : Msg) : State :=
  match m with
  | .pkt p =>
    if p.detour && !p.relayed && !p.bad then s.push (.detourRelay die p)
    else if isRespType p.ty then
      (if p.bad then s.respond die (.pkt (answerTo p 2))
      else if p.dstc != s.coordAt die then s.respond die (.pkt (answerTo p 4)) else s.push (respEvent p))
    else s.push (.requestPacketArrival die (.pkt p))
  | .mgmt m => s.mailIn m
  | .batch b dst d v r =>
    if !(d && !r) then s.push (.batchArrival die b)
    else if b.bad then
      (s.modReg die (fun g => { g with regerr := min 65535 (g.regerr + 1) })).respond die (.back dst b.seq 5 b.src false false false)
    else s.relay die m v
  | .back src seq st _ d v r => if d && !r then s.relay die m v else s.push (.batchAckArrival src seq st)

/-- The link fails after 16 rounds (R412, R421). -/
def State.failIf (s : State) (l : Nat) (bad : Bool) : State := if bad then s.loseLink l .failed else s

/-- FLIT_RECEIVE (R410, R411). -/
def execFlitReceive (link : Nat) (flit : List Byte) (s : State) : Out :=
  act (fun s =>
    let k := s.link link
    if k.state ≠ .up then s
    else if flitOk (seqSeed k.exp) flit then
      let r := k.accept (s.headBytes (link / 8)) (flit.take 60)
      let s := s.modLink link (fun _ => r.1)
      match r.2 with
      | some m => s.incoming (link / 8) m
      | none => s
    else if flitOk 0 flit then
      let r := k.control flit s.cycle
      (s.modLink link (fun _ => r.1)).failIf link r.2
    else s.modLink link (fun k => { k with crcerr := min 65535 (k.crcerr + 1), nakv := true })) s

/-- Credits of a channel that a sender still holds (R413). -/
def Link.credits (k : Link) (c : Nat) : Nat :=
  chanBuf c - ((sGet k.taken c).getD 0 + 65536 - (sGet k.granted c).getD 0) % 65536

/-- The next packet of a port: round-robin among the channels with a packet ready and credits for it (R414). -/
def Link.pick (k : Link) : Option (Nat × Msg) :=
  (List.range 5).findSome? (fun i =>
    let c := (k.lastChan + 1 + i) % 5
    match k.txq.find? (fun m => m.chan == c) with
    | none => none
    | some m => if m.flits.length ≤ k.credits c then some (c, m) else none)

/-- A new sequenced flit goes out and is held for replay (R409, R412). -/
def Link.sendNew (k : Link) (p : List Byte) (now : Nat) : Link :=
  { k with out := sealFlit (seqSeed k.nextSeq) p, nextSeq := (k.nextSeq + 1) % 4096
           ackAt := if k.replay.isEmpty then now else k.ackAt
           replay := k.replay ++ [(k.nextSeq, p)], sinceIdle := k.sinceIdle + 1 }

/-- One flit of a link: a resent one, the next of the packet in progress, the first of the next packet, or an idle one (R409-R414). -/
def Link.transmit (k : Link) (now : Nat) : Link :=
  let idle : Link := { k with out := sealFlit 0 k.idle, sinceIdle := 0 }
  if 32 ≤ k.sinceIdle then idle
  else match k.resend with
    | q :: rest =>
      match k.replay.find? (fun x => x.1 == q) with
      | some x => { k with out := sealFlit (seqSeed q) x.2, resend := rest, sinceIdle := k.sinceIdle + 1 }
      | none => { idle with resend := rest }
    | [] =>
      if 512 ≤ k.replay.length then idle
      else match k.cur with
        | f :: rest => { (k.sendNew f now) with cur := rest }
        | [] =>
          match k.pick with
          | none => idle
          | some (c, m) =>
            match m.flits with
            | [] => idle
            | f :: rest =>
              { (k.sendNew f now) with
                cur := rest, lastChan := c, txq := k.txq.erase m
                taken := sPut k.taken c (((sGet k.taken c).getD 0 + rest.length + 1) % 65536) }

/-- A training flit: MYCOORD, die and port; their places in it are the model's (R421; DESIGN CHOICE, log 14). -/
def trainFlit (coord link : Nat) : List Byte := sealFlit 0 (pad60 (natBytes 4 coord ++ [byteOf (link / 8), byteOf (link % 8)]))

/-- FLIT_TRANSMIT (R409-R414); a link in TRAIN sends training flits (R421). -/
def execFlitTransmit (link : Nat) (s : State) : Out :=
  act (fun s =>
    if (s.link link).state = .up then s.modLink link (fun k => k.transmit s.cycle)
    else if (s.link link).state = .train then s.modLink link (fun k => { k with out := trainFlit (s.coordAt (link / 8)) link })
    else s) s

/-- 4,096 cycles have passed without an ACK of new flits (R412). -/
def Link.replayDue (k : Link) (now : Nat) : Bool :=
  decide (k.state = .up) && !k.replay.isEmpty && decide (k.ackAt + 4096 < now)

/-- REPLAY_TIMEOUT (R412); the next such timeout is 4,096 cycles away. -/
def execReplayTimeout (link : Nat) (s : State) : Out :=
  act (fun s =>
    let k := s.link link
    if k.replayDue s.cycle then
      let r := k.round (k.replay.map (fun x => x.1))
      (s.modLink link (fun _ => { r.1 with ackAt := s.cycle })).failIf link r.2
    else s) s

/-! ### Link states (R421-R423) -/

/-- LANE_LOCK (R421, R423): the link is UP with every counter fresh, or has FAILED with MISWIRE. -/
def execLaneLock (link peerCoord peerDie : Nat) (s : State) : Out :=
  act (fun s =>
    let k := s.link link
    if k.state ≠ .train then s
    else if k.lexpChk && k.lexpPeer != peerCoord then
      s.modLink link (fun k => { k with state := .failed, since := s.cycle, miswire := true, peercoord := peerCoord })
    else s.modLink link (fun k => { state := .up, since := s.cycle, peercoord := peerCoord, peerdie := peerDie
                                    lexpPeer := k.lexpPeer, lexpChk := k.lexpChk, txq := k.txq, ackAt := s.cycle })) s

/-- TRAIN_TIMEOUT (R421). -/
def execTrainTimeout (link : Nat) (s : State) : Out :=
  act (fun s => if (s.link link).state = .train ∧ (s.link link).since + 2 ^ 24 < s.cycle then
    s.modLink link (fun k => { k with state := .failed, since := s.cycle }) else s) s

/-- LANE_LOCK_LOSS (R421). -/
def execLaneLockLoss (link : Nat) (s : State) : Out :=
  act (fun s => if (s.link link).state = .up then s.loseLink link .failed else s) s

/-- FAILED_RETRY_TIMEOUT (R421): FAILED, and DOWN whose retry timer has run out, go to TRAIN (log entry 14). -/
def execFailedRetryTimeout (link : Nat) (s : State) : Out :=
  act (fun s =>
    let k := s.link link
    if (k.state = .failed ∨ k.state = .down) ∧ k.since + 2 ^ 22 < s.cycle then
      s.modLink link (fun k => { k with state := .train, since := s.cycle }) else s) s

/-- LINK_RESET (R421, R422): RESET takes UP, TRAIN and FAILED to DOWN, and DOWN to TRAIN. -/
def execLinkReset (link : Nat) (s : State) : Out :=
  act (fun s =>
    match (s.link link).state with
    | .up => s.loseLink link .down
    | .down => s.modLink link (fun k => { k with state := .train, since := s.cycle })
    | _ => s.modLink link (fun k => { k with state := .down, since := s.cycle })) s

/-! ### Route switches (R417, R418) -/

/-- The packets that some destinations still owe an acknowledgement. -/
def owed (ds : List (Nat × DestState)) (coord n : Nat) : Nat :=
  ds.foldl (fun a x => match x.2 with
    | .fresh => a
    | _ => if x.1 = coord then a + n else a) 0

/-- PEND of a rank on a die: packets sent under USE and not yet acknowledged; what stays within the device is sent under no rule, and no packet goes to a rank outside the grid (R291, R417). -/
def State.pend (s : State) (die r : Nat) : Nat :=
  let coord := rankCoord s.grid r
  if gridSize s.grid ≤ r ∨ coord = s.coordAt die then 0
  else (s.die die).grid.contribs.foldl (fun a c => a + owed c.dests coord c.pkts.length)
    (if die = 0 then s.sendbuf.foldl (fun a b => a + owed b.dests coord 1) 0 else 0)

/-- One destination's part of a switch to a bank (R418). -/
def State.switchRank (s : State) (die r : Nat) (bank : Bool) : State :=
  let w := s.destWord die r
  let w' : DestWord := if w.use = bank then w else if s.pend die r = 0 then { use := bank } else { w with hold := true }
  s.modDie die (fun d => { d with fabric := { d.fabric with dests := sPut d.fabric.dests r w' } })

/-- ROUTE_SWITCH (R418). -/
def execRouteSwitch (die : Nat) (s : State) : Out :=
  act (fun s =>
    let f := (s.die die).fabric
    if f.busy then
      let bank := !f.curver
      let s := (List.range 32).foldl (fun s r => s.switchRank die r bank) s
      if (List.range 32).all (fun r => (s.destWord die r).use == bank) then
        s.modDie die (fun d => { d with fabric := { d.fabric with curver := bank, busy := false, dests := [] } })
      else s
    else s) s

end Machine

end Sys2Proof
end

