-- ==== Sys2Proof/Machine/Grid.lean ====
section
/-! DEFINITION. Grid addressing: gather slots (R58, R235-R237), contributions and requests at their issue (R225-R234, R288, R290), the crossbar (R291-R293), the destination (R228, R229, R295, R296, R374, R375), and responses at the sender (R297, R420). -/

namespace Sys2Proof.Machine

/-! ### Gather slots (R58, R235, R236) -/

/-- The image of a slot (R58). -/
def slotImage (g : GSlot) : Nat :=
  g.arrived % 65536 + g.expected % 65536 * 2 ^ 16 + g.void % 65536 * 2 ^ 32 + bitN g.complete 48 + bitN g.mismatch 49
    + bitN g.overrun 50 + bitN g.poison 51 + bitN g.unreach 52 + bitN g.armed 63

/-- One arrival, or one acknowledgement, which carries no pattern (R236). `derived` is the derived count of the carried pattern. An acknowledgement counts at EXPECTED 0 as well (DESIGN CHOICE, log 104). -/
def GSlot.count (g : GSlot) (void poison unreach : Bool) (pat : Option (BitVec 64)) (derived : Nat) : GSlot :=
  if g.complete then { g with overrun := true }
  else
    let g := match pat with
      | none => g
      | some p =>
        if g.armed then g
        else if g.expected = 0 then { g with expected := derived, pattern := some p }
        else if g.pattern = some p then g else { g with mismatch := true }
    let g := { g with arrived := g.arrived + 1, void := g.void + (if void then 1 else 0), poison := g.poison || poison
                      unreach := g.unreach || unreach }
    { g with complete := g.expected != 0 && g.arrived == g.expected }

/-- A slot of a context, placed or saved, counts (R299). -/
def State.countSlot (s : State) (ctx n : Nat) (f : GSlot → GSlot) : State :=
  s.modAny ctx (fun c => { c with gslots := sPut c.gslots n (f (c.slotOf n)) })

/-- GARM's slot (R235). -/
def armed (n : Nat) : GSlot := { expected := n, armed := n != 0 }

/-- A pattern fault of lanes (R233). -/
def patFault (ls : List Lane) (cause : Nat) (addr : BitVec 64) : List FLane :=
  ls.map (fun l => { tid := l.t.tid, cls := 0x10, cause := cause, addr := addr })

/-- A grid instruction outside a speculative run, which it ends (R234). -/
def gridOp (h : Head) (f : Site → State → State) : State → State :=
  onBeat h (fun e s =>
    match e.lanes, e.c.run with
    | [], _ => s
    | _, some slot => s.discardRun slot 1
    | _, none => f e s)

/-- The fault of GARM in a wheel, or the count that it arms (R233, R235). -/
def State.garmCount (s : State) (pat : Bool) (l : Lane) (b : Src) : Except Nat Nat :=
  if pat then
    let p := BitVec.ofNat 64 (readSrc l 2 b)
    if patOk s.grid p then .ok (patCount s.grid (s.coordAt (dieOf l.w.core)) p) else .error 1
  else
    let n := readSrc l 1 b
    if 65535 < n then .error 4 else .ok n

/-- GARM (R235): once for each home wheel. -/
def execGarm (h : Head) (pat : Bool) (g : BitVec 6) (b : Src) (s : State) : Out :=
  act (gridOp h (fun e s => (wheelsOf e.lanes).foldl (fun s l =>
    match s.garmCount pat l b with
    | .ok n => s.countSlot e.b.ctx g.toNat (fun _ => armed n)
    | .error k => s.beatFault e.b true (patFault (e.hit true l) k (BitVec.ofNat 64 (readSrc l (if pat then 2 else 1) b)))) s)) s

/-- The end of a GWAIT: Pd := COMPLETE, and the acquire of a true Pd (R237). -/
def State.gwaitEnd (s : State) (ctx : Nat) (c : Ctx) (pd g : Nat) (acq : Bool) (tids : List Nat) : State :=
  let done := (((s.anyCtx ctx).map (fun (x : Ctx) => x.slotOf g)).getD {}).complete
  let core := ((c.lanes tids).head?.map (fun l => l.w.core)).getD 0
  let s := s.modCtx ctx (fun c => c.modT (fun t => tids.contains t.tid) (fun t => { t with preds := setPred t.preds pd done }))
  s.acquireIf (acq && done) c core .dom

/-- GWAIT (R237). -/
def execGwait (h : Head) (acq : Bool) (pd : BitVec 5) (g : BitVec 6) (s : State) : Out :=
  act (gridOp h (fun e s =>
    let tids := e.lanes.map (fun l => l.t.tid)
    if (e.c.slotOf g.toNat).complete then s.gwaitEnd e.b.ctx e.c pd.toNat g.toNat acq tids
    else s.suspend e.b.ctx tids (.gwait pd.toNat g.toNat acq) (some (s.cycle + (s.die (dieOf e.b.core)).waitiv)))) s

/-- GWAIT_COMPLETE (R237). -/
def execGwaitComplete (ctx wid : Nat) (s : State) : Out :=
  act (fun s =>
    match sGet s.ctxs ctx with
    | none => s
    | some c =>
      match c.waitOf wid with
      | some { kind := .gwait pd g acq, tids := tids, .. } =>
        if (c.slotOf g).complete then (s.gwaitEnd ctx c pd g acq tids).modCtx ctx (fun c => c.wake wid) else s
      | _ => s) s

/-- GSTAT (R237): the image in one snapshot. -/
def execGstat (h : Head) (d : Dst) (g : BitVec 6) (s : State) : Out :=
  act (gridOp h (fun e s =>
    let v := fun (_ : Lane) => natWords 2 (slotImage (e.c.slotOf g.toNat))
    match d with
    | .v r => s.writeV e r.toNat 0 v
    | .s r => s.writeS e r.toNat 0 v)) s

/-! ### Packets (R288, R289) -/

/-- Lists of at most 32. -/
def chunk32 {α : Type} : Nat → List α → List (List α)
  | 0, _ => []
  | n + 1, l => if l.isEmpty then [] else l.take 32 :: chunk32 n (l.drop 32)

/-- The packets of entries, each an address and its bytes, in the order of R288; no entry makes the packet of a void contribution. -/
def packetsOf (base : Pkt) (es : List (Nat × List Byte)) : List Pkt :=
  if es.isEmpty then [{ base with void := true }]
  else
    let pages := (es.map (fun x => x.1 / 65536)).eraseDups
    let gs := pages.flatMap (fun k => (chunk32 es.length (es.filter (fun x => x.1 / 65536 == k))).map (fun l => (k, l)))
    gs.zipIdx.map (fun g => { base with
      page := g.1.1 % 2 ^ 28, obj := g.1.1 / 2 ^ 28, nelem := g.1.2.length, pktidx := g.2, npkt := gs.length
      offs := g.1.2.map (fun x => x.1 % 65536), data := g.1.2.flatMap (fun x => x.2) })

/-- Packets that a die's buffer holds for its destinations (R290). -/
def GridUnit.used (g : GridUnit) : Nat := g.contribs.foldl (fun a c => a + c.pkts.length * c.dests.length) 0

/-- The buffer of a die takes `n` more packets (R290). -/
def State.gridRoom (s : State) (die n : Nat) : Bool := decide ((s.die die).grid.used + n ≤ 4096)

/-- A contribution takes the die's next sequence number and joins the buffer (R286, R298). -/
def State.addContrib (s : State) (die : Nat) (c : Contrib) : State :=
  s.modGrid die (fun g =>
    let q := (g.cseq + 1) % 65536
    { g with cseq := q, contribs := g.contribs ++ [{ c with cseq := q, pkts := c.pkts.map (fun p => { p with cseq := q }) }] })

/-- Threads await the answer of a remote operation under a tag (R234). -/
def State.awaitTag (s : State) (ctx : Nat) (tids : List Nat) (tag : Nat) : State :=
  s.modCtx ctx (fun c => { c with remotes := c.remotes ++ tids.map (fun t => (t, tag)) })

/-- What a contribution or request of a beat keeps for its answer: the beat's fields, the lanes and their wheel, those that faulted among them (R233). -/
def contribOf (e : Site) (ls : List Lane) (tag : Nat) (cap : Cap) (pkts : List Pkt) (dests : List Nat) : Contrib :=
  { cseq := 0, ctx := e.b.ctx, tids := ls.map (fun l => l.t.tid), ltag := some tag, pkts := pkts
    dests := dests.map (fun d => (d, .fresh)), graph := e.c.graph.map (fun g => (g.1, g.2.2)), wheel := (ls.head?.map (fun l => l.w.idx)).getD 0
    lanes := ls.foldl (fun a l => a ||| BitVec.ofNat 32 (2 ^ l.t.lane)) 0
    launch := e.c.launch, block := e.c.block, core := e.b.core % 40, quarter := e.b.quarter, pc := e.b.pc, words := e.b.words, cap := cap }

/-- A contribution or request of the beat in issue enters stage 2 (R286, R290). -/
def State.stage (s : State) (die : Nat) (c : Contrib) : State :=
  s.modGrid die (fun g => { g with staged := g.staged ++ [{ wid := s.nextWid, contrib := c }] })

/-- What stage 2 takes next: the oldest that waits, of a context that is not saved, whose lanes are sent after its restore (R234, R299). -/
def State.stagedNext (s : State) (die : Nat) : Option Staged :=
  (s.die die).grid.staged.find? (fun x => (sGet s.saved x.contrib.ctx).isNone)

/-- Stage 2 takes what the buffer has room for, in order, `n` at most; a beat whose last contribution is taken goes on (R290, R298). What waits of a block that has ended or is cancelled is dropped (R245). -/
def State.enterStaged (die : Nat) : Nat → State → State
  | 0, s => s
  | n + 1, s =>
    match s.stagedNext die with
    | none => s
    | some x =>
      let rest := (s.die die).grid.staged.erase x
      let t := s.modGrid die (fun g => { g with staged := rest })
      if ((sGet s.ctxs x.contrib.ctx).all (fun c => c.cancelled)) then State.enterStaged die n t
      else if s.gridRoom die (x.contrib.pkts.length * x.contrib.dests.length) then
        let s := t.addContrib die x.contrib
        let last := !rest.any (fun y => y.wid == x.wid) && ((s.anyCtx x.contrib.ctx).any (fun c => (c.waitOf x.wid).isSome))
        State.enterStaged die n (if last then s.modAny x.contrib.ctx (fun c => c.wake x.wid) else s)
      else s

/-- The beat's contributions pass stage 2, or its threads wait there, without bound (R290). -/
def State.takeUp (s : State) (e : Site) (tids : List Nat) : State :=
  let die := dieOf e.b.core
  let wid := s.nextWid
  let s := State.enterStaged die (s.die die).grid.staged.length s
  if (s.die die).grid.staged.any (fun x => x.wid == wid) then s.suspend e.b.ctx tids .room none else s

/-! ### GST, GRED, GCPY (R230, R231) -/

/-- The lanes of a wheel. -/
def ofWheel (ls : List Lane) (w : Lane) : List Lane := ls.filter (fun l => l.w.idx == w.w.idx)

/-- One contribution of a wheel to each destination: AG's count is set at the issue, with the pattern that sets it, and the threads await the acknowledgements (R229, R234, R236). -/
def State.post (s : State) (e : Site) (ls : List Lane) (x : GridX) (cap : Cap) (pkts : List Pkt) (dests : List Nat) : State :=
  if dests.isEmpty then s
  else
    let s := if x.agv then s.countSlot e.b.ctx x.ag.toNat (fun g =>
        if !g.armed && g.expected == 0 then { g with expected := dests.length, pattern := some (pkts.headD {}).pattern } else g) else s
    let (tag, s) := s.newTag
    let s := s.awaitTag e.b.ctx (ls.map (fun l => l.t.tid)) tag
    s.stage (dieOf e.b.core) { contribOf e ls tag cap pkts dests with ag := if x.agv then some x.ag.toNat else none }

/-- What one of GST, GRED and GCPY sends: the check of its pattern, its destinations, a lane's local source and its entries, the packet's own fields. -/
structure Send where
  bad : State → BitVec 64 → Option Nat
  dests : State → BitVec 64 → List Nat
  src : State → Site → Lane → Res
  entries : Lane → List Byte → List (Nat × List Byte)
  cap : Lane → Cap
  base : Pkt

/-- The pattern of a wheel. -/
def patOf (su : BitVec 8) (l : Lane) : BitVec 64 := BitVec.ofNat 64 (readS l.w 2 su)

/-- The packets of a wheel's contribution; a lane whose source did not pass voids it (R231). -/
def State.sendPkts (s : State) (e : Site) (x : GridX) (su : BitVec 8) (d : Send) (w : Lane) (vals : List (Lane × List Byte)) : List Pkt :=
  let mine := vals.filter (fun v => v.1.w.idx == w.w.idx)
  let void := mine.length < (ofWheel e.lanes w).length
  packetsOf { d.base with
    rgv := x.rgv, rg := x.rg.toNat, srcc := s.coordAt (dieOf e.b.core), srcDie := dieOf e.b.core, pattern := patOf su w
    gtag := e.c.gtag, block := e.c.block }
    (if void then [] else mine.flatMap (fun v => d.entries v.1 v.2))

/-- The source bytes of lanes (R230). POLICY acts at the destination's port and not on them (R225; DEDUCED, log 136). -/
def State.sendRead (s : State) (e : Site) (oks : List (Lane × List Nat)) : List (Lane × List Byte) × State :=
  let s := (oks.filter (fun x => !x.2.isEmpty)).foldl (fun s x =>
    (s.lookQueue e.b.ctx x.1.w.idx [x.1.t.tid] x.2).fillFor x.1.w.core 0 x.2) s
  (oks.map (fun x => (x.1, held (s.laneBytes e.b.ctx x.1 x.2))), s)

/-- What a lane sends to the own device follows its own earlier stores to those bytes: they are written back, and the line leaves the core's caches (R272, R276; DEDUCED, log 24). -/
def State.ownFirst (s : State) (e : Site) (n : Nat) (l : Lane) (at_ : Nat) : State :=
  match s.unitPlace (dieOf e.b.core) (BitVec.ofNat 64 at_) n 0 false false with
  | .ok p => s.dropLines (e.issuer [l.t.tid]) l.w.core (run p n)
  | .error _ => s

/-- The beat sends to its own device. -/
def State.sendsHome (s : State) (e : Site) (su : BitVec 8) (d : Send) : Bool :=
  (wheelsOf e.lanes).any (fun w => (d.dests s (patOf su w)).contains (s.coordAt (dieOf e.b.core)))

/-- GST, GRED and GCPY: the pattern fault of the whole beat, or one execution for each home wheel after the beat's earlier accesses (R271, R272, R275), its sources read before it waits for room; `fin` writes D (R229-R231, R233, R286, R290). -/
def sendOp (h : Head) (rel : Bool) (sc : Scope) (su : BitVec 8) (x : GridX) (d : Send)
    (fin : Site → List Lane → State → State) : State → State :=
  gridOp h (fun e s =>
    let ws := wheelsOf e.lanes
    match ws.findSome? (fun w => (d.bad s (patOf su w)).map (fun k => (k, patOf su w))) with
    | some (k, p) =>
      s.beatFault e.b false (ws.flatMap (fun w => match d.bad s (patOf su w) with
        | some k' => patFault (ofWheel e.lanes w) k' (patOf su w)
        | none => patFault (ofWheel e.lanes w) k p))
    | none =>
      let accs := e.lanes.map (fun l => { l := l, r := d.src s e l : Acc })
      let own := s.sendsHome e su d
      s.relGate e (rel && !accs.any (fun a => a.r.waits.isSome)) sc (fun s => s.drainGate e own (fun s =>
        s.inOrder e (e.lanes.map (fun l => l.t.tid)) (fun s => s.gate e false true accs (fun oks s =>
        s.withBytes e 0 oks (fun s =>
          let (vals, s) := s.sendRead e oks
          let s := if own then vals.foldl (fun s v => (d.entries v.1 v.2).foldl (fun s x => s.ownFirst e x.2.length v.1 x.1) s) s else s
          let s := ws.foldl (fun s w =>
            s.post e (ofWheel e.lanes w) x (d.cap w) (s.sendPkts e x su d w vals) (d.dests s (patOf su w))) s
          (fin e (vals.map (fun v => v.1)) s).takeUp e (vals.map (fun v => v.1.t.tid))))))))

/-- Every device that the pattern matches gets a contribution (R230). -/
def manyDests (s : State) (p : BitVec 64) : List Nat := patDests s.grid s.mycoord p

/-- GST (R230). -/
def execGst (h : Head) (sz : CSize) (rel : Bool) (sc : Scope) (a : Src) (b : BitVec 8) (su : BitVec 8) (x : GridX) (s : State) : Out :=
  act (sendOp h rel sc su x
    { bad := fun s p => if patOk s.grid p then none else some 1, dests := manyDests, src := fun _ _ _ => .ok [] []
      entries := fun l _ => [(readSrc l 2 a, natBytes (cszBytes sz) (readV l.t (cszBytes sz / 4) b))]
      cap := fun l => BitVec.ofNat 64 (readSrc l 2 a), base := { ty := 1, esize := cszBytes sz } } (fun _ _ s => s)) s

/-- GCPY (R230, R231): D counts the lanes read of its wheel. -/
def execGcpy (h : Head) (ssp : Space) (sz : CSize) (rel : Bool) (sc : Scope) (d : BitVec 8) (a b : Src) (su : BitVec 8) (x : GridX)
    (s : State) : Out :=
  let n := cszBytes sz
  act (sendOp h rel sc su x
    { bad := fun s p => if patOk s.grid p then none else some 1, dests := manyDests
      src := fun s e l => s.pinCheck l.w.core false (s.access e l { sp := ssp, n := n, align := n, need := 1, lock := false } b 0)
      entries := fun l bs => [(readSrc l 2 a, bs ++ List.replicate (n - bs.length) 0)]
      cap := fun l => BitVec.ofNat 64 (readSrc l 2 a), base := { ty := 2, esize := n } }
    (fun e ls s => s.writeV { e with lanes := ls } d.toNat 0 (fun l =>
      [BitVec.ofNat 32 (0x80000000 + (ls.filter (fun k => k.w.idx == l.w.idx)).length)]))) s

/-- The convergence device of GRED; none when CONV is beyond the string or wrong (R231). -/
def convCoord (g : List Nat) (p : BitVec 64) (conv : Nat) : Option Nat :=
  let c := stringCoord g conv
  if conv < 2 ^ gridWidth g && coordOk g c && (List.range 5).all (fun k => patKind p k != 0 || coordAxis c k == patLo p k) then some c
  else none

/-- The cause of GRED's pattern fault (R233). -/
def gredBad (s : State) (conv : Nat) (p : BitVec 64) : Option Nat :=
  if !patOk s.grid p then some 1
  else if patExself p || !patMatch p s.mycoord || (convCoord s.grid p conv).isNone then some 2 else none

/-- The local source of a GRED lane (R172), and the bound of its last element's offset (R170). -/
def State.gredSrc (s : State) (e : Site) (l : Lane) (ssp : Space) (n esz : Nat) (a b : Src) : Res :=
  let far : Res := if 2 ^ 44 < readSrc l 2 a % 2 ^ 44 + n * esz
    then .bad 3 5 (BitVec.ofNat 64 (readSrc l 2 a)) (BitVec.ofNat 64 esz) else .ok [] []
  (s.pinCheck l.w.core false (s.access e l { sp := ssp, n := n * esz, align := esz, need := 1, lock := false } b 0)).join far

/-- GRED (R231). -/
def execGred (h : Head) (op : AmoOp) (ty : Ty) (n : BitVec 2) (ssp : Space) (a b : Src) (su : BitVec 8) (x : GridX) (conv : BitVec 10)
    (s : State) : Out :=
  let esz := 4 * tyRegs ty
  let k := 2 ^ n.toNat
  act (sendOp h false .dom su x
    { bad := fun s p => gredBad s conv.toNat p, dests := fun s p => (convCoord s.grid p conv.toNat).toList
      src := fun s e l => s.gredSrc e l ssp k esz a b
      entries := fun l bs => (List.range k).map (fun i => (readSrc l 2 a + i * esz,
        let v := (bs.drop (i * esz)).take esz
        v ++ List.replicate (esz - v.length) 0))
      cap := fun l => BitVec.ofNat 64 (readSrc l 2 a)
      base := { ty := 3, esize := esz, op := (amoCode op).toNat, tyc := (tyCode ty).toNat, conv := conv.toNat } } (fun _ _ s => s)) s

/-! ### GLD, GATOM (R232) -/

/-- One lane's request: its device, address, operand bytes, and its fault. -/
structure Ask where
  l : Lane
  coord : Nat
  addr : Int
  obj : Nat
  ops : List Byte
  deriving DecidableEq, Repr

/-- The fault of a request at its own core (R232, R233). -/
def State.askBad (s : State) (n : Nat) (q : Ask) : Option FLane :=
  if !coordOk s.grid q.coord then some { tid := q.l.t.tid, cls := 0x10, cause := 3, addr := BitVec.ofNat 64 q.coord }
  else if q.addr < 0 || decide ((2 ^ 44 : Int) ≤ q.addr) then
    some { tid := q.l.t.tid, cls := 3, cause := 5, addr := mkCap q.obj (q.addr % (2 ^ 44 : Int)).toNat, info := BitVec.ofNat 64 n }
  else none

/-- The address of a request. -/
def Ask.at_ (q : Ask) : Nat := q.obj * 2 ^ 44 + q.addr.toNat

/-- LTAG of a request: its index among the outstanding loads, 16 bits wide (R289, R390). -/
def ltagOf (tag : Nat) : Nat := tag % 65536

/-- One group of a beat: the lanes of one device and page are one request; each lane awaits its part of the reply under a tag of its own. -/
def State.ask (s : State) (e : Site) (d nreg : Nat) (acq : Option Scope) (base : Pkt) (qs : List Ask) : State :=
  let t0 := s.nextTag
  let s : State := { s with nextTag := t0 + qs.length }
  let die := dieOf e.b.core
  let pkts := packetsOf { base with srcc := s.coordAt die, srcDie := die, gtag := e.c.gtag, block := e.c.block, ltag := ltagOf t0 }
    (qs.map (fun q => (q.at_, q.ops)))
  let coord := (qs.head?.map (fun q => q.coord)).getD 0
  let cap := (qs.head?.map (fun q => (BitVec.ofNat 64 q.at_ : Cap))).getD 0
  let s := qs.zipIdx.foldl (fun s q =>
    (s.awaitTag e.b.ctx [q.1.l.t.tid] (t0 + q.2)).addLoad e.b.ctx
      { ltag := t0 + q.2, tids := [q.1.l.t.tid], wheel := q.1.l.w.idx, dreg := d, nreg := nreg, pc := e.b.pc, words := e.b.words
        cap := BitVec.ofNat 64 q.1.at_, coord := coord, nbytes := 4 * nreg, acq := acq }) s
  s.stage die (contribOf e (qs.map (fun q => q.l)) t0 cap pkts [coord])

/-- GLD and GATOM: the faults of lanes at their own core, and one request for each device and page, which waits for room in stage 2 (R232, R286, R288, R290). -/
def askOp (h : Head) (rel : Bool) (acq : Option Scope) (sc : Scope) (d nreg : Nat) (base : Pkt) (mk : Lane → Ask) : State → State :=
  gridOp h (fun e s =>
    let qs := e.lanes.map mk
    let good := qs.filter (fun q => (s.askBad (4 * nreg) q).isNone)
    let keys := (good.map (fun q => (q.coord, q.at_ / 65536))).eraseDups
    s.relGate e rel sc (fun s => s.drainGate e (good.any (fun q => q.coord == s.coordAt (dieOf e.b.core))) (fun s =>
      s.inOrder e (good.map (fun q => q.l.t.tid)) (fun s =>
        let s := (good.filter (fun q => q.coord == s.coordAt (dieOf e.b.core))).foldl (fun s q => s.ownFirst e (4 * nreg) q.l q.at_) s
        let s := keys.foldl (fun s k => s.ask e d nreg acq base (good.filter (fun q => (q.coord, q.at_ / 65536) == k))) s
        (s.takeUp e (good.map (fun q => q.l.t.tid))).beatFault e.b false (qs.filterMap (s.askBad (4 * nreg)))))))

/-- GLD (R232). -/
def execGld (h : Head) (sz : CSize) (acq : Bool) (sc : Scope) (d : BitVec 8) (a : Src) (ofs : BitVec 24) (c : Src) (s : State) : Out :=
  let n := cszBytes sz
  act (askOp h false (if acq then some sc else none) sc d.toNat (n / 4) { ty := 4, esize := n } (fun l =>
    let v := readSrc l 2 a
    { l := l, coord := readSrc l 1 c, addr := ((v % 2 ^ 44 : Nat) : Int) + ofs.toInt, obj := v / 2 ^ 44 % 2 ^ 20, ops := [] })) s

/-- GATOM (R232): .cas sends its compare and swap values as a pair. -/
def execGatom (h : Head) (op : AmoOp) (ty : Ty) (ord : Ordr) (sc : Scope) (d : BitVec 8) (a b c : Src) (s : State) : Out :=
  let n := tyRegs ty
  let m := if op = .cas then 2 * n else n
  act (askOp h (ordRel ord) (if ordAcq ord then some sc else none) sc d.toNat n
    { ty := 5, esize := 4 * m, op := (amoCode op).toNat, tyc := (tyCode ty).toNat } (fun l =>
    let v := readSrc l 2 a
    { l := l, coord := readSrc l 1 c, addr := ((v % 2 ^ 44 : Nat) : Int), obj := v / 2 ^ 44 % 2 ^ 20
      ops := natBytes (4 * m) (readSrc l m b) })) s

/-! ### Answers at the sender (R233, R297, R299) -/

/-- Remote cause of a STATUS (R233, R297). -/
def remoteCause (status : Nat) : Nat := if status = 4 then 1 else status

/-- The remote fault of a contribution that has retired: a closed record on the issuing die (R233, R394, R395), or the stop of a handler (R220). -/
def State.remoteRec (s : State) (die : Nat) (c : Contrib) (dst status : Nat) : State :=
  match (s.anyCtx c.ctx).filter (fun x => x.handler) with
  | some x => s.stopHandler c.ctx x 0x11 (remoteCause status) c.pc
  | none => s.closedRec die
    { cls := 0x11, cause := remoteCause status, lanes := c.lanes, launch := c.launch, block := c.block, wheel := c.wheel
      core := c.core, quarter := c.quarter, die := die, pc := c.pc, words := c.words, addr := c.cap
      info := BitVec.ofNat 64 dst, ctx := c.ctx }

/-- The destination has answered for good: the contribution is no longer owed there, and leaves the buffer with its last one. -/
def State.settled (s : State) (die : Nat) (c : Contrib) (dst : Nat) : State :=
  let rest := c.dests.filter (fun x => x.1 != dst)
  let s := s.modGrid die (fun g => { g with contribs := (g.contribs.map (fun x =>
    if x.cseq = c.cseq then { x with dests := rest } else x)).filter (fun x => !x.dests.isEmpty) })
  match rest, c.ltag with
  | [], some t => s.modAny c.ctx (fun x => { x with remotes := x.remotes.filter (fun r =>
      !(decide (t ≤ r.2) && decide (r.2 < t + (if (c.pkts.headD {}).ty ≤ 3 then 1 else c.tids.length)))) })
  | _, _ => s

/-- The answer to a contribution: AG counts, a failure writes its record (R233, R297). -/
def State.contribAnswer (s : State) (die : Nat) (c : Contrib) (dst status : Nat) : State :=
  let s := match c.ag with
    | none => s
    | some g => s.countSlot c.ctx g (fun x => x.count (status != 0) false (status == 4) none 0)
  let s := if status ∈ [2, 3, 4] then s.remoteRec die c dst status else s
  s.settled die c dst

/-- The refusal of a request: its lanes park at the instruction with one record; the loads of a saved context keep the refusal (R232, R390). -/
def State.refuseAsk (s : State) (c : Contrib) (t0 dst status : Nat) : State :=
  let mine := fun (o : OLoad) => decide (t0 ≤ o.ltag) && decide (o.ltag < t0 + c.tids.length)
  match sGet s.ctxs c.ctx with
  | none => s.modAny c.ctx (fun x => { x with loads := x.loads.map (fun o =>
      if mine o then { o with refused := true, coord := dst, cause := remoteCause status } else o) })
  | some x =>
    let os := x.loads.filter mine
    let s := s.modCtx c.ctx (fun x => os.foldl (fun x o => x.dropLoad o) x)
    s.faultLanes c.ctx c.pc c.words false (os.flatMap (fun o => o.tids.map (fun t =>
      { tid := t, cls := 0x11, cause := remoteCause status, addr := o.cap, info := BitVec.ofNat 64 dst })))

/-- The answer to a request: each lane's part of the data, or the refusal (R232, R297). -/
def State.askAnswer (s : State) (die : Nat) (c : Contrib) (p : Pkt) : State :=
  let t0 := c.ltag.getD 0
  let n := gridBytes (c.pkts.headD {})
  let s := s.settled die c p.srcc
  if p.status = 0 then
    (List.range c.tids.length).foldl (fun s i => s.reply c.ctx (t0 + i) false ((p.data.drop (n * i)).take n) 0x11 0) s
  else s.refuseAsk c t0 p.srcc p.status

/-- The state of a contribution for a destination. -/
def State.setDest (s : State) (die cseq dst : Nat) (d : DestState) : State :=
  s.modGrid die (fun g => { g with contribs := g.contribs.map (fun c =>
    if c.cseq = cseq then { c with dests := c.dests.map (fun x => if x.1 = dst then (dst, d) else x) } else c) })

/-- A response reaches its source die: the contribution or request that it answers, once for each destination (R297, R420). -/
def State.answered (s : State) (die : Nat) (p : Pkt) : State :=
  match (s.die die).grid.contribs.find? (fun c => c.cseq == p.cseq && c.dests.any (fun x => x.1 == p.srcc)) with
  | none => s
  | some c =>
    if p.status = 5 then s.setDest die c.cseq p.srcc (.retryAt (s.cycle + 256))
    else if 5 < p.status then s
    else if (c.pkts.headD {}).ty ≤ 3 then s.contribAnswer die c p.srcc p.status
    else s.askAnswer die c p

/-- ACKNOWLEDGEMENT_ARRIVAL (R297). -/
def execAcknowledgementArrival (die : Nat) (p : Pkt) (s : State) : Out := act (fun s => s.answered die p) s

/-- GRID_REPLY_ARRIVAL (R232, R297). -/
def execGridReplyArrival (die : Nat) (p : Pkt) (s : State) : Out := act (fun s => s.answered die p) s

/-! ### The crossbar (R291, R292, R298, R420) -/

/-- What the contributions of a die still owe, in the order in which the crossbar emits it (R291, R298). -/
def GridUnit.owing (g : GridUnit) : List (Contrib × Nat × DestState) := g.contribs.flatMap (fun c => c.dests.map (fun x => (c, x)))

/-- Packets to a destination wait for a route switch (R418). -/
def State.destHeld (s : State) (die dst : Nat) : Bool :=
  dst != s.coordAt die && (s.destWord die (coordRank s.grid dst)).hold

/-- The next destination that the crossbar of a die serves: what a lost link carried, or what has not been sent and no route switch holds (R291, R298, R418, R420). -/
def State.nextSend (s : State) (die : Nat) : Option (Contrib × Nat) :=
  ((s.die die).grid.owing.find? (fun x => match x.2.2 with
    | .fresh => !s.destHeld die x.2.1
    | .retryAt c => c == 0
    | .sent _ _ => false)).map (fun x => (x.1, x.2.1))

/-- A contribution's packets go to a destination: a local one at once, another by its rule; an unreachable one is settled at the source (R291-R293). -/
def State.sendTo (s : State) (die : Nat) (c : Contrib) (dst : Nat) : State :=
  let pkts := c.pkts.map (fun p => { p with dstc := dst })
  if dst = s.coordAt die then
    pkts.foldl (fun s p => s.push (.requestPacketArrival die (.pkt p))) (s.setDest die c.cseq dst (.sent none s.cycle))
  else match s.route die (s.useBank die dst) dst with
    | none => s.answered die { answerTo { c.pkts.headD {} with dstc := dst } 4 with cseq := c.cseq }
    | some (port, d) =>
      pkts.foldl (fun s p => s.enlink port (.pkt { p with detour := d, ver := s.useBank die dst == 1 }))
        (s.setDest die c.cseq dst (.sent (some port) s.cycle))

/-- CROSSBAR_EXPANSION (R291): one coordinate in a cycle; stage 2 takes what has room. -/
def execCrossbarExpansion (die : Nat) (s : State) : Out :=
  act (fun s =>
    let s := State.enterStaged die (s.die die).grid.staged.length s
    match s.nextSend die with
    | none => s
    | some (c, dst) => s.sendTo die c dst) s

/-- A contribution of a die to a destination, if it may be sent again there now. -/
def State.resendAt (s : State) (die cseq dst : Nat) (f : DestState → Bool) : Option Contrib :=
  ((s.die die).grid.owing.find? (fun x => x.1.cseq == cseq && x.2.1 == dst && f x.2.2)).map (fun x => x.1)

/-- What a die still owes a destination ahead of a contribution, in the crossbar's order. -/
def State.owedBefore (s : State) (die cseq dst : Nat) : List (Contrib × Nat × DestState) :=
  (((s.die die).grid.owing.filter (fun x => x.2.1 == dst)).takeWhile (fun x => x.1.cseq != cseq))

/-- A contribution is sent again to a destination after whatever was sent there before it and is still owed, so that it keeps its place: a later packet is never performed before it (R298); not while one of those waits after a retry. -/
def State.sendAgain (s : State) (die dst : Nat) (c : Contrib) : State :=
  let before := s.owedBefore die c.cseq dst
  if before.any (fun x => match x.2.2 with | .retryAt _ => true | _ => false) then s
  else (before.map (fun x => x.1) ++ [c]).foldl (fun s x => s.sendTo die x dst) s

/-- RETRY_RESEND (R297): 256 cycles after the retry. -/
def execRetryResend (die cseq dst : Nat) (s : State) : Out :=
  act (fun s =>
    match s.resendAt die cseq dst (fun d => match d with | .retryAt c => decide (c ≤ s.cycle) | _ => false) with
    | none => s
    | some c => s.sendAgain die dst c) s

/-- CONTRIBUTION_RESEND_TIMEOUT (R420): 2^20 cycles without an answer. -/
def execContributionResendTimeout (die cseq dst : Nat) (s : State) : Out :=
  act (fun s =>
    match s.resendAt die cseq dst (fun d => match d with | .sent _ c => decide (c + 2 ^ 20 < s.cycle) | _ => false) with
    | none => s
    | some c => s.sendAgain die dst c) s

/-! ### The destination (R228, R229, R295, R296) -/

/-- Rights that an element needs (R228). -/
def gridNeed (p : Pkt) : Nat :=
  16 + (match p.ty with
    | 1 => 2
    | 2 => 2
    | 3 => 8
    | 4 => 1
    | _ => if p.op = 6 ∨ p.op = 7 then 9 else 8)

/-- The home die of a page, as the table copy of a die names it (R295, R370). -/
def State.pageHome (s : State) (die obj ofs : Nat) : Option Nat :=
  match s.readDesc die obj with
  | none => none
  | some w =>
    let leaf := s.num (s.leafP die (dLeafofs w) (ofs / 65536)) 8
    if lfV leaf && decide (lfAp leaf ≤ 1) then homeDie (s.leafPlace die obj ofs leaf) else none

/-- The place of an element by the checks of R228 at the port of the page's home die, with that die's leaf entry; none when they fail. The entry only says where the page lies. -/
def State.gridPlace (s : State) (die obj ofs n need : Nat) : Option (Nat × Nat) :=
  match s.pageHome die obj ofs with
  | none => none
  | some h =>
    match r63 (s.readDesc h obj) obj ofs n need, s.readDesc h obj with
    | none, some w =>
      let leaf := s.num (s.leafP h (dLeafofs w) (ofs / 65536)) 8
      if ofs % n = 0 && lfV leaf && decide (lfAp leaf ≤ 1) && !s.leafBad leaf false && !lfPoison leaf then
        some (s.leafPlace h obj ofs leaf, leaf)
      else none
    | _, _ => none

/-- The operation of an element on its places: the bytes it returns, or none when it reads poisoned data; a packet with POISON marks what it writes (R295). -/
def State.gridElem (s : State) (p : Pkt) (ps : List Nat) (v : List Byte) : Option (List Byte × State) :=
  let n := ps.length
  let words := (ps.map (fun q => place (pTag q) (pIdx q / 4 * 4))).dedup
  let mark := fun (s : State) => if p.poison then { s with poison := s.poison ++ words } else s
  if decide (3 ≤ p.ty) && words.any s.poison.contains then none
  else if p.ty ≤ 2 then some ([], mark (s.homeWrites (ps.zip v)))
  else if p.ty = 4 then some (ps.map s.byte, s)
  else
    let op := amoOf (BitVec.ofNat 4 p.op)
    let ty := tyOf (BitVec.ofNat 5 p.tyc)
    let (old, s) := s.rmw ps (fun m => amoNew op ty m (bytesNat (v.take n)) (bytesNat (v.drop n)))
    some (if p.ty = 5 then natBytes n old else [], mark s)

/-- The places of an element of a packet. -/
def State.elemSpot (s : State) (die : Nat) (p : Pkt) (i : Nat) : Option (List Nat × Nat) :=
  (s.gridPlace die p.obj (p.page * 65536 + (p.offs[i]?).getD 0) (gridBytes p) (gridNeed p)).map (fun x =>
    (run x.1 (gridBytes p), x.2))

/-- The elements of a packet in entry order: the reply's bytes, and whether one was refused (R295). -/
def State.gridPerform (s : State) (die : Nat) (p : Pkt) : List Byte × Bool × State :=
  (List.range p.nelem).foldl (fun (a : List Byte × Bool × State) i =>
    let v := (p.data.drop (p.esize * i)).take p.esize
    match (a.2.2.elemSpot die p i).bind (fun x => a.2.2.gridElem p x.1 v) with
    | none => (a.1, true, a.2.2)
    | some (b, s) => (a.1 ++ b, a.2.1, s)) ([], false, s)

/-- The page's port counts the packet if its requester is remote from the page (R376). -/
def State.gridHot (s : State) (die : Nat) (p : Pkt) : State :=
  match (List.range p.nelem).findSome? (s.elemSpot die p) with
  | none => s
  | some (ps, leaf) =>
    let home := ((ps.head?).bind homeDie).getD die
    if p.srcc = s.coordAt die then
      (if p.srcDie = home then s else s.countHot home p.obj p.page p.srcDie (lfHot leaf))
    else s.countHot home p.obj p.page (4 + coordRank s.grid p.srcc) (lfHot leaf)

/-- Tag `a` is newer than tag `b` (R229). -/
def tagNewer (a b : Nat) : Bool :=
  let d := (a + 65536 - b % 65536) % 65536
  decide (1 ≤ d) && decide (d ≤ 32767)

/-- The block that a contribution with RGV reaches: its context, or STATUS 5 for retry and 3 for stale (R229). -/
def State.gridTarget (s : State) (tag block : Nat) : Except Nat Nat :=
  match s.launches.find? (fun l => l.cmd.gtag == tag && !l.cancelled) with
  | none => .error (if tagNewer tag s.newtag then 5 else 3)
  | some l =>
    let here := fun (c : Ctx) => c.launch == l.no && c.trec.isNone && c.spec.isNone && !c.handler && c.block == block
    if l.cmd.blocks ≤ block then .error 3
    else match s.ctxs.find? (fun e => here e.2) with
      | some e => .ok e.1
      | none => if l.ended.contains block then .error 3 else .error 5

/-- Key of a source die of the domain (R420). -/
def State.srcKey (s : State) (p : Pkt) : Nat := 4 * coordRank s.grid p.srcc + p.srcDie

/-- A packet of a contribution at or before the last one counted from its source die (R420). -/
def State.stalePkt (s : State) (die : Nat) (p : Pkt) : Bool :=
  match sGet (s.die die).grid.high (s.srcKey p) with
  | none => false
  | some h => decide ((h + 65536 - p.cseq % 65536) % 65536 < 32768)

/-- The reassembly entry of a contribution, in whichever die's table it stands (R296). -/
def State.reasmOf (s : State) (p : Pkt) : Option Reasm :=
  (List.range 4).findSome? (fun d => (s.die d).grid.reasm.find? (fun r =>
    r.srcc == p.srcc && r.srcDie == p.srcDie && r.cseq == p.cseq))

/-- The reassembly entry of a contribution is freed. -/
def State.dropReasm (s : State) (p : Pkt) : State :=
  (List.range 4).foldl (fun s d => s.modGrid d (fun g => { g with reasm := g.reasm.filter (fun r =>
    !(r.srcc == p.srcc && r.srcDie == p.srcDie && r.cseq == p.cseq)) })) s

/-- Responses of a source die that a late duplicate may still ask for: those whose CSEQ lies within half of its range (R420). -/
def keepResps (a : Pkt) (l : List Pkt) : List Pkt := a :: l.filter (fun x => decide ((a.cseq + 65536 - x.cseq % 65536) % 65536 < 32768) && x.cseq != a.cseq)

/-- A contribution or request is answered for good: its entry is freed, every die remembers its sequence and response, and the response leaves, once more for each duplicate that the entry met (R297, R420; DEDUCED, log 31). -/
def State.finishPkt (s : State) (die : Nat) (p : Pkt) (status : Nat) (data : List Byte) : State :=
  let a := answerTo p status
  let a := if status = 0 && p.ty ≥ 4 then { a with nelem := data.length / gridBytes p, data := data } else a
  let again := ((s.reasmOf p).map (fun r => r.dups)).getD 0
  let s := (List.range 4).foldl (fun s d => s.modGrid d (fun g => { g with
    high := sPut g.high (s.srcKey p) p.cseq
    lastResp := sPut g.lastResp (s.srcKey p) (keepResps a ((sGet g.lastResp (s.srcKey p)).getD [])) })) (s.dropReasm p)
  (List.replicate again a).foldl (fun s a => s.respond die (.pkt a)) (s.respond die (.pkt a))

/-- Clean copies that the issuing core and its die hold of what its own device performs for it are invalid: a later load of the thread reads no older value (R276). -/
def State.dropOwn (s : State) (die : Nat) (p : Pkt) : State :=
  if p.srcc ≠ s.coordAt die then s
  else match (s.die p.srcDie).grid.contribs.find? (fun c => c.cseq == p.cseq) with
    | none => s
    | some c =>
      let ls := ((List.range p.nelem).flatMap (fun i => ((s.elemSpot die p i).map (fun x => x.1)).getD [])).map lineOf
      let on := fun q => ls.contains (lineOf q)
      (s.dropL1 (40 * p.srcDie + c.core) on).dropL2 p.srcDie on

/-- A packet is performed and recorded; the last one counts the arrival and answers (R229, R296, R297). -/
def State.takePkt (s : State) (die : Nat) (p : Pkt) (ctx : Option Nat) : State :=
  let s := (s.gridHot die p).dropOwn die p
  let (data, bad, s) := s.gridPerform die p
  let old := (s.reasmOf p).getD { srcc := p.srcc, srcDie := p.srcDie, cseq := p.cseq, got := [] }
  let r := { old with got := old.got ++ [p.pktidx], refused := old.refused || bad, poison := old.poison || p.poison }
  if p.npkt ≤ r.got.length then
    let status := if r.refused then 2 else if p.void then 1 else 0
    let s := match ctx with
      | none => s
      | some k => s.countSlot k p.rg (fun g =>
          g.count (status != 0) r.poison false (some p.pattern) (patCount s.grid (s.coordAt die) p.pattern))
    s.finishPkt die p status data
  else (s.dropReasm p).modGrid die (fun g => { g with reasm := g.reasm ++ [r] })

/-- A contribution sequence is later than another, modulo 2^16. -/
def cseqAfter (a b : Nat) : Bool := decide (0 < (a + 65536 - b % 65536) % 65536) && decide ((a + 65536 - b % 65536) % 65536 < 32768)

/-- A request of the same source die waits here, for a pin or for its turn, that is not later than a packet. -/
def State.srcDelayed (s : State) (p : Pkt) : Bool :=
  s.delayed.any (fun d => match d.req with
    | .requestPacketArrival _ (.pkt q) => q.srcc == p.srcc && q.srcDie == p.srcDie && !cseqAfter q.cseq p.cseq
    | _ => false)

/-- The packet itself waits here already. -/
def State.waitsHere (s : State) (p : Pkt) : Bool :=
  s.delayed.any (fun d => match d.req with
    | .requestPacketArrival _ (.pkt q) => q.srcc == p.srcc && q.srcDie == p.srcDie && q.cseq == p.cseq && q.pktidx == p.pktidx
    | _ => false)

/-- A pin refuses one of the packet's elements (R279). -/
def State.pktPinned (s : State) (die : Nat) (p : Pkt) : Bool :=
  (List.range p.nelem).any (fun i => match s.elemSpot die p i with
    | none => false
    | some x => x.1.any (fun q => s.pinned 160 (lineOf q)))

/-- The contributions of a source die that wait to be sent again (R298). -/
def State.retriedOf (s : State) (die : Nat) (p : Pkt) : List Retried := (sGet (s.die die).grid.retried (s.srcKey p)).getD []

/-- Every die notes which contributions of a source die wait. -/
def State.setRetried (s : State) (p : Pkt) (l : List Retried) : State :=
  (List.range 4).foldl (fun s d => s.modGrid d (fun g => { g with retried := if l.isEmpty then sDel g.retried (s.srcKey p) else sPut g.retried (s.srcKey p) l })) s

/-- What the order of R298 lets a packet do: be performed, be answered with retry, wait here, or be left to the packet that was refused. -/
inductive PktTurn where
  | go
  | again
  | late
  | drop
  deriving DecidableEq, Repr

/-- A packet may be answered with retry: a contribution with RGV (R229, R297). -/
def mayRetry (p : Pkt) : Bool := p.rgv && decide (p.ty ≤ 3)

/-- A packet among the contributions that wait to be sent again, which it leaves if it goes on. One that an answer has passed over, without being sent again, has been settled at its source (R297, R298; DEDUCED, log 29). -/
def pktTurn (l : List Retried) (p : Pkt) : PktTurn × List Retried :=
  match l.find? (fun r => r.cseq == p.cseq) with
  | some r =>
    if p.pktidx ≠ r.pktidx then (.drop, l)
    else
      let l := l.filter (fun x => !cseqAfter r.cseq x.cseq || decide (r.ord < x.ord))
      if l.any (fun x => cseqAfter r.cseq x.cseq) then (.again, l) else (.go, l.filter (fun x => x.cseq != r.cseq))
  | none =>
    if l.any (fun x => cseqAfter p.cseq x.cseq) then (if !mayRetry p then .late else if p.pktidx = 0 then .again else .drop, l) else (.go, l)

/-- A contribution is answered with retry: nothing of it, and nothing later of its source, goes on before this packet (R297, R298). -/
def State.sayRetry (s : State) (die : Nat) (p : Pkt) (l : List Retried) : State :=
  let r : Retried := { cseq := p.cseq, pktidx := p.pktidx, ord := l.foldl (fun a x => max a x.ord) 0 + 1 }
  let rest := l.filter (fun x => x.cseq != p.cseq)
  (s.setRetried p (rest.filter (fun x => cseqAfter p.cseq x.cseq) ++ [r] ++ rest.filter (fun x => !cseqAfter p.cseq x.cseq))).respond die
    (.pkt (answerTo p 5))

/-- A duplicate of a packet whose contribution is in reassembly is counted there: it is acknowledged again when the contribution is (R296, R420). -/
def State.noteDup (s : State) (p : Pkt) : State :=
  (List.range 4).foldl (fun s d => s.modGrid d (fun g => { g with reasm := g.reasm.map (fun r =>
    if r.srcc = p.srcc ∧ r.srcDie = p.srcDie ∧ r.cseq = p.cseq then { r with dups := r.dups + 1 } else r) })) s

/-- A request packet at a destination (R229, R289, R293, R295-R298, R420). What may not be answered with retry waits here instead, and its second arrival says that its source owes nothing before it any more (log 29). -/
def State.arrivePkt (s : State) (die : Nat) (p : Pkt) : State :=
  let say := fun (st : Nat) => s.respond die (.pkt (answerTo p st))
  let late : State := { s with delayed := s.delayed ++ [{ req := .requestPacketArrival die (.pkt p) }] }
  if p.bad then say 2
  else if p.dstc ≠ s.coordAt die then say 4
  else if s.waitsHere p then s.setRetried p ((s.retriedOf die p).filter (fun x => !cseqAfter p.cseq x.cseq))
  else if s.srcDelayed p then late
  else if s.stalePkt die p then
    (match ((sGet (s.die die).grid.lastResp (s.srcKey p)).getD []).find? (fun a => a.cseq == p.cseq) with
      | some a => s.respond die (.pkt { a with dstc := p.srcc })
      | none => say (if p.ty ≤ 3 then 0 else 2))
  else
    let old := s.reasmOf p
    if (old.map (fun r => r.got.contains p.pktidx)).getD false then s.noteDup p
    else
      let l := s.retriedOf die p
      match pktTurn l p with
      | (.drop, _) => s
      | (.late, _) => late
      | (.again, l) => s.sayRetry die p l
      | (.go, l') =>
        match (if p.rgv && p.ty ≤ 3 then (s.gridTarget p.gtag p.block).map some else .ok none) with
        | .error 3 => (s.setRetried p l').finishPkt die p 3 []
        | .error _ => s.sayRetry die p l'
        | .ok ctx =>
          if decide (1 < p.npkt) && old.isNone && decide (1024 ≤ (s.die die).grid.reasm.length) then
            (if mayRetry p then s.sayRetry die p l' else late)
          else if s.pktPinned die p then late
          else (if l.isEmpty then s else s.setRetried p l').takePkt die p ctx

/-- The answer to a peer's request leaves (R374). -/
def State.answerPeer (s : State) (r : PeerReq) (refused : Bool) (data : List Byte) : State :=
  { s with peerAns := s.peerAns ++ [{ dst := r.src, tag := r.tag, refused := refused, data := data }] }

/-- Rights of a peer-aperture access. -/
def peerNeed : PeerOp → Nat
  | .read => 1
  | .fetch => 4
  | .check => 2
  | .write _ => 2
  | .atomic _ _ _ _ => 8

/-- The line accesses of a peer's request count at the ports of their pages' homes (R376). -/
def State.countPeer (s : State) (die : Nat) (r : PeerReq) (ps : List Nat) : State :=
  ((List.range r.n).filter (fun i => i == 0 || (r.ofs + i) % 128 == 0)).foldl (fun s i =>
    let leaf := match s.readDesc die r.obj with
      | none => 0
      | some w => s.num (s.leafP die (dLeafofs w) ((r.ofs + i) / 65536)) 8
    s.countHot (((ps[i]?).bind homeDie).getD die) r.obj ((r.ofs + i) / 65536) (4 + coordRank s.grid r.src) (lfHot leaf)) s

/-- The bytes of a peer's read or fetch, or the refusal of poisoned ones (R374, R440). -/
def State.readPeer (s : State) (die : Nat) (r : PeerReq) (ps : List Nat) : State :=
  if ps.any (fun q => s.poison.contains (wordOf q)) then s.answerPeer r true []
  else (s.countPeer die r ps).answerPeer r false (ps.map s.byte)

/-- A peer-aperture access: the checks of R374 against this device's own tables, then the access at the page's home; one that is refused counts nothing (R374-R376, R398). -/
def State.arrivePeer (s : State) (die : Nat) (r : PeerReq) : State :=
  let wr := match r.op with
    | .read => false
    | .fetch => false
    | _ => true
  match s.unitRange die (mkCap r.obj r.ofs) r.n (peerNeed r.op) wr false with
  | .error _ => s.answerPeer r true []
  | .ok ps =>
    if decide (2 ^ 44 ≤ r.ofs) || ps.any (fun p => pTag p != 0) then s.answerPeer r true []
    else if ps.any (fun p => s.pinned 160 (lineOf p)) then
      { s with delayed := s.delayed ++ [{ req := .requestPacketArrival die (.peer r) }] }
    else
      match r.op with
      | .read => s.readPeer die r ps
      | .fetch => s.readPeer die r ps
      | .check => s.answerPeer r false []
      | .write data => ((s.countPeer die r ps).homeWrites (ps.zip data)).answerPeer r false []
      | .atomic op ty b c =>
        if ps.any (fun q => s.poison.contains (wordOf q)) || r.ofs % (4 * tyRegs ty) != 0 then s.answerPeer r true []
        else
          let (old, s) := (s.countPeer die r ps).rmw ps (fun m => amoNew op ty m b.toNat c.toNat)
          s.answerPeer r false (natBytes r.n old)

/-- REQUEST_PACKET_ARRIVAL (R295, R374). -/
def execRequestPacketArrival (die : Nat) (r : Request) (s : State) : Out :=
  act (fun s => match r with
    | .pkt p => s.arrivePkt die p
    | .peer r => s.arrivePeer die r) s

end Sys2Proof.Machine
end

