-- ==== Sys2Proof/Machine/Matrix.lean ====
section
/-! DEFINITION. Matrix instructions: signing sets (R146-R152), the operation (R153-R166), fragments in shared memory (R167-R169). -/

namespace Sys2Proof.Machine

/-! ### Convergence registers (R57, R146-R151) -/

/-- A core's copy of a convergence register. -/
def Ctx.conv (c : Ctx) (core n : Nat) : Conv := (sGet c.cregs (cvKey core n)).getD {}

/-- Members of the signing set that EXP declares (R146). -/
def Conv.size (v : Conv) : Nat := if v.exp = BitVec.allOnes 128 then 128 else 32

/-- The cause with which a signature is refused (R148 step 1, R151); `set` is the SET bit of a matrix instruction. -/
def signBad (c : Ctx) (v : Conv) (tid : Nat) (set : Option Bool) : Option Nat :=
  if v.exp = 0 then some 1
  else if (match set with | some b => b != (v.size == 128) | none => false) then some 2
  else if c.dim < (tid / v.size + 1) * v.size then some 6
  else none

/-- INFO of the convergence class (R392). -/
def convInfo (n group : Nat) : BitVec 64 := BitVec.ofNat 64 (n + group * 65536)

/-- A fault of a generation or an operation parks every non-void signer, with one record (R151, R165, R393). -/
def State.groupFault (s : State) (ctx n group size : Nat) (gs : List Signer) (cls cause : Nat) (addr info : BitVec 64) :
    State :=
  let ns := gs.filter (fun g => !g.void)
  match ns, sGet s.ctxs ctx with
  | [], _ => s
  | _, none => s
  | g :: _, some c =>
    match c.spec with
    | some slot => s.discardRun slot 2
    | none =>
      let tids := ns.map (fun g => g.tid)
      let parked := c.modT (fun t => tids.contains t.tid) (fun t => t.park t.pc)
      let low := (c.lanes [group * size]).head?
      let w := (low.map (fun l => l.w)).getD { idx := g.wheel }
      if c.handler then
        s.stopHandler ctx parked cls cause g.pc
      else
        (s.setCtx ctx parked).modDie (dieOf w.core) (fun d => { d with recs := d.recs ++ [
          { cls := cls, cause := cause, opn := true
            lanes := (c.lanes tids).foldl (fun (a : Word) (l : Lane) => if l.w.idx = w.idx then a ||| BitVec.ofNat 32 (2 ^ l.t.lane) else a) 0
            launch := c.launch, block := c.block, wheel := w.idx
            core := w.core % 40, quarter := w.quarter, die := dieOf w.core
            pc := g.pc, words := g.words, addr := addr, info := if cls = 0x0D then convInfo n group else info
            ctx := ctx, tids := tids }] })

/-- A signature refused when it is applied: a matrix instruction parks its thread, a CVSIGN that has retired leaves a closed record, or stops a handler context (R148, R220). -/
def State.refuseSig (s : State) (ctx n : Nat) (c : Ctx) (v : Conv) (g : Signer) (cause : Nat) : State :=
  let info := convInfo n (g.tid / v.size)
  if g.void then
    match c.spec with
    | some slot => s.discardRun slot 2
    | none =>
      if c.handler then s.stopHandler ctx c 0x0D cause g.pc
      else
      let w := (c.wheel g.wheel).getD { idx := g.wheel }
      s.closedRec (dieOf w.core)
        { cls := 0x0D, cause := cause, opn := false, lanes := BitVec.ofNat 32 (2 ^ g.lane)
          launch := c.launch, block := c.block, wheel := g.wheel, core := w.core % 40, quarter := w.quarter
          die := dieOf w.core, pc := g.pc, words := g.words, info := info, ctx := ctx }
  else s.faultLanes ctx g.pc g.words false [{ tid := g.tid, cls := 0x0D, cause := cause, info := info }]

/-- The bits of a signer's words that R150 compares: all but GMODE, GPRED and YLD. -/
def signedBits (w : Word × Word × Word) : Word × Word × Word := (w.1 &&& 0xFFFF80FF, w.2.1, w.2.2 &&& 0xEFFFFFFF)

/-- An operation enters a queue: behind those of earlier cycles, and in ascending quarter, then wheel, of the last signer among those of its own cycle (R150). -/
def enterQueue (q : List MOp) (o : MOp) : List MOp :=
  q.filter (fun x => x.closed != o.closed || decide (x.order ≤ o.order)) ++
    o :: q.filter (fun x => x.closed == o.closed && decide (o.order < x.order))

/-- A generation has closed: cause 5, or one operation for the core's matrix unit (R150). -/
def State.closeGen (s : State) (ctx core n group size : Nat) (gs : List Signer) : State :=
  match gs.filter (fun g => !g.void) with
  | [] => s
  | g :: rest =>
    if rest.any (fun x => signedBits x.words != signedBits g.words) then
      s.groupFault ctx n group size gs 0x0D 5 0 0
    else
      let last := gs.getLastD g
      let q := (((sGet s.ctxs ctx).bind (fun c => c.wheel last.wheel)).map (fun w => w.quarter)).getD 0
      let o : MOp := { ctx := ctx, creg := n, group := group, signers := gs, closed := s.cycle, order := 1024 * q + last.wheel }
      s.modCore core (fun x => { x with mqueue := enterQueue x.mqueue o })

/-- Signatures applied in order to a core's copy of a convergence register; those that must wait are held, and a close applies the held ones again (R148). -/
def signLoop : Nat → State → Nat → Nat → Nat → List Signer → State
  | 0, s, _, _, _, _ => s
  | _, s, _, _, _, [] => s
  | k + 1, s, ctx, core, n, g :: rest =>
    match sGet s.ctxs ctx with
    | none => s
    | some c =>
      let v := c.conv core n
      match signBad c v g.tid (if g.void then none else some g.m128) with
      | some cause => signLoop k (s.refuseSig ctx n c v g cause) ctx core n rest
      | none =>
        let grp := g.tid / v.size
        let bit : BitVec 128 := BitVec.ofNat 128 (2 ^ (g.tid % v.size))
        if v.sgn != 0 && (v.group != some grp || v.sgn &&& bit != 0) then
          signLoop k (s.setCtx ctx (c.modConv (cvKey core n) (fun v => { v with held := v.held ++ [g] }))) ctx core n rest
        else
          let sgn := v.sgn ||| bit
          let gs := v.signers ++ [g]
          if sgn = v.exp then
            let s := s.setCtx ctx (c.modConv (cvKey core n)
              (fun v => { v with sgn := 0, group := none, signers := [], held := [] }))
            signLoop k (s.closeGen ctx core n grp v.size gs) ctx core n (v.held ++ rest)
          else
            signLoop k (s.setCtx ctx (c.modConv (cvKey core n)
              (fun v => { v with sgn := sgn, group := some grp, signers := gs }))) ctx core n rest

/-- Signatures of one cycle reach a convergence register. -/
def State.sign (s : State) (ctx core n : Nat) (gs : List Signer) : State :=
  let held := (match sGet s.ctxs ctx with | some c => (c.conv core n).held.length | none => 0)
  signLoop ((gs.length + held + 1) * (gs.length + held + 1)) s ctx core n gs

/-- The open generation of a convergence register faults, and the held signatures are applied (R151). -/
def State.breakGen (s : State) (ctx core n cause : Nat) : State :=
  match sGet s.ctxs ctx with
  | none => s
  | some c =>
    let v := c.conv core n
    let s := s.setCtx ctx (c.modConv (cvKey core n) (fun v => { v with sgn := 0, group := none, signers := [], held := [] }))
    (s.groupFault ctx n (v.group.getD 0) v.size v.signers 0x0D cause 0 0).sign ctx core n v.held

/-- The signer of a lane. -/
def signerOf (e : Site) (void m128 : Bool) (l : Lane) : Signer :=
  { tid := l.t.tid, void := void, m128 := m128, words := e.b.words, pc := e.b.pc, wheel := l.w.idx, lane := l.t.lane }

/-- The active lanes sign: refused ones park, those of a matrix instruction block (R148, R149). -/
def signOp (h : Head) (n : Nat) (void m128 : Bool) : State → State :=
  onBeat h (fun e s =>
    let core := e.b.core
    let v := e.c.conv core n
    let cause := fun (l : Lane) => signBad e.c v l.t.tid (if void then none else some m128)
    let bad := e.lanes.filter (fun l => (cause l).isSome)
    let good := e.lanes.filter (fun l => (cause l).isNone)
    let tids := good.map (fun l => l.t.tid)
    let s := if void then s
      else s.modCtx e.b.ctx (fun c => c.modT (fun t => tids.contains t.tid)
        (fun t => { t with st := .blocked, pc := e.b.pc }))
    let s := s.sign e.b.ctx core n (good.map (signerOf e void m128))
    s.beatFault e.b false (bad.map (fun l =>
      { tid := l.t.tid, cls := 0x0D, cause := (cause l).getD 0, info := convInfo n (l.t.tid / v.size) })))

/-- CVSET (R147): it writes every core's copy at once (DESIGN CHOICE, log 121: R56 bounds when another core's copy takes it only by a later acquire). -/
def execCvset (h : Head) (m128 : Bool) (c : BitVec 4) (s : State) : Out :=
  act (onBeat h (fun e s =>
    if e.lanes.isEmpty then s
    else
      let n := c.toNat
      e.c.cores.dedup.foldl (fun s core =>
        let old := e.c.conv core n
        let s := s.modCtx e.b.ctx (fun x => x.modConv (cvKey core n) (fun v =>
          { v with exp := if m128 then BitVec.allOnes 128 else 0xFFFFFFFF, sgn := 0, group := none, signers := [], held := [] }))
        let s := s.modCore core (fun x => { x with latches := x.latches.filter (fun l => !(l.ctx == e.b.ctx && l.creg == n)) })
        let s := if old.sgn = 0 then s
          else s.groupFault e.b.ctx n (old.group.getD 0) old.size old.signers 0x0D 3 0 0
        s.sign e.b.ctx core n old.held) s)) s

/-- CVSIGN (R149). -/
def execCvsign (h : Head) (c : BitVec 4) (s : State) : Out := act (signOp h c.toNat true false) s

/-! ### The matrix operations (R153-R156) -/

/-- MMBF (R153). -/
def execMmbf (h : Head) (m : MmArgs) (s : State) : Out := act (signOp h m.c.toNat false m.set128) s
/-- MMHF (R153). -/
def execMmhf (h : Head) (m : MmArgs) (s : State) : Out := act (signOp h m.c.toNat false m.set128) s
/-- MM8P (R153). -/
def execMm8p (h : Head) (m : MmArgs) (s : State) : Out := act (signOp h m.c.toNat false m.set128) s
/-- MMI8 (R153). -/
def execMmi8 (h : Head) (m : MmArgs) (s : State) : Out := act (signOp h m.c.toNat false m.set128) s
/-- MMI4 (R153). -/
def execMmi4 (h : Head) (m : MmArgs) (s : State) : Out := act (signOp h m.c.toNat false m.set128) s
/-- MMF6A (R153). -/
def execMmf6a (h : Head) (m : MmArgs) (s : State) : Out := act (signOp h m.c.toNat false m.set128) s
/-- MMF6B (R153). -/
def execMmf6b (h : Head) (m : MmArgs) (s : State) : Out := act (signOp h m.c.toNat false m.set128) s
/-- MMF4 (R153). -/
def execMmf4 (h : Head) (m : MmArgs) (s : State) : Out := act (signOp h m.c.toNat false m.set128) s
/-- MMS8P (R153). -/
def execMms8p (h : Head) (m : MmArgs) (s : State) : Out := act (signOp h m.c.toNat false m.set128) s
/-- MMSF6A (R153). -/
def execMmsf6a (h : Head) (m : MmArgs) (s : State) : Out := act (signOp h m.c.toNat false m.set128) s
/-- MMSF6B (R153). -/
def execMmsf6b (h : Head) (m : MmArgs) (s : State) : Out := act (signOp h m.c.toNat false m.set128) s
/-- MMSF4 (R153). -/
def execMmsf4 (h : Head) (m : MmArgs) (s : State) : Out := act (signOp h m.c.toNat false m.set128) s

/-- The FMT code of a binary8 element (R53). -/
def p8Code (p : BitVec 3) (sgn ext : Bool) : BitVec 8 :=
  BitVec.ofNat 8 (0x80 + (if ext then 16 else 0) + (if sgn then 0 else 8) + p.toNat)

/-- A form of matrix operation: FMT codes of A and B, K, integer, scaled (R153). -/
structure MmKind where
  fa : BitVec 8
  fb : BitVec 8
  k : Nat
  int : Bool := false
  scaled : Bool := false
  deriving DecidableEq, Repr

/-- The form of a matrix opcode (R153). -/
def mmKind (o : Op) (m : MmArgs) : MmKind :=
  let p8 := fun (sc : Bool) => { fa := p8Code m.pa m.sgnA m.extA, fb := p8Code m.pb m.sgnB m.extB, k := 64, scaled := sc : MmKind }
  match o with
  | .mmhf => { fa := 0x52, fb := 0x52, k := 32 }
  | .mm8p => p8 false
  | .mmi8 => { fa := if m.sgnA then 0x30 else 0x31, fb := if m.sgnB then 0x30 else 0x31, k := 64, int := true }
  | .mmi4 => { fa := if m.sgnA then 0x10 else 0x11, fb := if m.sgnB then 0x10 else 0x11, k := 128, int := true }
  | .mmf6a => { fa := 0x20, fb := 0x20, k := 128 }
  | .mmf6b => { fa := 0x21, fb := 0x21, k := 128 }
  | .mmf4 => { fa := 0x12, fb := 0x12, k := 128 }
  | .mms8p => p8 true
  | .mmsf6a => { fa := 0x20, fb := 0x20, k := 128, scaled := true }
  | .mmsf6b => { fa := 0x21, fb := 0x21, k := 128, scaled := true }
  | .mmsf4 => { fa := 0x12, fb := 0x12, k := 128, scaled := true }
  | _ => { fa := 0x53, fb := 0x53, k := 32 }

/-- A queued operation with what its words say. -/
structure MmOp where
  m : MmArgs
  kind : MmKind
  reuse : Bool
  deriving DecidableEq, Repr

/-- The operation that the signers' words name. -/
def MOp.args (o : MOp) : Option MmOp :=
  match o.signers.find? (fun g => !g.void) with
  | none => none
  | some g =>
    match decodeWords g.words.1 g.words.2.1 g.words.2.2 with
    | .error _ => none
    | .ok i => (mmOf i).map (fun x => { m := x.2.2, kind := mmKind x.1 x.2.2, reuse := x.2.1.reuse })

/-- Shared addresses, after the swizzle, of the elements `q0 .. q0 + cnt - 1` of row or column `r` that lie in the tensor (R158, R168). -/
def rowBytes (sh : Shape) (base : Int) (r q0 cnt : Nat) : List Int :=
  if sh.dim 1 ≤ r then []
  else
    let n := (min (q0 + cnt) (sh.dim 0) - q0) * sh.ebits / 8
    let a := base + r * sh.stride 1 + (q0 * sh.ebits / 8 : Nat)
    (List.range n).map (fun (i : Nat) =>
      let x := a + (i : Int)
      if x < 0 then x else ((swizzle sh.swz x.toNat : Nat) : Int))

/-- The first of the checks of R165 that a tile read of B through shape register `reg` fails: class, ADDR and INFO as R392 gives
them for the class. (DEDUCED, log 23: the access size is 16 bytes for the alignment check and 1 byte for the bound check.) -/
def tileBad (sh : Shape) (reg : Nat) (fmt : BitVec 8) (base : Nat) (size : Nat) (bytes : List Int) :
    Option (Nat × BitVec 64 × BitVec 64) :=
  if sh.badMatrix || sh.fmt != fmt then some (0x0C, 0, BitVec.ofNat 64 reg)
  else if base % 16 ≠ 0 then some (7, BitVec.ofNat 64 base, 16)
  else match bytes.find? (fun a => decide ((size : Int) ≤ a)) with
    | some a => some (5, BitVec.ofInt 64 a, 1)
    | none => none

/-- Member `i` of an operation, unless void. -/
def MOp.member (o : MOp) (c : Ctx) (size i : Nat) : Option Lane :=
  if o.signers.any (fun g => !g.void && g.tid == o.group * size + i) then (c.lanes [o.group * size + i]).head? else none

/-- Row `i` of A or column `i` of B from the members' fragments, all K elements; a void member supplies zeros (R149, R157). `frag` gives a member's fragment, its registers as one number. -/
def MOp.regRow (o : MOp) (c : Ctx) (size k w : Nat) (frag : Lane → Nat) (i : Nat) : List Nat :=
  let part := fun (m n : Nat) => match o.member c size m with
    | none => (List.range n).map (fun _ => 0)
    | some l => (List.range n).map (fun q => elemAt w q (frag l))
  if size = 128 then part i (k / 2) ++ part (64 + i) (k / 2) else part i k

/-- The block scales of row or column `i`, all K-blocks; a void member supplies 1.0 (R149, R162). -/
def MOp.scales (o : MOp) (c : Ctx) (size k : Nat) (m : MmArgs) (ofs i : Nat) : List Nat :=
  let nb := k / 16 / (if size = 128 then 2 else 1)
  let part := fun (j : Nat) => match o.member c size j with
    | none => (List.range nb).map (fun _ => 0x38)
    | some l =>
      let x := if m.sv = 255 then 0 else readV l.t 2 (m.sv + BitVec.ofNat 8 ofs)
      (List.range nb).map (fun b => elemAt 8 (m.byte.toNat * nb + b) x)
  if size = 128 then part i ++ part (64 + i) else part i

/-- The value of an element; a NaN among the elements is quiet (R39). -/
def elemFV (f : BitVec 8) (x : Nat) : FV :=
  match elemOf f with
  | .flt g => (match g.decode x with | .nan _ => .nan false | v => v)
  | _ => .nan false

/-- The integer value of an element. -/
def elemInt (f : BitVec 8) (x : Nat) : Int :=
  match elemOf f with
  | .int sg w => sgnVal sg w x
  | _ => 0

/-- An unscaled floating output element (R39, R159). -/
def mmFloat (kd : MmKind) (acc : Nat) (a b : List Nat) : Nat × Word :=
  ((List.zipWith (fun x y => (elemFV kd.fa x).mul (elemFV kd.fb y)) a b).foldl Sum.add
    (Sum.add {} (f32.decode acc).exact)).round

/-- An integer output element (R40, R159). -/
def mmInt (kd : MmKind) (sat : Bool) (acc : Nat) (a b : List Nat) : Nat :=
  fitInt sat true 32 (sgnVal true 32 acc + (List.zipWith (fun x y => elemInt kd.fa x * elemInt kd.fb y) a b).sum)

/-- Lists cut into parts of 16 (R41). -/
def by16 : Nat → List Nat → List (List Nat)
  | 0, _ => []
  | n + 1, l => l.take 16 :: by16 n (l.drop 16)

/-- A scaled output element (R41, R162); `alpha` and `beta` are binary32. -/
def mmScaled (kd : MmKind) (alpha beta acc : Nat) (a b sa sb : List Nat) : Nat × Word :=
  let al := f32.decode alpha
  let be := f32.decode beta
  let xa := sa.map e4m3.decode
  let xb := sb.map e4m3.decode
  if al.isNan || be.isNan || xa.any (fun v => v.isNan) || xb.any (fun v => v.isNan) then (f32.nan.getD 0, fINV)
  else
    let n := kd.k / 16
    let blocks := List.zipWith (fun p q => (p, q)) (by16 n a) (by16 n b)
    let scale := List.zipWith (fun (x : FV) (y : FV) => x.mul y) xa xb
    let prods := fun (p : List Nat × List Nat) => List.zipWith (fun x y => (elemFV kd.fa x).mul (elemFV kd.fb y)) p.1 p.2
    let ab := al.mul be
    let inner := (List.zipWith (fun p s => Exact.mul s ((prods p).foldl Sum.add {}).exact) blocks scale).foldl Sum.add {}
    let acc := (f32.decode acc).exact
    let sum := Sum.add (Sum.add {} acc) (Exact.mul ab inner.exact)
    match sum.exact with
    | .zero _ =>
      let neg := fun (x : Exact) => match x with | .zero n => n | _ => false
      let all := (List.zipWith (fun p s => (prods p).map (fun x => Exact.mul ab (Exact.mul s x))) blocks scale).flatten
      ((f32.code (neg acc && all.all neg) 0), 0)
    | _ => sum.round

/-- The result of an operation for member `i`: 32 registers and its flags (R157, R159, R160). -/
def MOp.result (o : MOp) (c : Ctx) (x : MmOp) (size i : Nat) (rowA : List Nat) (colB : Nat → List Nat)
    (alpha beta : Nat) : List Word × Word :=
  let kd := x.kind
  match o.member c size i with
  | none => ([], 0)
  | some l =>
    let h := i / 64
    let outs := (List.range 32).map (fun j =>
      let acc := if x.m.zacc || x.m.d = 255 then 0 else (l.t.v (x.m.d.toNat + j)).toNat
      let b := colB (32 * h + j)
      if kd.int then (mmInt kd x.m.sat acc rowA b, 0)
      else if kd.scaled then
        mmScaled kd alpha beta acc rowA b (o.scales c size kd.k x.m 0 (i % 64)) (o.scales c size kd.k x.m 2 (32 * h + j))
      else mmFloat kd acc rowA b)
    (outs.map (fun r => BitVec.ofNat 32 r.1), outs.foldl (fun a r => a ||| r.2) 0)

/-- The shared bytes that an operation fetches for B: one list for each column, before any check (R158). -/
def MOp.columns (x : MmOp) (sh : Shape) (size base : Nat) : List (List Int) :=
  (List.range (if size = 128 then 64 else 32)).map (fun j => rowBytes sh base j 0 x.kind.k)

/-- The shared byte address of B: UB of the wheel of the lowest non-void member (R150, R155). -/
def MOp.uni (o : MOp) (c : Ctx) (size : Nat) (x : MmOp) (i : Nat) : Nat :=
  match (List.range size).findSome? (fun m => o.member c size m) with
  | none => 0
  | some l => if x.m.ub = 255 then 0 else (l.w.s (x.m.ub.toNat + i)).toNat

/-- No store of a signer waits in its queue behind a pin (R166, R279). -/
def State.signersDrained (s : State) (o : MOp) : Bool :=
  match sGet (o.signers.foldl (fun s g => s.drain o.ctx g.wheel) s).ctxs o.ctx with
  | none => true
  | some c => o.signers.all (fun g => (c.wheel g.wheel).all (fun w => w.stores.all (fun q => !q.of (fun t => t == g.tid))))

/-- An operation is ready: every shared line it fetches is present and its signers' stores are in the core order, or it faults (R158, R164, R166). -/
def State.mmReady (s : State) (core : Nat) (o : MOp) : Bool :=
  match sGet s.ctxs o.ctx, o.args with
  | some c, some x =>
    if x.m.breg then true
    else
      let sh := shapeOf (c.tval core x.m.b.toNat)
      let size := if x.m.set128 then 128 else 32
      let cols := MOp.columns x sh size (o.uni c size x 0)
      match tileBad sh x.m.b.toNat x.kind.fb (o.uni c size x 0) c.kernel.sharedBytes cols.flatten with
      | some _ => true
      | none => !(cols.flatten.any (fun a => c.absent.any (fun e => e.1 == a.toNat / 128))) && s.signersDrained o
  | _, _ => true

/-- No write has reached a register of the latched range in any member (R163). -/
def Latch.bound (l : Latch) (c : Ctx) : Bool :=
  l.frags.all (fun f => (c.thread f.1).any (fun t => t.latched.contains (l.creg, l.base, l.n)))

/-- The latches of a core that no register write has released (R163). -/
def State.bound (s : State) (core : Nat) : List Latch :=
  (s.core core).latches.filter (fun l => ((sGet s.ctxs l.ctx).map l.bound).getD false)

/-- The latch of an operation's set (R163). -/
def Latch.of (l : Latch) (o : MOp) : Bool := l.ctx == o.ctx && l.creg == o.creg && l.group == o.group

/-- Registers of an operation's A fragment (R153, R157). -/
def MmOp.aRegs (x : MmOp) : Nat := cdiv (x.kind.k * fmtBits x.kind.fa / (if x.m.set128 then 2 else 1)) 32

/-- The latch that supplies an operation's A: bound to its set, with its A base and all its registers (R163). -/
def State.latchFor (s : State) (core : Nat) (o : MOp) (x : MmOp) : Option Latch :=
  (s.bound core).find? (fun l => l.of o && l.base == x.m.a.toNat && decide (x.aRegs ≤ l.n))

/-- A member's A fragment: from the latch if it holds one, else from the registers (R163). -/
def fragA (h : Option Latch) (x : MmOp) (l : Lane) : Nat :=
  match h.bind (fun y => sGet y.frags l.t.tid) with
  | some v => v % 2 ^ (32 * x.aRegs)
  | none => readV l.t x.aRegs x.m.a

/-- The latches after an operation: kept or filled under .reuse, the least recently used of four released first; else its set's latch is released (R163). The members' ranges are marked. -/
def State.latchOp (s : State) (core : Nat) (o : MOp) (x : MmOp) (frags : List (Nat × Nat)) : State :=
  let rest := (s.bound core).filter (fun l => !l.of o)
  if x.reuse then
    let l := (s.latchFor core o x).getD
      { ctx := o.ctx, creg := o.creg, group := o.group, base := x.m.a.toNat, n := x.aRegs, frags := frags }
    let s := s.modCore core (fun y => { y with latches := (if 4 ≤ rest.length then rest.drop 1 else rest) ++ [l] })
    s.modCtx o.ctx (fun c => c.modT (fun t => l.frags.any (fun f => f.1 == t.tid)) (fun t =>
      { t with latched := (l.creg, l.base, l.n) :: t.latched.filter (fun r => r.1 != l.creg) }))
  else s.modCore core (fun y => { y with latches := rest })

/-- Uncorrectable data in a register that the operation reads: A but for a latched one, B in registers, the accumulator, the scales, and the uniform range (R165, R440). -/
def State.mmPoison (s : State) (core : Nat) (o : MOp) (c : Ctx) (x : MmOp) (size : Nat) : Bool :=
  !s.poison.isEmpty &&
    ((o.signers.filter (fun g => !g.void)).any (fun g =>
      let bad := s.badRegs (vregP o.ctx g.tid)
      ((s.latchFor core o x).isNone && bad x.m.a.toNat x.aRegs) || (!x.m.zacc && bad x.m.d.toNat 32)
        || (x.m.breg && bad x.m.b.toNat (cdiv (x.kind.k * fmtBits x.kind.fb / (if size = 128 then 2 else 1)) 32))
        || (x.kind.scaled && bad x.m.sv.toNat 4))
    || (match (List.range size).findSome? (fun m => o.member c size m) with
        | none => false
        | some l => s.badRegs (sregP o.ctx l.w.idx) x.m.ub.toNat (if x.kind.scaled then 4 else if x.m.breg then 0 else 1)))

/-- The unit takes an operation: the whole fault of R165, or all sources read and the results computed (R159-R166). -/
def State.mmStart (s : State) (core : Nat) (o : MOp) : State :=
  let s := s.modCore core (fun x => { x with mqueue := x.mqueue.erase o })
  let s := o.signers.foldl (fun s g => s.drain o.ctx g.wheel) s
  match sGet s.ctxs o.ctx, o.args with
  | some c, some x =>
    let size := if x.m.set128 then 128 else 32
    let sh := shapeOf (c.tval core x.m.b.toNat)
    let base := o.uni c size x 0
    let cols := if x.m.breg then [] else MOp.columns x sh size base
    match (if x.m.breg then none else tileBad sh x.m.b.toNat x.kind.fb base c.kernel.sharedBytes cols.flatten) with
    | some (cls, addr, info) => s.groupFault o.ctx o.creg o.group size o.signers cls 0 addr info
    | none =>
      let at_ := fun (a : Int) => sharedP o.ctx a.toNat
      match cols.flatten.find? (fun a => s.poison.contains (sharedP o.ctx (a.toNat / 4 * 4))), s.mmPoison core o c x size with
      | some a, _ => s.groupFault o.ctx o.creg o.group size o.signers 0x0A 0 (BitVec.ofInt 64 a) 0
      | none, true => s.groupFault o.ctx o.creg o.group size o.signers 0x0A 0 0 0
      | none, false =>
        let wa := fmtBits x.kind.fa
        let wb := fmtBits x.kind.fb
        let latch := s.latchFor core o x
        let rows := if size = 128 then 64 else 32
        let rowsA := (List.range rows).map (o.regRow c size x.kind.k wa (fragA latch x))
        let colsB := if x.m.breg then (List.range rows).map (o.regRow c size x.kind.k wb (fun l => readV l.t (cdiv (x.kind.k * wb / (if size = 128 then 2 else 1)) 32) x.m.b))
          else cols.map (fun bs =>
            let v := bytesNat (bs.map (fun a => s.byte (at_ a)))
            (List.range x.kind.k).map (fun q => elemAt wb q v))
        let alpha := o.uni c size x 2
        let beta := o.uni c size x 3
        let occ := if size = 128 then 16 else 4
        let due := s.cycle + occ - 1 + 8
        let res := (List.range size).filterMap (fun i =>
          (o.member c size i).map (fun l => (l,
            o.result c x size i ((rowsA[i % rows]?).getD []) (fun j => (colsB[j]?).getD []) alpha beta)))
        let s := s.modCtx o.ctx (fun c => { c with wheels := c.wheels.map (fun w =>
          let fl := (res.filter (fun r => r.1.w.idx == w.idx)).foldl (fun a r => a ||| r.2.2) 0
          if fl = 0 then w else { w with retire := w.retire ++ [{ due := due, flags := fl }] }) })
        let frags := (List.range size).filterMap (fun i => (o.member c size i).map (fun l =>
          (l.t.tid, fragA latch x l)))
        (s.latchOp core o x frags).modCore core (fun y => { y with
          mfree := s.cycle + occ
          mdone := y.mdone ++ [{ op := o, due := due, d := x.m.d.toNat, outs := res.map (fun r => (r.1.t.tid, r.2.1)) }] })
  | _, _ => s

/-- The next operation that the unit of a core can take: the first ready one of the four it holds (R164). -/
def State.mmNext (s : State) (core : Nat) : Option MOp :=
  if (s.core core).mfree ≤ s.cycle then ((s.core core).mqueue.take 4).find? (s.mmReady core) else none

/-- MATRIX_OP_START (R159, R164). -/
def execMatrixOpStart (core : Nat) (s : State) : Out :=
  act (fun s => match s.mmNext core with
    | none => s
    | some o => s.mmStart core o) s

/-- The first result of a core whose cycle has passed (R161). -/
def State.mmDone (s : State) (core : Nat) : Option MDone :=
  (s.core core).mdone.find? (fun r => decide (r.due < s.cycle))

/-- MATRIX_OP_COMPLETE (R160, R161): every D register is written and the holders retire. -/
def execMatrixOpComplete (core : Nat) (s : State) : Out :=
  act (fun s => match s.mmDone core with
    | none => s
    | some r =>
      let s := s.modCore core (fun x => { x with mdone := x.mdone.erase r })
      s.modCtx r.op.ctx (fun c => { c with threads := c.threads.map (fun t =>
        match r.outs.find? (fun o => o.1 == t.tid) with
        | none => t
        | some o => { t.put r.d o.2 [] with st := if t.st = .blocked then .ready else t.st, pc := nextPc t.pc, stamp := none }) })) s

/-! ### LDMX and STMX (R167-R169) -/

/-- An FMT that a fragment accepts (R167). -/
def fragFmt (f : Frag) (c : BitVec 8) : Bool :=
  match f with
  | .fd => c == 0x62 || c == 0x60
  | _ => decide (c.toNat ∈ [0x10, 0x11, 0x12, 0x20, 0x21, 0x30, 0x31, 0x52, 0x53]) || (c.toNat / 32 == 4 && c.toNat % 8 != 0)

/-- The shape fault of LDMX and STMX (R54, R167). -/
def fragShapeBad (sh : Shape) (f : Frag) (w6 : Bool) : Bool :=
  sh.badMatrix || !fragFmt f sh.fmt || (f != .fd && (sh.ebits == 6) != w6)

/-- Registers of a fragment (R167). -/
def fragRegs (f : Frag) (m128 w6 : Bool) : Nat :=
  match f with
  | .fd => 32
  | _ => (if w6 then 24 else 16) / (if m128 then 2 else 1)

/-- Row or column, first element and count of a thread's fragment (R157). -/
def fragPart (sh : Shape) (f : Frag) (m128 : Bool) (tid : Nat) : Nat × Nat × Nat :=
  let m := tid % (if m128 then 128 else 32)
  let h := if m128 then m / 64 else 0
  let k := match f with
    | .fd => 32
    | _ => (if sh.ebits = 16 then 32 else if sh.ebits = 8 then 64 else 128) / (if m128 then 2 else 1)
  (if m128 then m % 64 else m, h * k, k)

/-- The access of one thread's fragment (R168, R169). -/
def State.fragAccess (s : State) (e : Site) (l : Lane) (write m128 : Bool) (f : Frag) (w6 : Bool) (a : Src) (t : BitVec 4)
    (ofs : BitVec 24) : Res :=
  let sh := shapeOf (e.c.tval l.w.core t.toNat)
  let base : Int := (readSrc l 1 a : Nat) + ofs.toInt
  let info : BitVec 64 := BitVec.ofNat 64 (4 * fragRegs f m128 w6)
  if fragShapeBad sh f w6 then .bad 0x0C 0 0 (BitVec.ofNat 64 t.toNat)
  else if base % 16 ≠ 0 then .bad 7 0 (BitVec.ofInt 64 base) info
  else
    let r := fragPart sh f m128 l.t.tid
    let bytes := rowBytes sh base r.1 r.2.1 r.2.2
    match bytes.find? (fun x => x < 0 || decide ((e.c.kernel.sharedBytes : Int) ≤ x)) with
    | some x => .bad 5 0 (BitVec.ofInt 64 x) info
    | none =>
      let lines := ((bytes.map (fun x => x.toNat / 128)).dedup).filter (fun x => e.c.absent.any (fun y => y.1 == x))
      let ps := bytes.map (fun x => sharedP e.b.ctx x.toNat)
      if !lines.isEmpty then .absent (lines.map (fun x => 2 * x))
      else match (if write then none else ps.find? (fun p => s.poison.contains (place 3 (pIdx p / 4 * 4)))) with
        | some p => .bad 0x0A 0 (BitVec.ofNat 64 (pIdx p % 2 ^ 32)) 0
        | none => if e.c.cpyHolds l.t.tid write ps then .retry else .ok ps []

/-- LDMX (R168). -/
def execLdmx (h : Head) (m128 : Bool) (frag : Frag) (w6 : Bool) (d : BitVec 8) (a : Src) (t : BitVec 4) (ofs : BitVec 24)
    (s : State) : Out :=
  act (onBeat h (fun e s =>
    let accs := e.lanes.map (fun l => { l := l, r := s.fragAccess e l false m128 frag w6 a t ofs : Acc })
    s.gate e false true accs (fun oks s => oks.foldl (fun s x =>
      let s := s.lookQueue e.b.ctx x.1.w.idx [x.1.t.tid] x.2
      let n := fragRegs frag m128 w6
      s.putD e.b.ctx false x.1 d.toNat (natWords n (bytesNat (held (s.laneBytes e.b.ctx x.1 x.2)))) (mkPend s (.v d.toNat n) 0)) s))) s

/-- STMX (R168). -/
def execStmx (h : Head) (m128 : Bool) (frag : Frag) (w6 : Bool) (a : Src) (t : BitVec 4) (ofs : BitVec 24) (c : BitVec 8)
    (s : State) : Out :=
  act (onBeat h (fun e s =>
    let accs := e.lanes.map (fun l => { l := l, r := s.fragAccess e l true m128 frag w6 a t ofs : Acc })
    s.gate e false false accs (fun oks s => oks.foldl (fun s x =>
      s.enqueue e x.1.w.idx [x.1.t.tid] none
        (x.2.zip (natBytes x.2.length (readV x.1.t (fragRegs frag m128 w6) c))) 0 0) s))) s

end Sys2Proof.Machine
end

