-- ==== Sys2Proof/Machine/Control.lean ====
section
/-! DEFINITION. Branches, landing pads, repack gathers, reconvergence, EXIT and YIELD, the register pool, regrouping, traps and system registers (R198-R211, R219-R224), and the steps that end their waits. -/

namespace Sys2Proof.Machine

/-! ### Branch targets (R74, R75, R200-R202) -/

/-- The checks of a branch target on a core: R74, then R63 with the execute right over 12 bytes. -/
def State.target (s : State) (core obj : Nat) (ofs : Int) : Res :=
  let addr := mkCap obj (ofs % (2 ^ 44 : Int)).toNat
  if ofs % 12 ≠ 0 then .bad 0x0E 1 addr 0
  else if obj = 0 then .bad 3 1 addr 12
  else if obj = 0xFFFFF then .bad 3 2 addr 12
  else match (s.core core).desc obj with
    | none => .miss (.desc core obj)
    | some d =>
      if !d.valid then .bad 3 3 addr 12
      else if d.rights &&& 4 ≠ 4 then .bad 3 4 addr 12
      else if ofs < 0 || decide ((d.extent : Int) < ofs + 12) || decide ((2 ^ 44 : Int) ≤ ofs) then .bad 3 5 addr 12
      else .ok [] []

/-- A target whose landing pad BRX and CALLX read (R200). -/
def State.padTarget (s : State) (core : Nat) (c : Ctx) (obj : Nat) (ofs : Int) : Res :=
  match s.target core obj ofs with
  | .ok _ _ => s.resolveG core c { sp := .g, n := 12, align := 4, need := 4, fetch := true, lock := false } obj ofs
  | r => r

/-- The bytes of code that some threads of a core fetch (R87): the home's as they stand; a peer's or a host's from the copies, or the answer to a request of theirs. (DESIGN CHOICE, log 98: the spec lets a thread of a running launch fetch each word old or new.) -/
def State.codeBytes (s : State) (core : Nat) (c : Ctx) (tids ps : List Nat) : List (Option Byte) :=
  (ps.zip (s.coreBytes core ps)).map (fun x =>
    if isRemote x.1 then (match x.2 with
      | some b => some b
      | none => c.fillByte tids x.1)
    else some (s.byte x.1))

/-- The landing check of BRX and CALLX: cause 2 or 3 of R202. -/
def State.padBad (s : State) (e : Site) (l : Lane) (ps : List Nat) (tag : BitVec 16) : Option Nat :=
  let bs := held (s.codeBytes l.w.core e.c [l.t.tid] ps)
  if bytesNat (bs.take 1) ≠ 0x7D then some 2
  else if bytesNat ((bs.drop 8).take 2) ≠ tag.toNat then some 3 else none

/-- How a branch names its target: by R75 from the branch's address, or by a capability in A, whose landing pad BRX and CALLX check. -/
inductive Aim where
  | rel (ofs : BitVec 24)
  | cap (a : Src) (tag : Option (BitVec 16))
  deriving DecidableEq, Repr

/-- Object and offset of a lane's target (R75, R200). -/
def Aim.of (m : Aim) (pc : Cap) (l : Lane) : Nat × Int :=
  match m with
  | .rel ofs => (capObj pc, (capOfs pc : Int) + 12 + 12 * ofs.toInt)
  | .cap a _ => let x := readSrc l 2 a; (x / 2 ^ 44 % 2 ^ 20, ((x % 2 ^ 44 : Nat) : Int))

/-- The tag of the landing check. -/
def Aim.tag : Aim → Option (BitVec 16)
  | .rel _ => none
  | .cap _ t => t

/-- The check of a lane's target. -/
def State.aimRes (s : State) (e : Site) (m : Aim) (l : Lane) : Res :=
  let x := m.of e.b.pc l
  match m.tag with
  | none => s.target l.w.core x.1 x.2
  | some _ => s.padTarget l.w.core e.c x.1 x.2

/-- The lanes of a beat with their targets, or the control-flow fault of the landing check. -/
def State.landed (s : State) (e : Site) (m : Aim) (oks : List (Lane × List Nat)) : List (Lane × Cap × Option Nat) :=
  oks.map (fun x =>
    let t := m.of e.b.pc x.1
    (x.1, mkCap t.1 t.2.toNat, match m.tag with
      | none => none
      | some tag => s.padBad e x.1 x.2 tag))

/-- A branch of the active lanes, with the return address in D for a call (R200). -/
def branchOp (h : Head) (m : Aim) (link : Option (BitVec 8)) : State → State :=
  onBeat h (fun e s =>
    s.gate e false true (e.lanes.map (fun l => { l := l, r := s.aimRes e m l })) (fun oks s => s.withBytes e 0 oks (fun s =>
      let xs := s.landed e m oks
      let good := xs.filter (fun x => x.2.2.isNone)
      let ret := natWords 2 (nextPc e.b.pc).toNat
      let s := s.modCtx e.b.ctx (fun c => c.modT (fun t => good.any (fun x => x.1.t.tid == t.tid)) (fun t =>
        let t := match link with
          | none => t
          | some d => t.put d.toNat ret (mkPend s (.v d.toNat 2) 0)
        { t with pc := ((good.find? (fun x => x.1.t.tid == t.tid)).map (fun x => x.2.1)).getD t.pc }))
      s.beatFault e.b false ((xs.filter (fun x => x.2.2.isSome)).map (fun x =>
        { tid := x.1.t.tid, cls := 0x0E, cause := x.2.2.getD 0, addr := x.2.1 })))))

/-! ### Waits that close by arrival (R203, R205, R210) -/

/-- The live threads of a wheel. -/
def Ctx.liveOf (c : Ctx) (p : Lane → Bool) : List Nat :=
  ((c.lanes (c.threads.map (fun t => t.tid))).filter (fun l => l.t.live && p l)).map (fun l => l.t.tid)

/-- Slots of one target's threads in re-formed wheels (R203): for each home lane, the threads in ascending home wheel take wheels 0, 1, 2, and so on. -/
def reformSlots (ls : List Lane) : List (Nat × Nat) :=
  ls.map (fun l => (l.t.tid, (ls.filter (fun m => m.t.lane == l.t.lane && decide (m.w.idx < l.w.idx))).length))

/-- A gather closes at the end of cycle `now`: failed targets park, the others are re-formed and issue two cycles later (R203, R204). -/
def State.closeGather (s : State) (ctx : Nat) (w : Wait) (pc : Cap) (words : Word × Word × Word)
    (targets : List Target) (now : Nat) : State :=
  match sGet s.ctxs ctx with
  | none => s
  | some c =>
    let here := targets.filter (fun t => (c.thread t.tid).any (fun x => x.st == .suspended w.wid))
    let good := here.filter (fun t => t.bad.isNone)
    let dests := sortBy (fun (p : Cap) => p.toNat) ((good.map (fun t => t.pc)).dedup)
    let asg := dests.foldl (fun (a : Nat × List (Nat × Nat)) p =>
      let sl := reformSlots (c.lanes ((good.filter (fun t => t.pc == p)).map (fun t => t.tid)))
      (a.1 + (sl.foldl (fun m x => max m (x.2 + 1)) 0), a.2 ++ sl.map (fun x => (x.1, a.1 + x.2)))) (s.nextWid, [])
    let s : State := { s with nextWid := asg.1 }
    let s := s.setCtx ctx ({ c with waits := c.waits.filter (fun x => x.wid != w.wid) }.modT
      (fun t => good.any (fun (g : Target) => g.tid == t.tid))
      (fun t => { t with
        pc := match good.find? (fun (g : Target) => g.tid == t.tid) with
          | some g => g.pc
          | none => t.pc
        target := match good.find? (fun (g : Target) => g.tid == t.tid) with
          | some g => g.pc
          | none => t.target
        reformed := (sGet asg.2 t.tid) }))
    let s := s.suspend ctx (good.map (fun t => t.tid)) .pause (some (now + 1))
    s.faultLanes ctx pc words false ((here.filter (fun t => t.bad.isSome)).map (fun t =>
      { tid := t.tid, cls := (t.bad.getD (0, 0)).1, cause := (t.bad.getD (0, 0)).2, addr := t.pc, info := t.info }))

/-- An RCV instance closes: its threads resume, Pd says whether it converged, and the wheel's stores are in the core order; it stays open while a pin of another core refuses one, and while a load or atomic of a member is outstanding (R205, R279, R283). -/
def State.closeRcv (s : State) (ctx : Nat) (w : Wait) (wheel : Nat) (pd : Option Nat) (conv : Bool) : State :=
  let s := s.drain ctx wheel
  if !s.drained ctx wheel || (sGet s.ctxs ctx).any (fun c => !(c.behind w.tids).isEmpty) then s
  else s.modCtx ctx (fun c =>
    let c := match pd with
      | none => c
      | some k => c.modT (fun t => t.st == TState.suspended w.wid) (fun t => { t with preds := setPred t.preds k conv })
    c.wake w.wid)

/-- The order of R210: by key, then %tid. -/
def regroupOrder (ps : List RPart) : List RPart := sortBy (fun p => p.key) (sortBy (fun p => p.tid) ps)

/-- The slots of R210 over `W` wheels: for each thread in order, the wheel's place among the block's wheels on the core, and the lane. `j`, `pos` and the previous key run along. -/
def regroupSlots (nw : Nat) : Nat → Nat → Option Nat → List RPart → List (Nat × Nat × Nat)
  | _, _, _, [] => []
  | j, pos, prev, p :: ps =>
    let r := ps.length + 1
    let open_ := pos = 32 || (decide (0 < pos) && prev != some p.key && decide (j + 1 ≤ nw) && decide (r ≤ 32 * (nw - j - 1)))
    let j' := if open_ then j + 1 else j
    let pos' := if open_ then 0 else pos
    (p.tid, j', pos') :: regroupSlots nw j' (pos' + 1) (some p.key) ps

/-- A thread in its new slot: N registers from BASE, its predicates and its address move, every other register reads 0 (R210). -/
def Thread.regroup (t : Thread) (base n wheel lane : Nat) : Thread :=
  { t with wheel := wheel, lane := lane, reformed := none, latched := []
           vregs := (List.range n).filterMap (fun i => (sGet t.vregs (base + i)).map (fun v => (base + i, v))) }

/-- The reuse latches of a block are released (R163). -/
def State.dropLatches (s : State) (ctx : Nat) : State :=
  { s with cores := s.cores.map (fun e => (e.1, { e.2 with latches := e.2.latches.filter (fun l => l.ctx != ctx) })) }

/-- Participants of a failed regrouping park with cause 4 or 5 (R202). -/
def State.regroupFault (s : State) (ctx : Nat) (ps : List RPart) (cause : Nat) : State :=
  (ps.map (fun p => (p.pc, p.words))).dedup.foldl (fun s k =>
    s.faultLanes ctx k.1 k.2 false ((ps.filter (fun p => (p.pc, p.words) == k)).map (fun p =>
      { tid := p.tid, cls := 0x0E, cause := cause }))) s

/-- A wheel holds live threads, or one returns to it at an UNGROUP (R206, R211). -/
def Ctx.inUse (c : Ctx) (w : Nat) : Bool :=
  c.threads.any (fun t => t.live && (t.wheel == w || c.regrouped.any (fun r => r.2.old.any (fun x => x.1 == t.tid && x.2.1 == w))))

/-- The window of a wheel whose last thread has ended returns to the pool, zeroed (R206). -/
def Ctx.endWheel (c : Ctx) (w : Nat) : Ctx :=
  if c.inUse w then c
  else (c.modW w (fun x => { x with window := 0, sregs := [], fstat := 0 })).modT (fun t => t.wheel == w)
    (fun t => { t with vregs := [], preds := 0 })

/-- REGROUP or UNGROUP acts once for a core, when no pin of another core refuses a store of its wheels (R210, R211, R279, R284). -/
def State.closeRegroup (s : State) (ctx : Nat) (w : Wait) (core : Nat) (ps : List RPart) (now : Nat) : State :=
  match sGet s.ctxs ctx with
  | none => s
  | some c =>
    let ws := sortBy (fun (x : Wheel) => x.idx) (c.wheels.filter (fun x => x.core == core && !x.gone))
    let p := ps.headD { tid := 0, key := 0, pc := 0, un := false, base := 0, n := 0, words := (0, 0, 0) }
    let old := sGet c.regrouped core
    let wrong := ps.any (fun q => signedBits q.words != signedBits p.words)
      || (match old with
          | none => p.un
          | some o => !p.un || o.base != p.base || o.n != p.n)
      || ws.any (fun x => x.window != (ws.headD { idx := 0 }).window)
    let shut := fun (s : State) => s.modCtx ctx (fun c => { c with waits := c.waits.filter (fun x => x.wid != w.wid) })
    let s := if wrong then s else ws.foldl (fun s x => s.drain ctx x.idx) s
    if wrong then (shut s).regroupFault ctx ps 5
    else if ws.any (fun x => !s.drained ctx x.idx) then s
    else
      let s := (shut s).dropLatches ctx
      let slots : List (Nat × Nat × Nat) := match old with
        | some o => o.old
        | none => (regroupSlots ws.length 0 0 none (regroupOrder ps)).map (fun x =>
            (x.1, match ws[x.2.1]? with | some y => y.idx | none => 0, x.2.2))
      let slot := fun (t : Thread) => (sGet slots t.tid).getD (t.wheel, t.lane)
      let was := (c.threads.filter (fun t => ps.any (fun q => q.tid == t.tid))).map (fun t => (t.tid, t.wheel, t.lane))
      let s := s.modCtx ctx (fun c =>
        { c.modT (fun t => ps.any (fun q => q.tid == t.tid)) (fun t =>
            { (t.regroup p.base p.n (slot t).1 (slot t).2) with
              pc := nextPc t.pc }) with
          regrouped := match old with
            | some _ => sDel c.regrouped core
            | none => sPut c.regrouped core { base := p.base, n := p.n, old := was } })
      let s := if old.isSome then s.modCtx ctx (fun c => ws.foldl (fun c x => c.endWheel x.idx) c) else s
      s.suspend ctx (ps.map (fun q => q.tid)) .pause (some (now + cdiv (ps.length * p.n) 32))

/-- A wait of a context closes at the end of cycle `now` if everyone it waits for has arrived; a regrouping also waits for the register writes and flags of its participants and for their outstanding accesses (R34, R210, R284). (DEDUCED, log 91: flags that are on their way count as pending writes.) -/
def State.settleOne (s : State) (ctx now wid : Nat) : State :=
  match sGet s.ctxs ctx with
  | none => s
  | some c =>
    match c.waitOf wid with
    | none => s
    | some w =>
      let inn := fun (tid : Nat) => (c.thread tid).any (fun t => t.st == .suspended wid)
      match w.kind with
      | .rcv wheel _ pd =>
        if (c.liveOf (fun l => l.w.idx == wheel)).all inn then s.closeRcv ctx w wheel pd true else s
      | .gather core q pc words targets =>
        if (c.liveOf (fun l => l.w.core == core && l.w.quarter == q)).all inn then s.closeGather ctx w pc words targets now else s
      | .regroup core ps =>
        let live := c.liveOf (fun l => l.w.core == core)
        if live.all inn && c.threads.all (fun t => !live.contains t.tid || t.pend.isEmpty)
            && c.wheels.all (fun x => x.core != core || (x.retire.isEmpty && x.pend.isEmpty)) && (c.behind live).isEmpty then
          s.closeRegroup ctx w core (ps.filter (fun p => live.contains p.tid)) now
        else s
      | _ => s

/-- Every wait of a context that closes by arrival is looked at. -/
def State.settle (s : State) (ctx now : Nat) : State :=
  match sGet s.ctxs ctx with
  | none => s
  | some c => c.waits.foldl (fun s w => s.settleOne ctx now w.wid) s

/-- Every wait that closes by arrival is looked at, at the end of cycle `now`: a load's answer, a result or a store may have let it close. -/
def State.settleAll (s : State) (now : Nat) : State := s.ctxs.foldl (fun s e => if e.2.waits.isEmpty then s else s.settle e.1 now) s

/-- Threads join a wait that is open, or open it. -/
def State.join (s : State) (ctx : Nat) (tids : List Nat) (mine : WaitKind → Bool) (new : WaitKind)
    (add : WaitKind → WaitKind) (deadline : Option Nat) : State :=
  match sGet s.ctxs ctx with
  | none => s
  | some c =>
    match c.waits.find? (fun w => mine w.kind) with
    | none => s.suspend ctx tids new deadline
    | some w =>
      s.setCtx ctx { c.modT (fun t => tids.contains t.tid) (fun t => { t with st := .suspended w.wid, stamp := none }) with
        waits := c.waits.map (fun x => if x.wid = w.wid then { x with tids := x.tids ++ tids, kind := add x.kind } else x) }

/-- A .repack branch: the beat's threads join the gather of its address, each with its target (R203). -/
def gatherOp (h : Head) (m : Aim) : State → State :=
  onBeat h (fun e s =>
    let accs := e.lanes.map (fun l => { l := l, r := s.aimRes e m l : Acc })
    match e.c.run, accs.findSome? (fun a => a.r.endsRun), accs.findSome? (fun a => a.r.waits) with
    | some slot, some k, _ => s.discardRun slot k
    | _, _, some k => s.hold e.b k
    | _, _, none =>
      s.withBytes e 0 (accs.filterMap (fun a => match a.r with | .ok ps _ => some (a.l, ps) | _ => none)) (fun s =>
        let mk := fun (a : Acc) =>
          let t := m.of e.b.pc a.l
          let pc := mkCap t.1 (t.2 % (2 ^ 44 : Int)).toNat
          match a.r with
          | .bad cls cause addr info => { tid := a.l.t.tid, pc := addr, bad := some (cls, cause), info := info : Target }
          | .ok ps _ =>
            { tid := a.l.t.tid, pc := pc
              bad := (m.tag.bind (fun g => s.padBad e a.l ps g)).map (fun k => (0x0E, k)) }
          | _ => { tid := a.l.t.tid, pc := pc }
        let off := (e.b.tids.filter (fun i => !e.lanes.any (fun l => l.t.tid == i))).map (fun i =>
          { tid := i, pc := nextPc e.b.pc : Target })
        let ts := accs.map mk ++ off
        let k := WaitKind.gather e.b.core e.b.quarter e.b.pc e.b.words ts
        (s.join e.b.ctx e.b.tids
          (fun x => match x with | .gather c q pc _ _ => c == e.b.core && q == e.b.quarter && pc == e.b.pc | _ => false)
          k (fun x => match x with | .gather c q pc w old => .gather c q pc w (old ++ ts) | x => x)
          (some (s.cycle + 64))).settle e.b.ctx s.cycle))

/-- BRA (R200, R203). -/
def execBra (h : Head) (ofs : BitVec 24) (s : State) : Out :=
  act (if h.repack then gatherOp h (.rel ofs) else branchOp h (.rel ofs) none) s

/-- BRX (R200, R203). -/
def execBrx (h : Head) (a : Src) (tag : BitVec 16) (s : State) : Out :=
  act (if h.repack then gatherOp h (.cap a (some tag)) else branchOp h (.cap a (some tag)) none) s

/-- CALL (R200). -/
def execCall (h : Head) (d : BitVec 8) (ofs : BitVec 24) (s : State) : Out := act (branchOp h (.rel ofs) (some d)) s

/-- CALLX (R200). -/
def execCallx (h : Head) (d : BitVec 8) (a : Src) (tag : BitVec 16) (s : State) : Out :=
  act (branchOp h (.cap a (some tag)) (some d)) s

/-- RET (R200). -/
def execRet (h : Head) (a : Src) (s : State) : Out := act (branchOp h (.cap a none) none) s

/-- LAND (R201). -/
def execLand (h : Head) (_tag : BitVec 16) (s : State) : Out := act (onBeat h (fun _ s => s)) s

/-- REPACK_GATHER_TIMEOUT (R203): the 64th cycle has passed. -/
def execRepackGatherTimeout (ctx gid : Nat) (s : State) : Out :=
  act (fun s =>
    match (sGet s.ctxs ctx).bind (fun c => c.waitOf gid) with
    | some { kind := .gather _ _ pc words targets, deadline := some d, wid := wid, tids := tids, .. } =>
      if d < s.cycle then
        s.closeGather ctx { wid := wid, tids := tids, kind := .gather 0 0 pc words targets } pc words targets (s.cycle - 1)
      else s
    | _ => s) s

/-! ### Reconvergence, EXIT, YIELD (R205-R207) -/

/-- RCV (R205). -/
def execRcv (h : Head) (pd : Option (BitVec 5)) (bound : BitVec 16) (s : State) : Out :=
  act (onBeat h (fun e s =>
    let s := s.modCtx e.b.ctx (fun c => c.modT (fun t => e.lanes.any (fun l => l.t.tid == t.tid)) (fun t => { t with reformed := none }))
    let len := if bound = 0 then (s.die (dieOf e.b.core)).rcvwait else bound.toNat
    let pd := pd.map (fun p => p.toNat)
    let s := (wheelsOf e.lanes).foldl (fun s l =>
      let tids := (e.lanes.filter (fun x => x.w.idx == l.w.idx)).map (fun x => x.t.tid)
      s.join e.b.ctx tids (fun k => match k with | .rcv w pc _ => w == l.w.idx && pc == e.b.pc | _ => false)
        (.rcv l.w.idx e.b.pc pd) id (some (s.cycle + len))) s
    s.settle e.b.ctx s.cycle)) s

/-- RCV_DEADLINE_EXPIRY (R205). -/
def execRcvDeadlineExpiry (ctx wid : Nat) (s : State) : Out :=
  act (fun s =>
    match (sGet s.ctxs ctx).bind (fun c => c.waitOf wid) with
    | some w =>
      match w.kind, w.deadline with
      | .rcv wheel _ pd, some d => if d < s.cycle then s.closeRcv ctx w wheel pd false else s
      | _, _ => s
    | none => s) s

/-- Threads end: generations that lack their signature fault, wheels that have lost their last thread end, and waits for them close (R151, R205, R206). -/
def State.endThreads (s : State) (ctx : Nat) (tids : List Nat) : State :=
  match sGet s.ctxs ctx with
  | none => s
  | some c =>
    let ls := c.lanes tids
    let s := s.setCtx ctx (c.modT (fun t => tids.contains t.tid) (fun t => { t with st := .ended, reformed := none, stamp := none }))
    let s := ls.foldl (fun s l => (List.range 16).foldl (fun s n =>
      match sGet s.ctxs ctx with
      | none => s
      | some c =>
        let v := c.conv l.w.core n
        if v.sgn != 0 && v.group == some (l.t.tid / v.size) && !v.sgn.getLsbD (l.t.tid % v.size) then s.breakGen ctx l.w.core n 4
        else s) s) s
    let s := (wheelsOf ls).foldl (fun s l => s.modCtx ctx (fun c => c.endWheel l.w.idx)) s
    s.settle ctx s.cycle

/-- EXIT (R206). -/
def execExit (h : Head) (s : State) : Out :=
  act (onBeat h (fun e s => s.endThreads e.b.ctx (e.lanes.map (fun l => l.t.tid)))) s

/-- YIELD (R207). -/
def execYield (h : Head) (count : BitVec 16) (s : State) : Out :=
  act (onBeat h (fun e s =>
    let tids := e.lanes.map (fun l => l.t.tid)
    let s := s.modCtx e.b.ctx (fun c => c.modT (fun t => tids.contains t.tid) (fun t => { t with yielded := true }))
    if count = 0 ∨ tids = [] then s else s.suspend e.b.ctx tids .yield (some (s.cycle + count.toNat)))) s

/-- YIELD_EXPIRY (R207), and the end of a count of cycles that a gather or a regrouping holds its threads for (R203, R210). -/
def execYieldExpiry (ctx wid : Nat) (s : State) : Out :=
  act (fun s =>
    match sGet s.ctxs ctx with
    | none => s
    | some c =>
      match c.waitOf wid with
      | some w =>
        match w.kind, w.deadline with
        | .yield, some d => if d < s.cycle then s.setCtx ctx (c.wake wid) else s
        | .pause, some d => if d < s.cycle then s.setCtx ctx (c.wake wid) else s
        | _, _ => s
      | none => s) s

/-! ### The register pool (R208, R209) -/

/-- Free units of a quarter: 1,024 less those that windows hold (R208). -/
def State.freeUnits (s : State) (core quarter : Nat) : Nat :=
  1024 - s.ctxs.foldl (fun a e => a + (e.2.wheels.foldl (fun b w =>
    if w.core = core ∧ w.quarter = quarter then b + w.window / 8 else b) 0)) 0

/-- The claims that wait in a quarter, in the order in which they joined: context, wait, wheel, registers (R209). -/
def State.claims (s : State) (core quarter : Nat) : List (Nat × Nat × Nat × Nat) :=
  sortBy (fun (x : Nat × Nat × Nat × Nat) => x.2.1) (s.ctxs.flatMap (fun e => e.2.waits.filterMap (fun w => match w.kind with
    | .claim c q wheel n => if c = core ∧ q = quarter then some (e.1, w.wid, wheel, n) else none
    | _ => none)))

/-- Control-flow causes 4 and 6 for the issuing lanes (R202). -/
def poolFault (e : Site) (s : State) (cause : Nat) : State :=
  s.beatFault e.b false (e.lanes.map (fun l => { tid := l.t.tid, cls := 0x0E, cause := cause }))

/-- The instructions of a block that write registers when their wait or their operation ends, with the thread: signatures of matrix instructions, and waits whose D is not pending (R160, R197, R209, R240). -/
def State.lateSigners (s : State) (ctx : Nat) (c : Ctx) : List Signer :=
  c.cregs.flatMap (fun v => v.2.signers ++ v.2.held) ++ s.cores.flatMap (fun o =>
    (o.2.mqueue ++ o.2.mdone.map (fun r => r.op)).flatMap (fun m => if m.ctx = ctx then m.signers else []))

/-- An instruction writes a vector register at or beyond `lo`. -/
def wordsReach (lo : Nat) (w : Word × Word × Word) : Bool :=
  match Op.ofCode (w.1.toNat % 256) with
  | none => false
  | some o =>
    let r := Raw.ofWords w.1 w.2.1 w.2.2
    (dstRange (form o r) r).any (fun g => g.vec && g.base != 255 && decide (lo < g.base.toNat + g.n))

/-- The register that the end of a wait writes, if it lies at or beyond `lo`. -/
def WaitKind.reach (lo : Nat) : WaitKind → Bool
  | .pbwait d _ _ _ => d != 255 && decide (lo ≤ d)
  | .fwait d _ _ _ => d != 255 && decide (lo ≤ d)
  | _ => false

/-- A write of a register at or beyond `lo` is still to come in a thread (R85, R209). -/
def State.writesAt (s : State) (ctx : Nat) (c : Ctx) (lo : Nat) (t : Thread) : Bool :=
  t.pend.any (fun p => match p.use with | .v b k => decide (lo < b + k) | _ => false)
    || (t.st == .blocked && (s.lateSigners ctx c).any (fun g => g.tid == t.tid && !g.void && wordsReach lo g.words))
    || c.waits.any (fun w => t.st == .suspended w.wid && w.tids.contains t.tid && w.kind.reach lo)

/-- RFGIVE (R209). -/
def execRfgive (h : Head) (count : BitVec 9) (s : State) : Out :=
  act (onBeat h (fun e s =>
    let n := count.toNat
    match e.lanes with
    | [] => s
    | l :: _ =>
      if e.lanes.any (fun l => l.t.reformed.isSome) then poolFault e s 4
      else if l.w.window < n + 8 then poolFault e s 6
      else
        let lo := l.w.window - n
        if e.c.threads.any (fun t => t.wheel == l.w.idx && s.writesAt e.b.ctx e.c lo t) then s.hold e.b .retry
        else (s.modCtx e.b.ctx (fun c => (c.modW l.w.idx (fun w => { w with window := lo })).modT (fun t => t.wheel == l.w.idx)
          (fun t => { t with vregs := t.vregs.filter (fun x => decide (x.1 < lo)) }))).dropLatches e.b.ctx)) s

/-- RFCLAIM (R209). -/
def execRfclaim (h : Head) (pd : Option (BitVec 5)) (count : BitVec 9) (s : State) : Out :=
  act (onBeat h (fun e s =>
    let n := count.toNat
    match e.lanes with
    | [] => s
    | l :: _ =>
      if e.lanes.any (fun l => l.t.reformed.isSome) then poolFault e s 4
      else if 256 < l.w.window + n then poolFault e s 6
      else
        let s := s.dropLatches e.b.ctx
        let ok := decide (n / 8 ≤ s.freeUnits l.w.core l.w.quarter) && (s.claims l.w.core l.w.quarter).isEmpty
        let s := if ok then s.modCtx e.b.ctx (fun c => c.modW l.w.idx (fun w => { w with window := w.window + n })) else s
        match pd with
        | some p => s.writeP e p.toNat 0 (fun _ => ok)
        | none =>
          if ok then s
          else s.suspend e.b.ctx (e.lanes.map (fun l => l.t.tid)) (.claim l.w.core l.w.quarter l.w.idx n) none)) s

/-- CLAIM_GRANT (R209): the head claim of a quarter is served when the pool holds its units. -/
def execClaimGrant (core quarter : Nat) (s : State) : Out :=
  act (fun s =>
    match s.claims core quarter with
    | [] => s
    | (ctx, wid, wheel, n) :: _ =>
      if n / 8 ≤ s.freeUnits core quarter then
        s.modCtx ctx (fun c => (c.modW wheel (fun w => { w with window := w.window + n })).wake wid)
      else s) s

/-! ### Regrouping (R210, R211) -/

/-- Threads of some wheels that wait in a core's regrouping leave it and park with cause 4 (R202). -/
def State.expel (s : State) (ctx core : Nat) (ws : List Nat) : State :=
  match sGet s.ctxs ctx with
  | none => s
  | some c =>
    c.waits.foldl (fun s w => match w.kind with
      | .regroup k ps =>
        let out := ps.filter (fun p => (c.thread p.tid).any (fun t => t.st == .suspended w.wid && ws.contains t.wheel))
        if k = core ∧ out ≠ [] then
          (s.modCtx ctx (fun c => { c with waits := c.waits.map (fun x =>
            if x.wid = w.wid then { x with kind := .regroup k (ps.filter (fun p => !out.contains p)) } else x) })).regroupFault ctx out 4
        else s
      | _ => s) s

/-- REGROUP and UNGROUP: the beat's threads join the core's wait; those of a re-formed membership fault, with the threads of their wheels that wait there (R202, R210). -/
def regroupOp (h : Head) (un : Bool) (key : Lane → Nat) (base n : Nat) : State → State :=
  onBeat h (fun e s =>
    let all := e.c.lanes e.b.tids
    let bad := all.filter (fun l => l.t.reformed.isSome)
    let good := all.filter (fun l => l.t.reformed.isNone)
    let on := fun (l : Lane) => e.lanes.any (fun x => x.t.tid == l.t.tid)
    let ps := good.map (fun l => { tid := l.t.tid, key := if on l then key l else 0xFFFFFFFF, pc := e.b.pc, un := un
                                   base := base, n := n, words := e.b.words : RPart })
    let tids := good.map (fun l => l.t.tid)
    let s := s.modCtx e.b.ctx (fun c => c.modT (fun t => tids.contains t.tid) (fun t => { t with pc := e.b.pc }))
    let s := s.expel e.b.ctx e.b.core (bad.map (fun l => l.w.idx))
    let s := if tids = [] then s
      else s.join e.b.ctx tids (fun k => match k with | .regroup c _ => c == e.b.core | _ => false)
        (.regroup e.b.core ps) (fun k => match k with | .regroup c old => .regroup c (old ++ ps) | k => k) none
    (s.beatFault e.b false (bad.map (fun l => { tid := l.t.tid, cls := 0x0E, cause := 4 }))).settle e.b.ctx s.cycle)

/-- REGROUP (R210). -/
def execRegroup (h : Head) (a base n1 : BitVec 8) (s : State) : Out :=
  act (regroupOp h false (fun l => readV l.t 1 a) base.toNat (n1.toNat + 1)) s

/-- UNGROUP (R211). -/
def execUngroup (h : Head) (base n1 : BitVec 8) (s : State) : Out :=
  act (regroupOp h true (fun _ => 0) base.toNat (n1.toNat + 1)) s

/-! ### Traps (R219, R220, R224) -/

/-- TRAP (R219). -/
def execTrap (h : Head) (code : BitVec 16) (s : State) : Out :=
  act (onBeat h (fun e s => s.beatFault e.b false (e.lanes.map (fun l =>
    { tid := l.t.tid, cls := 0x16, info := code.setWidth 64 })))) s

/-- BKPT (R219). -/
def execBkpt (h : Head) (code : BitVec 16) (s : State) : Out :=
  act (onBeat h (fun e s =>
    if (s.die (dieOf e.b.core)).bkpten then
      s.beatFault e.b false (e.lanes.map (fun l => { tid := l.t.tid, cls := 0x17, info := code.setWidth 64 }))
    else s)) s

/-- The decoding traps of a beat: every thread of a list parks at the instruction (R89). -/
def State.decodeTrap (s : State) (b : Beat) (tids : List Nat) (cls cause : Nat) : State :=
  s.beatFault b false (tids.map (fun t => { tid := t, cls := cls, cause := cause }))

/-- The illegal-instruction trap in every thread of the beat (R89). -/
def illegalOp (s : State) : State :=
  match s.beat with
  | none => s
  | some b => s.decodeTrap b b.tids 1 0

/-- ILL (R91, R224). -/
def execIll (_w0 _w1 _w2 : Word) (s : State) : Out := act illegalOp s

/-- A reserved major opcode (R89, R90). -/
def execReservedOpcode (_w0 _w1 _w2 : Word) (s : State) : Out := act illegalOp s

/-! ### System registers (R222, R223) -/

/-- The value of a system register for a lane (R223). -/
def State.sysReg (s : State) (e : Site) (l : Lane) (num : Nat) : Nat :=
  let die := s.die (dieOf l.w.core)
  match num with
  | 0 => die.waitiv
  | 1 => die.rcvwait
  | 2 => (s.core l.w.core).stalearr.toNat
  | 3 => if e.c.handler then 1 else 0
  | 4 => if die.bkpten then 1 else 0
  | 5 => s.freeUnits l.w.core l.w.quarter
  | 6 => (s.core l.w.core).locks.length
  | _ => 0

/-- SYSR (R223): every register of R223 is user-readable. -/
def execSysr (h : Head) (d : Dst) (num : BitVec 12) (s : State) : Out :=
  act (onBeat h (fun e s =>
    let v := fun (l : Lane) => [BitVec.ofNat 32 (s.sysReg e l num.toNat)]
    match d with
    | .v r => s.writeV e r.toNat 0 v
    | .s r => s.writeS e r.toNat 0 v)) s

/-- A write of a system register by a wheel (R223). -/
def State.sysWrite (s : State) (core num v : Nat) : State :=
  match num with
  | 0 => s.modDie (dieOf core) (fun d => { d with waitiv := max 64 (v % 2 ^ 20) })
  | 1 => s.modDie (dieOf core) (fun d => { d with rcvwait := max 16 (v % 2 ^ 16) })
  | 2 => s.modCore core (fun c => { c with stalearr := BitVec.ofNat 32 v })
  | 4 => s.modDie (dieOf core) (fun d => { d with bkpten := v % 2 == 1 })
  | _ => s

/-- The effect of a privileged instruction in the handler context; elsewhere the privilege fault, and in a speculative run its end with a cause (R222, R223, R358). -/
def privOp (h : Head) (cause : Nat) (f : Site → State → State) : State → State :=
  onBeat h (fun e s =>
    match e.lanes, e.c.run with
    | [], _ => s
    | _, some slot => s.discardRun slot cause
    | _, none =>
      if e.c.handler then f e s
      else s.beatFault e.b false (e.lanes.map (fun l => { tid := l.t.tid, cls := 0x15 })))

/-- SYSW (R223). -/
def execSysw (h : Head) (num : BitVec 12) (a : BitVec 8) (s : State) : Out :=
  act (privOp h 1 (fun e s => (wheelsOf e.lanes).foldl (fun s l => s.sysWrite l.w.core num.toNat (readS l.w 1 a)) s)) s

/-! ### Results and starving (R85, R252, R254) -/

/-- RESULT_WRITEBACK (R85, R254): results whose cycle has passed are written, and regroupings that waited for them may close. -/
def execResultWriteback (ctx : Nat) (s : State) : Out :=
  act (fun s => (s.modCtx ctx (fun c => c.writeback s.cycle)).settle ctx (s.cycle - 1)) s

/-- A thread of a quarter that has been a candidate for 1,024 cycles (R251). -/
def State.starvingIn (s : State) (core quarter : Nat) : Bool :=
  s.ctxs.any (fun e => e.2.threads.any (fun t => t.st == .ready && (match t.stamp with | some k => decide (k + 1024 ≤ s.cycle) | none => false)
    && (e.2.wheels.any (fun w => w.idx == t.wheel && w.core == core && w.quarter == quarter))))

/-- CANDIDATE_STARVING (R252): from here on only starving candidates of the quarter issue. -/
def execCandidateStarving (core quarter : Nat) (s : State) : Out :=
  act (fun s => s.modQuarter (4 * core + quarter) (fun q => { q with starving := s.starvingIn core quarter })) s

end Sys2Proof.Machine
end

