-- ==== Sys2Proof/Machine/Engines.lean ====
section
/-! DEFINITION. The copy engines: entries, what they move, their start, completion and fault (R184-R191, R196, R317, R383, R445). -/

namespace Sys2Proof.Machine

/-! ### Fields and static checks of an entry (R185, R190) -/

/-- DSPACE: 0 .g, 2 .s, 3 .d. -/
def entD (e : List Byte) : Nat := fld e 1 1 % 4
/-- SSPACE. -/
def entS (e : List Byte) : Nat := fld e 1 1 / 4 % 4
/-- SCOPE of the completion. -/
def entScope (e : List Byte) : Nat := fld e 2 2 / 4 % 8
/-- BARV. -/
def entBarv (e : List Byte) : Bool := fld e 2 2 % 2 == 1
/-- COORDk. -/
def entCoord (e : List Byte) (k : Nat) : Int := sgnVal true 32 (fld e (32 + 4 * k) 4)

/-- The entry uses its source side. -/
def usesSrc (op : Nat) : Bool := decide (op ∈ [1, 2, 3])
/-- The entry uses its destination side. -/
def usesDst (op : Nat) : Bool := decide (op ∈ [1, 2, 3, 4])

/-- An entry names .s (R185). -/
def namesShared (e : List Byte) : Bool :=
  let op := fld e 0 1
  (usesSrc op && entS e == 2) || (usesDst op && entD e == 2)

/-- The chain-fault conditions of an entry: a tile copy with neither or both sides .g, a window copy that does not read .g into .s or .d; and, where no block published it, .s or BARV, which an end of stream does not carry (R185, R188, R189, R315; DEDUCED, log 113). -/
def entChainBad (e : List Byte) (blockless : Bool) : Bool :=
  let op := fld e 0 1
  (op == 2 && ((entS e == 0) == (entD e == 0))) || (op == 3 && !(entS e == 0 && entD e != 0))
    || (blockless && (namesShared e || (decide (op ∈ [1, 2, 3, 4, 5]) && entBarv e)))

/-- A reserved OP or field of an entry (R185). FLAGS bit 1 of a program's entry, which the rule names neither as a field nor as reserved, is ignored (DESIGN CHOICE, log 122). -/
def entReserved (e : List Byte) : Bool :=
  let op := fld e 0 1
  !decide (op ∈ [1, 2, 3, 4, 5, 15]) || decide (64 ≤ fld e 1 1) || entD e == 1 || entS e == 1
    || decide (32 ≤ fld e 2 2) || !decide (entScope e ∈ [2, 3, 4, 5]) || decide (0x8000 ≤ fld e 4 2)
    || fld e 6 2 != 0 || fld e 52 4 != 0
    || (usesSrc op && entS e != 0 && fld e 12 4 != 0) || (usesDst op && entD e != 0 && fld e 20 4 != 0)

/-- The shape record of a tile or window copy. -/
def entShape (e : List Byte) : Shape := shapeOf (BitVec.ofNat 512 (fld e 64 64))

/-- NPk of a window copy (R189). -/
def npk (sh : Shape) (k : Nat) : Int := (sh.dim k : Int) + (sh.wlo[k]?).getD 0 + (sh.whi[k]?).getD 0

/-- The shape fault of an entry (R54, R188, R189). A row that is no multiple of 128 bits and a tile copy in MODE window take this CAUSE (DESIGN CHOICE, log 123: the rules name none). -/
def entShapeBad (e : List Byte) : Bool :=
  let op := fld e 0 1
  let sh := entShape e
  if op = 2 then sh.bad || sh.mode != 0 || (sh.boxk 0 * sh.ebits) % 128 != 0
  else if op = 3 then
    sh.bad || sh.mode != 1 || (sh.channels * sh.ebits) % 128 != 0
      || (List.range (sh.rank - 2)).any (fun i => decide (npk sh (i + 1) < 1))
  else false

/-- The alignment fault of an entry (R188). -/
def entAlignBad (e : List Byte) : Bool :=
  let op := fld e 0 1
  if op = 1 then fld e 32 8 % 4 != 0 || fld e 8 4 % 4 != 0 || fld e 16 4 % 4 != 0
  else if op = 4 then fld e 32 8 % 4 != 0 || fld e 16 4 % 4 != 0
  else if op = 2 ∨ op = 3 then
    op == 2 && ((entD e != 0 && fld e 16 4 % 16 != 0) || (entS e != 0 && fld e 8 4 % 16 != 0))
  else false

/-- The CAUSE with which an entry faults before any byte moves, the first that applies of 1, 7, 2, 4 (R190; DESIGN CHOICE, log 126: the spec orders them not); bytes 4 and 5 of a queue's copy command are PHASE, which must be 0 (R315). -/
def entCause (e : List Byte) (blockless cmd : Bool) : Option Nat :=
  if entReserved e || (cmd && fld e 4 2 != 0) then some 1
  else if entChainBad e blockless then some 7
  else if entShapeBad e then some 2
  else if entAlignBad e then some 4
  else none

/-! ### What an entry moves -/

/-- One piece of a copy: source places, destination places, the places of which it keeps bits, the bytes written from the bytes read and the old ones, and the .g range it touches: object, first and end offset. -/
structure Piece where
  src : List Nat := []
  dst : List Nat := []
  old : List Nat := []
  f : List Byte → List Byte → List Byte
  gsrc : Option (Nat × Nat × Nat) := none
  gdst : Option (Nat × Nat × Nat) := none

/-- The pieces of an entry in order, the CAUSE that stops it after them, and VALID. -/
structure Plan where
  pieces : List Piece := []
  bad : Option Nat := none
  valid : Nat := 0

/-- CAUSE of R190 for a class of R392. -/
def causeOf (cls : Nat) : Nat := if cls = 0x0A then 6 else 3

/-- The right that an entry needs of an object that it writes: w, but none of the weight object that its fill maps (R382, R403; DEDUCED, log 132). -/
def dstNeed (wobj : Option Nat) (obj : Nat) : Nat := if wobj = some obj then 0 else 2

/-- The places of a .g range that pass, page by page, and the CAUSE that ends them; no byte is no access. -/
def State.gRange (s : State) (die obj ofs n need : Nat) : List Nat × Option Nat :=
  if n = 0 then ([], none) else
  let ext := match s.readDesc die obj with
    | some w => dExtent w
    | none => 0
  (List.range ((ofs % 65536 + n + 65535) / 65536)).foldl (fun (a : List Nat × Option Nat) i =>
    match a.2 with
    | some _ => a
    | none =>
      let lo := if i = 0 then ofs else (ofs / 65536 + i) * 65536
      let hi := min (ofs + n) ((ofs / 65536 + i + 1) * 65536)
      let go := fun (h : Nat) =>
        if h ≤ lo then none
        else match s.unitPlace die (mkCap obj lo) (h - lo) need (need != 1) false with
          | .ok p => some (run p (h - lo))
          | .error _ => none
      if 2 ^ 44 < hi then (a.1, some 3)
      else match s.unitPlace die (mkCap obj lo) (hi - lo) need (need != 1) false with
        | .ok p => (a.1 ++ run p (hi - lo), none)
        | .error k => (a.1 ++ (go (min hi ext)).getD [], some (causeOf k.1))) ([], none)

/-- The places of a .s or .d range of an entry, and CAUSE 5 beyond its bound. -/
def State.lRange (s : State) (die ctx sp a n : Nat) : List Nat × Option Nat :=
  let size := if sp = 2 then ((s.anyCtx ctx).map (fun c => c.kernel.sharedBytes)).getD 0 else 65536 * s.job.scrblks
  let m := if a + n ≤ size then n else size - a
  (run (if sp = 2 then sharedP ctx a else scratchP die a) m, if m < n then some 5 else none)

/-- The places of a side of a linear copy or fill. -/
def State.side (s : State) (die ctx sp c n need : Nat) : List Nat × Option Nat :=
  if sp = 0 then s.gRange die (c / 2 ^ 44 % 2 ^ 20) (c % 2 ^ 44) n need else s.lRange die ctx sp (c % 2 ^ 32) n

/-- The .g range of a side. -/
def sideG (sp c n : Nat) : Option (Nat × Nat × Nat) :=
  if sp = 0 ∧ n ≠ 0 then some (c / 2 ^ 44 % 2 ^ 20, c % 2 ^ 44, c % 2 ^ 44 + n) else none

/-- The plan of a linear copy (R188): it reads all its source before it writes (DESIGN CHOICE, log 110). -/
def State.planLinear (s : State) (die ctx : Nat) (wobj : Option Nat) (e : List Byte) : Plan :=
  let n := fld e 32 8
  let a := s.side die ctx (entS e) (fld e 8 8) n 1
  let b := s.side die ctx (entD e) (fld e 16 8) n (dstNeed wobj (fld e 16 8 / 2 ^ 44))
  let m := min a.1.length b.1.length
  { pieces := [{ src := a.1.take m, dst := b.1.take m, f := fun x _ => x
                 gsrc := sideG (entS e) (fld e 8 8) n, gdst := sideG (entD e) (fld e 16 8) n }]
    bad := if a.1.length ≤ b.1.length then (match a.2 with | some k => some k | none => b.2)
      else (match b.2 with | some k => some k | none => a.2) }

/-- The plan of a fill (R188). -/
def State.planFill (s : State) (die ctx : Nat) (wobj : Option Nat) (e : List Byte) : Plan :=
  let n := fld e 32 8
  let b := s.side die ctx (entD e) (fld e 16 8) n (dstNeed wobj (fld e 16 8 / 2 ^ 44))
  { pieces := [{ dst := b.1, f := fun _ old => (List.range old.length).map (fun k => ((e.drop 40)[k % 8]?).getD 0)
                 gdst := sideG (entD e) (fld e 16 8) n }]
    bad := b.2 }

/-- The part of a row of `n` elements from `g0` that lies in the tensor at the other coordinates: bit address from the base, first element of the row and count. -/
def rowSeg (sh : Shape) (g0 : Int) (gs : List Int) (n : Nat) : Option (Nat × Nat × Nat) :=
  let inside := (List.range gs.length).all (fun i =>
    decide (0 ≤ (gs[i]?).getD 0) && decide ((gs[i]?).getD 0 < (sh.dim (i + 1) : Int)))
  let i0 := (max 0 (-g0)).toNat
  let i1 := (min (n : Int) ((sh.dim 0 : Int) - g0)).toNat
  if !inside || i1 ≤ i0 then none
  else
    let rest := (List.range gs.length).foldl (fun a i => a + ((gs[i]?).getD 0).toNat * sh.stride (i + 1) * 8) 0
    some ((g0 + i0).toNat * sh.ebits + rest, i0, i1 - i0)

/-- `n` elements of one code as a number. -/
def fillNum (w code n : Nat) : Nat := packElems w ((List.range n).map (fun _ => code))

/-- Bytes of the .s or .d side of a row, after the swizzle for .s (R55, R188). -/
def State.rowPlaces (s : State) (die ctx sp swz a n : Nat) : List Nat × Option Nat :=
  if sp = 2 then
    (List.range n).foldl (fun (r : List Nat × Option Nat) i =>
      match r.2 with
      | some _ => r
      | none =>
        let x := s.lRange die ctx 2 (swizzle swz (a + i)) 1
        (r.1 ++ x.1, x.2)) ([], none)
  else s.lRange die ctx sp a n

/-- The first and the last place of a row of bits, of whose bytes it keeps some bits (R188; DESIGN CHOICE, log 133). -/
def edges (ps : List Nat) (bit n : Nat) : List Nat :=
  ((if bit % 8 = 0 then [] else ps.take 1) ++ (if (bit + n) % 8 = 0 then [] else ps.getLast?.toList)).dedup

/-- One row of a tile or window copy: from .g with the fill value, or to .g for the elements in range (R188, R189). -/
def State.planRow (s : State) (die ctx : Nat) (wobj : Option Nat) (e : List Byte) (g0 : Int) (gs : List Int) (n off : Nat) : Plan :=
  let sh := entShape e
  let w := sh.ebits
  let toG := entD e == 0
  let gcap := if toG then fld e 16 8 else fld e 8 8
  let loc := s.rowPlaces die ctx (if toG then entS e else entD e) sh.swz (fld e (if toG then 8 else 16) 4 + off) (n * w / 8)
  match rowSeg sh g0 gs n with
  | none =>
    if toG then {}
    else { pieces := [{ dst := loc.1, f := fun _ old => natBytes old.length (fillNum w sh.fillCode n) }], bad := loc.2 }
  | some (bit, i0, cnt) =>
    let obj := gcap / 2 ^ 44 % 2 ^ 20
    let lo := gcap % 2 ^ 44 + bit / 8
    let len := (bit % 8 + cnt * w + 7) / 8
    let g := s.gRange die obj lo len (if toG then dstNeed wobj obj else 1)
    let rng := some (obj, lo, lo + len)
    match g.2 with
    | some k => { bad := some k }
    | none =>
      if toG then
        match loc.2 with
        | some k => { bad := some k }
        | none => { pieces := [{ src := loc.1, dst := g.1, old := edges g.1 bit (cnt * w), gdst := rng
                                 f := fun x old => natBytes old.length
                                   (natSetBits (bytesNat old) (bit % 8) (cnt * w) (natBits (bytesNat x) (i0 * w) (cnt * w))) }] }
      else
        { pieces := [{ src := g.1, dst := loc.1, gsrc := rng
                       f := fun x old => natBytes old.length (fillNum w sh.fillCode i0
                         + natBits (bytesNat x) (bit % 8) (cnt * w) * 2 ^ (i0 * w)
                         + fillNum w sh.fillCode (n - i0 - cnt) * 2 ^ ((i0 + cnt) * w)) }]
          bad := loc.2 }

/-- Plans one after the other, up to the first that is stopped. -/
def joinPlans (ps : List Plan) : Plan :=
  ps.foldl (fun a p => match a.bad with
    | some _ => a
    | none => { pieces := a.pieces ++ p.pieces, bad := p.bad, valid := a.valid + p.valid }) {}

/-- The plan of a tile copy (R188). -/
def State.planTile (s : State) (die ctx : Nat) (wobj : Option Nat) (e : List Byte) : Plan :=
  let sh := entShape e
  let bx := fun k => if k < sh.rank then sh.boxk k else 1
  joinPlans ((List.range (bx 1 * bx 2 * bx 3 * bx 4)).map (fun r =>
    let b := [r % bx 1, r / bx 1 % bx 2, r / (bx 1 * bx 2) % bx 3, r / (bx 1 * bx 2 * bx 3)]
    let gs := (List.range (sh.rank - 1)).map (fun i => entCoord e (i + 1) + ((b[i]?).getD 0 : Nat))
    s.planRow die ctx wobj e (entCoord e 0) gs (sh.boxk 0) (r * (sh.boxk 0 * sh.ebits / 8))))

/-- The coordinates of pixel `p` in the spatial dimensions 1 to `R - 2`, and the image index (R189). -/
def pixelCoords (sh : Shape) (e : List Byte) : List Nat → Int → List Int × Int
  | [], p => ([], p)
  | k :: ks, p =>
    let np := npk sh k
    let r := pixelCoords sh e ks (p / np)
    ((p % np - (sh.wlo[k]?).getD 0 + entCoord e k) :: r.1, r.2)

/-- The plan of a window copy (R189). -/
def State.planWindow (s : State) (die ctx : Nat) (e : List Byte) : Plan :=
  let sh := entShape e
  joinPlans ((List.range sh.pixels).map (fun j =>
    let x := pixelCoords sh e ((List.range (sh.rank - 2)).map (· + 1)) (entCoord e 4 + (j : Nat))
    let p := s.planRow die ctx none e (entCoord e 0) (x.1 ++ [x.2]) sh.channels (j * (sh.channels * sh.ebits / 8))
    { p with valid := if x.2 < (sh.dim (sh.rank - 1) : Int) then 1 else 0 }))

/-- The weight object that the fill of an entry of the residency table maps (R382). -/
def State.wobjOf (s : State) (owner : Option Nat) : Option Nat := owner.bind (fun e => (sGet s.resid e).map (fun r => r.wobj))

/-- The plan of an entry, whose static checks passed; `wobj` is the weight object of a fill. -/
def State.plan (s : State) (die ctx : Nat) (wobj : Option Nat) (e : List Byte) : Plan :=
  match fld e 0 1 with
  | 1 => s.planLinear die ctx wobj e
  | 2 => s.planTile die ctx wobj e
  | 3 => s.planWindow die ctx e
  | 4 => s.planFill die ctx wobj e
  | _ => {}

/-! ### Choosing and starting (R187, R191) -/

/-- The engine of a die. -/
def State.engine (s : State) (die eng : Nat) : Engine := (sGet (s.die die).engines eng).getD {}
/-- A change to an engine of a die. -/
def State.modEngine (s : State) (die eng : Nat) (f : Engine → Engine) : State :=
  s.modDie die (fun d => { d with engines := sPut d.engines eng (f ((sGet d.engines eng).getD {})) })
/-- A change to a chain. -/
def State.modChain (s : State) (ccb : Cap) (fill : Bool) (die : Nat) (f : Chain → Chain) : State :=
  { s with chains := s.chains.map (fun x => if x.ccb = ccb ∧ x.fill = fill ∧ (!fill ∨ x.die = die) then f x else x) }

/-- The control block of a chain that has been served is at its reset again: a program has initialised it anew (R184). -/
def State.anew (s : State) (ch : Chain) (blk : Nat) : Bool := ch.taken != 0 && s.ccb ch.die blk 32 8 == 0

/-- The entry of a chain that follows DONESEQ (R184, R187). -/
def State.chainEntry (s : State) (ch : Chain) (blk : Nat) : Cap :=
  BitVec.ofNat 64 (if s.ccb ch.die blk 32 8 = 0 then s.ccb ch.die blk 0 8 else ((s.farBytes ch.die (capAdd ch.last 56) 8).map bytesNat).getD 0)

/-- A program's chain whose entries an engine takes: its control block, while entries are published (R187). -/
def State.chainOpen (s : State) (ch : Chain) : Option Nat :=
  if ch.faulted || ch.next.isSome || ch.queue.isSome || ch.fill || ch.pubs.isEmpty then none
  else match s.ccbPlace ch.die ch.ccb with
    | none => none
    | some blk => if s.ccb ch.die blk 24 8 ≤ s.ccb ch.die blk 32 8 then none else some blk

/-- What an engine needs of a chain's next entry behind apertures is requested (R374). -/
def State.pollChain (s : State) (ch : Chain) : State :=
  match s.chainOpen ch with
  | none => s
  | some blk =>
    let more := s.ccb ch.die blk 32 8 != 0
    let s := if more then s.askFor ch.die (capAdd ch.last 56) 8 else s
    if (more && s.farWaits ch.die (capAdd ch.last 56) 8) || capOfs (s.chainEntry ch blk) % 128 ≠ 0 then s
    else s.askFor ch.die (s.chainEntry ch blk) 128

/-- The next entry of a chain, with its bytes: empty when they cannot be read (R184, R187); none while a pin refuses the reads (R279) or answers are on their way. -/
def State.chainNext (s : State) (ch : Chain) : Option (Handed × List Byte) :=
  if ch.faulted || ch.next.isSome then none
  else
    let bytes := fun (c : Cap) => if capOfs c % 128 = 0 then (s.farBytes ch.die c 128).getD [] else []
    if ch.queue.isSome || ch.fill then
      ch.cmds.head?.map (fun h => (h, match h.copy with | some b => b | none => bytes h.entry))
    else
      match s.chainOpen ch with
      | none => none
      | some blk =>
        let done := s.ccb ch.die blk 32 8
        if s.unitPinned ch.die ch.ccb 64 || (done != 0 && (s.unitPinned ch.die ch.last 128 || s.farWaits ch.die (capAdd ch.last 56) 8)) then none
        else
          let entry := s.chainEntry ch blk
          if s.unitPinned ch.die entry 128 || s.farWaits ch.die entry 128 then none else some ({ seq := done + 1, entry := entry }, bytes entry)

/-- The chain that an engine serves next: the bound chains with an entry to take, in turn after the last one served (R187). -/
def State.engNext (s : State) (die eng : Nat) : Option (Chain × Handed × List Byte) :=
  let g := s.engine die eng
  if g.run.isSome then none
  else
    let cs := s.chains.filter (fun c => c.die == die && c.eng == eng)
    let late := (cs.dropWhile (fun c => c.ccb != g.last)).drop 1
    (late ++ cs).findSome? (fun c => (s.chainNext c).map (fun h => (c, h.1, h.2)))

/-- Who published an entry of a chain: context and core. -/
def Chain.publisher (c : Chain) (seq : Nat) : Nat × Nat :=
  match c.pubs.find? (fun p => decide (seq ≤ p.1)) with
  | some p => p.2
  | none => (c.pubs.getLast?.map (fun p => p.2)).getD (0, 0)

/-- The lock of a side over the pieces: the range from its lowest to its highest byte (R191). -/
def lockRange (l : List (Option (Nat × Nat × Nat))) : Option (Nat × Nat × Nat) :=
  l.foldl (fun a x => match a, x with
    | none, x => x
    | a, none => a
    | some a, some b => some (a.1, min a.2.1 b.2.1, max a.2.2 b.2.2)) none

/-- The locks of a plan. -/
def Plan.locks (p : Plan) (seq ctx core : Nat) (ccb : Cap) : List RLock :=
  let mk := fun (d : Bool) (x : Nat × Nat × Nat) =>
    { obj := x.1, lo := x.2.1, hi := x.2.2, dst := d, seq := seq, chain := ccb, ctx := ctx, core := core : RLock }
  (lockRange (p.pieces.map (fun x => x.gsrc))).toList.map (mk false) ++ (lockRange (p.pieces.map (fun x => x.gdst))).toList.map (mk true)

/-- STATE of a chain written at its control block (R184); the command unit keeps that of a queue's. -/
def State.setChainState (s : State) (ch : Chain) (v : Nat) : State :=
  if ch.fill || ch.queue.isSome then s
  else match s.ccbPlace ch.die ch.ccb with
    | none => s
    | some blk => s.setCcb ch.die blk 41 1 v

/-- The bytes that a plan reads and that peers and the host hold are requested. -/
def State.askPlan (s : State) (p : Plan) : List Nat × State :=
  (runsOf ((p.pieces.flatMap (fun x => (x.src ++ x.old).filter isRemote)).map (fun q => (q, 0)))).foldl (fun (a : List Nat × State) r =>
    let (tag, s) := a.2.newTag
    let ps := run r.1 r.2.length
    let s := s.askRead tag ps
    (a.1 ++ [tag], { s with engReqs := s.engReqs ++ [{ tag := tag, places := ps }] })) ([], s)

/-- The lines of a .g range of which `n` bytes passed, as object and line of 128 bytes. -/
def rangeLines (n : Nat) (g : Option (Nat × Nat × Nat)) : List (Nat × Nat) :=
  match g with
  | none => []
  | some (o, lo, _) => if n = 0 then [] else (List.range ((lo + n - 1) / 128 - lo / 128 + 1)).map (fun i => (o, lo / 128 + i))

/-- A line access to a page, named by object and line, counts at a die's port (R376). -/
def State.countLine (s : State) (die : Nat) (x : Nat × Nat) : State :=
  s.touch die x.1 (x.2 / 512) (match s.readDesc die x.1 with
    | none => 0
    | some w => s.num (s.leafP die (dLeafofs w) (x.2 / 512)) 8)

/-- The line accesses of an entry count at its die's port, once for each distinct line of its sources and of its destinations (R376; DEDUCED, log 117). -/
def State.countPlan (s : State) (die : Nat) (p : Plan) : State :=
  ((p.pieces.flatMap (fun x => rangeLines x.src.length x.gsrc)).dedup ++
    (p.pieces.flatMap (fun x => rangeLines x.dst.length x.gdst)).dedup).foldl (fun s x => s.countLine die x) s

/-- An engine takes the next entry, whose OP is one of some: checks, range locks, presence, and the counts of its line accesses (R187 steps 1 and 2, R376). A control block with a nonzero reserved field faults the chain (R184) with CAUSE 1. (DESIGN CHOICE, log 101: the spec names no CAUSE.) -/
def State.startEntry (s : State) (die eng : Nat) (op : Nat → Bool) : State :=
  match s.engNext die eng with
  | none => s
  | some (ch, h, e) =>
    if !op (if e.isEmpty then 0 else fld e 0 1) then s
    else
      let pub := ch.publisher h.seq
      let blockless := ch.queue.isSome || ch.fill
      let base : Running := { ccb := ch.ccb, seq := h.seq, entry := h.entry, ent := e, queue := ch.queue
                              owner := if ch.fill then some h.owner else none, ctx := pub.1, core := pub.2 }
      let clean := blockless || (match s.ccbPlace die ch.ccb with | some blk => s.ccbClean die blk | none => true)
      let new := match s.ccbPlace die ch.ccb with | some blk => !blockless && s.anew ch blk | none => false
      let s := s.modEngine die eng (fun g => { g with last := ch.ccb })
      let s := if new then s.modChain ch.ccb false die (fun c => { c with ended := false, taken := 0 }) else s
      let go := fun (s : State) (r : Running) => (s.setChainState ch 1).modEngine die eng (fun g => { g with run := some r })
      if ch.ended && !new then go s { base with dropped := true }
      else if !clean then go s { base with fault := some 1 }
      else if e.isEmpty then go s { base with fault := some (if capOfs h.entry % 128 = 0 then 3 else 4) }
      else match entCause e blockless ch.queue.isSome with
        | some k => go s { base with fault := some k }
        | none =>
          let p := s.plan die pub.1 (s.wobjOf base.owner) e
          let locks := if blockless then [] else p.locks h.seq pub.1 pub.2 ch.ccb
          let isSaved := (sGet s.saved pub.1).isSome
          if !isSaved && !locks.isEmpty && decide (64 < (s.core pub.2).locks.length + locks.length) then s
          else
            let (tag, s) := s.newTag
            let s := if isSaved then s.modAny pub.1 (fun c => { c with locks := c.locks ++ locks })
              else s.modCore pub.2 (fun x => { x with locks := x.locks ++ locks })
            let s := s.clearLines pub.1 die tag (linesOf (p.pieces.flatMap (fun x => x.dst)))
            let s := s.countPlan die p
            let (reads, s) := (if blockless then s else (s.dropFar die (capAdd ch.last 56) 8).dropFar die h.entry 128).askPlan p
            go s { base with tag := tag, reads := reads }

/-- The command unit hands the copy command that it takes next to an engine (R317). -/
def State.handCopy (s : State) (die eng op : Nat) : State :=
  match s.nextCmd with
  | none => s
  | some c =>
    if c.q % 4 = die ∧ s.ccb 0 c.blk 40 1 % 8 = eng ∧ c.op = op then
      let ok := s.crecOk c
      if (s.queue c.q).ended then s.dropCmd c
      else if entChainBad c.e true then s
      else if op = 15 && cmdReserved c then s.refuseCmd c 1 ok
      else if !ok then s.refuseCmd c 2 false
      else if op = 15 then
        ((s.takeCmd c).modQueue c.q (fun x => { x with ended := true })).completeCmd c.q c.seq 0 0 0 0
      else
        let s := s.takeCmd c
        let h : Handed := { seq := c.seq, entry := c.entry, copy := some c.e, eng := eng }
        let mine := fun (x : Chain) => x.queue == some c.q && x.ccb == c.ccb
        let add : List Chain := if s.chains.any mine then s.chains.map (fun x =>
            if mine x then { x with cmds := x.cmds ++ [h], eng := if x.cmds.isEmpty then eng else x.eng } else x)
          else s.chains ++ [{ ccb := c.ccb, die := die, eng := eng, queue := some c.q, cmds := [h] }]
        ({ s with chains := add } : State).showQueue c.q
    else s

/-- The step of an OP: the command unit hands over a copy command, and the engine takes an entry. -/
def State.engineStep (s : State) (die eng op : Nat) : State := (s.handCopy die eng op).startEntry die eng (fun o => o == op)

/-- LINEAR_COPY (R187, R188). -/
def execLinearCopy (die eng : Nat) (s : State) : Out := act (retryPins (fun s => s.engineStep die eng 1)) s
/-- TILE_COPY (R187, R188). -/
def execTileCopy (die eng : Nat) (s : State) : Out := act (retryPins (fun s => s.engineStep die eng 2)) s
/-- WINDOW_COPY (R187, R189). -/
def execWindowCopy (die eng : Nat) (s : State) : Out := act (retryPins (fun s => s.engineStep die eng 3)) s
/-- FILL (R187, R188). -/
def execFill (die eng : Nat) (s : State) : Out := act (retryPins (fun s => s.engineStep die eng 4)) s
/-- BARRIER_ARRIVAL_ONLY (R185, R187). -/
def execBarrierArrivalOnly (die eng : Nat) (s : State) : Out := act (retryPins (fun s => s.engineStep die eng 5)) s
/-- END_OF_STREAM (R187, R317). -/
def execEndOfStream (die eng : Nat) (s : State) : Out := act (retryPins (fun s => s.engineStep die eng 15)) s

/-! ### Moving the data -/

/-- The byte of a source place: of this device, or from the answer to a request. -/
def State.engByte (s : State) (die : Nat) (r : Running) (p : Nat) : Byte :=
  if isRemote p then
    ((s.engReqs.filter (fun q => r.reads.contains q.tag)).findSome? (fun q =>
      (q.places.zip q.data).findSome? (fun c => if c.1 = p then some c.2 else none))).getD 0
  else s.unitByte die p

/-- A poisoned source byte (R440). -/
def State.poisonedAt (s : State) (p : Nat) : Bool := s.poison.contains (place (pTag p) (pIdx p / 4 * 4))

/-- The cells of pieces, each piece reading what the earlier ones wrote, up to the first poisoned source. -/
def State.cellsOf (s : State) (die : Nat) (r : Running) : List Piece → List (Nat × Byte) → List (Nat × Byte) × Bool
  | [], acc => (acc, false)
  | x :: xs, acc =>
    if x.src.any s.poisonedAt then (acc, true)
    else
      let rd := fun p => match (acc.reverse.find? (fun c => c.1 == p)) with
        | some c => c.2
        | none => s.engByte die r p
      s.cellsOf die r xs (acc ++ x.dst.zip (x.f (x.src.map rd) (x.dst.map rd)))

/-- What a running entry would do now: its cells, VALID and CAUSE; `none` while a pin or an outstanding answer keeps it waiting. -/
def State.outcome (s : State) (die : Nat) (r : Running) : Option (List (Nat × Byte) × Nat × Option Nat) :=
  let reqs := s.engReqs.filter (fun q => r.reads.contains q.tag || r.writes.contains q.tag)
  if reqs.any (fun q => q.refused) then some ([], r.valid, some 3)
  else if reqs.any (fun q => !q.got) then none
  else match r.fault with
    | some k => some ([], 0, some k)
    | none =>
      if r.moved || r.dropped then some ([], r.valid, none)
      else
        let p := s.plan die r.ctx (s.wobjOf r.owner) r.ent
        if p.pieces.any (fun x => x.src.any s.pinnedAny || x.dst.any s.pinnedAny) then none
        else
          let c := s.cellsOf die r p.pieces []
          some (c.1, min p.valid 65535, if c.2 then some 6 else p.bad)

/-! ### Completion (R187 steps 4 to 6, R196) -/

/-- A copy arrival (R196); STALEARR saturates (R223). -/
def State.copyArrive (s : State) (r : Running) : State :=
  let a := fld r.ent 24 4
  let stale := s.modCore r.core (fun x => { x with stalearr := if x.stalearr = 0xFFFFFFFF then x.stalearr else x.stalearr + 1 })
  match s.anyCtx r.ctx with
  | none => stale
  | some c =>
    if a % 8 ≠ 0 ∨ c.kernel.sharedBytes < a + 8 then stale
    else
      let p := sharedP r.ctx a
      let w := pbOf (s.num p 8)
      if w.gen ≠ fld r.ent 4 2 % 2 ^ 15 ∨ w.expected = 0 ∨ w.pending = 0 then stale
      else s.putNum p 8 (pbWord (w.arrive 1))

/-- The locks of an entry are released, in the core's table and in a save area (R187, R387). -/
def State.dropLocks (s : State) (r : Running) : State :=
  let mine := fun (l : RLock) => l.chain == r.ccb && l.seq == r.seq
  { s with cores := s.cores.map (fun e => (e.1, { e.2 with locks := e.2.locks.filter (fun l => !mine l) }))
           saved := s.saved.map (fun e => (e.1, { e.2 with locks := e.2.locks.filter (fun l => !mine l) })) }

/-- The engine is free, the entry's requests are forgotten, its lines are present and its locks released. -/
def State.freeEngine (s : State) (die eng : Nat) (r : Running) : State :=
  let s : State := { s with engReqs := s.engReqs.filter (fun q => !(r.reads.contains q.tag || r.writes.contains q.tag)) }
  let s := (s.setLines r.ctx die r.tag).dropLocks r
  s.modEngine die eng (fun g => { g with run := none })

/-- The chain of a running entry. -/
def State.chainOf (s : State) (die : Nat) (r : Running) : Option Chain :=
  s.chains.find? (fun c => c.ccb == r.ccb && c.fill == r.owner.isSome && (r.owner.isNone || c.die == die))

/-- A rebinding that waited takes effect; a queue's chain goes to the engine that its next command names, in sequence order (R187, R317). -/
def Chain.rebind (c : Chain) : Chain :=
  match c.next, c.queue, c.cmds with
  | some (d, g), _, _ => { c with die := d, eng := g, next := none }
  | none, some _, h :: _ => { c with eng := h.eng }
  | _, _, _ => c

/-- A chain moves past an entry, and a rebinding that waited takes effect (R187). -/
def Chain.past (c : Chain) (r : Running) : Chain :=
  ({ c with taken := r.seq, last := r.entry, cmds := c.cmds.filter (fun h => h.seq != r.seq) } : Chain).rebind

/-- DONESEQ and STATE of a chain after an entry is done (R184, R187). -/
def State.chainDone (s : State) (ch : Chain) (seq : Nat) : State :=
  match s.ccbPlace ch.die ch.ccb with
  | none => s
  | some blk =>
    let s := s.setCcb ch.die blk 32 8 seq
    s.setCcb ch.die blk 41 1 (if ch.ended then 2 else if s.ccb ch.die blk 24 8 ≤ seq then 0 else 1)

/-- An entry is done with a CODE: STATUS, which holds the valid-pixel count for a queue's window copy as well (DESIGN CHOICE, log 128: R320 has 0 there), arrival, DONESEQ, or the completion of its queue's command or its fill's template. -/
def State.finishEntry (s : State) (die eng : Nat) (r : Running) (code : Nat) : State :=
  let s := s.freeEngine die eng r
  match s.chainOf die r with
  | none => s
  | some ch =>
    let ends := fld r.ent 0 1 == 15 && !r.dropped
    let s := s.modChain r.ccb r.owner.isSome die (fun c => { (c.past r) with ended := c.ended || ends })
    match r.queue, r.owner with
    | some q, _ => s.completeCmd q r.seq r.valid code 0 0
    | none, some e => { s with resid := s.resid.map (fun x => if x.1 = e then (x.1, { x.2 with filled := x.2.filled + 1 }) else x) }
    | none, none =>
      let s := s.unitSet die (capAdd r.entry 28) 4 (statusWord r.valid code 0)
      let s := if entBarv r.ent && !r.dropped then s.copyArrive r else s
      s.chainDone { ch with ended := ch.ended || ends } r.seq

/-- The running entry of an engine with its outcome. -/
def State.engineOutcome (s : State) (die eng : Nat) : Option (Running × List (Nat × Byte) × Nat × Option Nat) :=
  match (s.engine die eng).run with
  | none => none
  | some r => (s.outcome die r).map (fun o => (r, o.1, o.2.1, o.2.2))

/-- ENGINE_ENTRY_COMPLETE (R187, R196): the data, then what follows it; writes to peers or the host are acknowledged first. -/
def execEngineEntryComplete (die eng : Nat) (s : State) : Out :=
  act (retryPins (fun s =>
    match s.engineOutcome die eng with
    | some (r, cells, valid, none) =>
      let (tags, s) := s.unitCells die cells
      let r := { r with moved := true, valid := if r.moved then r.valid else valid, writes := r.writes ++ tags }
      if tags.isEmpty then s.finishEntry die eng r (if r.dropped then 1 else 0)
      else
        let s : State := { s with engReqs := s.engReqs ++ tags.map (fun t => { tag := t }) }
        s.modEngine die eng (fun g => { g with run := some r })
    | _ => s)) s

/-! ### Faults (R190, R383, R445) -/

/-- The record of a faulted entry (R190, R392): open for a chain that it stops, closed for a queue's command and a fill. -/
def State.entryRec (s : State) (die : Nat) (r : Running) (cause : Nat) : State :=
  let c := s.anyCtx r.ctx
  let (none_, s) := s.noCtx
  let put := fun (s : State) (d : Nat) (x : FaultRec) => s.modDie d (fun y => { y with recs := y.recs ++ [x] })
  match r.queue, r.owner with
  | some _, _ => put s die { cls := 0x14, cause := cause, opn := false, chain := true, die := die, addr := r.ccb
                             info := BitVec.ofNat 64 r.seq, ctx := none_ }
  | none, some e => put s die { cls := 0x19, cause := cause, opn := false, chain := true, die := die, addr := r.entry
                                info := BitVec.ofNat 64 e, ctx := none_ }
  | none, none =>
    let d := dieOf r.core
    put s d { cls := 0x14, cause := cause, chain := true, die := d, addr := r.ccb, info := BitVec.ofNat 64 r.seq
              launch := (c.map (fun c => c.launch)).getD 0, block := (c.map (fun c => c.block)).getD 0, ctx := r.ctx }

/-- A running entry faults with a CAUSE, its VALID 0 (DESIGN CHOICE, log 127): its chain stops, its queue's command completes, or its fill has faulted. -/
def State.faultEntry (s : State) (die eng : Nat) (r : Running) (cause : Nat) : State :=
  let s := (s.freeEngine die eng r).entryRec die r cause
  match s.chainOf die r with
  | none => s
  | some ch =>
    match r.queue, r.owner with
    | some q, _ => (s.modChain r.ccb false die (fun c => c.past r)).completeCmd q r.seq 0 2 cause 0
    | none, some e =>
      let s := s.modChain r.ccb true die (fun c => { (c.past r) with cmds := c.cmds.filter (fun h => h.owner != e) })
      { s with resid := s.resid.map (fun x => if x.1 = e then (x.1, { x.2 with bad := true }) else x) }
    | none, none =>
      let s := s.modChain r.ccb false die (fun c => { c.rebind with faulted := true })
      let s := s.unitSet die (capAdd r.entry 28) 4 (statusWord 0 2 cause)
      match s.ccbPlace ch.die ch.ccb with
      | none => s
      | some blk => (s.setCcb ch.die blk 41 1 3).setCcb ch.die blk 48 8 r.seq

/-- The command that the command unit takes next meets the chain fault on an engine of a die (R445). -/
def State.badCmd (s : State) (die eng : Nat) : Option Cmd :=
  match s.nextCmd with
  | none => none
  | some c =>
    if c.q % 4 = die ∧ s.ccb 0 c.blk 40 1 % 8 = eng ∧
        (!decide (c.op ∈ [1, 2, 3, 4, 5, 15, 0x20, 0x21, 0x22, 0x23, 0x24]) ∨ (decide (c.op ≤ 15) ∧ entChainBad c.e true ∧ !(s.queue c.q).ended))
    then some c else none

/-- ENGINE_ENTRY_FAULT (R190, R445): a command that meets the chain fault, an entry with no OP of R185, or a running entry that faults with what it has written. -/
def execEngineEntryFault (die eng : Nat) (s : State) : Out :=
  act (retryPins (fun s =>
    let s := match s.badCmd die eng with
      | none => s
      | some c => if (s.queue c.q).ended then s.dropCmd c else s.faultQueue c
    let s := s.startEntry die eng (fun o => !decide (o ∈ [1, 2, 3, 4, 5, 15]))
    match s.engineOutcome die eng with
    | some (r, cells, _, some k) =>
      let (n, s) := s.fresh
      ((s.unitCells die (cells.take (Config.partBytes n))).2).faultEntry die eng r k
    | _ => s)) s

end Sys2Proof.Machine
end

