-- ==== Sys2Proof/Machine/Time.lean ====
section
/-! DEFINITION. Logical time: times and summaries (R69-R72), locations (R329, R331), the time instructions (R238-R242), batches, views, frontiers and the sequencer (R333-R347). -/

namespace Sys2Proof.Machine

/-! ### Times and summaries (R69-R72) -/

/-- Depth of a time. -/
def tDepth (t : Nat) : Nat := natBits t 62 2 + 1
/-- Counter `k` of a time. -/
def tCtr (t k : Nat) : Nat := natBits t (45 - 15 * k) 15

/-- A reserved bit or a counter beyond the depth is not 0 (R70). -/
def tBad (t : Nat) : Bool :=
  natBits t 60 2 != 0 || (List.range 4).any (fun k => decide (tDepth t ≤ k) && tCtr t k != 0)

/-- The time of a depth with counters. -/
def mkTime (d : Nat) (cs : List Nat) : Nat :=
  (d - 1) * 2 ^ 62 + (List.range 4).foldl (fun a k => a + (if k < d then (cs[k]?).getD 0 else 0) * 2 ^ (45 - 15 * k)) 0

/-- What a summary gives for a time (R72): nothing, a fault with its cause of R238, or a time. -/
inductive Image where
  | noPath
  | bad (cause : Nat)
  | at_ (t : Nat)
  deriving DecidableEq, Repr

/-- A summary applied to a time (R72). -/
def applySum (s t : Nat) : Image :=
  let d := tDepth t
  let leave := natBits s 30 2
  let enter := natBits s 28 2
  let lev := natBits s 26 2
  if s = 0xFFFFFFFF then .noPath
  else if s % 65536 ≠ 0 ∨ d ≤ leave ∨ d - leave ≤ lev ∨ 4 < d - leave + enter then .bad 5
  else if 32767 < tCtr t lev + natBits s 16 10 then .bad 3
  else .at_ (mkTime (d - leave + enter) ((List.range (d - leave + enter)).map (fun k =>
    if k < lev then tCtr t k else if k = lev then tCtr t lev + natBits s 16 10 else 0)))

/-! ### Locations (R329, R331, R332) -/

/-- A field of the .gmeta image. -/
def State.gmeta (s : State) (ofs n : Nat) : Nat :=
  if s.job.gmeta = 0 then 0 else (s.unitGet 0 (capAdd s.job.gmeta ofs) n).getD 0

/-- Declared locations; a job that declares none has one (R332). -/
def State.nLoc (s : State) : Nat := max 1 (s.gmeta 0 2)

/-- Depth of a location. -/
def State.locDepth (s : State) (l : Nat) : Nat := if s.gmeta 0 2 = 0 then 1 else s.gmeta (s.gmeta 4 4 + 4 * l) 1

/-- The cause of R238 for a time at a location. -/
def State.timeCause (s : State) (loc t : Nat) : Option Nat :=
  if tBad t then some 1
  else if s.nLoc ≤ loc then some 4
  else if tDepth t ≠ s.locDepth loc then some 2 else none

/-- The summary from a location to another, as a die reads it (R71, R333). -/
def State.psum (s : State) (die m l : Nat) : Nat :=
  if s.job.psum = 0 then 0xFFFFFFFF else (s.unitGet die (capAdd s.job.psum ((m * 1024 + l) * 4)) 4).getD 0xFFFFFFFF

/-- The image of a pair at a location, and whether R334 replaced it by the zero time. -/
def State.image (s : State) (die m t l : Nat) : Option (Nat × Bool) :=
  if m = l then some (t, false)
  else
    let d := s.locDepth l
    match applySum (s.psum die m l) t with
    | .noPath => none
    | .bad _ => some (mkTime d [], true)
    | .at_ u => if tDepth u = d then some (u, false) else some (mkTime d [], true)

/-! ### Views, floors and frontiers (R335-R339, R347) -/

/-- The regulator of a die. -/
def State.reg (s : State) (d : Nat) : Regulator := (s.die d).reg

/-- The count of a pair. -/
def Regulator.count (r : Regulator) (loc : Nat) (t : BitVec 64) : Int :=
  ((r.view.find? (fun c => c.loc == loc && c.time == t)).map (fun c => c.n)).getD 0

/-- A view with a pair's count set; a count of 0 frees the entry (R336). -/
def Regulator.setCount (r : Regulator) (loc : Nat) (t : BitVec 64) (n : Int) : Regulator :=
  let rest := r.view.filter (fun c => !(c.loc == loc && c.time == t))
  { r with view := if n = 0 then rest else rest ++ [{ loc := loc, time := t, n := n }] }

/-- The least image of the positive pairs of a die's view at a location (R338). -/
def State.frontier (s : State) (die l : Nat) : Option Nat :=
  (s.reg die).view.foldl (fun (a : Option Nat) (c : Count) =>
    if c.n ≤ (0 : Int) then a
    else match s.image die c.loc c.time.toNat l, a with
      | none, _ => a
      | some x, none => some x.1
      | some x, some y => some (min x.1 y)) none

/-- An announced frontier never moves back, and an empty one stays empty (R338). -/
def newFront (old : Option (Option (BitVec 64))) (now : Option Nat) : Option (BitVec 64) :=
  match old, now with
  | some none, _ => none
  | _, none => none
  | some (some o), some n => some (if o.toNat ≤ n then BitVec.ofNat 64 n else o)
  | none, some n => some (BitVec.ofNat 64 n)

/-- Pairs whose image R334 replaces, met for the first time: REGERR counts them. -/
def State.noteErrs (s : State) (die : Nat) : State :=
  let r := s.reg die
  let bad := (r.view.filter (fun c => decide (0 < c.n))).flatMap (fun c => (List.range s.nLoc).filterMap (fun l =>
    match s.image die c.loc c.time.toNat l with
    | some (_, true) => some (c.loc, c.time, l)
    | _ => none))
  let new := bad.filter (fun x => !r.seenErr.contains x)
  s.modReg die (fun r => { r with seenErr := r.seenErr ++ new, regerr := min 65535 (r.regerr + new.length) })

/-- The frontiers of a die are announced. -/
def State.announce (s : State) (die : Nat) : State :=
  let s := s.noteErrs die
  let f := (List.range s.nLoc).map (fun l => (l, newFront (sGet (s.reg die).front l) (s.frontier die l)))
  s.modReg die (fun r => { r with front := f, announce := none })

/-- FRONTIER_ANNOUNCEMENT (R338). -/
def execFrontierAnnouncement (die : Nat) (s : State) : Out :=
  act (fun s => match (s.reg die).announce with
    | some c => if c < s.cycle && !(s.reg die).stopped then s.announce die else s
    | none => s) s

/-- The location at which an increment of a pair is late on a die (R339). -/
def State.lateAt (s : State) (die : Nat) (u : Upd) : Option Nat :=
  (List.range s.nLoc).find? (fun l =>
    match s.image die u.loc u.time.toNat l, sGet (s.reg die).front l with
    | some x, some (some f) => decide (x.1 < f.toNat)
    | some _, some none => true
    | _, _ => false)

/-- A retracted pair lowers the floors of the locations that it reaches (R347). -/
def State.lowerFloors (s : State) (die : Nat) (u : Upd) : State :=
  (List.range s.nLoc).foldl (fun s l =>
    match s.image die u.loc u.time.toNat l with
    | none => s
    | some (x, _) => s.modReg die (fun r => { r with floors := sPut r.floors l (match sGet r.floors l with
        | some f => if f.toNat ≤ x then f else BitVec.ofNat 64 x
        | none => BitVec.ofNat 64 x) })) s

/-- A count that does not fit 32 signed bits (R335). -/
def overflows (n : Int) : Bool := decide (n < -2147483648) || decide (2147483647 < n)

/-- The late increment of a program on the die that accepted it: a closed record, or the stop of a handler (R220, R339, R393, R395). -/
def State.lateRec (s : State) (die : Nat) (u : Upd) (l : Nat) (i : Issued) : State :=
  let c := match i.owner with
    | some (.unit k) => (s.anyCtx k).map (fun c => (k, c))
    | _ => none
  let at_ := i.site.getD (0, 0, 0, (0, 0, 0))
  match c with
  | some (k, x) =>
    if x.handler then s.stopHandler k x 0x18 1 at_.2.2.1
    else s.closedRec die { cls := 0x18, cause := 1, die := die, addr := u.time, info := BitVec.ofNat 64 l, launch := x.launch, block := x.block
                           wheel := (i.wheel.map (fun w => w.2)).getD 0, ctx := k
                           core := at_.1 % 40, quarter := at_.2.1, pc := at_.2.2.1, words := at_.2.2.2 }
  | none => s.closedRec die { cls := 0x18, cause := 1, die := die, addr := u.time, info := BitVec.ofNat 64 l, ctx := s.nextCtx
                              wheel := (i.wheel.map (fun w => w.2)).getD 0
                              core := at_.1 % 40, quarter := at_.2.1, pc := at_.2.2.1, words := at_.2.2.2 }

/-- One update applied to a die's view: an overflow stops the view, a late increment is counted (R335, R336, R339, R347). `by_` is the update as this die accepted it. -/
def State.applyUpd (s : State) (die : Nat) (x : Upd × Option Issued) : State :=
  let u := x.1
  let r := s.reg die
  if r.stopped then s
  else
    let n := r.count u.loc u.time + u.delta
    if overflows n then
      (s.modReg die (fun r => { r with stopped := true })).logEvent die 40 0x100 [u.loc, u.time.toNat]
    else
      let late := if 0 < u.delta then s.lateAt die u else none
      let s := s.modReg die (fun r => (r.setCount u.loc u.time n))
      let s := if u.poison then s.lowerFloors die u else s
      match late with
      | none => s
      | some l =>
        let s := s.modReg die (fun r => { r with lateinc := min 65535 (r.lateinc + 1) })
        match x.2 with
        | none => s
        | some i => s.lateRec die u l i

/-- Rank of an update in its batch: increments, decrements, poison decrements (R342). -/
def updRank (u : Upd) : Nat := if u.poison then 2 else if 0 < u.delta then 0 else 1

/-- A batch applied to a die's view; the frontiers are announced within the bound (R338, R342). -/
def State.applyBatch (s : State) (die : Nat) (us : List (Upd × Option Issued)) : State :=
  let s := (sortBy (fun x => updRank x.1) us).foldl (fun s x => s.applyUpd die x) s
  if (s.reg die).stopped then s
  else match (s.reg die).announce with
    | some _ => s
    | none =>
      let (k, s) := s.fresh
      s.modReg die (fun r => { r with announce := some (s.cycle + min (Config.announceDelay k) 5119) })

/-- Pairs of updates that a view does not hold. -/
def Regulator.newPairs (r : Regulator) (us : List Upd) : Nat :=
  ((us.map (fun u => (u.loc, u.time))).dedup.filter (fun p => !r.view.any (fun c => c.loc == p.1 && c.time == p.2))).length

/-- A batch's new entries fit the view (R345). -/
def Regulator.fits (r : Regulator) (us : List Upd) : Bool := decide (r.view.length + r.newPairs us ≤ 65536)

/-! ### Reception (R345) -/

/-- The next sequence expected of a source. -/
def Regulator.nextOf (r : Regulator) (src : Nat) : Nat := (sGet r.next src).getD 1

/-- A sequence after another, modulo 2^32. -/
def seqAfter (a b : Nat) : Bool := decide (0 < (a + 2 ^ 32 - b) % 2 ^ 32) && decide ((a + 2 ^ 32 - b) % 2 ^ 32 < 2 ^ 31)

/-- A batch is applied as the next of its source. -/
def State.takeBatch (s : State) (die : Nat) (b : Batch) (mine : List Issued) : State :=
  let s := s.modReg die (fun r => { r with
    next := sPut r.next b.src ((b.seq + 1) % 2 ^ 32)
    reorder := r.reorder.filter (fun x => !(x.src == b.src && x.seq == b.seq))
    heldRoom := r.heldRoom.filter (fun x => !(x.src == b.src && x.seq == b.seq)) })
  s.applyBatch die (if mine.isEmpty then b.upds.map (fun u => (u, none)) else mine.map (fun i => (i.upd, some i)))

/-- Held and buffered batches that are next and fit are applied, `n` at most; one that is next and does not fit is held. -/
def pump : Nat → Nat → State → State
  | 0, _, s => s
  | n + 1, die, s =>
    let r := s.reg die
    if r.stopped then s
    else match (r.heldRoom ++ r.reorder).find? (fun b => b.seq == r.nextOf b.src && r.fits b.upds) with
      | some b => pump n die (s.takeBatch die b [])
      | none => s.modReg die (fun r =>
          let stuck := r.reorder.filter (fun b => b.seq == r.nextOf b.src)
          { r with reorder := r.reorder.filter (fun b => b.seq != r.nextOf b.src), heldRoom := r.heldRoom ++ stuck })

/-- A batch reaches a die's view (R345); the STATUS that the die gives it. -/
def State.receive (s : State) (die : Nat) (b : Batch) (mine : List Issued) : Nat × State :=
  let r := s.reg die
  let nx := r.nextOf b.src
  let have_ := (r.heldRoom ++ r.reorder).any (fun x => x.src == b.src && x.seq == b.seq)
  if have_ then (0, s)
  else if b.seq = nx ∧ !r.stopped then
    if r.fits b.upds then
      let s := s.takeBatch die b mine
      (0, pump ((s.reg die).heldRoom.length + (s.reg die).reorder.length) die s)
    else (0, s.modReg die (fun r => { r with heldRoom := r.heldRoom ++ [b] }))
  else if b.seq = nx ∨ seqAfter b.seq nx then
    if r.reorder.length < 1024 then (0, s.modReg die (fun r => { r with reorder := r.reorder ++ [b] })) else (5, s)
  else (0, s)

/-- A batch reaches the dies of the device, the entering one first; retry if any of them answers so (R343, R345). -/
def State.receiveAll (s : State) (die : Nat) (b : Batch) (mine : List Issued) (owner : Nat) : Nat × State :=
  ([0, 1, 2, 3].map (fun i => (die + i) % 4)).foldl (fun (a : Nat × State) d =>
    let x := a.2.receive d b (if d = owner then mine else [])
    (max a.1 x.1, x.2)) (0, s)

/-- The regulators stop applying batches from the handover of the device's state on (R442, R444). -/
def State.handingOver (s : State) : Bool := decide (s.mgmt.evctl.state ∈ [.transfer, .drain, .safe, .abort])

/-- BATCH_ARRIVAL (R344, R345). -/
def execBatchArrival (die : Nat) (b : Batch) (s : State) : Out :=
  act (fun s =>
    let ack := fun (s : State) (st : Nat) => s.respond die (.back (s.coordAt die) b.seq st b.src false false false)
    if b.bad then ack (s.modReg die (fun r => { r with regerr := min 65535 (r.regerr + 1) })) 5
    else if s.handingOver then ack s 5
    else
      let x := s.receiveAll die b [] 4
      ack x.2 x.1) s

/-! ### Batches of a die (R341, R342) -/

/-- An update of a die is issued. -/
def State.issueUpd (s : State) (die : Nat) (i : Issued) : State :=
  let s := s.modReg die (fun r => { r with issued := r.issued ++ [{ i with at_ := s.cycle }] })
  match i.wheel with
  | none => s
  | some (k, w) => s.modAny k (fun c => c.modW w (fun x => { x with unaccepted := x.unaccepted + 1 }))

/-- The updates that the next batch of a die would hold: one group, or up to 64 of no group (R342). -/
def Regulator.head (r : Regulator) : List Issued :=
  match r.issued with
  | [] => []
  | i :: _ =>
    match i.group with
    | some g => (r.issued.takeWhile (fun x => x.group == some g)).take 64
    | none => (r.issued.takeWhile (fun x => x.group.isNone)).take 64

/-- The next batch of a die closes: 64 updates, 64 cycles, a group, or a group behind it (R342). -/
def Regulator.closes (r : Regulator) (now : Nat) : Bool :=
  match r.issued with
  | [] => false
  | i :: _ => i.group.isSome || decide (64 ≤ r.head.length) || decide (r.head.length < r.issued.length) || decide (i.at_ + 64 ≤ now)

/-- BATCH_CLOSE_TIMEOUT (R342): the batch goes to the sequencer. -/
def execBatchCloseTimeout (die : Nat) (s : State) : Out :=
  act (fun s =>
    let r := s.reg die
    if r.closes s.cycle then
      let b := r.head
      let s := s.modReg die (fun r => { r with issued := r.issued.drop b.length })
      { s with submitted := s.submitted ++ [{ die := die, items := b }] }
    else s) s

/-! ### The sequencer (R340, R343, R346) -/

/-- Coordinates of the other devices, in the order of their grid strings (R291, R343). -/
def State.others (s : State) : List Nat :=
  sortBy (gridString s.grid) (((List.range (gridSize s.grid)).map (rankCoord s.grid)).filter (fun c => c != s.mycoord))

/-- A batch has not been sent to a destination: a route switch holds it (R417, R418). -/
def State.unsent (s : State) (seq dst : Nat) : Bool := s.sendbuf.any (fun b => b.seq == seq && b.dests.any (fun x => x.1 == dst && x.2 == .fresh))

/-- A batch is sent to a destination; an unreachable one is tried again (R343, R346). A route switch holds new batches, and none that has been sent (R418, R420). -/
def State.sendBatch (s : State) (seq : Nat) (upds : List Upd) (dst : Nat) : State :=
  let set := fun (s : State) (d : DestState) => { s with sendbuf := s.sendbuf.map (fun b =>
    if b.seq = seq then { b with dests := b.dests.map (fun x => if x.1 = dst then (dst, d) else x) } else b) }
  let w := s.destWord 0 (coordRank s.grid dst)
  if w.hold && s.unsent seq dst then s
  else match s.route 0 (s.useBank 0 dst) dst with
    | none => set (s.modReg 0 (fun r => { r with unreach := min 65535 (r.unreach + 1) })) (.retryAt (s.cycle + 256))
    | some (port, d) =>
      set (s.enlink port (.batch { src := s.mycoord, seq := seq, upds := upds } dst d (s.useBank 0 dst == 1) false))
        (.sent (some port) s.cycle)

/-- The net of an owner's pair with an amount added; 0 frees the entry (R337). -/
def addNet (l : List Net) (o : Owner) (loc : Nat) (t : BitVec 64) (d : Int) : List Net :=
  let same := fun (x : Net) => x.owner == o && x.loc == loc && x.time == t
  let n := ((l.find? same).map (fun x => x.n)).getD 0 + d
  let rest := l.filter (fun x => !same x)
  if n = 0 then rest else rest ++ [{ owner := o, loc := loc, time := t, n := n }]

/-- An amount added to an owner's net on a die. -/
def State.addNet (s : State) (die : Nat) (o : Owner) (loc : Nat) (t : BitVec 64) (d : Int) : State :=
  s.modReg die (fun r => { r with owners := Machine.addNet r.owners o loc t d })

/-- New owner entries of a batch. -/
def Regulator.newOwners (r : Regulator) (l : List Issued) : Nat :=
  ((l.filterMap (fun i => i.owner.map (fun o => (o, i.upd.loc, i.upd.time)))).dedup.filter (fun p =>
    !r.owners.any (fun x => x.owner == p.1 && x.loc == p.2.1 && x.time == p.2.2))).length

/-- The sequencer may accept a batch: room in the send buffer, in the owner table and in every view (R335, R337, R345, R346). -/
def State.accepts (s : State) (b : Submitted) : Bool :=
  let us := b.items.map (fun i => i.upd)
  let incs := us.filter (fun u => decide (0 < u.delta))
  decide (s.sendbuf.length < 1024) && !s.handingOver
    && decide ((s.reg b.die).owners.length + (s.reg b.die).newOwners b.items ≤ 65536)
    && [0, 1, 2, 3].all (fun d => (s.reg d).fits us && ((s.reg d).heldRoom.isEmpty || (s.reg d).newPairs incs == 0))

/-- The batch that the sequencer takes next: the oldest of a die that it may accept (R340). -/
def State.nextBatch (s : State) : Option Submitted :=
  [0, 1, 2, 3].findSome? (fun d => match s.submitted.find? (fun b => b.die == d) with
    | some b => if s.accepts b then some b else none
    | none => none)

/-- Acceptance: owner entries, and the wheels that wait for their increments (R239, R341). -/
def State.accept (s : State) (die : Nat) (i : Issued) : State :=
  let s := match i.owner with
    | none => s
    | some o => s.addNet die o i.upd.loc i.upd.time i.upd.delta
  match i.wheel with
  | none => s
  | some (k, w) => s.modAny k (fun c => c.modW w (fun x => { x with unaccepted := x.unaccepted - 1 }))

/-- BATCH_SEQUENCING (R340): the batch takes SEQ, reaches the device's views and is sent to every other device. -/
def execBatchSequencing (die : Nat) (s : State) : Out :=
  act (fun s =>
    match s.nextBatch with
    | none => s
    | some b =>
      if b.die ≠ die then s
      else
        let q := s.seq
        let us := b.items.map (fun i => i.upd)
        let s : State := { s with seq := (q + 1) % 2 ^ 32, submitted := s.submitted.erase b }
        let s := b.items.foldl (fun s i => s.accept die i) s
        let s := (s.receiveAll 0 { src := s.mycoord, seq := q, upds := us } b.items die).2
        let ds := s.others
        if ds.isEmpty then s
        else
          let s : State := { s with sendbuf := s.sendbuf ++ [{ seq := q, upds := us, dests := ds.map (fun d => (d, .fresh)) }] }
          ds.foldl (fun s d => s.sendBatch q us d) s) s

/-- BATCH_ACK_ARRIVAL (R345, R346): STATUS 4 is a failed detour (R293), one failed attempt. -/
def execBatchAckArrival (src seq status : Nat) (s : State) : Out :=
  act (fun s =>
    let s := if status = 4 && s.sendbuf.any (fun b => b.seq == seq && b.dests.any (fun x => x.1 == src)) then
        s.modReg 0 (fun r => { r with unreach := min 65535 (r.unreach + 1) }) else s
    let upd := fun (b : Sent) =>
      if b.seq ≠ seq then b
      else if status = 0 then { b with dests := b.dests.filter (fun x => x.1 != src) }
      else if status = 4 ∨ status = 5 then { b with dests := b.dests.map (fun x => if x.1 = src then (src, .retryAt (s.cycle + 256)) else x) }
      else b
    { s with sendbuf := (s.sendbuf.map upd).filter (fun b => !b.dests.isEmpty) }) s

/-- A batch or contribution is to be sent again to a destination (R346, R420). -/
def DestState.due (d : DestState) (now : Nat) : Bool :=
  match d with
  | .fresh => true
  | .sent _ c => decide (c + 2 ^ 20 < now)
  | .retryAt c => decide (c ≤ now)

/-- BATCH_RESEND_TIMEOUT (R346, R420). -/
def execBatchResendTimeout (dst seq : Nat) (s : State) : Out :=
  act (fun s =>
    match s.sendbuf.find? (fun b => b.seq == seq) with
    | none => s
    | some b =>
      match b.dests.find? (fun x => x.1 == dst) with
      | none => s
      | some x => if x.2.due s.cycle then s.sendBatch seq b.upds dst else s) s

/-! ### TMINC, TMDEC (R239) -/

/-- The cause of the time fault of TMINC and TMDEC (R238). -/
def State.countCause (s : State) (loc t n : Nat) : Option Nat :=
  match s.timeCause loc t with
  | some k => some k
  | none => if n = 0 ∨ 65535 < n then some 6 else none

/-- TMINC and TMDEC once for each home wheel: `ok` on the wheels that pass, the time fault on the others; a speculative run ends (R225, R238, R246). -/
def countOp (h : Head) (a b c : Src) (ok : Site → List (Lane × Nat × Nat × Nat) → State → State) : State → State :=
  onBeat h (fun e s =>
    match e.lanes, e.c.run with
    | [], _ => s
    | _, some slot => s.discardRun slot 1
    | _, none =>
      let xs := (wheelsOf e.lanes).map (fun l => (l, readSrc l 1 a, readSrc l 2 b, readSrc l 1 c))
      let bad := xs.filter (fun x => (s.countCause x.2.1 x.2.2.1 x.2.2.2).isSome)
      let s := ok e (xs.filter (fun x => (s.countCause x.2.1 x.2.2.1 x.2.2.2).isNone)) s
      s.beatFault e.b true (bad.flatMap (fun x => (e.hit true x.1).map (fun l =>
        { tid := l.t.tid, cls := 0x12, cause := (s.countCause x.2.1 x.2.2.1 x.2.2.2).getD 0, addr := BitVec.ofNat 64 x.2.2.1
          info := BitVec.ofNat 64 x.2.1 }))))

/-- TMINC (R239). -/
def execTminc (h : Head) (a b c : Src) (s : State) : Out :=
  act (countOp h a b c (fun e xs s => xs.foldl (fun s x =>
    s.issueUpd (dieOf x.1.w.core) { upd := { loc := x.2.1, time := BitVec.ofNat 64 x.2.2.1, delta := (x.2.2.2 : Int) }
                                    owner := some (.unit e.b.ctx), wheel := some (e.b.ctx, x.1.w.idx)
                                    site := some (x.1.w.core, x.1.w.quarter, e.b.pc, e.b.words) }) s)) s

/-- The threads of the wheels of a TMDEC. -/
def tidsOfWheels (e : Site) (xs : List (Lane × Nat × Nat × Nat)) : List Nat :=
  (e.c.threads.filter (fun t => xs.any (fun x => x.1.w.idx == t.wheel))).map (fun t => t.tid)

/-- TMDEC (R239): held while an earlier increment of its wheel is not accepted; then a release at domain scope of its wheel's accesses. -/
def execTmdec (h : Head) (a b c : Src) (s : State) : Out :=
  act (countOp h a b c (fun e xs s =>
    match xs.find? (fun x => decide (0 < x.1.w.unaccepted)), xs with
    | some x, _ => s.hold e.b (.tmdec x.1.w.idx)
    | none, [] => s
    | none, _ =>
      s.relFor e (tidsOfWheels e xs) .dom (fun s => xs.foldl (fun s x =>
        s.issueUpd (dieOf x.1.w.core) { upd := { loc := x.2.1, time := BitVec.ofNat 64 x.2.2.1, delta := -(x.2.2.2 : Int) }
                                        owner := some (.unit e.b.ctx) }) s))) s

/-- HELD_TMDEC_RELEASE (R239). -/
def execHeldTmdecRelease (ctx wid : Nat) (s : State) : Out :=
  act (fun s =>
    match sGet s.ctxs ctx with
    | none => s
    | some c =>
      match c.waitOf wid with
      | some { kind := .tmdec w, .. } =>
        if ((c.wheel w).map (fun x => x.unaccepted)).getD 0 = 0 then s.setCtx ctx (c.wake wid) else s
      | _ => s) s

/-! ### FWAIT, FREAD (R240, R241) -/

/-- STATUS of a time at a location on a die: none while it is not complete (R240, R347). -/
def State.timeStatus (s : State) (die loc t : Nat) : Option Nat :=
  let done := match sGet (s.reg die).front loc with
    | some none => true
    | some (some f) => decide (t < f.toNat)
    | none => false
  if done then
    (match sGet (s.reg die).floors loc with
      | some f => if f.toNat ≤ t then some 1 else some 0
      | none => some 0)
  else none

/-- Lanes of a time instruction: the effect `ok` on those that pass, the time fault on the others; a speculative run ends. -/
def timeOp (h : Head) (uni pure_ : Bool) (cause : State → Lane → Option Nat) (addr info : Lane → BitVec 64)
    (ok : Site → List Lane → State → State) : State → State :=
  onBeat h (fun e s =>
    match e.lanes, e.c.run, pure_ with
    | [], _, _ => s
    | _, some slot, false => s.discardRun slot 1
    | _, _, _ =>
      let xs := e.actors uni
      let bad := xs.filter (fun l => (cause s l).isSome)
      match e.c.run, bad with
      | some slot, _ :: _ => s.discardRun slot 2
      | _, _ =>
        let fs := bad.flatMap (fun x => (e.hit uni x).map (fun l =>
          { tid := l.t.tid, cls := 0x12, cause := (cause s x).getD 0, addr := addr x, info := info x : FLane }))
        (ok e (xs.filter (fun l => (cause s l).isNone)) s).beatFault e.b uni fs)

/-- The end of an FWAIT (R240): D and Pd in each thread, 2 where a lane still waits. -/
def State.fwaitEnd (s : State) (ctx : Nat) (c : Ctx) (d pd : Nat) (acq : Bool) (lanes : List (Nat × Nat × BitVec 64)) : State :=
  let core := ((c.lanes (lanes.map (fun x => x.1))).head?.map (fun l => l.w.core)).getD 0
  let res := lanes.map (fun x => (x.1, (s.timeStatus (dieOf core) x.2.1 x.2.2.toNat).getD 2))
  let s := s.modCtx ctx (fun c => c.modT (fun t => res.any (fun r => r.1 == t.tid)) (fun t =>
    let k := ((res.find? (fun r => r.1 == t.tid)).map (fun r => r.2)).getD 2
    { (t.put d [BitVec.ofNat 32 k] []) with preds := setPred t.preds pd (k != 2) }))
  s.acquireIf (acq && res.any (fun r => r.2 != 2)) c core .dom

/-- Every lane of an FWAIT is complete. -/
def State.fwaitMet (s : State) (c : Ctx) (lanes : List (Nat × Nat × BitVec 64)) : Bool :=
  let core := ((c.lanes (lanes.map (fun x => x.1))).head?.map (fun l => l.w.core)).getD 0
  lanes.all (fun x => (s.timeStatus (dieOf core) x.2.1 x.2.2.toNat).isSome)

/-- FWAIT (R240). -/
def execFwait (h : Head) (acq : Bool) (d : BitVec 8) (pd : BitVec 5) (a b : Src) (s : State) : Out :=
  act (timeOp h false false (fun s l => s.timeCause (readSrc l 1 a) (readSrc l 2 b)) (fun l => BitVec.ofNat 64 (readSrc l 2 b))
    (fun l => BitVec.ofNat 64 (readSrc l 1 a))
    (fun e ls s =>
      let lanes := ls.map (fun l => (l.t.tid, readSrc l 1 a, BitVec.ofNat 64 (readSrc l 2 b)))
      if lanes.isEmpty then s
      else if s.fwaitMet e.c lanes then s.fwaitEnd e.b.ctx e.c d.toNat pd.toNat acq lanes
      else s.suspend e.b.ctx (lanes.map (fun x => x.1)) (.fwait d.toNat pd.toNat acq lanes)
        (some (s.cycle + (s.die (dieOf e.b.core)).waitiv)))) s

/-- FWAIT_COMPLETE (R240). -/
def execFwaitComplete (ctx wid : Nat) (s : State) : Out :=
  act (fun s =>
    match sGet s.ctxs ctx with
    | none => s
    | some c =>
      match c.waitOf wid with
      | some { kind := .fwait d pd acq lanes, .. } =>
        if s.fwaitMet c lanes then (s.fwaitEnd ctx c d pd acq lanes).modCtx ctx (fun c => c.wake wid) else s
      | _ => s) s

/-- The four registers of FREAD (R241). -/
def State.freadWords (s : State) (die loc : Nat) : List Word :=
  let r := s.reg die
  let f := (sGet r.front loc).getD (some 0)
  let poison := match sGet r.floors loc, f with
    | none, _ => false
    | some _, none => true
    | some p, some x => decide (p.toNat < x.toNat)
  natWords 2 (match f with | none => 2 ^ 64 - 1 | some x => x.toNat)
    ++ [BitVec.ofNat 32 (bitN f.isNone 0 + bitN poison 1), 0]

/-- FREAD (R241). -/
def execFread (h : Head) (d : Dst) (a : Src) (s : State) : Out :=
  let uni := match d with | .s _ => true | .v _ => false
  let dn := match d with | .s r => r.toNat | .v r => r.toNat
  act (timeOp h uni false (fun s l => if s.nLoc ≤ readSrc l 1 a then some 4 else none) (fun _ => 0)
    (fun l => BitVec.ofNat 64 (readSrc l 1 a))
    (fun e ls s => ls.foldl (fun s l =>
      s.putD e.b.ctx uni l dn (s.freadWords (dieOf l.w.core) (readSrc l 1 a)) (mkPend s (if uni then .s dn 4 else .v dn 4) 0)) s)) s

/-! ### TADV, TCMP (R242) -/

/-- The cause of TADV's time fault. -/
def tadvCause (s t : Nat) : Option Nat :=
  if tBad t then some 1
  else match applySum s t with
    | .bad k => some k
    | _ => none

/-- The result of TADV. -/
def tadvValue (s t : Nat) : Nat :=
  match applySum s t with
  | .at_ u => u
  | _ => 2 ^ 64 - 1

/-- TADV (R242). -/
def execTadv (h : Head) (d : Dst) (a b : Src) (s : State) : Out :=
  let uni := match d with | .s _ => true | .v _ => false
  let dn := match d with | .s r => r.toNat | .v r => r.toNat
  act (timeOp h uni true (fun _ l => tadvCause (readSrc l 1 b) (readSrc l 2 a)) (fun l => BitVec.ofNat 64 (readSrc l 2 a)) (fun _ => 0)
    (fun e ls s => ls.foldl (fun s l =>
      s.putD e.b.ctx uni l dn (natWords 2 (tadvValue (readSrc l 1 b) (readSrc l 2 a)))
        (mkPend s (if uni then .s dn 2 else .v dn 2) 0)) s)) s

/-- The relation of TCMP on times of one depth (R70, R107). -/
def tRel (cc : Cc) (x y : Nat) : Bool :=
  match cc with
  | .eq => x == y
  | .ne => x != y
  | .lt => decide (x < y)
  | .le => decide (x ≤ y)
  | .gt => decide (y < x)
  | .ge => decide (y ≤ x)

/-- TCMP (R242). -/
def execTcmp (h : Head) (cc : Cc) (and_ : Bool) (pd : BitVec 5) (a b : Src) (s : State) : Out :=
  act (timeOp h false true
    (fun _ l =>
      let x := readSrc l 2 a
      let y := readSrc l 2 b
      if tBad x || tBad y then some 1 else if tDepth x ≠ tDepth y then some 2 else none)
    (fun l => BitVec.ofNat 64 (readSrc l 2 a)) (fun _ => 0)
    (fun e ls s => s.writeP { e with lanes := ls } pd.toNat 0 (fun l =>
      tRel cc (readSrc l 2 a) (readSrc l 2 b) && (!and_ || readP l pd)))) s

end Sys2Proof.Machine
end

