-- ==== Sys2Proof/Machine/Place.lean ====
section
/-! DEFINITION. Kernel records (R98), what a block costs (R261, R262), spreading (R263), the choice of cores (R322), the building of a context at its placement (R248, R259), the end of a unit (R206, R218), and cancels (R245, R324, R347). -/

namespace Sys2Proof.Machine

/-! ### Kernel records (R98, R260, R320) -/

/-- The kernel of a record and a code object. -/
def kernelOf (e : List Byte) (code : Cap) : Kernel :=
  { entry := mkCap (capObj code) (fld e 0 4), regs := fld e 4 2, roles := (List.range (fld e 6 1)).map (fun k => fld e (16 + k) 1)
    spec := fld e 7 1 % 2 == 1, shared := fld e 8 4, priv := fld e 12 4, mtch := fld e 24 4, narg := fld e 28 1
    asize := fld e 32 8 }

/-- Cause 3 of R320: a reserved byte is not 0, or REGS is outside 8 to 256. -/
def recordBad (e : List Byte) : Bool :=
  fld e 29 3 != 0 || fld e 40 24 != 0 || decide (2 ≤ fld e 7 1) || decide (8 < fld e 6 1) || decide (32 < fld e 28 1)
    || decide (fld e 4 2 < 8) || decide (256 < fld e 4 2)

/-- Team size (R248). -/
def Kernel.team (k : Kernel) : Nat := max 1 (k.roles.foldl (· + ·) 0)

/-- The window at placement (R45). -/
def Kernel.window (k : Kernel) : Nat := cdiv k.regs 8 * 8


/-- Role of a wheel (R259). -/
def Kernel.role (k : Kernel) (w : Nat) : Nat :=
  let p := w % k.team
  ((List.range k.roles.length).find? (fun i => decide (p < (k.roles.take (i + 1)).foldl (· + ·) 0))).getD 0

/-- Wheels of a block. -/
def wheelsFor (dim : Nat) : Nat := cdiv dim 32

/-! ### Shares (R263) -/

/-- Share `j` of `n` of a block with `nw` wheels: its first wheel and its count. -/
def Kernel.share (k : Kernel) (nw n j : Nat) : Nat × Nat :=
  if n = 1 then (0, nw)
  else
    let g := Nat.lcm 4 k.team
    let groups := cdiv nw g
    let q := groups / n
    let r := groups % n
    let lo := min nw ((j * q + min j r) * g)
    let hi := min nw (((j + 1) * q + min (j + 1) r) * g)
    (lo, hi - lo)

/-- The slice of shared memory of a spread block. -/
def Kernel.slice (k : Kernel) (n : Nat) : Nat := cdiv k.sharedBytes (n * 128) * 128

/-- Shared bytes of share `j` of `n`. -/
def Kernel.shareBytes (k : Kernel) (n j : Nat) : Nat :=
  if n = 1 then k.sharedBytes else min (k.slice n) (k.sharedBytes - j * k.slice n)

/-- Wheels of a share of `m` wheels in a quarter (R248). -/
def Kernel.inQuarter (k : Kernel) (m q : Nat) : Nat := ((List.range m).filter (fun i => i / k.team % 4 == q)).length

/-! ### Limits of a core (R261, R262) -/

/-- Contexts that count on a core, but those that a test leaves out. -/
def State.onCore (s : State) (core : Nat) (gone : Nat → Ctx → Bool) : List Ctx :=
  (s.ctxs.filter (fun e => e.2.cores.contains core && !gone e.1 e.2)).map (fun e => e.2)

/-- Shared bytes that a context holds on a core. -/
def Ctx.sharedOn (c : Ctx) (core : Nat) : Nat :=
  c.kernel.shareBytes c.cores.length ((c.cores.findIdx? (fun x => x == core)).getD 0)

/-- Free private bytes of a die, with the regions of some runs counted as free: a run that is discarded returns its regions, a block that is saved keeps them (R308, R364, R386). -/
def State.privFree (s : State) (die : Nat) (gone : Nat → Ctx → Bool) : Nat :=
  (s.die die).pools.priv + (s.ctxs.filter (fun e => e.2.die == die && e.2.spec.isSome && gone e.1 e.2)).foldl (fun a e =>
    a + privBytes e.2.kernel * e.2.wheels.length) 0

/-- What a share asks of a core (R261): wheels and register units in each quarter, shared bytes, and range-lock entries for a restore (R391). -/
structure Share where
  wheels : List Nat
  units : List Nat
  bytes : Nat
  locks : Nat := 0
  deriving DecidableEq, Repr

/-- Share `j` of `n` of a block of `nw` wheels at its first placement. -/
def Kernel.shareOf (k : Kernel) (nw n j : Nat) : Share :=
  let m := (k.share nw n j).2
  { wheels := (List.range 4).map (k.inQuarter m), units := (List.range 4).map (fun q => k.inQuarter m q * (k.window / 8)), bytes := k.shareBytes n j }

/-- The share that a saved context had on a core: its wheels that have not ended, each with its own window (R208, R391). -/
def Ctx.shareOf (c : Ctx) (core : Nat) : Share :=
  let ws := fun (q : Nat) => c.wheels.filter (fun w => w.core == core && w.quarter == q && !w.gone)
  { wheels := (List.range 4).map (fun q => (ws q).length), units := (List.range 4).map (fun q => (ws q).foldl (fun a w => a + w.window / 8) 0)
    bytes := c.sharedOn core, locks := (c.locks.filter (fun l => l.core == core)).length }

/-- Range-lock entries of a core that are not free, but those of contexts that a test leaves out (R191, R391). -/
def State.locksOn (s : State) (core : Nat) (gone : Nat → Ctx → Bool) : Nat :=
  ((s.core core).locks.filter (fun l => !(match sGet s.ctxs l.ctx with
    | some c => gone l.ctx c
    | none => false))).length

/-- A share passes the limits of a core (R261, R262); wheels that have ended hold nothing. -/
def State.coreFits (s : State) (core : Nat) (x : Share) (gone : Nat → Ctx → Bool) : Bool :=
  let cs := s.onCore core gone
  let ws := cs.flatMap (fun c => c.wheels.filter (fun w => w.core == core && !w.gone))
  decide (cs.length < 128) && (x.locks == 0 || decide (s.locksOn core gone + x.locks ≤ 64))
    && decide (cs.foldl (fun a c => a + c.sharedOn core) x.bytes ≤ 524288)
    && (List.range 4).all (fun q =>
      let mine := ws.filter (fun w => w.quarter == q)
      let n := (x.wheels[q]?).getD 0
      decide (mine.length + n ≤ 256)
        && decide (mine.foldl (fun a w => a + w.window / 8) ((x.units[q]?).getD 0) ≤ 1024)
        && (n == 0 || (s.claims core q).isEmpty))

/-- A share passes on an empty core. -/
def Share.fits (x : Share) : Bool := decide (x.bytes ≤ 524288) && x.wheels.all (fun n => decide (n ≤ 256)) && x.units.all (fun n => decide (n ≤ 1024))

/-- The number of cores of a block's spread; none when no number up to 8 holds it (R263). -/
def spreadOf (k : Kernel) (nw : Nat) : Option Nat :=
  ((List.range 8).map (· + 1)).find? (fun n => (List.range n).all (fun j => (k.shareOf nw n j).fits))

/-- Core numbers in rotating order after the last placement (R322). -/
def State.rotation (s : State) : List Nat :=
  let first := match s.distPtr with
    | none => 0
    | some p => p + 1
  (List.range 160).map (fun i => (first + i) % 160)

/-- Cores for shares among some cores, each share on the next core that passes. -/
def State.dealShares (s : State) (gone : Nat → Ctx → Bool) : List Nat → List Share → List Nat
  | [], _ => []
  | _, [] => []
  | c :: cs, x :: xs => if s.coreFits c x gone then c :: s.dealShares gone cs xs else s.dealShares gone cs (x :: xs)

/-- The dies of some cores, in the order of the cores. -/
def diesOf (cores : List Nat) : List Nat := cores.foldl (fun a c => if a.contains (dieOf c) then a else a ++ [dieOf c]) []

/-- The cores that take a block (R322, R323): one in rotating order, or the first die on which every share finds one; `only` a die when the block is a task or is restored. `priv` are the private bytes that it still needs. -/
def State.chooseCores (s : State) (xs : List Share) (priv : Nat) (only : Option Nat) (gone : Nat → Ctx → Bool) : Option (List Nat) :=
  let cores := s.rotation.filter (fun c => (only.isNone || only == some (dieOf c)) && decide (priv ≤ s.privFree (dieOf c) gone))
  match xs with
  | [] => none
  | [x] => (cores.find? (fun c => s.coreFits c x gone)).map (fun c => [c])
  | xs => (diesOf cores).findSome? (fun d =>
      let l := s.dealShares gone (cores.filter (fun c => dieOf c == d)) xs
      if l.length = xs.length then some l else none)

/-! ### Building a context (R49, R51, R171, R248, R259) -/

/-- The lowest free slots of a quarter: a wheel that has ended holds none (R251). -/
def State.freeSlots (s : State) (core q : Nat) : List Nat :=
  let used := s.ctxs.flatMap (fun e => (e.2.wheels.filter (fun w => w.core == core && w.quarter == q && !w.gone)).map (fun w => w.slot))
  (List.range 256).filter (fun i => !used.contains i)

/-- The wheels of the shares on their cores, with slots. -/
def State.mkWheels (s : State) (k : Kernel) (nw : Nat) (cores : List Nat) (arg : Cap) (frame0 : Nat) : List Wheel :=
  let n := cores.length
  (List.range n).flatMap (fun j =>
    let sh := k.share nw n j
    let core := (cores[j]?).getD 0
    (List.range sh.2).map (fun i =>
      let q := i / k.team % 4
      let nth := ((List.range i).filter (fun x => x / k.team % 4 == q)).length
      { idx := sh.1 + i, core := core, quarter := q, slot := ((s.freeSlots core q)[nth]?).getD 0
        role := k.role (sh.1 + i), window := k.window
        sregs := [(0, BitVec.ofNat 32 arg.toNat), (1, BitVec.ofNat 32 (arg.toNat / 2 ^ 32))]
        frame := frame0 + (sh.1 + i) * privBytes k }))

/-- The pointer of a quarter that holds no wheel stands before slot 0 when its first wheels are placed (R251). -/
def State.freshPtrs (s : State) (ws : List Wheel) : State :=
  ((ws.map (fun w => (w.core, w.quarter))).dedup).foldl (fun s k =>
    if s.ctxs.any (fun e => e.2.wheels.any (fun w => w.core == k.1 && w.quarter == k.2 && !w.gone)) then s
    else s.modQuarter (4 * k.1 + k.2) (fun x => { x with ptr := none })) s

/-- The lowest private address of a die at which `n` bytes meet no region of a context that is placed or saved (R308). -/
def State.privFrame (s : State) (die n : Nat) : Nat :=
  let regs := ((s.ctxs ++ s.saved).filter (fun e => e.2.die == die && privBytes e.2.kernel != 0)).map (fun e =>
    let base := (e.2.wheels.map (fun w => w.frame)).foldl min ((e.2.wheels.headD { idx := 0 }).frame)
    (base, base + privBytes e.2.kernel * e.2.wheels.length))
  let free := fun (a : Nat) => regs.all (fun r => decide (a + n ≤ r.1) || decide (r.2 ≤ a))
  ((sortBy id (0 :: regs.map (fun r => r.2))).find? free).getD 0

/-- The threads of a block at its placement. -/
def mkThreads (k : Kernel) (dim : Nat) : List Thread :=
  (List.range dim).map (fun t => { tid := t, wheel := t / 32, lane := t % 32, pwheel := t / 32, plane := t % 32, pc := k.entry })

/-- The cores of a block hold no older copy at its placement or restore: an acquire at device scope for a run (R356), at domain scope for real work, the counterpart of the releases that AFTER, a wait command or a frontier follow (R317, R318, R276; DEDUCED, log 26). -/
def State.startAcquire (s : State) (c : Ctx) (cores : List Nat) : State :=
  cores.foldl (fun s k => s.acquire c k (if c.spec.isSome then .dev else .dom)) s

/-- A context is placed on cores: private regions are taken, threads and wheels stand at the kernel's entry. -/
def State.placeCtx (s : State) (c : Ctx) (cores : List Nat) : State :=
  let die := dieOf (cores.headD 0)
  let nw := wheelsFor c.dim
  let n := privBytes c.kernel * nw
  let ws := s.mkWheels c.kernel nw cores c.arg (s.privFrame die n)
  let s := s.modDie die (fun d => { d with pools := { d.pools with priv := d.pools.priv - n } })
  let s := (s.startAcquire c cores).freshPtrs ws
  let id := s.nextCtx
  let s := s.setCtx id { c with die := die, cores := cores, slice := c.kernel.slice cores.length, placed := s.cycle
                                wheels := ws, threads := mkThreads c.kernel c.dim }
  { s with nextCtx := id + 1 }

/-- Runs on some cores are discarded at once: a run never shares a core with real work (R322, R355). A claimed run has become real work (R362). -/
def State.evictRuns (s : State) (cores : List Nat) : State :=
  let slots := ((s.ctxs.filterMap (fun e => if e.2.cores.any cores.contains then e.2.spec else none)).dedup).filter (fun k =>
    decide ((s.slot k).state ∈ [.running, .done]))
  slots.foldl (fun s k => s.discardRun k 6) s

/-! ### The end of a unit (R206, R218, R386) -/

/-- Entries of a chain after the last one taken, `n` at most. -/
def State.chainAhead (s : State) (die : Nat) : Nat → Cap → List (List Byte)
  | 0, _ => []
  | n + 1, c =>
    match s.unitRead die c 128 with
    | none => []
    | some e => e :: s.chainAhead die n (fldCap e 56)

/-- An engine entry names .s or a barrier (R206). -/
def entInShared (e : List Byte) : Bool := namesShared e || entBarv e

/-- An entry of a context with a .s side or a barrier runs in an engine; with `ahead`, or is published and not yet taken. -/
def State.sharedEntries (s : State) (ctx : Nat) (ahead : Bool) : Bool :=
  s.dies.any (fun d => d.2.engines.any (fun g => match g.2.run with
    | some r => r.ctx == ctx && r.queue.isNone && r.owner.isNone && entInShared r.ent
    | none => false))
  || (ahead && s.chains.any (fun ch => ch.queue.isNone && !ch.fill && !ch.ended && ch.pubs.any (fun p =>
      p.2.1 == ctx &&
        (match s.ccbPlace ch.die ch.ccb with
          | none => false
          | some blk =>
            (s.chainAhead ch.die (p.1 - s.ccb ch.die blk 32 8) (s.chainEntry ch blk)).any entInShared))))

/-- STAMP of a residency entry (R382). -/
def State.stampNow (s : State) : Nat := s.cycle / 1024 % 2 ^ 32

/-- A reference to a residency entry is dropped (R214, R385). -/
def State.dropRef (s : State) (e : Nat) : State :=
  let r := (sGet s.resid e).getD {}
  { s with resid := sPut s.resid e { r with refs := r.refs - 1, stamp := s.stampNow } }

/-- No pin of another core has refused a store or a write-back of the unit's release (R279). -/
def State.storesSettled (s : State) (ctx : Nat) : Bool :=
  match sGet s.ctxs ctx with
  | none => true
  | some c => c.wheels.all (fun w => w.stores.isEmpty) && c.cores.all (fun o => (s.core o).l1.all (fun e => !e.2.2 || pTag e.1 == 1))

/-- The die-scope release of a unit: its stores are performed, dirty bytes go to L2, and then its pins end (R206, R274, R280, R386). -/
def State.settleStores (s : State) (ctx : Nat) : State :=
  match sGet s.ctxs ctx with
  | none => s
  | some c =>
    let s := s.drainAll ctx
    let who : Issuer := { ctx := ctx, tids := c.threads.map (fun t => t.tid) }
    let s := c.wheels.foldl (fun s w => s.release c w.idx w.core who .die) s
    let s := c.cores.foldl (fun s o => s.flushL1 o (fun p => isGlobal p)) s
    if s.storesSettled ctx then s.unpinCtx ctx else s

/-- The residency references of a unit are dropped, as EXREL drops them (R206, R218). -/
def State.dropRefs (s : State) (ctx : Nat) : State :=
  match sGet s.ctxs ctx with
  | none => s
  | some c => (sortBy id c.held).foldl (fun s e => s.dropRef e) s

/-- The owner that takes over a unit's counts (R337). -/
def Ctx.heir (c : Ctx) : Owner :=
  match c.graph with
  | some (i, _, g) => .graph i g
  | none => .launch c.launch

/-- Nets and updates of an owner pass to another (R337). -/
def State.inherit (s : State) (old new : Owner) : State :=
  let s := (List.range 4).foldl (fun s d =>
    let mine := (s.reg d).owners.filter (fun x => x.owner == old)
    let s := s.modReg d (fun r => { r with
      owners := r.owners.filter (fun x => x.owner != old)
      issued := r.issued.map (fun i => if i.owner = some old then { i with owner := some new } else i) })
    mine.foldl (fun s x => s.addNet d new x.loc x.time x.n) s) s
  { s with
    dies := s.dies.map (fun d => (d.1, { d.2 with tasks := d.2.tasks.map (fun t => if t.owner = old then { t with owner := new } else t) }))
    submitted := s.submitted.map (fun b => { b with items := b.items.map (fun i =>
      if i.owner = some old then { i with owner := some new } else i) }) }

/-! ### Retraction (R347) -/

/-- Lists of at most 64 (R344). -/
def chunk64 {α : Type} : Nat → List α → List (List α)
  | 0, _ => []
  | n + 1, l => if l.isEmpty then [] else l.take 64 :: chunk64 n (l.drop 64)

/-- Updates of one owner, pair, sign and poison as one update. -/
def sumIssued (us : List Issued) : List Issued :=
  us.foldl (fun (a : List Issued) u =>
    let same := fun (x : Issued) => x.owner == u.owner && x.upd.loc == u.upd.loc && x.upd.time == u.upd.time && x.upd.poison == u.upd.poison
      && decide (0 < x.upd.delta) == decide (0 < u.upd.delta)
    if a.any same then a.map (fun x => if same x then { x with upd := { x.upd with delta := x.upd.delta + u.upd.delta } } else x)
    else a ++ [u]) []

/-- A batch of one group is issued on a die; one of more than 64 updates sums those of a pair, and only one that still has more is cut, its increments first (R342, R344; log 63). -/
def State.issueGroup (s : State) (die : Nat) (us : List Issued) : State :=
  let us := if us.length ≤ 64 then us else sumIssued us
  (chunk64 us.length us).foldl (fun s l =>
    let g := s.nextTag
    l.foldl (fun s i => s.issueUpd die { i with group := some g }) { s with nextTag := g + 1 }) s

/-- The counts of some owners are retracted with poison on a die: the summed nets over the device where they are positive; the entries are freed (R347). -/
def State.retract (s : State) (die : Nat) (own : Owner → Bool) : State :=
  let nets := (List.range 4).flatMap (fun d => ((s.reg d).owners.filter (fun x => own x.owner)).map (fun x => (x.loc, x.time, x.n)))
  let open_ := (List.range 4).flatMap (fun d => (s.reg d).issued) ++ s.submitted.flatMap (fun b => b.items)
  let pend := (open_.filter (fun i => match i.owner with | some o => own o | none => false)).map (fun i => (i.upd.loc, i.upd.time, i.upd.delta))
  let all := nets ++ pend
  let keys := (all.map (fun x => (x.1, x.2.1))).dedup
  let sums := keys.map (fun k => (k, (all.filter (fun x => x.1 == k.1 && x.2.1 == k.2)).foldl (fun a x => a + x.2.2) (0 : Int)))
  let orphan := fun (i : Issued) => match i.owner with
    | some o => if own o then { i with owner := none } else i
    | none => i
  let s := (List.range 4).foldl (fun s d => s.modReg d (fun r => { r with
    owners := r.owners.filter (fun x => !own x.owner), issued := r.issued.map orphan })) s
  let s : State := { s with submitted := s.submitted.map (fun b => { b with items := b.items.map orphan }) }
  s.issueGroup die ((sums.filter (fun x => decide (0 < x.2))).map (fun x =>
    { upd := { loc := x.1.1, time := x.1.2, poison := true, delta := -x.2 }, owner := none }))

/-! ### The commit of a claimed run (R363) -/

/-- The pages of a slot are written to their home frames; no cache keeps an older copy (R363). -/
def State.commit (s : State) (slot : Nat) : State :=
  let pages := s.shadow.filter (fun p => p.slot == slot)
  let cells := pages.flatMap (fun p => p.mask.map (fun o => (canopyP p.die (p.frame * 65536 + o), s.byte (shadowP p.page o))))
  let s := s.homeWrites cells
  let hit := fun (p : Nat) => cells.any (fun c => c.1 == p)
  let s := (List.range 160).foldl (fun s c => if (s.core c).l1.isEmpty then s else s.dropL1 c hit) s
  ((List.range 4).foldl (fun s d => s.dropL2 d hit) s).freeShadow slot

/-- The stores and pages of a claimed run are written, and its blocks are those of launch `n` (R363). -/
def State.realize (s : State) (slot n : Nat) : State :=
  let s := ((s.ctxs.filter (fun e => e.2.spec == some slot)).foldl (fun s e => s.drainAll e.1) s).commit slot
  let s : State := { s with ctxs := s.ctxs.map (fun e =>
    if e.2.spec = some slot then (e.1, { e.2 with spec := none, paused := false, launch := n, placed := s.cycle }) else e) }
  s.modSlot slot (fun y => { y with claim := none })

/-! ### Cancels (R245, R324) -/

/-- What a cancel ends: contexts, queued tasks, launches, graph generations, and owners of counts. -/
structure Doomed where
  ctx : Nat → Ctx → Bool
  task : Task → Bool
  launch : Launch → Bool
  graph : Graph → Bool
  owner : Owner → Bool

/-- The instance of a graph task's record (R330). -/
def Task.inst (t : Task) : Cap := mkCap (capObj t.succ) (capOfs t.succ / 8192 * 8192)
/-- GRAPH of a task's FLAGS (R326). -/
def Task.isGraph (t : Task) : Bool := natBits t.flags 5 1 == 1

/-- A unit. -/
def doomedUnit (k : Nat) : Doomed :=
  { ctx := fun i _ => i == k, task := fun _ => false, launch := fun _ => false, graph := fun _ => false, owner := fun o => o == .unit k }

/-- Units whose contexts pass a test, with launches and graphs. -/
def State.doomed (s : State) (ctx : Ctx → Bool) (task : Task → Bool) (launch : Launch → Bool) (graph : Graph → Bool) (job : Bool) :
    Doomed :=
  let ids := ((s.ctxs ++ s.saved).filter (fun e => ctx e.2 && !e.2.handler && (e.2.spec.all (fun j => decide ((s.slot j).state = .commit))))).map (fun e => e.1)
  let ls := (s.launches.filter launch).map (fun l => l.no)
  let gs := (s.graphs.filter graph).map (fun g => (g.inst, g.gen))
  { ctx := fun i _ => ids.contains i, task := task, launch := launch, graph := graph
    owner := fun o => match o with
      | .unit k => ids.contains k
      | .launch n => ls.contains n || job
      | .graph i g => gs.contains (i, g) || job
      | .job => job }

/-- A launch with its blocks and the tasks they spawned. -/
def State.doomedLaunch (s : State) (n : Nat) : Doomed :=
  s.doomed (fun c => c.launch == n && c.graph.isNone) (fun t => t.launch == n && !t.isGraph) (fun l => l.no == n) (fun _ => false) false

/-- A generation of a graph instance. -/
def State.doomedGraph (s : State) (i : Cap) (g : Nat) : Doomed :=
  s.doomed (fun c => match c.graph with | some (a, _, b) => a == i && b == g | none => false)
    (fun t => t.isGraph && t.inst == i && t.gen == g) (fun _ => false) (fun x => x.inst == i && x.gen == g) false

/-- A phase. -/
def State.doomedPhase (s : State) (p : Nat) : Doomed :=
  s.doomed (fun c => c.phase == p) (fun t => t.phase == p) (fun l => l.phase == p) (fun g => g.phase == p) false

/-- The job. -/
def State.doomedJob (s : State) : Doomed :=
  s.doomed (fun _ => true) (fun _ => true) (fun _ => true) (fun _ => true) true

/-- A saved context is discarded unread: its area, private regions and shared bytes return zeroed (R391). -/
def State.dropSaved (s : State) (k : Nat) : State :=
  match sGet s.saved k with
  | none => s
  | some c =>
    let s : State := { s with ctxs := sPut s.ctxs k c, saved := sDel s.saved k }
    let s := (sortBy id c.held).foldl (fun s e => s.dropRef e) s
    let s := s.modDie c.die (fun d => { d with
      tasks := d.tasks.filter (fun t => t.saved != some k) })
    s.dropCtx k

/-- Every thread of a context ends where it stands; what it waits for is forgotten (R245). -/
def Ctx.halt (c : Ctx) : Ctx :=
  { c.modT (fun _ => true) (fun t => { t with st := .ended, reformed := none, stamp := none, pend := [] }) with
    waits := [], loads := [], saving := false, cancelled := true }

/-- A cancelled block ends as R206 lays down: engine entries into its shared memory are done, its release is over, its references are dropped; else it stays until then (R245). -/
def State.endCancelled (s : State) (ctx : Nat) : State :=
  if s.sharedEntries ctx true then s
  else
    let s := s.settleStores ctx
    if s.storesSettled ctx then (s.dropRefs ctx).dropCtx ctx else s

/-- Units of a launch, and of a graph generation, that a cancel has stopped and that have not ended (R206, R245). -/
def State.stillRuns (s : State) (own : Ctx → Bool) : Nat :=
  (s.ctxs.filter (fun e => own e.2 && e.2.spec.isNone && !e.2.handler)).length

/-- A block or task of a launch. -/
def Ctx.ofLaunch (c : Ctx) (n : Nat) : Bool := c.launch == n && c.graph.isNone
/-- A task of a graph generation. -/
def Ctx.ofGraph (c : Ctx) (i : Cap) (g : Nat) : Bool :=
  match c.graph with
  | some (a, _, b) => a == i && b == g
  | none => false

/-- A cancel acts on a die: threads stop, blocks end, queued tasks are dropped, counts are retracted; launches and graph runs complete as cancelled once every unit of theirs has ended (R245, R320, R324, R347). -/
def State.cancel (s : State) (die : Nat) (x : Doomed) : State :=
  let claimed := (s.launches.filter x.launch).filterMap (fun l => l.slot.map (fun j => (j, l.no)))
  let s := claimed.foldl (fun s y => if (s.slot y.1).claim.isSome then s.realize y.1 y.2 else s) s
  let live := (s.ctxs.filter (fun e => x.ctx e.1 e.2)).map (fun e => e.1)
  let stored := (s.saved.filter (fun e => x.ctx e.1 e.2)).map (fun e => e.1)
  let all := (s.ctxs ++ s.saved).filter (fun e => x.ctx e.1 e.2)
  let s := live.foldl (fun s k => (s.modCtx k Ctx.halt).endCancelled k) s
  let units := all.filter (fun e => (sGet s.ctxs e.1).isNone)
  let s := stored.foldl (fun s k => s.dropSaved k) s
  let gone := s.dies.flatMap (fun d => d.2.tasks.filter (fun t => x.task t && t.saved.isNone))
  let s : State := { s with dies := s.dies.map (fun d => (d.1, { d.2 with tasks := d.2.tasks.filter (fun t => !x.task t) })) }
  let s := gone.foldl (fun s t => s.zeroRange (taskP t.copy 0) 64) s
  let s := s.retract die x.owner
  let less := fun (l : Launch) => l.units
    - (units.filter (fun e => e.2.launch == l.no && e.2.graph.isNone)).length - (gone.filter (fun t => t.launch == l.no && !t.isGraph)).length
  let lessG := fun (g : Graph) => g.tasks
    - (units.filter (fun e => match e.2.graph with | some (i, _, n) => i == g.inst && n == g.gen | none => false)).length
    - (gone.filter (fun t => t.isGraph && t.inst == g.inst && t.gen == g.gen)).length
  let ls := (s.launches.filter x.launch).map (fun l => (l, s.stillRuns (fun c => c.ofLaunch l.no)))
  let gs := (s.graphs.filter x.graph).map (fun g => (g, s.stillRuns (fun c => c.ofGraph g.inst g.gen)))
  let s : State := { s with
    launches := (s.launches.filter (fun l => !ls.any (fun y => y.1.no == l.no && y.2 == 0))).map (fun l => { l with
      units := match ls.find? (fun y => y.1.no == l.no) with
        | some y => y.2
        | none => less l
      cancelled := l.cancelled || x.launch l
      next := if x.launch l then l.cmd.blocks else l.next
      slot := if x.launch l then none else l.slot
      ended := l.ended ++ (units.filter (fun e => e.2.launch == l.no && e.2.trec.isNone)).map (fun e => e.2.block)
      restore := l.restore.filter (fun k => !stored.contains k) })
    graphs := (s.graphs.filter (fun g => !gs.any (fun y => y.1.inst == g.inst && y.1.gen == g.gen && y.2 == 0))).map (fun g =>
      match gs.find? (fun y => y.1.inst == g.inst && y.1.gen == g.gen) with
      | some y => { g with tasks := y.2, waiting := [], cancelled := true }
      | none => { g with tasks := lessG g }) }
  let s := gs.foldl (fun s y => s.unitSet 0 (capAdd y.1.inst 12) 4 y.2) s
  let s := (ls.filter (fun y => y.2 == 0)).foldl (fun s y => s.completeCmd y.1.queue y.1.seq 0 4 0 y.1.no) s
  let s := claimed.foldl (fun s y => (s.modSlot y.1 (fun _ => {})).freeShadow y.1) s
  (gs.filter (fun y => y.2 == 0)).foldl (fun s y => match y.1.seq with
    | some (q, n) => s.completeCmd q n 0 4 0 y.1.gen
    | none => s) s

/-- A job in RUN goes to ENDING, which zeroes all that it holds (R381, R429). -/
def State.startEnding (s : State) : State :=
  if s.job.state = .run then { s with job := { s.job with state := .ending, endAt := s.cycle + s.lmax } } else s

/-- The job is cancelled: its speculative runs are discarded and it goes to ENDING (R245, R362, R429). -/
def State.cancelJob (s : State) (die : Nat) : State :=
  let s := (List.range 4).foldl (fun s k => s.discardRun k 7) s
  let s := s.cancel die s.doomedJob
  s.startEnding

/-- A cancel at a level of the instance that encloses a unit (R245); level 4 ends the job. -/
def State.cancelAt (s : State) (die : Nat) (lv : Level) (x : Doomed) : State :=
  if lv = .job then s.cancelJob die else s.cancel die x

/-- The instance that encloses a unit at a level (R245, R324). `.launch` in a graph task, which no launch encloses, cancels its graph generation (DESIGN CHOICE, log 129). -/
def State.enclosing (s : State) (k : Nat) (c : Ctx) (lv : Level) : Doomed :=
  match lv, c.graph with
  | .unit, _ => doomedUnit k
  | .launch, none => s.doomedLaunch c.launch
  | .launch, some (i, _, g) => s.doomedGraph i g
  | .graph, some (i, _, g) => s.doomedGraph i g
  | .graph, none => s.doomedLaunch c.launch
  | .phase, _ => s.doomedPhase c.phase
  | .job, _ => s.doomedJob

end Sys2Proof.Machine
end

