-- ==== Sys2Proof/Machine/Table.lean ====
section
/-! DEFINITION. The table unit (R378, R379, R381), the fills and leases of the table caches (R372, R373), and what a page's mapping needs in every copy. -/

namespace Sys2Proof.Machine

/-! ### Entries in every copy (R368-R370, R379) -/

/-- The leaf entry of a page in a die's copy, 0 without a descriptor. -/
def State.leafWord (s : State) (d obj page : Nat) : Nat :=
  match s.readDesc d obj with
  | none => 0
  | some w => s.num (s.leafP d (dLeafofs w) page) 8

/-- The canopy frame that an entry of a die's copy names: home die and frame (R370). -/
def leafFrame (d w : Nat) : Option (Nat × Nat) :=
  if decide (2 ^ locBits (lfAp w) ≤ lfLoc w) then none
  else if lfAp w = 0 then some (d, lfLoc w)
  else if lfAp w = 1 then some (lfLoc w / 2 ^ 21, lfLoc w % 2 ^ 21)
  else none

/-- The canopy frame that an entry maps. -/
def leafHeld (d w : Nat) : Option (Nat × Nat) := if lfV w then leafFrame d w else none

/-- An entry of die `d`'s copy as die `c`'s copy writes it (R370, R379). -/
def leafFor (d c w : Nat) : Nat :=
  match leafFrame d w with
  | none => w
  | some (h, f) => natSetBits (natSetBits w 1 3 (if h = c then 0 else 1)) 8 32 (if h = c then f else f + h * 2 ^ 21)

/-- An entry written in every copy, each from its own old word. -/
def State.eachLeaf (s : State) (obj page : Nat) (f : Nat → Nat → Nat) : State :=
  (List.range 4).foldl (fun s c =>
    match s.readDesc c obj with
    | none => s
    | some w =>
      let p := s.leafP c (dLeafofs w) page
      s.putNum p 8 (f c (s.num p 8))) s

/-- The frame that a die's pool gives next: the lowest that it holds (log entry 17). -/
def Pools.lowest (p : Pools) : Option Nat :=
  if 2 ^ 21 ≤ p.used.length + p.aside then none
  else (List.range (p.used.length + 1)).find? (fun f => !p.used.contains f)

/-- A frame leaves the pool. -/
def Pools.take (p : Pools) (f : Nat) : Pools := { p with used := f :: p.used }

/-- Pages of an object, by its descriptor. -/
def descPages (w : Nat) : List Nat := List.range (cdiv (dExtent w) 65536)

/-- Canopy frames of a die that pages of the job's objects hold (R380). -/
def State.heldFrames (s : State) (d : Nat) : List Nat :=
  (List.range (s.otbl d).nobj).flatMap (fun o =>
    match s.readDesc d o with
    | none => []
    | some w => (descPages w).filterMap (fun p => match leafHeld d (s.leafWord d o p) with
        | some (h, f) => if h = d then some f else none
        | none => none))

/-- Some page holds a frame. -/
def State.frameHeld (s : State) (h : Nat × Nat) : Bool := (s.heldFrames h.1).contains h.2

/-- A frame that no page holds any more returns to its die's pool, no earlier than Lmax after it left its page (R381). -/
def State.giveBack (s : State) (h : Option (Nat × Nat)) : State :=
  match h with
  | none => s
  | some (d, f) =>
    if s.frameHeld (d, f) then s
    else s.modDie d (fun x => { x with pools := { x.pools with back := x.pools.back ++ [(f, s.cycle + s.lmax)] } })

/-- A place of the page that starts at `base`. -/
def inPage (base p : Nat) : Bool :=
  decide (pTag p = pTag base) && decide (pIdx base ≤ pIdx p) && decide (pIdx p < pIdx base + 65536)

/-- Stores to a page wait in a wheel's queue. -/
def Wheel.queuesIn (w : Wheel) (base : Nat) : Bool := w.stores.any (fun q => q.bytes.any (fun b => inPage base b.1))

/-- The queued stores to a page, with those before them, enter the core order. -/
def State.drainPage (s : State) (base : Nat) : State :=
  (s.ctxs.flatMap (fun e => (e.2.wheels.filter (fun w => w.queuesIn base)).map (fun w => (e.1, w.idx)))).foldl (fun s x => s.drain x.1 x.2) s

/-- No queued store to a page is left. -/
def State.pageDrained (s : State) (base : Nat) : Bool := s.ctxs.all (fun e => e.2.wheels.all (fun w => !w.queuesIn base))

/-- No store to a page is queued, and no load of it waits for a pin (R279). -/
def State.pageIdle (s : State) (base : Nat) : Bool :=
  s.pageDrained base && s.ctxs.all (fun e => e.2.loads.all (fun o => !o.pinned || o.places.all (fun p => !inPage base p)))

/-- Every cached copy of a page goes, unread. -/
def State.dropPage (s : State) (base : Nat) : State :=
  { s with
    cores := s.cores.map (fun e => (e.1, { e.2 with l1 := e.2.l1.filter (fun x => !inPage base x.1) }))
    dies := s.dies.map (fun e => (e.1, { e.2 with l2 := e.2.l2.filter (fun x => !inPage base x.1) })) }

/-- A frame reads 0 everywhere (R381). -/
def State.clearFrame (s : State) (die frame : Nat) : State :=
  let base := canopyP die (frame * 65536)
  (s.dropPage base).zeroRange base 65536

/-- FRAME_RETURN (R381): a frame of a die's pool or residency budget, zeroed, with no copy of what its owner wrote. -/
def execFrameReturn (die frame : Nat) (s : State) : Out :=
  act (fun s =>
    let due := fun (e : Nat × Nat) => e.1 == frame && decide (e.2 < s.cycle)
    let p := (s.die die).pools
    if !(p.back.any due || p.resBack.any due) then s
    else
      let s := s.drainPage (canopyP die (frame * 65536))
      if !s.pageIdle (canopyP die (frame * 65536)) then s
      else
        let q : Pools := if p.back.any due then { p with back := p.back.filter (fun e => !due e), used := p.used.filter (fun f => f != frame) }
          else { p with resBack := p.resBack.filter (fun e => !due e), res := p.res ++ [frame] }
        (s.clearFrame die frame).modDie die (fun x => { x with pools := q })) s

/-! ### Commands (R378) -/

/-- A field of the command block of a die. -/
def State.cmdFld (s : State) (d lo n : Nat) : Nat := s.num (tcoP (64 * d + lo)) n

/-- PAGE of the command block of a die. -/
def State.cmdPage (s : State) (d : Nat) : Cap := BitVec.ofNat 64 (s.cmdFld d 8 8)

/-- A command of a die is issued and not yet taken. -/
def State.tableIssued (s : State) (d : Nat) : Bool := (s.die d).twait.isNone && decide (s.cmdFld d 40 8 < s.cmdFld d 32 8)

/-- A die's command may start: no other command on its page is in progress, or was issued before it (R378). -/
def State.tableReady (s : State) (d : Nat) : Bool :=
  s.job.state == .run && s.tableIssued d
    && [0, 1, 2, 3].all (fun c => match (s.die c).twait with
      | none => !(s.tableIssued c && s.cmdPage c == s.cmdPage d && decide ((s.die c).reqAt < (s.die d).reqAt))
      | some w => w.page != s.cmdPage d)

/-- STATUS 1 for the fields that every command has: a reserved OP or byte, a PAGE that is not a page's first byte (R378). -/
def State.tableReserved (s : State) (d : Nat) : Bool :=
  let op := s.cmdFld d 0 1
  !decide (1 ≤ op ∧ op ≤ 4) || s.cmdFld d 1 7 != 0
    || (if op = 3 then capOfs (s.cmdPage d) != 0 else capOfs (s.cmdPage d) % 65536 != 0)

/-- STATUS 2 (R378). -/
def State.tableNoObj (s : State) (d : Nat) : Bool :=
  let obj := capObj (s.cmdPage d)
  obj == 0 || obj == 0xFFFFF || decide ((s.otbl d).nobj ≤ obj)
    || (s.cmdFld d 0 1 != 3 && (match s.readDesc d obj with
      | none => true
      | some w => decide (dExtent w ≤ capOfs (s.cmdPage d))))

/-- A command completes: STATUS and HOT, then DONE as a release at device scope (R378). -/
def State.tableDone (s : State) (d seq status hot : Nat) : State :=
  let s := s.putNum (tcoP (64 * d + 60)) 4 status
  let s := s.putNum (tcoP (64 * d + 48)) 10 hot
  let s := s.putNum (tcoP (64 * d + 40)) 8 seq
  s.modDie d (fun x => { x with twait := none })

/-- HOT as it stands. -/
def State.hotFld (s : State) (d : Nat) : Nat := s.cmdFld d 48 10

/-- A command completes with a STATUS at once, or Lmax cycles later (R379). -/
def State.tableEnd (s : State) (d status : Nat) (slow : Bool) : State :=
  let seq := s.cmdFld d 32 8
  if slow then
    s.modDie d (fun x => { x with twait := some { till := s.cycle + s.lmax, seq := seq, page := s.cmdPage d, status := some status } })
  else s.tableDone d seq status (s.hotFld d)

/-- A command of a die with a given OP: the refusals that every command has, or the effect `f`. -/
def tableOp (d op : Nat) (f : State → State) (s : State) : State :=
  if !s.tableReady d then s
  else
    let o := s.cmdFld d 0 1
    let mine := o = op ∨ (op = 1 ∧ ¬(1 ≤ o ∧ o ≤ 4))
    if !mine then s
    else if s.tableReserved d then s.tableEnd d 1 false
    else if s.tableNoObj d then s.tableEnd d 2 false
    else f s

/-- A new entry withdraws what a cached entry might still grant (R379). -/
def leafSlow (old new : Nat) : Bool :=
  (lfV old && !lfV new) || (lfW old && !lfW new) || (lfRap old && !lfRap new) || (!lfPoison old && lfPoison new)
    || lfAp old != lfAp new || lfLoc old != lfLoc new || lfLease old != lfLease new

/-- WRITELEAF (R379); a block whose OP is reserved is refused here. -/
def execWriteleaf (die : Nat) (s : State) : Out :=
  act (tableOp die 1 (fun s =>
    let obj := capObj (s.cmdPage die)
    let page := capOfs (s.cmdPage die) / 65536
    let old := s.leafWord die obj page
    let new := leafFor die die (s.cmdFld die 16 8)
    let h := leafHeld die old
    match leafHeld die new with
    | some x =>
      if h = some x ∨ (h.isNone ∧ s.frameHeld x) then (s.eachLeaf obj page (fun c _ => leafFor die c new)).tableEnd die 0 (leafSlow old new)
      else s.tableEnd die 3 false
    | none => ((s.eachLeaf obj page (fun c _ => leafFor die c new)).giveBack h).tableEnd die 0 (leafSlow old new))) s

/-- A new descriptor withdraws what a cached one might still grant, or changes DLEASE or LEAFOFS (R379). -/
def descSlow (old new : Nat) : Bool :=
  decide (dExtent new < dExtent old) || (dRights old &&& (31 - dRights new)) != 0 || (natBits old 69 1 == 1 && natBits new 69 1 == 0)
    || dLease old != dLease new || dLeafofs old != dLeafofs new

/-- The descriptor bytes of a WRITEDESC that R368 counts as no descriptor; VALID may be clear. -/
def State.descBad (s : State) (w : Nat) : Bool := !s.descOk (natSetBits w 69 1 1) && (natBits w 69 1 == 1
  || natBits w 44 20 != 0 || natBits w 70 2 != 0 || natBits w 76 20 != 0)

/-- WRITEDESC (R379). -/
def execWritedesc (die : Nat) (s : State) : Out :=
  act (tableOp die 3 (fun s =>
    let obj := capObj (s.cmdPage die)
    let new := s.cmdFld die 16 16
    let old := s.num (s.descP die obj) 32
    if s.descBad new then s.tableEnd die 1 false
    else
      let s' := (List.range 4).foldl (fun s c => s.putNum (s.descP c obj) 16 new) s
      s'.tableEnd die 0 (descSlow old new))) s

/-- The counts of HOTREAD: dies 0 to 3, and all peers (R378, R379). -/
def State.hotCounts (s : State) (d obj page : Nat) : Nat :=
  let mine := (s.die d).hot.filter (fun h => h.obj == obj && h.page == page)
  let one := fun (r : Nat) => ((mine.find? (fun h => h.req == r)).map (fun h => h.n)).getD 0
  let peers := min 65535 ((mine.filter (fun h => decide (4 ≤ h.req))).foldl (fun a h => a + h.n) 0)
  (List.range 4).foldl (fun a r => a + one r * 2 ^ (16 * r)) (peers * 2 ^ 64)

/-- HOTREAD (R379). -/
def execHotread (die : Nat) (s : State) : Out :=
  act (tableOp die 4 (fun s =>
    s.tableDone die (s.cmdFld die 32 8) 0 (s.hotCounts die (capObj (s.cmdPage die)) (capOfs (s.cmdPage die) / 65536)))) s

/-! ### MIGRATE (R379) -/

/-- MIGRATE, step 1: W is cleared in every copy. -/
def execMigrate (die : Nat) (s : State) : Out :=
  act (tableOp die 2 (fun s =>
    let obj := capObj (s.cmdPage die)
    let page := capOfs (s.cmdPage die) / 65536
    let old := s.leafWord die obj page
    let s := s.eachLeaf obj page (fun _ w => natSetBits w 4 1 0)
    let w : TWait := { till := s.cycle + s.lmax, seq := s.cmdFld die 32 8, page := s.cmdPage die, old := BitVec.ofNat 64 old
                       target := s.cmdFld die 16 1 % 4 }
    s.modDie die (fun x => { x with twait := some w }))) s

/-- The first place of a migrating page behind its old entry. -/
def State.oldPage (s : State) (die : Nat) (w : TWait) : Nat :=
  s.leafPlace die (capObj w.page) (capOfs w.page) w.old.toNat

/-- The entry of a page in every copy with the old W. -/
def State.restoreW (s : State) (w : TWait) : State :=
  s.eachLeaf (capObj w.page) (capOfs w.page / 65536) (fun _ x => natSetBits x 4 1 (if lfW w.old.toNat then 1 else 0))

/-- The dirty bytes of a page go to its old place, and every copy of it goes (R379 step 2). -/
def State.flushPage (s : State) (base : Nat) : State :=
  let s := s.cores.foldl (fun s e => (s.flushL1 e.1 (inPage base)).dropL1 e.1 (inPage base)) s
  (List.range 4).foldl (fun s d => (s.flushL2 none 160 d (inPage base)).dropL2 d (inPage base)) s

/-- The bytes of a page of a peer or the host are asked for in one request. -/
def State.askPage (s : State) (base : Nat) : Nat × State :=
  let (tag, s) := s.newTag
  let ps := run base 65536
  (tag, { s.askRead tag ps with engReqs := s.engReqs ++ [{ tag := tag, places := ps }] })

/-- MIGRATE, step 2: the stores of the wait, the write-back, a frame of the target's pool, and the start of the copy; a pin delays it (R279). -/
def State.startMigrate (s : State) (die : Nat) (w : TWait) : State :=
  let base := s.oldPage die w
  let s := s.drainPage base
  if !s.pageDrained base || s.cores.any (fun e => e.2.pins.any (fun p => inPage base p.1)) then s
  else
    let s := s.flushPage base
    match (s.die w.target).pools.lowest with
    | none => (s.restoreW w).tableDone die w.seq 4 (s.hotFld die)
    | some f =>
      let s := s.modDie w.target (fun x => { x with pools := x.pools.take f })
      let s := if isRemote base && lfV w.old.toNat then (s.askPage base).2 else s
      s.modDie die (fun x => { x with twait := some { w with frame := some f } })

/-- TABLE_LEASE_WAIT_EXPIRY (R379): Lmax has passed; the command completes, or its migration goes on. -/
def execTableLeaseWaitExpiry (die : Nat) (s : State) : Out :=
  act (fun s =>
    match (s.die die).twait with
    | none => s
    | some w =>
      if s.cycle ≤ w.till then s
      else match w.status, w.frame with
        | some st, _ => s.tableDone die w.seq st (s.hotFld die)
        | none, none => s.startMigrate die w
        | none, some _ => s) s

/-- The state of a migration's copy: still waiting for a peer or the host, or done, faulted or not, with its bytes. -/
def State.migrateOutcome (s : State) (die : Nat) (w : TWait) : Option (Bool × List Byte) :=
  let base := s.oldPage die w
  if !lfV w.old.toNat || s.leafBad w.old.toNat true then some (true, [])
  else if isRemote base then
    (s.engReqs.find? (fun r => r.places.head? == some base)).bind (fun r =>
      if r.refused then some (true, []) else if r.got then some (false, r.data) else none)
  else some (s.poison.any (inPage base), s.bytes base 65536)

/-- MIGRATE_COPY_COMPLETE (R379 steps 3 and 4): the page is mapped to its new frame and the old one returns; a copy fault leaves the old entry. -/
def execMigrateCopyComplete (die : Nat) (faulted : Bool) (s : State) : Out :=
  act (fun s =>
    match (s.die die).twait with
    | some { till := till, seq := seq, page := page, status := none, old := old, target := tg, frame := some f } =>
      let w : TWait := { till := till, seq := seq, page := page, status := none, old := old, target := tg, frame := some f }
      match s.migrateOutcome die w with
      | none => s
      | some (bad, data) =>
        let base := s.oldPage die w
        let s : State := { s with engReqs := s.engReqs.filter (fun r => r.places.head? != some base) }
        if bad || faulted then
          ((s.modDie tg (fun x => { x with pools := { x.pools with used := x.pools.used.filter (fun g => g != f) } })).restoreW w).tableDone die seq 5 (s.hotFld die)
        else
          let new := natSetBits (natSetBits (natSetBits old.toNat 1 3 (if tg = die then 0 else 1)) 8 32
            (if tg = die then f else f + tg * 2 ^ 21)) 5 1 0
          let s := s.homeWrites ((run (canopyP tg (f * 65536)) 65536).zip data)
          let s := s.eachLeaf (capObj page) (capOfs page / 65536) (fun c _ => leafFor die c new)
          (s.tableDone die seq 0 (s.hotFld die)).giveBack (leafHeld die old.toNat)
    | _ => s) s

/-! ### Cached descriptors and leaf entries (R372, R373) -/

/-- The lease of a class from this cycle. An entry whose class the tables do not give, absent or reserved, is kept 1,024 cycles, the shortest length of R372. (DESIGN CHOICE, log 93.) -/
def State.leaseTill (s : State) (k : Nat) : Nat :=
  match s.leaseExp k with
  | some e => s.cycle + 2 ^ (10 + e)
  | none => s.cycle + 1024

/-- The descriptor that a core fills from its die's copy. A core whose cache holds 256 gives up the oldest fill: the spec gives no replacement rule (DESIGN CHOICE, log 119). -/
def State.fillDesc (s : State) (core obj : Nat) : State :=
  let d : CDesc := match s.readDesc (dieOf core) obj with
    | some w => { obj := obj, valid := true, extent := dExtent w, rights := dRights w, leafofs := dLeafofs w, till := s.leaseTill (dLease w) }
    | none => { obj := obj, valid := false, extent := 0, rights := 0, leafofs := 0, till := s.cycle + 1024 }
  s.modCore core (fun x =>
    let rest := x.dcache.filter (fun e => e.obj != obj)
    { x with dcache := (if 256 ≤ rest.length then rest.drop 1 else rest) ++ [d] })

/-- The leaf entry that a port fills from its die's copy. -/
def State.fillLeaf (s : State) (die obj page : Nat) : State :=
  let w := s.leafWord die obj page
  s.modDie die (fun x =>
    let rest := x.lcache.filter (fun e => !(e.obj == obj && e.page == page))
    { x with lcache := (if 4096 ≤ rest.length then rest.drop 1 else rest) ++
        [{ obj := obj, page := page, word := BitVec.ofNat 64 w, till := s.leaseTill (lfLease w) }] })

/-- The wait is for a table entry. -/
def Wait.isMiss (w : Wait) (e : LeaseAt) : Bool :=
  match w.kind with
  | .miss x => x == e
  | _ => false

/-- TRANSLATION_FILL (R373): the entry is read from the die's copy, and the accesses that waited for it are tried again. -/
def execTranslationFill (e : LeaseAt) (s : State) : Out :=
  act (fun s =>
    if s.ctxs.any (fun c => c.2.waits.any (fun w => w.isMiss e)) then
      let s := match e with
        | .desc core obj => s.fillDesc core obj
        | .leaf die obj page => s.fillLeaf die obj page
      { s with ctxs := s.ctxs.map (fun c =>
          (c.1, (c.2.waits.filter (fun w => w.isMiss e)).foldl (fun x w => x.wake w.wid) c.2)) }
    else s) s

/-- LEASE_EXPIRY (R373): a cached entry is dropped at the end of its lease. -/
def execLeaseExpiry (e : LeaseAt) (s : State) : Out :=
  act (fun s =>
    match e with
    | .desc core obj => s.modCore core (fun x => { x with dcache := x.dcache.filter (fun d => !(d.obj == obj && decide (d.till < s.cycle))) })
    | .leaf die obj page => s.modDie die (fun x => { x with lcache := x.lcache.filter (fun l =>
        !(l.obj == obj && l.page == page && decide (l.till < s.cycle))) })) s

end Sys2Proof.Machine
end

