-- ==== Sys2Proof/Machine/Residency.lean ====
section
/-! DEFINITION. Expert residency: EXACQ, EXREL, EXPIN (R212-R218), fills and evictions (R382-R385). -/

namespace Sys2Proof.Machine

/-- A residency entry (R382). -/
def State.residOf (s : State) (e : Nat) : Resid := (sGet s.resid e).getD {}

/-- A residency entry changes. -/
def State.modResid (s : State) (e : Nat) (f : Resid → Resid) : State := { s with resid := sPut s.resid e (f (s.residOf e)) }

/-- Resident or pinned. -/
def Resid.ready (r : Resid) : Bool := decide (r.state = 2 ∨ r.state = 3)

/-! ### Fills and evictions (R383, R384) -/

/-- Frames that the weights of an entry need (R383). -/
def State.residNeed (s : State) (r : Resid) : Nat :=
  match s.readDesc r.wdie r.wobj with
  | none => 0
  | some w => cdiv (dExtent w) 65536

/-- The weight object's pages are mapped to frames of a die, V and W set (R383). -/
def State.mapWeights (s : State) (obj die : Nat) (fs : List Nat) : State :=
  fs.zipIdx.foldl (fun s x => s.eachLeaf obj x.2 (fun c w =>
    leafFor die c (natSetBits (natSetBits (natSetBits (natSetBits w 0 1 1) 4 1 1) 1 3 0) 8 32 x.1))) s

/-- The weight object's pages are unmapped in every copy (R385). -/
def State.unmapWeights (s : State) (r : Resid) : State :=
  (List.range r.frames.length).foldl (fun s i => s.eachLeaf r.wobj i (fun _ w => natSetBits w 0 1 0)) s

/-- The fill chain of a die, served by copy engine 7 (R383). -/
def State.fillChain (s : State) (die : Nat) : State :=
  if s.chains.any (fun c => c.fill && c.die == die) then s
  else { s with chains := s.chains ++ [{ ccb := 0, die := die, eng := 7, fill := true }] }

/-- Copies of an entry's templates join its die's fill chain (R383). -/
def State.pushTemplates (s : State) (e : Nat) (r : Resid) : State :=
  (List.range (r.nt + 1)).foldl (fun s k =>
    let c := capAdd r.tmpl (128 * k)
    let bytes := if capOfs c % 128 = 0 then (s.unitRead r.wdie c 128).getD [] else []
    { s with chains := s.chains.map (fun ch =>
        if ch.fill && ch.die == r.wdie then
          let last := ch.cmds.foldl (fun a h => max a h.seq) ch.taken
          { ch with cmds := ch.cmds ++ [{ seq := last + 1, entry := c, copy := some bytes, owner := e }] }
        else ch) }) (s.fillChain r.wdie)

/-- The oldest fill of a die that has no frames yet (R383). -/
def State.waitingFill (s : State) (die : Nat) : Option (Nat × Resid) :=
  (s.resid.filter (fun x => x.2.state == 1 && !x.2.mapped && x.2.wdie == die)).foldl (fun (a : Option (Nat × Resid)) x => match a with
    | none => some x
    | some y => if x.2.fillNo < y.2.fillNo then some x else some y) none

/-- The entry that is evicted next on a die: resident, unreferenced, the smallest STAMP, then the lowest index (R384). -/
def State.victimEntry (s : State) (die : Nat) : Option (Nat × Resid) :=
  (s.resid.filter (fun x => x.2.state == 2 && x.2.refs == 0 && x.2.wdie == die)).foldl (fun (a : Option (Nat × Resid)) x => match a with
    | none => some x
    | some y => if x.2.stamp < y.2.stamp ∨ (x.2.stamp = y.2.stamp ∧ x.1 < y.1) then some x else some y) none

/-- Frames of a die's budget that are free, or will be once evictions and returns in progress end. -/
def State.comingFrames (s : State) (die : Nat) : Nat :=
  (s.die die).pools.res.length + (s.die die).pools.resBack.length
    + (s.resid.filter (fun x => x.2.state == 4 && x.2.wdie == die)).foldl (fun a x => a + x.2.frames.length) 0

/-- Evictions start until enough frames are free or on their way, `n` at most (R383, R384). -/
def evictFor : Nat → State → Nat → Nat → State
  | 0, s, _, _ => s
  | n + 1, s, die, need =>
    if need ≤ s.comingFrames die then s
    else match s.victimEntry die with
      | none => s
      | some (e, r) =>
        evictFor n ((s.unmapWeights r).modResid e (fun r => { r with state := 4, evictAt := s.cycle + s.lmax })) die need

/-- Frames that the waiting fills of a die need. -/
def State.fillNeed (s : State) (die : Nat) : Nat :=
  (s.resid.filter (fun x => x.2.state == 1 && !x.2.mapped && x.2.wdie == die)).foldl (fun a x => a + s.residNeed x.2) 0

/-- The oldest waiting fill of a die takes its frames and maps them; evictions start for what the waiting fills lack (R383, R384). -/
def State.pumpFill (s : State) (die : Nat) : State :=
  match s.waitingFill die with
  | none => s
  | some (e, r) =>
    let n := s.residNeed r
    let have_ := (s.die die).pools.res
    if n ≤ have_.length then
      let fs := have_.take n
      let s := s.modDie die (fun x => { x with pools := { x.pools with res := have_.drop n } })
      let s := s.mapWeights r.wobj die fs
      (s.modResid e (fun r => { r with mapped := true, frames := fs })).pushTemplates e r
    else evictFor s.resid.length s die (s.fillNeed die)

/-- The fill of an entry starts (R383, R385). -/
def State.startFill (s : State) (e : Nat) : State :=
  let s := s.modResid e (fun r => { r with
    state := 1, err := false, refill := false, mapped := false, frames := [], filled := 0, bad := false, fillNo := s.fillNo })
  ({ s with fillNo := s.fillNo + 1 } : State).pumpFill (s.residOf e).wdie

/-- EXPERT_FILL_COMPLETE (R385): the last template has completed. -/
def execExpertFillComplete (e : Nat) (s : State) : Out :=
  act (fun s =>
    let r := s.residOf e
    if r.state = 1 && r.mapped && !r.bad && decide (r.nt + 1 ≤ r.filled) then s.modResid e (fun r => { r with state := 2 }) else s) s

/-- EXPERT_FILL_FAULT (R383, R385): the weights are unmapped, the frames return, ERR is set. -/
def execExpertFillFault (e : Nat) (s : State) : Out :=
  act (fun s =>
    let r := s.residOf e
    if r.state = 1 && r.bad then
      let s := s.unmapWeights r
      let s := s.modDie r.wdie (fun x => { x with pools := { x.pools with
        resBack := x.pools.resBack ++ r.frames.map (fun f => (f, s.cycle + s.lmax)) } })
      s.modResid e (fun r => { r with state := 0, err := true, frames := [], mapped := false })
    else s) s

/-- EVICTION_END (R385): Lmax after the unmap the frames return to the budget, once no store or load that a pin has refused is left in them (R279, R381); a refill starts. -/
def execEvictionEnd (e : Nat) (s : State) : Out :=
  act (fun s =>
    let r := s.residOf e
    if r.state = 4 && decide (r.evictAt < s.cycle) then
      let s := r.frames.foldl (fun s f => s.drainPage (canopyP r.wdie (f * 65536))) s
      if !r.frames.all (fun f => s.pageIdle (canopyP r.wdie (f * 65536))) then s
      else
      let s := r.frames.foldl (fun s f => s.clearFrame r.wdie f) s
      let s := s.modDie r.wdie (fun x => { x with pools := { x.pools with res := x.pools.res ++ r.frames } })
      let s := s.modResid e (fun r => { r with state := 0, refill := false, frames := [], mapped := false })
      if r.refill && decide (0 < r.refs) then s.startFill e else s.pumpFill r.wdie
    else s) s

/-! ### EXACQ, EXREL, EXPIN (R212-R217) -/

/-- A residency instruction: once for each home wheel, with the fault of R212; it ends a speculative run (R216). -/
def residOp (h : Head) (a : Src) (cause : State → List Nat → Nat → Option Nat) (f : Site → Lane → Nat → State → State) : State → State :=
  onBeat h (fun e s =>
    match e.lanes, e.c.run with
    | [], _ => s
    | _, some slot => s.discardRun slot 1
    | _, none =>
      (wheelsOf e.lanes).foldl (fun s l =>
        let i := readSrc l 1 a
        let held := ((sGet s.ctxs e.b.ctx).map (fun c => c.held)).getD []
        match (if 4096 ≤ i then some 1 else cause s held i) with
        | some k => s.beatFault e.b true ((e.hit true l).map (fun x =>
            { tid := x.t.tid, cls := 0x0F, cause := k, info := BitVec.ofNat 64 i }))
        | none => f e l i s) s)

/-- EXACQ's registers, and the acquire of a ready entry (R213). -/
def State.exacqEnd (s : State) (ctx : Nat) (c : Ctx) (wheel core e d : Nat) (took started : Bool) : State :=
  let r := s.residOf e
  let cap := if r.ready then (mkCap r.wobj 0).toNat else 0
  let ws := natWords 2 cap ++ [BitVec.ofNat 32 (r.state + bitN took 8 + bitN started 9), 0]
  let s := s.modCtx ctx (fun c => c.modW wheel (fun w =>
    { (w.put d ws []) with pend := w.pend.filter (fun p => !(p.use == .s d 4 && p.due.isNone)) }))
  s.acquireIf r.ready c core .dev

/-- The block takes a reference if it does not hold the entry: whether it took one, and whether a fill has started (R213, R385). -/
def State.exacqTake (s : State) (ctx i : Nat) (held : List Nat) : Bool × Bool × State :=
  let s := s.modResid i (fun r => { r with stamp := s.stampNow })
  if held.contains i then (false, false, s)
  else
    let st := (s.residOf i).state
    let s := s.modResid i (fun r => { r with refs := r.refs + 1, refill := r.refill || st == 4 })
    let s := s.modCtx ctx (fun c => { c with held := c.held ++ [i] })
    if st = 0 then (true, true, s.startFill i) else (true, false, s)

/-- The pending write of a suspended EXACQ (R85). -/
def exacqPend (d tag : Nat) : List Pend := if d = 255 then [] else [{ use := .s d 4, due := none, tag := tag }]

/-- EXACQ (R213); its S registers are pending while its beat is suspended (R85). -/
def execExacq (h : Head) (nw : Bool) (d : BitVec 8) (a : Src) (s : State) : Out :=
  act (residOp h a
    (fun s held i =>
      if 64 ≤ held.length then some 2
      else if !held.contains i && decide (65535 ≤ (s.residOf i).refs) then some 3 else none)
    (fun e l i s =>
      let held := ((sGet s.ctxs e.b.ctx).map (fun c => c.held)).getD []
      let (took, started, s) := s.exacqTake e.b.ctx i held
      if nw || (s.residOf i).ready then s.exacqEnd e.b.ctx e.c l.w.idx l.w.core i d.toNat took started
      else
        let (tag, s) := s.newTag
        let s := s.modCtx e.b.ctx (fun c => c.modW l.w.idx (fun w => { w with pend := w.pend ++ exacqPend d.toNat tag }))
        s.suspend e.b.ctx ((e.hit true l).map (fun x => x.t.tid)) (.exacq i d.toNat took started)
          (some (s.cycle + (s.die (dieOf l.w.core)).waitiv)))) s

/-- The end of an EXACQ's wait (R213). -/
def State.exacqWake (s : State) (ctx : Nat) (c : Ctx) (w : Wait) (i d : Nat) (took started : Bool) : State :=
  let s := match (c.lanes w.tids).head? with
    | some l => s.exacqEnd ctx c l.w.idx l.w.core i d took started
    | none => s
  s.modCtx ctx (fun c => c.wake w.wid)

/-- EXACQ_ENTRY_READY (R213). -/
def execExacqEntryReady (ctx wid : Nat) (s : State) : Out :=
  act (fun s =>
    match sGet s.ctxs ctx with
    | none => s
    | some c =>
      match c.waitOf wid with
      | some w =>
        match w.kind with
        | .exacq i d took started => if (s.residOf i).ready then s.exacqWake ctx c w i d took started else s
        | _ => s
      | none => s) s

/-- EXREL (R214, R217). -/
def execExrel (h : Head) (a : Src) (s : State) : Out :=
  act (residOp h a (fun _ held i => if held.contains i then none else some 4)
    (fun e _ i s => ((s.dropRef i).modCtx e.b.ctx (fun c => { c with held := c.held.filter (fun x => x != i) })))) s

/-- EXPIN (R215). -/
def execExpin (h : Head) (unpin : Bool) (a : Src) (s : State) : Out :=
  act (residOp h a
    (fun s held i => if !held.contains i then some 4 else if (s.residOf i).ready then none else some 5)
    (fun _ _ i s => s.modResid i (fun r => { r with state := if unpin then 2 else 3 }))) s

end Sys2Proof.Machine
end

