-- ==== Sys2Proof/Machine/Tasks.lean ====
section
/-! DEFINITION. Tasks and graphs: TSPAWN, GRUN and CANCEL (R243-R246), graph tables and instances (R328, R330), the end of a block and the retirement of a task (R206, R318, R324, R327). -/

namespace Sys2Proof.Machine

/-! ### Launches that end (R318, R320, R324) -/

/-- A change to a live launch. -/
def State.modLaunch (s : State) (n : Nat) (f : Launch → Launch) : State :=
  { s with launches := s.launches.map (fun l => if l.no = n then f l else l) }

/-- A launch whose blocks and tasks have all ended completes: its writes are released at domain scope and acknowledged, those of its grid operations too, its count is decremented, its command completes and a claimed slot is free (R278, R318, R320, R363). A cancelled one, whose counts are retracted, completes with CODE 4. -/
def State.endLaunch (s : State) (n : Nat) : State :=
  match s.launches.find? (fun l => l.no == n) with
  | none => s
  | some l =>
    if l.units ≠ 0 then s
    else
      let s := s.releaseAll
      if !s.allReleased false || s.owesGrid (fun c => c.launch == n && c.graph.isNone) then s
      else
      let s := if l.cancelled then s else s.issueUpd 0 { upd := { loc := l.cmd.loc, time := l.cmd.ltime, delta := -1 }, owner := some (.launch n) }
      let s : State := { s with launches := s.launches.filter (fun x => x.no != n) }
      let s := match l.slot with
        | none => s
        | some k => (s.modSlot k (fun _ => {})).freeShadow k
      s.completeCmd l.queue l.seq 0 (if l.cancelled then 4 else 0) 0 n

/-- Launches whose release waits are looked at again. -/
def State.endLaunches (s : State) : State :=
  (s.launches.filter (fun l => l.units == 0)).foldl (fun s l => retryPins (fun s => s.endLaunch l.no) s) s

/-- A block or task of a launch has ended. -/
def State.countDown (s : State) (n : Nat) (block : Option Nat) : State :=
  (s.modLaunch n (fun l => { l with units := l.units - 1, ended := l.ended ++ block.toList })).endLaunch n

/-! ### Task records and queues (R325-R327) -/

/-- A task record of 64 bytes. -/
def taskOf (e : List Byte) : Task :=
  { entry := fldCap e 0, args := fldCap e 8, tile := BitVec.ofNat 64 (fld e 16 8), succ := fldCap e 24
    time := BitVec.ofNat 64 (fld e 32 8), loc := fld e 40 2, flags := fld e 42 2, gen := fld e 44 4 }

/-- The 64 bytes of a task record (R325). -/
def Task.bytes (t : Task) : List Byte :=
  natBytes 8 t.entry.toNat ++ natBytes 8 t.args.toNat ++ natBytes 8 t.tile.toNat ++ natBytes 8 t.succ.toNat ++ natBytes 8 t.time.toNat
    ++ natBytes 2 t.loc ++ natBytes 2 t.flags ++ natBytes 4 t.gen ++ natBytes 16 0

/-- A reserved bit of a program's record is not 0, or it has GRAPH (R326). -/
def taskBad (e : List Byte) : Bool := decide (512 ≤ fld e 42 2) || natBits (fld e 42 2) 5 1 == 1 || fld e 48 16 != 0

/-- A task joins the queue of a die, which holds a copy of its record, its pair counted as TMINC counts it, on behalf of its owner (R243, R327, R337). -/
def State.spawnTask (s : State) (die : Nat) (t : Task) (wheel : Option (Nat × Nat)) (count : Bool)
    (site : Option (Nat × Nat × Cap × (Word × Word × Word)) := none) : State :=
  let (k, s) := s.fresh
  let s := if count then
      s.issueUpd die { upd := { loc := t.loc, time := t.time, delta := 1 }, owner := some t.owner, wheel := wheel, site := site }
    else s
  let s := s.homeWrites ((run (taskP k 0) 64).zip t.bytes)
  s.modDie die (fun d => { d with tasks := d.tasks ++ [{ t with cap := Config.taskCap k, copy := k, spawned := s.cycle }] })

/-- The checks of a lane's record (R238, R325, R326): a record fault, or the entry's access. -/
def State.taskRes (s : State) (core : Nat) (e : List Byte) : Res :=
  let t := taskOf e
  let bad := fun (k : Nat) => Res.bad 0x12 k t.time (BitVec.ofNat 64 t.loc)
  if taskBad e then bad 1
  else match s.timeCause t.loc t.time.toNat with
    | some k => bad k
    | none => s.target core (capObj t.entry) (capOfs t.entry)

/-- TSPAWN (R243). -/
def execTspawn (h : Head) (a : Src) (s : State) : Out :=
  act (onBeat h (fun e s =>
    match e.lanes, e.c.run with
    | [], _ => s
    | _, some slot => s.discardRun slot 1
    | _, none =>
      let w : Want := { sp := .g, n := 64, align := 64, need := 1, lock := false }
      let accs := e.lanes.map (fun l => { l := l, r := s.pinCheck l.w.core false (s.access e l w a 0) : Acc })
      s.gate e false true accs (fun oks s => s.withBytes e h.pol.toNat oks (fun s =>
        let s := oks.foldl (fun s x => (s.lookQueue e.b.ctx x.1.w.idx [x.1.t.tid] x.2).fillFor x.1.w.core h.pol.toNat x.2) s
        let xs := oks.map (fun x =>
          let bs := held (s.laneBytes e.b.ctx x.1 x.2)
          (x.1, bs, s.taskRes x.1.w.core bs))
        let die := dieOf e.b.core
        match xs.findSome? (fun x => x.2.2.waits) with
        | some k => s.hold e.b k
        | none =>
          let good := xs.filter (fun x => !x.2.2.isBad)
          if 65536 < (s.die die).tasks.length + good.length then s.hold e.b .retry
          else
            let s := good.foldl (fun s x =>
              let t := taskOf x.2.1
              (s.spawnTask die { t with flags := t.flags % 32 + 64 * e.c.prio, prio := e.c.prio, launch := e.c.launch
                                        phase := e.c.phase, owner := .unit e.b.ctx } (some (e.b.ctx, x.1.w.idx)) true
                (some (x.1.w.core, x.1.w.quarter, e.b.pc, e.b.words))).modLaunch
                e.c.launch (fun l => { l with units := l.units + 1 })) s
            s.beatFault e.b false (xs.flatMap (fun x => x.2.2.fault x.1.t.tid)))))) s

/-! ### Graph tables (R328, R330) -/

/-! #### Reads and writes of the graph engine and the command unit (R244, R327, R446)

An instance or a table may lie behind a peer's or the host's aperture: its bytes are asked for, used once they are all there, and then forgotten. -/

/-- What a unit of a die reads at a capability, on this device or behind an aperture, once it is there; else the class and cause of its fault (R371, R374, R440). -/
def State.graphBytes (s : State) (die : Nat) (c : Cap) (n : Nat) : Except (Nat × Nat) (List Byte) :=
  match s.unitSrc die c n with
  | .error k => .error k
  | .ok _ =>
    match s.farBytes die c n with
    | some bs => .ok bs
    | none => .error (0x0B, 4)

/-- A number that a unit of a die writes at a capability; the answers that it holds of a peer or the host follow. -/
def State.farSet (s : State) (die : Nat) (c : Cap) (n v : Nat) : State :=
  match s.unitRange die c n 2 true false with
  | .error _ => s
  | .ok ps =>
    let cells := ps.zip (natBytes n v)
    let s := (s.unitCells die cells).2
    if ps.any isRemote then
      { s with engReqs := s.engReqs.map (fun r => { r with data := (r.places.zip r.data).map (fun x => (sGet cells x.1).getD x.2) }) }
    else s

/-- Some of a unit's reads waits for a peer or the host. -/
def State.readsWait (s : State) (die : Nat) (rs : List (Cap × Nat)) : Bool := rs.any (fun r => s.farWaits die r.1 r.2)

/-- What a unit's reads lack is asked for. -/
def State.askReads (s : State) (die : Nat) (rs : List (Cap × Nat)) : State := rs.foldl (fun s r => s.askFor die r.1 r.2) s

/-- The answers to a unit's reads are forgotten. -/
def State.dropReads (s : State) (die : Nat) (rs : List (Cap × Nat)) : State := rs.foldl (fun s r => s.dropFar die r.1 r.2) s

/-- A node of a graph table. -/
structure Node where
  entry : Cap
  args : Cap
  tile : BitVec 64
  loc : Nat
  wu : Nat
  preds : Nat
  ns : Nat
  sofs : Nat
  /-- The reserved bits of FLAGS and bytes are 0. -/
  clean : Bool := true
  deriving DecidableEq, Repr

/-- A node of its 48 bytes. -/
def nodeOf (e : List Byte) : Node :=
  { entry := fldCap e 0, args := fldCap e 8, tile := BitVec.ofNat 64 (fld e 16 8), loc := fld e 24 2, wu := fld e 26 2 % 32
    preds := fld e 28 2, ns := fld e 30 2, sofs := fld e 32 4, clean := decide (fld e 26 2 < 32) && fld e 36 12 == 0 }

/-- The nodes of a graph table as a die reads them; the class and cause of R392 when it cannot. -/
def State.nodes (s : State) (die : Nat) (tbl : Cap) : Except (Nat × Nat) (List Node) :=
  match s.graphBytes die tbl 16 with
  | .error k => .error k
  | .ok h =>
    let n := fld h 0 2
    match s.graphBytes die (capAdd tbl 16) (48 * n) with
    | .error k => .error k
    | .ok bs => .ok ((List.range n).map (fun i => nodeOf ((bs.drop (48 * i)).take 48)))

/-- GEN of an instance. -/
def State.instGen (s : State) (die : Nat) (i : Cap) : Nat :=
  match s.graphBytes die i 16 with
  | .ok h => fld h 8 2
  | .error _ => 0

/-- The nodes of the table that an instance names; else the class and cause of R392 and the address of the read that failed. -/
def State.instNodes (s : State) (die : Nat) (i : Cap) : Except (Nat × Nat × Cap) (List Node) :=
  match s.graphBytes die i 16 with
  | .error k => .error (k.1, k.2, i)
  | .ok h =>
    match s.nodes die (fldCap h 0) with
    | .error k => .error (k.1, k.2, fldCap h 0)
    | .ok ns => .ok ns

/-- What a start of an instance reads, each part as soon as the parts before it name it: the instance's head, its table's head and entries (R244, R328, R330). -/
def State.graphReads (s : State) (die : Nat) (i : Cap) : List (Cap × Nat) :=
  (i, 16) :: (match s.graphBytes die i 16 with
    | .error _ => []
    | .ok h => (fldCap h 0, 16) :: (match s.graphBytes die (fldCap h 0) 16 with
      | .error _ => []
      | .ok x => [(capAdd (fldCap h 0) 16, 48 * fld x 0 2)]))

/-- Tasks outstanding in GEN, shown in the instance (R330); behind an aperture GEN is that of the generation started last (DEDUCED, log 111). -/
def State.showTasks (s : State) (die : Nat) (i : Cap) (gen : Nat) : State :=
  let n := ((s.graphs.find? (fun g => g.inst == i && g.gen == gen)).map (fun g => g.tasks)).getD 0
  match s.graphBytes die i 16 with
  | .ok h => if fld h 8 2 = gen ∧ fld h 12 4 ≠ n then s.farSet die (capAdd i 12) 4 n else s
  | .error _ =>
    if s.farWaits die i 16 && ((s.graphs.filter (fun g => g.inst == i)).getLast?.map (fun g => g.gen)) == some gen then s.farSet die (capAdd i 12) 4 n
    else s

/-- A task of a node (R327, R330). -/
def nodeTask (i : Cap) (n : Nat) (x : Node) (time : BitVec 64) (gen prio launch phase : Nat) (start : Bool) : Task :=
  { entry := x.entry, args := x.args, tile := x.tile, start := start, succ := capAdd i (32 + 4 * n), time := time, loc := x.loc
    flags := x.wu + 32 + 64 * prio, gen := gen, prio := prio, launch := launch, phase := phase, owner := .graph i gen }

/-- The start nodes of a table: indices and nodes with predecessor count 0 (R244). -/
def startNodes (ns : List Node) : List (Nat × Node) :=
  ((List.range ns.length).zip ns).filter (fun x => x.2.preds == 0)

/-- INFO of a fault of class 0x03 or 0x0B of a unit's read of `n` bytes: the access size, or the leaf entry (R392). -/
def State.readInfo (s : State) (die cls : Nat) (c : Cap) (n : Nat) : BitVec 64 :=
  if cls = 0x0B then (match s.readDesc die (capObj c) with
    | some w => BitVec.ofNat 64 (s.num (s.leafP die (dLeafofs w) (capOfs c / 65536)) 8)
    | none => 0)
  else BitVec.ofNat 64 n

/-- The checks of a node's record by the graph engine of a die (R74, R238, R325, R326): class and cause, ADDR and INFO of R392 of the fault; the entry's offset is a multiple of 12 and its 12 bytes may be executed. -/
def State.nodeCause (s : State) (die : Nat) (x : Node) (t : Nat) : Option (Nat × Nat × BitVec 64 × BitVec 64) :=
  if !x.clean then some (0x12, 1, BitVec.ofNat 64 t, BitVec.ofNat 64 x.loc)
  else match s.timeCause x.loc t with
    | some k => some (0x12, k, BitVec.ofNat 64 t, BitVec.ofNat 64 x.loc)
    | none =>
      match r63 (s.readDesc die (capObj x.entry)) (capObj x.entry) (capOfs x.entry) 12 4 with
      | some k => some (3, k, x.entry, 12)
      | none => if capOfs x.entry % 12 ≠ 0 then some (0x0E, 1, x.entry, 0) else none

/-- The fault of a start time or a record at the start nodes (R238, R244, R325); a graph without start nodes names no location, and INFO is 0. -/
def State.startCause (s : State) (die : Nat) (ns : List Node) (t : Nat) : Option (Nat × Nat × BitVec 64 × BitVec 64) :=
  if (startNodes ns).isEmpty then (if tBad t then some (0x12, 1, BitVec.ofNat 64 t, 0) else none)
  else (startNodes ns).findSome? (fun x => s.nodeCause die x.2 t)

/-- Start tasks that wait join their die's queue as it has room (R243, R317). -/
def State.spawnWaiting (s : State) (die : Nat) (i : Cap) (gen : Nat) : State :=
  match s.graphs.find? (fun g => g.inst == i && g.gen == gen) with
  | none => s
  | some g =>
    let ts := g.waiting.take (65536 - (s.die die).tasks.length)
    let s : State := { s with graphs := s.graphs.map (fun x =>
      if x.inst = i ∧ x.gen = gen then { x with waiting := x.waiting.drop ts.length } else x) }
    ts.foldl (fun s t => s.spawnTask die t none true) s

/-- Start tasks of the command unit's graph runs join die 0's queue, and every instance shows its count of tasks (R317, R330). -/
def State.pumpGraphs (s : State) : State :=
  let s := (s.graphs.filter (fun g => !g.waiting.isEmpty)).foldl (fun s g => s.spawnWaiting 0 g.inst g.gen) s
  s.insts.foldl (fun s i => if s.farWaits 0 i 16 then s else s.showTasks 0 i (s.instGen 0 i)) s

/-- A generation of an instance starts on a die: GEN rises, its start tasks are spawned, or wait for room (R244, R317, R330). -/
def State.runGraph (s : State) (die : Nat) (i : Cap) (ns : List Node) (t : BitVec 64) (prio launch phase : Nat)
    (seq : Option (Nat × Nat)) : Nat × State :=
  let gen := (s.instGen die i + 1) % 65536
  let st := startNodes ns
  let s := s.farSet die (capAdd i 8) 2 gen
  let g : Graph := { inst := i, gen := gen, phase := phase, prio := prio, tasks := st.length, launch := launch, seq := seq
                     waiting := st.map (fun x => nodeTask i x.1 x.2 t gen prio launch phase true) }
  let s : State := { s with
    graphs := s.graphs ++ [g]
    insts := if s.insts.contains i then s.insts else s.insts ++ [i] }
  (gen, (s.spawnWaiting die i gen).showTasks die i gen)

/-- A generation with no task left completes (R320, R324). -/
def State.endGraph (s : State) (i : Cap) (gen : Nat) : State :=
  match s.graphs.find? (fun g => g.inst == i && g.gen == gen) with
  | none => s
  | some g =>
    if g.tasks ≠ 0 then s
    else
      let s : State := { s with graphs := s.graphs.filter (fun x => !(x.inst == i && x.gen == gen)) }
      match g.seq with
      | none => s
      | some (q, n) => s.completeCmd q n 0 (if g.cancelled then 4 else 0) 0 gen

/-- GRUN once for each home wheel (R244). -/
def execGrun (h : Head) (d : Dst) (a b : Src) (s : State) : Out :=
  act (onBeat h (fun e s =>
    match e.lanes, e.c.run with
    | [], _ => s
    | _, some slot => s.discardRun slot 1
    | _, none =>
      let w : Want := { sp := .g, n := 32, align := 8192, need := 3, write := true }
      let accs := (e.actors true).map (fun l => { l := l, r := s.pinCheck l.w.core true (s.access e l w a 0) : Acc })
      s.gate e true false accs (fun oks s =>
        let die := dieOf e.b.core
        s.drainGate e true (fun s =>
        let s := oks.foldl (fun s x => s.dropLines (e.issuer [x.1.t.tid]) x.1.w.core x.2) s
        let xs := oks.map (fun x =>
          let i := accessCap x.1 .g a 0
          (x.1, i, s.instNodes die i, readSrc x.1 2 b))
        let reads := xs.flatMap (fun x => s.graphReads die x.2.1)
        let fault := fun (x : Lane × Cap × Except (Nat × Nat × Cap) (List Node) × Nat) =>
          match x.2.2.1 with
          | .error k => some (k.1, k.2.1, k.2.2, s.readInfo die k.1 k.2.2 16)
          | .ok ns => s.startCause die ns x.2.2.2
        let good := xs.filter (fun x => (fault x).isNone)
        let new := good.foldl (fun n x => match x.2.2.1 with
          | .ok ns => n + (startNodes ns).length
          | .error _ => n) 0
        let live := (s.graphs.map (fun g => g.inst) ++ good.map (fun x => x.2.1)).dedup
        if s.readsWait die reads then (s.askReads die reads).hold e.b .retry
        else if 256 < live.length ∨ 65536 < (s.die die).tasks.length + new then s.hold e.b .retry
        else
          let s := good.foldl (fun s x =>
            match x.2.2.1 with
            | .error _ => s
            | .ok ns =>
              let (gen, s) := s.runGraph die x.2.1 ns (BitVec.ofNat 64 x.2.2.2) e.c.prio e.c.launch e.c.phase none
              let s := match d with
                | .s r => s.putD e.b.ctx true x.1 r.toNat [BitVec.ofNat 32 gen] (mkPend s (.s r.toNat 1) 0)
                | .v r => (e.hit true x.1).foldl (fun s l => s.putD e.b.ctx false l r.toNat [BitVec.ofNat 32 gen] (mkPend s (.v r.toNat 1) 0)) s
              s.endGraph x.2.1 gen) s
          (s.dropReads die reads).beatFault e.b true (xs.flatMap (fun x => match fault x with
            | none => []
            | some k => (e.hit true x.1).map (fun l => { tid := l.t.tid, cls := k.1, cause := k.2.1, addr := k.2.2.1, info := k.2.2.2 }))))))) s

/-! ### Retirement (R327) -/

/-- The walk of a retiring task's successors: counters, the tasks that become ready, and whether a time or a record faulted. (DESIGN CHOICE, log 102: a record that fails its checks poisons the instance as a TADV fault does.) -/
def State.walk (s : State) (die : Nat) (t : Task) (inst : Cap) (ns : List Node) (prio phase launch : Nat) :
    List Nat → List Task → State × List Task × Bool
  | [], acc => (s, acc, false)
  | k :: ks, acc =>
    match ns[k]? with
    | none => State.walk s die t inst ns prio phase launch ks acc
    | some x =>
      let c := capAdd inst (32 + 4 * k)
      let w := match s.graphBytes die c 4 with
        | .ok bs => bytesNat bs
        | .error _ => 0
      let rem := if w / 65536 ≠ t.gen % 65536 then x.preds else w % 65536
      let left := (rem + 65535) % 65536
      let s := s.farSet die c 4 (t.gen % 65536 * 65536 + left)
      if left ≠ 0 then State.walk s die t inst ns prio phase launch ks acc
      else
        let u := if x.loc = t.loc then t.time.toNat else tadvValue (s.psum die t.loc x.loc) t.time.toNat
        let ok := (x.loc = t.loc ∨ tadvCause (s.psum die t.loc x.loc) t.time.toNat = none) ∧ s.nodeCause die x u = none
        if ok then State.walk s die t inst ns prio phase launch ks (acc ++ [nodeTask inst k x (BitVec.ofNat 64 u) t.gen prio launch phase false])
        else (s, acc, true)

/-- Successor indices of a node. -/
def State.succs (s : State) (die : Nat) (tbl : Cap) (x : Node) : List Nat :=
  match s.graphBytes die (capAdd tbl x.sofs) (2 * x.ns) with
  | .error _ => []
  | .ok bs => (List.range x.ns).map (fun i => fld bs (2 * i) 2)

/-- The successors of a task's node in its instance's table; none when they cannot be read (R327). -/
def State.taskSuccs (s : State) (die : Nat) (t : Task) : List Node × List Nat :=
  match s.graphBytes die t.inst 16, s.instNodes die t.inst with
  | .ok h, .ok ns => (ns, match ns[(capOfs t.succ % 8192 - 32) / 4]? with
    | some x => s.succs die (fldCap h 0) x
    | none => [])
  | _, _ => ([], [])

/-- What a task's retirement reads, each part as soon as the parts before it name it: its successor counter, or its instance, table, successor list and their counters (R327). -/
def State.retireReads (s : State) (die : Nat) (t : Task) : List (Cap × Nat) :=
  if !t.isGraph then (if t.succ = 0 then [] else [(t.succ, 4)])
  else if s.instGen die t.inst ≠ t.gen % 65536 then [(t.inst, 16)]
  else
    let x := s.taskSuccs die t
    s.graphReads die t.inst ++ (match s.graphBytes die t.inst 16, x.1[(capOfs t.succ % 8192 - 32) / 4]? with
      | .ok h, some n => [(capAdd (fldCap h 0) n.sofs, 2 * n.ns)]
      | _, _ => []) ++ x.2.map (fun k => (capAdd t.inst (32 + 4 * k), 4))

/-- What the retirement of a context's task reads; a block's end reads nothing. -/
def State.endReads (s : State) (c : Ctx) : List (Cap × Nat) :=
  match c.trec with
  | none => []
  | some t => s.retireReads c.die t

/-- A task retires: its successor counter, its node's successors, and the retirement batch (R327, R342). -/
def State.retireTask (s : State) (ctx : Nat) (c : Ctx) (t : Task) : State :=
  let die := c.die
  let own : Owner := .unit ctx
  let dec : Issued := { upd := { loc := t.loc, time := t.time, delta := -1 }, owner := some own }
  if !t.isGraph then
    let s := if t.succ = 0 then s
      else
        let s := c.wheels.foldl (fun s w => s.release c w.idx w.core { ctx := ctx, tids := c.threads.map (fun t => t.tid) } .dev) s
        match s.graphBytes die t.succ 4 with
        | .error _ => s
        | .ok bs => s.farSet die t.succ 4 (bytesNat bs / 65536 * 65536 + (bytesNat bs % 65536 + 65535) % 65536)
    (s.issueGroup die [dec]).inherit own c.heir
  else
    let i := t.inst
    if s.instGen die i ≠ t.gen % 65536 then (s.issueGroup die [dec]).inherit own c.heir
    else
      let g := s.graphs.find? (fun g => g.inst == i && g.gen == t.gen)
      let x := s.taskSuccs die t
      let r := s.walk die t i x.1 ((g.map (fun g => g.prio)).getD t.prio) c.phase c.launch x.2 []
      if r.2.2 then (r.1.inherit own c.heir).cancel die (r.1.doomedGraph i t.gen)
      else
        let incs := r.2.1.map (fun x => { upd := { loc := x.loc, time := x.time, delta := 1 }, owner := some (.graph i t.gen) : Issued })
        let s := r.1.issueGroup die (incs ++ [dec])
        let s := r.2.1.foldl (fun s x => s.spawnTask die x none false) s
        let s : State := { s with graphs := s.graphs.map (fun g => if g.inst = i ∧ g.gen = t.gen then { g with tasks := g.tasks + r.2.1.length } else g) }
        s.inherit own c.heir

/-- A unit has ended as far as its counters go (R324); a task's queued copy is gone. -/
def State.unitGone (s : State) (c : Ctx) : State :=
  match c.trec with
  | none => s.countDown c.launch (some c.block)
  | some t =>
    let s := s.zeroRange (taskP t.copy 0) 64
    if t.isGraph then
      let s : State := { s with graphs := s.graphs.map (fun g => if g.inst = t.inst ∧ g.gen = t.gen then { g with tasks := g.tasks - 1 } else g) }
      (s.showTasks c.die t.inst t.gen).endGraph t.inst t.gen
    else s.countDown c.launch none

/-- The die's task queue has room for the tasks that a graph task's retirement spawns: it holds 65,536 records, and a spawn waits while it is full (R243, R327). -/
def State.retireFits (s : State) (c : Ctx) (t : Task) : Bool :=
  if !t.isGraph || s.instGen c.die t.inst != t.gen % 65536 then true
  else
    let x := s.taskSuccs c.die t
    decide ((s.die c.die).tasks.length + (s.walk c.die t t.inst x.1 0 0 0 x.2 []).2.1.length ≤ 65536)

/-- A context whose threads have all ended may end: its engine entries into shared memory are done, the increments of a task are accepted, and what its retirement reads is there (R206, R327, R341). -/
def State.mayEnd (s : State) (ctx : Nat) (c : Ctx) : Bool :=
  c.threads.all (fun t => !t.live) && !c.handler && !c.saving && !s.sharedEntries ctx true
    && (c.cancelled || c.trec.all (fun t => c.wheels.all (fun w => w.unaccepted == 0) && !s.readsWait c.die (s.endReads c) && s.retireFits c t))
    && (c.loads.all (fun o => o.pref || o.isFill))

/-- A run's block ends: the run is DONE with its last block (R362). -/
def State.endRunBlock (s : State) (ctx slot : Nat) : State :=
  let s := (s.drainAll ctx).dropCtx ctx
  let s := s.modSlot slot (fun x => { x with ended := x.ended + 1 })
  let x := s.slot slot
  if x.state = .running ∧ x.pred.cmd.blocks ≤ x.ended then s.modSlot slot (fun x => { x with state := .done, doneAt := s.cycle }) else s

/-- BLOCK_END (R206, R218, R324, R327): the last wheel of a block, or of a task, has ended; a release that a pin refuses is tried again (R279). -/
def execBlockEnd (ctx : Nat) (s : State) : Out :=
  act (retryPinsFor (((sGet s.ctxs ctx).map (fun c => c.cores)).getD []) (fun s =>
    match sGet s.ctxs ctx with
    | none => s
    | some c =>
      if !s.mayEnd ctx c then s
      else match c.spec with
        | some slot => s.endRunBlock ctx slot
        | none =>
          let s := s.settleStores ctx
          if !s.storesSettled ctx then s
          else
            let reads := s.endReads c
            let s := s.dropRefs ctx
            let s := if c.cancelled then s
              else match c.trec with
                | none => s.inherit (.unit ctx) c.heir
                | some t => s.retireTask ctx c t
            let s := match sGet s.ctxs ctx with
              | none => s
              | some _ => (s.dropCtx ctx).unitGone c
            s.dropReads c.die reads)) s

/-! ### CANCEL (R245) -/

/-- Launches and graph generations that a cancel has left without work complete (R324). -/
def State.recount (s : State) : State :=
  let s := (s.launches.map (fun l => l.no)).foldl (fun s n => s.endLaunch n) s
  let s := (s.graphs.map (fun g => (g.inst, g.gen))).foldl (fun s g => s.endGraph g.1 g.2) s
  s.graphs.foldl (fun s g => s.showTasks 0 g.inst g.gen) s

/-- A cancel at a level, with the completions that follow it. -/
def State.cancelAll (s : State) (die : Nat) (lv : Level) (x : Doomed) : State := (s.cancelAt die lv x).recount

/-- CANCEL (R245). -/
def execCancel (h : Head) (level : Level) (s : State) : Out :=
  act (onBeat h (fun e s =>
    match e.lanes, e.c.run with
    | [], _ => s
    | _, some slot => s.discardRun slot 1
    | _, none => s.cancelAll (dieOf e.b.core) level (s.enclosing e.b.ctx e.c level))) s

end Sys2Proof.Machine
end

