-- ==== Sys2Proof/Machine/Handler.lean ====
section
/-! DEFINITION. The end of waits by their interval (R192, R197, R213, R237, R240), fault records in a handler's queue (R393-R395), and the return from a fault (R221). -/

namespace Sys2Proof.Machine

/-! ### Wait intervals -/

/-- A wait ends with the results of this cycle, whatever they are. -/
def State.expire (s : State) (ctx : Nat) (c : Ctx) (w : Wait) : State :=
  match w.kind with
  | .tryw pd acq lanes => (s.trywEnd ctx c pd acq lanes).modCtx ctx (fun c => c.wake w.wid)
  | .pbwait d pd acq lanes => (s.pbwaitEnd ctx c d pd acq lanes).modCtx ctx (fun c => c.wake w.wid)
  | .gwait pd g acq => (s.gwaitEnd ctx c pd g acq w.tids).modCtx ctx (fun c => c.wake w.wid)
  | .fwait d pd acq lanes => (s.fwaitEnd ctx c d pd acq lanes).modCtx ctx (fun c => c.wake w.wid)
  | .exacq i d took started => s.exacqWake ctx c w i d took started
  | _ => s

/-- WAIT_INTERVAL_EXPIRY (R192, R197, R213, R237, R240): a change in the interval's last cycle counts. -/
def execWaitIntervalExpiry (ctx wid : Nat) (s : State) : Out :=
  act (fun s =>
    match sGet s.ctxs ctx with
    | none => s
    | some c =>
      match c.waitOf wid with
      | some w =>
        match w.deadline with
        | some d => if d < s.cycle then s.expire ctx c w else s
        | none => s
      | none => s) s

/-! ### Fault records (R393, R394) -/

/-- FLAGS of a record (R393). -/
def State.recFlags (s : State) (r : FaultRec) : Nat :=
  bitN r.opn 0 + bitN r.wheelwide 1 + bitN r.chain 2 + bitN (sGet s.saved r.ctx).isSome 3

/-- The 64 bytes of a record (R393). -/
def State.recBytes (s : State) (r : FaultRec) (rseq : Nat) : List Byte :=
  [byteOf r.cls, byteOf r.cause] ++ natBytes 2 (s.recFlags r) ++ natBytes 4 r.lanes.toNat ++ natBytes 4 r.launch ++ natBytes 4 r.block
    ++ natBytes 2 r.wheel ++ [byteOf r.core, byteOf (r.die % 4 + 4 * (r.quarter % 4))] ++ natBytes 4 rseq ++ natBytes 8 r.pc.toNat
    ++ natBytes 4 r.words.1.toNat ++ natBytes 4 r.words.2.1.toNat ++ natBytes 4 r.words.2.2.toNat ++ [0, 0, 0, 0]
    ++ natBytes 8 r.addr.toNat ++ natBytes 8 r.info.toNat

/-- The capability of the fault queue's control block of a die (R394). -/
def State.faultQueueCap (s : State) (die : Nat) : Option Cap :=
  match sGet s.job.handler die with
  | none => none
  | some h => (s.unitGet die (capAdd h.args 8) 8).map (fun x => BitVec.ofNat 64 x)

/-- The fault queue of a die has room: its control block and TAIL (R394). -/
def State.recRoom (s : State) (die : Nat) : Option (Cap × Nat × Nat) :=
  match s.faultQueueCap die with
  | none => none
  | some q =>
    match s.unitGet die q 8, s.unitGet die (capAdd q 8) 8, s.unitGet die (capAdd q 16) 4 with
    | some head, some tail, some size =>
      if (tail + 2 ^ 64 - head) % 2 ^ 64 < size then some (q, tail, size) else none
    | _, _, _ => none

/-- FAULT_RECORD_WRITE (R393-R395): the oldest record of a die goes to its queue, then TAIL advances. -/
def execFaultRecordWrite (die : Nat) (s : State) : Out :=
  act (retryPins (fun s =>
    match (s.die die).recs, s.recRoom die with
    | r :: rest, some (q, tail, size) =>
      let n := (s.die die).rseq + 1
      let s := s.unitWrite die (capAdd q (64 + 64 * (tail % size))) (s.recBytes r n)
      let s := s.unitSet die (capAdd q 8) 8 (tail + 1)
      s.modDie die (fun d => { d with recs := rest, rseq := n, openRecs := if r.opn then d.openRecs ++ [(n, r)] else d.openRecs })
    | _, _ => s)) s

/-! ### ERET (R221, R395) -/

/-- The words that a skipped instruction's destination receives: B to B+3, then 0. -/
def skipWords (b : List Word) (n : Nat) : List Word := (List.range n).map (fun i => (b[i]?).getD 0)

/-- The register destinations of a skipped instruction, in turn: D, then the scale register of QBLK (R144, R221). -/
def skipRanges (o : Op) (w : Raw) : List XRange :=
  (dstRange (form o w) w).toList ++ (if o = .qblk then (form o w).extra else [])

/-- The register ranges with the words of B that each receives. -/
def skipParts : List XRange → List Word → List (XRange × List Word)
  | [], _ => []
  | g :: gs, b => (g, skipWords b g.n) :: skipParts gs (b.drop g.n)

/-- The predicates that a skipped instruction writes in a thread: Pd, PD in XCTL, and those that the mask of a VTOP selects (R129, R221). (DEDUCED, log 95, for VTOP.) -/
def skipPreds (o : Op) (w : Raw) (words : Word × Word × Word) (l : Lane) : List Nat :=
  let f := form o w
  (if f.d == .pred then [w.d.toNat % 32] else []) ++ (f.xpd.map (fun p => p.toNat)).toList ++
    (match decodeWords words.1 words.2.1 words.2.2 with
      | .ok (.vtop _ _ m) => (List.range 32).filter (fun k => (BitVec.ofNat 32 (readSrc l 1 m)).getLsbD k)
      | _ => [])

/-- The destinations of a skipped instruction are written in the threads of a record, as far as they lie in the window, and in their wheels (R209, R221). -/
def State.skipDst (s : State) (r : FaultRec) (b : List Word) : State :=
  match Op.ofCode (r.words.1.toNat % 256) with
  | none => s
  | some o =>
    let w := Raw.ofWords r.words.1 r.words.2.1 r.words.2.2
    let bit := ((b[0]?).getD 0).getLsbD 0
    let parts := skipParts (skipRanges o w) b
    s.modAny r.ctx (fun c =>
      let mine := fun (t : Thread) => r.tids.contains t.tid && t.st == .parked
      let hit := ((c.threads.filter mine).map (fun (t : Thread) => t.wheel)).dedup
      let c := hit.foldl (fun c x => c.modW x (fun y =>
        parts.foldl (fun y p => if p.1.vec then y else y.put p.1.base.toNat p.2 []) y)) c
      c.modT mine (fun t =>
        let top := ((c.wheel t.wheel).map (fun v => v.window)).getD 0
        let t' := parts.foldl (fun t p => if p.1.vec && decide (p.1.base.toNat + p.2.length ≤ top) then t.put p.1.base.toNat p.2 [] else t) t
        match c.wheel t.wheel with
        | none => t'
        | some v => { t' with preds := (skipPreds o w r.words { t := t, w := v }).foldl (fun p k => setPred p k bit) t.preds }))

/-- The queue whose command a chain record stopped (R445). -/
def State.recQueue (s : State) (r : FaultRec) : Option Nat :=
  (List.range 256).find? (fun q => (s.queue q).faulted && (match s.qdesc q with | some d => d.chain == r.addr | none => false))

/-- A queue stopped by a command runs it again, or goes on after it (R221, R445). -/
def State.freeQueue (s : State) (q seq : Nat) (again : Bool) : State :=
  let s := s.modQueue q (fun x => { x with faulted := false })
  let s := if again then s.modQueue q (fun x => { x with taken := seq - 1, last := x.prev, pend := x.pend.filter (fun p => p.seq != seq) })
    else s.completeCmd q seq 0 2 7 0
  (s.chainState q).showQueue q

/-- A stopped chain runs its entry again, or goes on after it (R221). -/
def State.freeChain (s : State) (r : FaultRec) (again : Bool) : State :=
  match s.chains.find? (fun c => c.ccb == r.addr && !c.fill) with
  | none => s
  | some ch =>
    let seq := r.info.toNat
    if !ch.faulted then s
    else if again then
      (s.modChain ch.ccb false ch.die (fun c => { c with faulted := false })).setChainState ch 1
    else
      let entry := match s.ccbPlace ch.die ch.ccb with
        | none => ch.last
        | some blk => s.chainEntry ch blk
      let s := s.modChain ch.ccb false ch.die (fun c => ({ c with faulted := false } : Chain).past { ccb := ch.ccb, seq := seq, entry := entry })
      s.chainDone ch seq

/-- The chain or queue of a record goes on. -/
def State.freeRec (s : State) (r : FaultRec) (again : Bool) : State :=
  match s.recQueue r with
  | some q => s.freeQueue q r.info.toNat again
  | none => s.freeChain r again

/-- A capability passes the checks of a branch target on a die (R74, R63). -/
def State.exitOk (s : State) (die : Nat) (c : Cap) : Bool :=
  decide (capOfs c % 12 = 0) && (r63 (s.readDesc die (capObj c)) (capObj c) (capOfs c) 12 4).isNone

/-- The work that a cancel of a record ends; none when the record names no unit at that level. -/
def State.recCancel (s : State) (r : FaultRec) (lv : Level) : Option Doomed :=
  match s.anyCtx r.ctx, lv with
  | some c, _ => some (s.enclosing r.ctx c lv)
  | none, .job => some s.doomedJob
  | none, .launch => if r.launch = 0 then none else some (s.doomedLaunch r.launch)
  | none, _ => none

/-- ERET's action on an open record: its status and the state (R221). -/
def State.eretAct (s : State) (die : Nat) (r : FaultRec) (a : EretAct) (lv : Level) (b : List Word) (c : Cap) : Nat × State :=
  match a with
  | .replay => (0, if r.chain then s.freeRec r true else s.resume r.ctx r.tids (fun t => t.pc))
  | .skip => (0, if r.chain then s.freeRec r false else (s.skipDst r b).resume r.ctx r.tids (fun t => nextPc t.pc))
  | .exit => if r.chain then (3, s) else if s.exitOk die c then (0, s.resume r.ctx r.tids (fun _ => c)) else (2, s)
  | .cancel => match s.recCancel r lv with
    | none => (3, s)
    | some x => (0, s.cancelAll die lv x)

/-- ERET by a wheel: the record named by the RSEQ at A; status 1 when it is not open in this die's queue (R221, R395). -/
def State.eret (s : State) (l : Lane) (a : EretAct) (lv : Level) (ra rb rc : BitVec 8) : Nat × State :=
  let die := dieOf l.w.core
  let cap : Cap := BitVec.ofNat 64 (readS l.w 2 ra)
  match (s.unitGet die (capAdd cap 20) 4).bind (fun n => ((s.die die).openRecs.find? (fun x => x.1 == n))) with
  | none => (1, s)
  | some (n, r) =>
    let x := s.eretAct die r a lv (natWords 4 (readS l.w 4 rb)) (BitVec.ofNat 64 (readS l.w 2 rc))
    if x.1 = 0 then (0, x.2.modDie die (fun d => { d with openRecs := d.openRecs.filter (fun y => y.1 != n) })) else x

/-- ERET (R221, R222). -/
def execEret (h : Head) (act_ : EretAct) (level : Level) (d a b c : BitVec 8) (s : State) : Out :=
  act (privOp h 2 (fun e s =>
    (wheelsOf e.lanes).foldl (fun s l =>
      let x := s.eret l act_ level a b c
      x.2.modCtx e.b.ctx (fun k => k.modW l.w.idx (fun w => w.put d.toNat [BitVec.ofNat 32 x.1] (mkPend s (.s d.toNat 1) 0)))) s)) s

end Sys2Proof.Machine
end

