-- ==== Sys2Proof/Machine/Issue.lean ====
section
/-! DEFINITION. The escapement (R118, R249-R253): fetching at a program counter (R63, R74), hazards (R85), the candidates of a quarter, and the beat that issues. -/

namespace Sys2Proof.Machine

/-! ### Fetch (R63, R74, R87) -/

/-- What a fetch gives: words, bytes that no copy holds, or an access that does not pass. -/
inductive Fetched where
  | words (w : Word × Word × Word) (ps : List Nat) (pages : List (Nat × Nat × Nat))
  | lacking (ps : List Nat)
  | failed (r : Res)
  deriving DecidableEq, Repr

/-- Three words of twelve bytes (R4, R73). -/
def threeWords (bs : List Byte) : Word × Word × Word :=
  (BitVec.ofNat 32 (bytesNat (bs.take 4)), BitVec.ofNat 32 (bytesNat ((bs.drop 4).take 4)),
   BitVec.ofNat 32 (bytesNat (bs.drop 8)))

/-- The access of a fetch (R74). -/
def fetchWant : Want := { sp := .g, n := 12, align := 4, need := 4, lock := false, fetch := true }

/-- The fetch of the instruction at an address by some threads on a core (R74). -/
def State.fetch (s : State) (core : Nat) (c : Ctx) (tids : List Nat) (pc : Cap) : Fetched :=
  match refusedFill c (s.resolveG core c fetchWant (capObj pc) (capOfs pc)) with
  | .ok ps pages =>
    let bs := s.codeBytes core c tids ps
    if ps.any (fun p => s.poison.contains (wordOf p)) then .failed (.bad 0x0A 0 pc 0)
    else if bs.any (fun b => b.isNone) then .lacking ps
    else .words (threeWords (held bs)) ps pages
  | r => .failed r

/-! ### Hazards (R85) -/

/-- Register ranges overlap. -/
def overlaps (a n b m : Nat) : Bool := decide (a < b + m) && decide (b < a + n)

/-- Predicates that a word names: its guard, kind-11 predicate sources, a predicate destination, PD in XCTL. -/
def predsNamed (o : Op) (r : Raw) : List Nat :=
  let f := form o r
  (if r.gmode = 0 then [] else [r.gpred.toNat])
    ++ ((sources f r).filter (fun p => p.1.ix == .p && p.2.1 == 3)).map (fun p => p.2.2.toNat)
    ++ (if f.d == .pred then [r.d.toNat] else []) ++ (f.xpd.map (fun p => p.toNat)).toList

/-- The instruction reads FOFS: SPADJ, and an access in the .p space (R170, R182). -/
def readsFofs (o : Op) (r : Raw) : Bool :=
  match o with
  | .spadj => true
  | .ld | .st | .pref => r.ctl.extractLsb' 0 2 == 1
  | .cpy => r.ctl.extractLsb' 0 2 == 1 || r.ctl.extractLsb' 2 2 == 1
  | _ => false

/-- A pending write touches a register, a predicate or FOFS that the instruction reads or writes (R85). -/
def Pend.blocks (o : Op) (r : Raw) (p : Pend) : Bool :=
  match p.use with
  | .v b n => (ranges (form o r) r).any (fun g => g.vec && g.base != 255 && overlaps b n g.base.toNat g.n)
  | .s b n => (ranges (form o r) r).any (fun g => !g.vec && g.base != 255 && overlaps b n g.base.toNat g.n)
  | .p k => o == .ptov || o == .vtop || (predsNamed o r).contains k
  | .fofs => readsFofs o r
  | _ => false

/-- A thread's next instruction has no hazard (R85); EXIT waits for every pending write of the thread (R206). -/
def hazardFree (l : Lane) (w0 w1 w2 : Word) : Bool :=
  match Op.ofCode (w0.toNat % 256) with
  | none => true
  | some o =>
    let r := Raw.ofWords w0 w1 w2
    if (encCause o r).isSome then true
    else if o = .exit ∧ !l.t.pend.isEmpty then false
    else !l.t.pend.any (Pend.blocks o r) && !l.w.pend.any (Pend.blocks o r)

/-- The instruction issues only in a full beat (R118, R209). -/
def fullBeat (w0 : Word) : Bool := decide (w0.toNat % 256 ∈ [0x23, 0x24, 0x25, 0x26, 0x27, 0xA0, 0xA1])

/-- The instruction uses the vector datapath (R253): integer to floating opcodes with a vector destination, and SPADJ. -/
def usesPath (w0 : Word) : Bool :=
  let o := w0.toNat % 256
  o == 0x66 || (decide (1 ≤ o) && decide (o ≤ 0x4E) && !w0.getLsbD 23)

/-! ### Candidates (R250) -/

/-- A group of ready threads of a current wheel at one address; `re` is its re-formed wheel. -/
structure Cand where
  ctx : Nat
  re : Option Nat
  pc : Cap
  lanes : List Lane
  got : Fetched
  /-- The lowest home-wheel slot among the threads of the current wheel, and a re-formed wheel's target (R251). -/
  low : Nat := 255
  target : Cap := 0
  deriving DecidableEq, Repr

/-- The lanes of a context in a quarter, ascending home lane within ascending wheel. -/
def Ctx.inQuarter (c : Ctx) (core q : Nat) : List Lane :=
  if c.stopped || c.saving || c.paused then []
  else sortBy (fun (l : Lane) => l.t.lane)
    ((c.lanes (c.threads.map (fun t => t.tid))).filter (fun l => l.w.core == core && l.w.quarter == q))

/-- The key of a thread's current wheel and address: re-formed wheel or home wheel (R204, R250). -/
def Lane.group (l : Lane) : Option Nat × Nat × Cap :=
  match l.t.reformed with
  | some i => (some i, 0, l.t.pc)
  | none => (none, l.w.idx, l.t.pc)

/-- The lowest home-wheel slot among the live threads of a lane's current wheel (R251). -/
def Ctx.lowSlot (c : Ctx) (l : Option Lane) : Nat :=
  match l with
  | none => 255
  | some l =>
    match l.t.reformed with
    | none => l.w.slot
    | some i => (c.lanes (c.threads.map (fun t => t.tid))).foldl (fun a x =>
        if x.t.live && x.t.reformed == some i then min a x.w.slot else a) 255

/-- The groups of ready threads of a context in a quarter, each with its fetch. -/
def State.groups (s : State) (k core q : Nat) (c : Ctx) : List Cand :=
  let ls := (c.inQuarter core q).filter (fun l => l.t.st == .ready)
  ((ls.map Lane.group).dedup).map (fun g =>
    let mine := ls.filter (fun l => l.group == g)
    { ctx := k, re := g.1, pc := g.2.2, lanes := mine, got := s.fetch core c (mine.map (fun l => l.t.tid)) g.2.2
      low := c.lowSlot (mine.head?) , target := match g.1, mine.head? with | some _, some l => l.t.target | _, _ => 0 })

/-- The groups of a quarter. -/
def State.allGroups (s : State) (core q : Nat) : List Cand := s.ctxs.flatMap (fun e => s.groups e.1 core q e.2)

/-- The candidate of a group: its threads without a hazard; a lane instruction needs every thread that is not parked and stands at the address (R85, R118, R250). -/
def State.cand (s : State) (core q : Nat) (g : Cand) : Option Cand :=
  match g.got with
  | .words w _ _ =>
    let ls := g.lanes.filter (fun l => hazardFree l w.1 w.2.1 w.2.2)
    let full := match sGet s.ctxs g.ctx, g.lanes.head? with
      | some c, some x => (c.inQuarter core q).filter (fun (l : Lane) => l.group == x.group && l.t.live && l.t.st != TState.parked)
      | _, _ => []
    if ls.isEmpty || (fullBeat w.1 && !full.all (fun l => ls.any (fun x => x.t.tid == l.t.tid))) then none
    else some { g with lanes := ls }
  | .failed (.miss _) => none
  | _ => some g

/-- The candidates of a quarter. -/
def State.cands (s : State) (core q : Nat) : List Cand := (s.allGroups core q).filterMap (s.cand core q)

/-- The least stamp of a candidate's threads (R251). -/
def Cand.stamp (c : Cand) (now : Nat) : Nat := c.lanes.foldl (fun a l => min a (l.t.stamp.getD now)) now

/-- A slot's rank after the slot that won last (R251). -/
def slotRank (ptr : Option Nat) (slot : Nat) : Nat :=
  match ptr with
  | none => slot
  | some p => (slot + 255 - p) % 256

/-- The place of a thread in the saved stamp order, until it takes a new stamp (R258). -/
def Lane.saveRank (l : Lane) : Nat := if l.t.stamp.isNone then 0 else l.t.rank

/-- The order of choice: stamp, the saved order of a restore (R258), threads that yielded last, slot, a re-formed wheel's target, address (R251). -/
def Cand.key (c : Cand) (now : Nat) (ptr : Option Nat) : List Nat :=
  [c.stamp now, c.lanes.foldl (fun a l => min a l.saveRank) (2 ^ 32), if c.lanes.any (fun l => l.t.yielded) then 1 else 0,
   slotRank ptr c.low, if c.re.isSome then 1 else 0, c.target.toNat, c.re.getD 0, c.pc.toNat]

/-- Lexicographic order on keys. -/
def keyLt : List Nat → List Nat → Bool
  | a :: as, b :: bs => decide (a < b) || (a == b && keyLt as bs)
  | _, _ => false

/-- The candidate needs the vector datapath (R253). -/
def Cand.path (c : Cand) : Bool :=
  match c.got with
  | .words w _ _ => usesPath w.1
  | _ => false

/-- The least of some candidates. -/
def leastCand (now : Nat) (ptr : Option Nat) (cs : List Cand) : Option Cand :=
  cs.foldl (fun a c => match a with
    | none => some c
    | some b => if keyLt (c.key now ptr) (b.key now ptr) then some c else a) none

/-- The candidate that issues: starving ones alone if there are any, none that needs a held datapath (R251-R253). -/
def State.choose (s : State) (core q : Nat) (cs : List Cand) : Option Cand :=
  let x := s.quarter (4 * core + q)
  let starving := cs.filter (fun c => decide (c.stamp s.cycle + 1024 ≤ s.cycle))
  let el := if starving.isEmpty then cs else starving
  leastCand s.cycle x.ptr (el.filter (fun c => decide (x.free ≤ s.cycle) || !c.path))

/-! ### Issue -/

/-- Threads whose fetch misses a table entry wait for it (R373). -/
def State.holdMisses (s : State) (gs : List Cand) : State :=
  gs.foldl (fun s g => match g.got with
    | .failed (.miss e) => s.suspend g.ctx (g.lanes.map (fun l => l.t.tid)) (.miss e) none
    | _ => s) s

/-- Stamps of a quarter: a candidate keeps its stamp or takes the current cycle; a ready thread that is no candidate has none (R251, R252). A context that is being saved keeps its stamps (R258). -/
def State.stampAll (s : State) (core q : Nat) (cs : List Cand) : State :=
  { s with ctxs := s.ctxs.map (fun e =>
      let inn := fun (t : Thread) => e.2.wheels.any (fun w => w.idx == t.wheel && w.core == core && w.quarter == q)
      (e.1, { e.2 with threads := e.2.threads.map (fun t =>
        if t.st == .ready && !e.2.stopped && !e.2.saving && !e.2.paused && inn t then
          (if cs.any (fun c => c.ctx == e.1 && c.lanes.any (fun l => l.t.tid == t.tid)) then
            { t with stamp := some (t.stamp.getD s.cycle), rank := if t.stamp.isNone then 0 else t.rank } else { t with stamp := none })
        else t) })) }

/-- The beat of a candidate. -/
def Cand.beat (c : Cand) (core q : Nat) : Beat :=
  { ctx := c.ctx, core := core, quarter := q, pc := c.pc, tids := c.lanes.map (fun l => l.t.tid)
    words := match c.got with
      | .words w _ _ => w
      | _ => (0, 0, 0) }

/-- An instruction reads status words of copies of its threads: each read is an acquire at the copy's scope (R183, R274). -/
def State.acqReads (s : State) (o : Op) (r : Raw) : State :=
  match s.beat with
  | none => s
  | some b =>
    match sGet s.ctxs b.ctx with
    | none => s
    | some c =>
      let f := form o r
      let reads := (ranges f r).drop ((dstRange f r).toList.filter (fun g => g.n != 0)).length
      let hit := fun (d : Nat) => reads.any (fun g => g.vec && g.base != 255 && overlaps d 1 g.base.toNat g.n)
      ((c.threads.filter (fun t => b.tids.contains t.tid)).flatMap (fun t => t.acqs.filter (fun a => hit a.1))).foldl
        (fun s a => s.acquire c b.core a.2) s

/-- A beat is in issue: its fetch is noted and counted, the pointer stands at its slot, and the answers that the fetch used are forgotten. -/
def State.begin (s : State) (core q : Nat) (c : Cand) : State :=
  let s := s.modQuarter (4 * core + q) (fun x => { x with ptr := some c.low, starving := false })
  let s : State := { s with beat := some (c.beat core q) }
  match sGet s.ctxs c.ctx, c.lanes.head?, c.got with
  | some x, some l, .words _ ps pages =>
    let a : Acc := { l := l, r := .ok ps pages }
    let tids := c.lanes.map (fun l => l.t.tid)
    let s := if x.run.isSome then s.noteAccess x a else (s.noteAccess x a).countBeat s c.ctx [a] false
    if x.loads.any (fun o => o.isFill) then s.modCtx c.ctx (fun x => { x with
      loads := x.loads.filter (fun o => !(o.isFill && o.arrived && o.tids.any (fun t => tids.contains t) && o.asked.all (fun p => ps.contains p))) })
    else s
  | _, _, _ => s

/-- A fetch that does not give words: the fault of every thread, the end of the run, or a hold until the bytes arrive (R63, R172, R358). -/
def State.fetchFault (s : State) (c : Cand) : State :=
  match sGet s.ctxs c.ctx, s.beat with
  | some x, some b =>
    let e : Site := { b := b, c := x, lanes := c.lanes }
    match c.got with
    | .lacking ps => s.withBytesBy e 0 true ((c.lanes.take 1).map (fun l => (l, ps))) (fun s => s)
    | .failed r => s.gate e false true (c.lanes.map (fun l => { l := l, r := r })) (fun _ s => s)
    | .words _ _ _ => s
  | _, _ => s

/-- The threads whose window fails cause 11 of R89 trap and park; the others are the beat. -/
def State.windowTrap (s : State) (c : Cand) (w : Word × Word × Word) : State :=
  match Op.ofCode (w.1.toNat % 256), s.beat with
  | some o, some b =>
    let r := Raw.ofWords w.1 w.2.1 w.2.2
    let bad := (c.lanes.filter (fun l => windowBad o r l.w.window)).map (fun l => l.t.tid)
    let s := s.decodeTrap b bad 2 11
    { s with beat := some { b with tids := b.tids.filter (fun t => !bad.contains t) } }
  | _, _ => s

/-- The registers of a thread that an instruction reads hold uncorrectable data; a signature reads none, its operation does (R165, R440). -/
def State.readsPoison (s : State) (b : Beat) (o : Op) (r : Raw) (l : Lane) : Bool :=
  (!opRow5.contains o || o == .ldmx || o == .stmx) && guardOn (guardOf r) l.t
    && (ranges (form o r) r).any (fun g => !g.wr && s.badRegs (if g.vec then vregP b.ctx l.t.tid else sregP b.ctx l.w.idx) g.base.toNat g.n)

/-- The place of a register that the instruction writes in a thread, and at once in its wheel. -/
def writesReg (b : Beat) (o : Op) (r : Raw) (l : Lane) (p : Nat) : Bool :=
  guardOn (guardOf r) l.t && (ranges (form o r) r).any (fun g => g.wr && g.base != 255
    && (List.range g.n).any (fun i => p == (if g.vec then vregP b.ctx l.t.tid else sregP b.ctx l.w.idx) (g.base.toNat + i)))

/-- The threads whose source registers hold uncorrectable data take the poison fault and park; the others are the beat, and the marks of the registers that it writes go (R172, R440; DESIGN CHOICE, log 131). -/
def State.poisonTrap (s : State) (c : Cand) (w : Word × Word × Word) : State :=
  if s.poison.all (fun p => pTag p != 4) then s
  else match Op.ofCode (w.1.toNat % 256), s.beat with
  | some o, some b =>
    let r := Raw.ofWords w.1 w.2.1 w.2.2
    let ls := c.lanes.filter (fun l => b.tids.contains l.t.tid)
    let bad := (ls.filter (s.readsPoison b o r)).map (fun l => l.t.tid)
    let good := ls.filter (fun l => !bad.contains l.t.tid)
    let s := s.beatFault b false (bad.map (fun t => { tid := t, cls := 0x0A }))
    { s with
      beat := some { b with tids := b.tids.filter (fun t => !bad.contains t) }
      poison := s.poison.filter (fun p => !good.any (fun l => writesReg b o r l p)) }
  | _, _ => s

/-- The issue of a chosen candidate: the state with the beat in issue, and the instruction it executes; none when a fetch or a decoding trap has ended it (R89). -/
def State.issueCand (s : State) (core q : Nat) (c : Cand) : State × Option Instr :=
  let s := s.begin core q c
  match c.got with
  | .words w _ _ =>
    match decodeWords w.1 w.2.1 w.2.2 with
    | .error (.cause k) => (match s.beat with | some b => s.decodeTrap b b.tids 2 k | none => s, none)
    | .error .short => (s, none)
    | .ok i =>
      let s := (s.windowTrap c w).poisonTrap c w
      let s := match Op.ofCode (w.1.toNat % 256) with
        | some o => s.acqReads o (Raw.ofWords w.1 w.2.1 w.2.2)
        | none => s
      match s.beat with
      | some b => (s, if b.tids.isEmpty then none else some i)
      | none => (s, none)
  | _ => (s.fetchFault c, none)

/-- A quarter's turn in the cycle: missing fetches are held, stamps set, and the chosen candidate issues. -/
def State.quarterTurn (s : State) (k : Nat) : State × Option Instr :=
  let core := k / 4
  let q := k % 4
  let s := s.holdMisses (s.allGroups core q)
  let cs := s.cands core q
  let s := s.stampAll core q cs
  let s : State := { s with turns := k :: s.turns }
  match s.choose core q cs with
  | none => (s, none)
  | some c => s.issueCand core q c

/-- The quarters that hold ready threads, as 4 × core + quarter. -/
def State.readyQuarters (s : State) : List Nat :=
  s.ctxs.flatMap (fun e =>
    if e.2.stopped || e.2.saving || e.2.paused then []
    else (e.2.threads.filter (fun t => t.st == .ready)).filterMap (fun t =>
      (e.2.wheels.find? (fun w => w.idx == t.wheel)).map (fun w => 4 * w.core + w.quarter)))

/-- A quarter's place in the order of a cycle's turns: a CVSET before every other instruction (R147), then ascending quarter, then the lowest wheel of the beat (R56), then core. -/
def State.turnKey (s : State) (k : Nat) : List Nat :=
  match s.choose (k / 4) (k % 4) (s.cands (k / 4) (k % 4)) with
  | none => [1, k % 4, 0, k]
  | some c => [match c.got with | .words w _ _ => if w.1.toNat % 256 = 0x74 then 0 else 1 | _ => 1,
      k % 4, c.lanes.foldl (fun a l => min a l.w.idx) 1024, k]

/-- The next quarter to look at in the cycle, of those that have not had their turn. -/
def State.nextQuarter (s : State) : Option Nat :=
  match (s.readyQuarters.filter (fun k => !s.turns.contains k)).dedup with
  | [] => none
  | [k] => some k
  | k :: ks => some (ks.foldl (fun (a : List Nat × Nat) k =>
      let x := s.turnKey k
      if keyLt x a.1 then (x, k) else a) (s.turnKey k, k)).2

end Sys2Proof.Machine
end

