-- ==== Sys2Proof/Machine/Predict.lean ====
section
/-! DEFINITION. The launch predictor (R351-R354, R361), the checks of a launch at its take (R318, R320, R446), and what a claimed or real launch registers (R318, R229). -/

namespace Sys2Proof.Machine

/-! ### Checks at the take (R318 step 1, R320, R446) -/

/-- The launch fields of a command (R316). -/
def launchOf (e : List Byte) : LaunchCmd :=
  { krec := fldCap e 8, code := fldCap e 16, blocks := fld e 32 4, blockdim := fld e 36 4, gtag := fld e 40 2, loc := fld e 42 2
    ltime := BitVec.ofNat 64 (fld e 48 8), args := fldCap e 64 }

/-- The kernel record of a launch, when KREC passes its check and its bytes are here. -/
def State.record (s : State) (c : LaunchCmd) : Option (List Byte) :=
  match s.farRead 0 c.krec 64 with
  | .here bs => some bs
  | _ => none

/-- The argument slots of a launch (R98, R351). -/
def State.argSlots (s : State) (c : LaunchCmd) (n : Nat) : List (BitVec 64) :=
  match s.farRead 0 c.args (8 * n) with
  | .here bs => (List.range n).map (fun k => BitVec.ofNat 64 (fld bs (8 * k) 8))
  | _ => []

/-- The peer or host bytes of a launch's record and arguments that the command unit does not have yet (R446). -/
def State.launchLacks (s : State) (c : LaunchCmd) : List (List Nat) :=
  match s.farRead 0 c.krec 64 with
  | .lacking rs => rs
  | .failed => []
  | .here r =>
    let n := (kernelOf r c.code).narg
    if n = 0 then []
    else match s.farRead 0 c.args (8 * n) with
      | .lacking rs => rs
      | _ => []

/-- A pin holds what the take of a launch reads (R279). -/
def State.launchPinned (s : State) (c : LaunchCmd) : Bool :=
  s.unitPinned 0 c.krec 64 || (match s.record c with
    | none => false
    | some r => (kernelOf r c.code).narg != 0 && s.unitPinned 0 c.args (8 * (kernelOf r c.code).narg))

/-- What the take of a launch has read is forgotten. -/
def State.dropLaunch (s : State) (c : LaunchCmd) : State :=
  match s.record c with
  | none => s.dropFar 0 c.krec 64
  | some r => (s.dropFar 0 c.args (8 * (kernelOf r c.code).narg)).dropFar 0 c.krec 64

/-- The cause of R320 with which a launch fails step 1 of R318, or its kernel. An ENTRY that is no multiple of 12 and a ROLECNT byte beyond NROLE pass (DESIGN CHOICE, log 105). -/
def State.launchCheck (s : State) (c : LaunchCmd) : Except Nat Kernel :=
  match s.record c with
  | none => .error 2
  | some r =>
    let k := kernelOf r c.code
    if capOfs c.code ≠ 0 ∨ !s.capOk k.entry 12 4 1 ∨ (k.narg ≠ 0 ∧ !s.capOk c.args (8 * k.narg) 1 1) then .error 2
    else if recordBad r then .error 3
    else if c.blocks = 0 ∨ c.blockdim = 0 ∨ 32768 < c.blockdim then .error 4
    else if !k.roles.isEmpty ∧ c.blockdim % (32 * k.team) ≠ 0 then .error 5
    else if (spreadOf k (wheelsFor c.blockdim)).isNone ∨ s.job.privpool * 65536 < privBytes k * wheelsFor c.blockdim then .error 6
    else match s.timeCause c.loc c.ltime.toNat with
      | some _ => .error 7
      | none => .ok k

/-! ### History (R351-R354) -/

/-- Signatures are equal (R351). -/
def sameSig (a b : LaunchCmd) : Bool :=
  a.krec == b.krec && capObj a.code == capObj b.code && a.blocks == b.blocks && a.blockdim == b.blockdim
    && a.gtag == b.gtag && a.loc == b.loc

/-- The period P of a history (R352). -/
def period (h : List Hist) : Option Nat :=
  ((List.range 8).map (· + 1)).find? (fun p => decide (2 * p ≤ h.length) && (List.range p).all (fun i =>
    match h[i]?, h[i + p]? with
    | some a, some b => sameSig a.cmd b.cmd
    | _, _ => false))

/-- Bytes of an argument by ASIZE (R98). -/
def argBytes (k : Kernel) (i : Nat) : Nat := 2 ^ natBits k.asize (2 * i) 2

/-- The prediction of the next launch (R353). -/
def State.predict (s : State) (h : List Hist) : Option Hist :=
  match period h with
  | none => none
  | some p =>
    match h[p - 1]?, h[2 * p - 1]? with
    | some t, some u =>
      let lt := t.cmd.ltime + (t.cmd.ltime - u.cmd.ltime)
      if (s.timeCause t.cmd.loc lt.toNat).isSome then none
      else
        let arg := fun (l : List (BitVec 64)) (i : Nat) => (l[i]?).getD 0
        some { cmd := { t.cmd with ltime := lt }, kernel := t.kernel
               argv := (List.range t.kernel.narg).map (fun i =>
                 BitVec.ofNat 64 ((arg t.argv i + (arg t.argv i - arg u.argv i)).toNat % 256 ^ argBytes t.kernel i)) }
    | _, _ => none

/-- A taken launch matches a predicted one (R361). -/
def matchesRun (k : Kernel) (real pred : Hist) : Bool :=
  sameSig real.cmd pred.cmd && real.cmd.ltime == pred.cmd.ltime && (List.range k.narg).all (fun i =>
    natBits k.mtch i 1 == 0 || ((real.argv[i]?).getD 0).toNat % 256 ^ argBytes k i == ((pred.argv[i]?).getD 0).toNat % 256 ^ argBytes k i)

/-- A launch enters its queue's history, and CONF follows (R351, R354). -/
def State.learn (s : State) (q : Nat) (x : Hist) : State :=
  let y := s.queue q
  let hit := match s.predict y.hist with
    | none => false
    | some p => matchesRun x.kernel x p
  let h := (x :: y.hist).take 16
  let c := if hit then min (y.conf + 1) 7 else 0
  let c := if period h = period y.hist then c else 0
  s.modQueue q (fun y => { y with hist := h, conf := c, enAt := s.enPlace q })

/-- The slot of a queue's run in some states. -/
def State.runOf (s : State) (q : Nat) (st : List RunState) : Option Nat :=
  (s.slots.find? (fun x => x.2.queue == q && st.contains x.2.state)).map (fun x => x.1)

/-! ### Registering a launch (R229, R318) -/

/-- The next launch number, which is never 0 (R60). -/
def nextLaunch (n : Nat) : Nat := if (n + 1) % 2 ^ 32 = 0 then 1 else (n + 1) % 2 ^ 32

/-- A grid tag is newer than another (R229). -/
def newerTag (a b : Nat) : Bool := decide (0 < (a + 65536 - b) % 65536) && decide ((a + 65536 - b) % 65536 < 32768)

/-- NEWTAG after the take of a launch (R229). -/
def State.noteTag (s : State) (g : Nat) : State := if newerTag g s.newtag then { s with newtag := g } else s

/-- %launch is assigned and the launch's count is registered on die 0 (R318 steps 2 and 3). -/
def State.register (s : State) (c : LaunchCmd) : Nat × State :=
  let n := nextLaunch s.launchNo
  let s : State := { s with launchNo := n }
  (n, s.issueUpd 0 { upd := { loc := c.loc, time := c.ltime, delta := 1 }, owner := some (.launch n) })

/-- A launch enters the distributor's list (R318 step 4). -/
def State.enter (s : State) (q seq phase : Nat) (c : LaunchCmd) (k : Kernel) : State :=
  let (n, s) := s.register c
  let prio := ((s.qdesc q).map (fun d => d.prio)).getD 0
  let s : State := { s with launches := s.launches ++ [{ no := n, cmd := c, kernel := k, prio := prio, phase := phase, queue := q
                                                         seq := seq, units := c.blocks, taken := s.cycle }] }
  (s.modPend q seq (fun p => { p with launch := some n })).showQueue q

/-- The launch's count is accepted (R341). -/
def State.countAccepted (s : State) (n : Nat) : Bool :=
  let mine := fun (i : Issued) => i.owner == some (.launch n) && decide (0 < i.upd.delta)
  !(List.range 4).any (fun d => (s.reg d).issued.any mine) && !s.submitted.any (fun b => b.items.any mine)

end Sys2Proof.Machine
end

