-- ==== Sys2Proof/Machine/Launch.lean ====
section
/-! DEFINITION. The command unit's launch, graph-run, wait, signal and cancel commands (R315-R320, R446), and the distributor (R322, R323). -/

namespace Sys2Proof.Machine

/-- LAUNCH (R317, R318, R354, R362): refused, claimed from a run, or entered into the distributor's list. -/
def execLaunch (q : Nat) (s : State) : Out :=
  act (retryPins (fun s =>
    match s.myCmd q 0x20 with
    | none => s
    | some c =>
      let l := launchOf c.e
      if (s.queue q).ended then s.dropCmd c
      else if s.launchLacks l ≠ [] then s.askFar (s.launchLacks l)
      else if s.launchPinned l then s
      else
        let ok := s.crecOk c
        let chk : Except Nat Kernel := if cmdReserved c then .error 1 else if !ok then .error 2 else s.launchCheck l
        let k := match s.record l with
          | some r => kernelOf r l.code
          | none => {}
        let x : Hist := { cmd := l, argv := if k.narg = 0 then [] else s.argSlots l k.narg, kernel := k }
        let run := s.runOf q [.running, .done]
        let hit := match run with
          | none => false
          | some j => matchesRun k x (s.slot j).pred
        let s := (s.dropLaunch l).learn q x
        match chk with
        | .error cause =>
          let s := match run with
            | none => s
            | some j => s.discardRun j (if hit then 10 else 4)
          s.refuseCmd c cause ok
        | .ok k =>
          let s := (s.takeCmd c).noteTag l.gtag
          match run with
          | some j =>
            if hit then
              let done := decide ((s.slot j).state = .done)
              let s := s.modSlot j (fun x => { x with
                state := .claiming, claim := some (0, c.seq), wasDone := done, real := l, realKernel := k, phase := fld c.e 4 2 })
              let s : State := { s with ctxs := s.ctxs.map (fun e => if e.2.spec = some j then (e.1, { e.2 with paused := true }) else e) }
              s.showQueue q
            else (s.discardRun j 4).enter q c.seq (fld c.e 4 2) l k
          | none => s.enter q c.seq (fld c.e 4 2) l k)) s

/-- The cause of R320 that the start nodes of a graph run meet: a reserved field, a time fault, an entry that fails its check. -/
def State.graphCause (s : State) (ns : List Node) (t : Nat) : Option Nat :=
  if (startNodes ns).isEmpty then (if tBad t then some 7 else none)
  else (startNodes ns).findSome? (fun x =>
    if !x.2.clean then some 1 else if (s.timeCause x.2.loc t).isSome then some 7 else if (s.nodeCause 0 x.2 t).isSome then some 2 else none)

/-- RUN_GRAPH_INSTANCE (R244, R317, R318, R446): the instance's start tasks join die 0's queue, or wait for room in it. An instance or table behind an aperture is asked for first (R374; DEDUCED, log 111). -/
def execRunGraphInstance (q : Nat) (s : State) : Out :=
  act (retryPins (fun s =>
    match s.myCmd q 0x21 with
    | none => s
    | some c =>
      if (s.queue q).ended then s.dropCmd c
      else
        let i := fldCap c.e 8
        let t := fld c.e 48 8
        let reads := s.graphReads 0 i
        let ok := s.crecOk c
        if cmdReserved c then s.refuseCmd c 1 ok
        else if !ok || !s.capOk i 32 3 8192 then s.refuseCmd c 2 ok
        else if s.unitPinned 0 i 32 then s
        else if s.readsWait 0 reads then s.askReads 0 reads
        else match s.instNodes 0 i with
          | .error _ => (s.dropReads 0 reads).refuseCmd c 2 ok
          | .ok ns =>
            if reads.any (fun r => s.unitPinned 0 r.1 r.2) then s
            else match s.graphCause ns t with
              | some k => (s.dropReads 0 reads).refuseCmd c k ok
              | none =>
                let s := s.takeCmd c
                let (gen, s) := s.runGraph 0 i ns (BitVec.ofNat 64 t) c.prio 0 (fld c.e 4 2) (some (q, c.seq))
                (((s.modPend q c.seq (fun p => { p with inst := some (i, gen) })).showQueue q).endGraph i gen).dropReads 0 reads)) s

/-- A wait command completes when its time is complete on die 0, as an acquire at domain scope (R317). -/
def State.endWait (s : State) (q : Nat) : State :=
  match (s.queue q).pend.find? (fun p => p.op == 0x22 && p.fin.isNone && !p.done) with
  | some p =>
    (match p.wait with
      | none => s
      | some (loc, t) =>
        match s.timeStatus 0 loc t.toNat with
        | none => s
        | some st => (((s.dropL2 0 (inRank 4)).stale isRemote).completeCmd q p.seq st 0 0 0))
  | none => s

/-- WAIT_FOR_FRONTIER (R317). -/
def execWaitForFrontier (q : Nat) (s : State) : Out :=
  act (retryPins (fun s =>
    match s.myCmd q 0x22 with
    | none => s
    | some c =>
      if (s.queue q).ended then s.dropCmd c
      else
        let ok := s.crecOk c
        if cmdReserved c then s.refuseCmd c 1 ok
        else if !ok then s.refuseCmd c 2 ok
        else if (s.timeCause (fld c.e 42 2) (fld c.e 48 8)).isSome then s.refuseCmd c 7 ok
        else
          let s := (s.takeCmd c).modPend q c.seq (fun p => { p with wait := some (fld c.e 42 2, BitVec.ofNat 64 (fld c.e 48 8)) })
          (s.showQueue q).endWait q)) s

/-- FRONTIER_WAIT_COMPLETE (R317). -/
def execFrontierWaitComplete (q : Nat) (s : State) : Out := act (retryPins (fun s => s.endWait q)) s

/-- SIGNAL (R317): VALUE is written as a release. -/
def execSignal (q : Nat) (s : State) : Out :=
  act (retryPins (fun s =>
    match s.myCmd q 0x23 with
    | none => s
    | some c =>
      if (s.queue q).ended then s.dropCmd c
      else
        let ok := s.crecOk c
        if cmdReserved c then s.refuseCmd c 1 ok
        else if !ok || !s.capOk (fldCap c.e 8) 8 2 8 then s.refuseCmd c 2 ok
        else
          let s := s.releaseAll
          let scope := fld c.e 2 2 / 4 % 8
          if 4 ≤ scope && !s.allReleased (scope == 5) then s
          else ((s.takeCmd c).unitWrite 0 (fldCap c.e 8) ((c.e.drop 16).take 8)).completeCmd q c.seq 0 0 0 0)) s

/-- The live instance that a cancel command names (R316, R320). -/
def State.cancelTarget (s : State) (level t : Nat) : Option (Level × Doomed) :=
  match level with
  | 1 => if s.launches.any (fun l => l.no == t % 2 ^ 32) then some (.launch, s.doomedLaunch (t % 2 ^ 32)) else none
  | 2 =>
    (match (s.graphs.filter (fun g => g.inst.toNat == t)).getLast? with
      | some g => some (.graph, s.doomedGraph g.inst g.gen)
      | none => none)
  | 3 =>
    if s.launches.any (fun l => l.phase == t % 65536) || s.graphs.any (fun g => g.phase == t % 65536) then
      some (.phase, s.doomedPhase (t % 65536)) else none
  | 4 => if t = 0 then some (.job, s.doomedJob) else none
  | _ => none

/-- CANCEL_COMMAND (R245, R316, R347): on die 0. -/
def execCancelCommand (q : Nat) (s : State) : Out :=
  act (retryPins (fun s =>
    match s.myCmd q 0x24 with
    | none => s
    | some c =>
      if (s.queue q).ended then s.dropCmd c
      else
        let ok := s.crecOk c
        if cmdReserved c then s.refuseCmd c 1 ok
        else if !ok then s.refuseCmd c 2 ok
        else match s.cancelTarget (fld c.e 8 1) (fld c.e 16 8) with
          | none => s.refuseCmd c 8 ok
          | some (lv, x) => ((s.takeCmd c).cancelAll 0 lv x).completeCmd q c.seq 0 0 0 0)) s

/-! ### The distributor (R322, R323) -/

/-- What a candidate's head is: a saved context, a block of a launch, or a task of a die's queue. -/
inductive WorkHead where
  | saved (ctx : Nat)
  | block (no : Nat)
  | task (die : Nat)
  deriving DecidableEq, Repr

/-- A candidate of the distributor. -/
structure Work where
  head : WorkHead
  prio : Nat
  age : Nat
  deriving DecidableEq, Repr

/-- The work to place: launches with a restore list or unplaced blocks whose count is accepted and whose run, if it claims one, is committed (R363), and the head of each task queue (R322, R323, R341). -/
def State.work (s : State) : List Work :=
  (s.launches.filterMap (fun l =>
    match l.restore with
    | k :: _ => some { head := .saved k, prio := l.prio, age := l.taken }
    | [] => if l.next < l.cmd.blocks ∧ s.countAccepted l.no ∧ l.slot.all (fun k => (s.slot k).claim.isNone) then some { head := .block l.no, prio := l.prio, age := l.taken } else none))
  ++ ([0, 1, 2, 3].filterMap (fun d => match (s.die d).tasks with
    | t :: _ => some { head := match t.saved with | some k => .saved k | none => .task d, prio := t.prio, age := t.spawned }
    | [] => none))

/-- The chosen candidate: the highest priority, then the oldest (R322). -/
def State.nextWork (s : State) : Option Work :=
  if !s.serving then none
  else s.work.foldl (fun (a : Option Work) w => match a with
    | none => some w
    | some b => if b.prio < w.prio ∨ (b.prio = w.prio ∧ w.age < b.age) then some w else some b) none

/-- The kernel of a task (R326, R327). -/
def taskKernel (t : Task) : Kernel := { entry := t.entry, regs := 8 * (t.flags % 32 + 1) }

/-- What a head asks of cores: its shares, its private bytes and the die it is bound to (R261, R263, R323). -/
def State.demand (s : State) (h : WorkHead) : Option (List Share × Nat × Option Nat) :=
  match h with
  | .saved k => (sGet s.saved k).map (fun c => (c.cores.map c.shareOf, 0, some c.die))
  | .block n => (s.launches.find? (fun l => l.no == n)).map (fun l =>
      let nw := wheelsFor l.cmd.blockdim
      let m := (spreadOf l.kernel nw).getD 1
      ((List.range m).map (l.kernel.shareOf nw m), privBytes l.kernel * nw, none))
  | .task d => ((s.die d).tasks.head?).map (fun t => ([(taskKernel t).shareOf 1 1 0], 0, some d))

/-- Contexts whose resources count as free: those of runs (R322). -/
def Ctx.isRun (c : Ctx) : Bool := c.spec.isSome && !c.paused

/-- The cores that a head is placed on, if it passes (R322, R323). -/
def State.headCores (s : State) (h : WorkHead) (gone : Nat → Ctx → Bool) : Option (List Nat) :=
  match s.demand h with
  | none => none
  | some (xs, priv, die) => s.chooseCores xs priv die gone

/-- A victim may be saved for a head of a priority (R323, R389). -/
def State.victim (s : State) (prio : Nat) (c : Ctx) : Bool :=
  !c.handler && c.spec.isNone && !c.saving && !c.paused && decide (c.prio < prio) && decide (c.placed + 165000 ≤ s.cycle)

/-- Entries of a context's outstanding loads: one for each thread, or one for a uniform destination (R390). -/
def Ctx.nld (c : Ctx) : Nat := c.loads.foldl (fun a o => a + (if o.uni then 1 else o.tids.length)) 0

/-- The sizes of the sections of a context's save area, in their order (R389): header, wheels, threads, vector registers, block registers, range locks, outstanding loads, remote progress, shared memory. -/
def Ctx.areaSections (c : Ctx) : List Nat :=
  let n := c.wheels.length
  [128, 1024 * n, 32 * 32 * n, c.wheels.foldl (fun a w => a + 128 * w.window) 0, 1024 + 768 + 1024, 16 * 64, 32 * c.nld,
    32 * c.remotes.length, c.kernel.sharedBytes]

/-- The offset of a section from the base of the save area (R389). -/
def Ctx.areaOfs (c : Ctx) (k : Nat) : Nat := (c.areaSections.take k).foldl (· + ·) 0

/-- The bytes of a context's save area: its sections, up to a multiple of 128 (R389). -/
def Ctx.areaBytes (c : Ctx) : Nat := cdiv (c.areaOfs 9) 128 * 128

/-- The offset of a new save area in a die's pool: 128-byte aligned, the lowest at which it meets no other area (R389). -/
def State.areaRoom (s : State) (die n : Nat) : Nat :=
  let used := ((s.ctxs ++ s.saved).filter (fun e => e.2.die == die && e.2.area != 0)).map (fun e => (e.2.areaAt, e.2.areaAt + e.2.area))
  ((sortBy id (0 :: used.map (fun r => r.2))).find? (fun a => used.all (fun r => decide (a + n ≤ r.1) || decide (r.2 ≤ a)))).getD 0

/-- Contexts whose save areas fit in free bytes together, in their order (R323, R389). -/
def fitSaves : Nat → List (Nat × Ctx) → List (Nat × Ctx)
  | _, [] => []
  | free, e :: es => if e.2.areaBytes ≤ free then e :: fitSaves (free - e.2.areaBytes) es else fitSaves free es

/-- The fewest victims, in their order, whose saving lets a head pass (R323). -/
def State.victims (s : State) (w : Work) : List Nat :=
  let order := fun (l : List (Nat × Ctx)) => sortBy (fun (e : Nat × Ctx) => e.2.prio) (sortBy (fun (e : Nat × Ctx) => e.2.placed) l)
  let pool := s.ctxs.filter (fun e => s.victim w.prio e.2)
  let vs := ((pool.flatMap (fun e => e.2.cores)).dedup).flatMap (fun o =>
    fitSaves (s.die (dieOf o)).pools.save (order (pool.filter (fun e => e.2.cores.contains o))))
  let all := fun (k : Nat) (c : Ctx) => c.isRun || c.saving || vs.any (fun e => e.1 == k)
  match s.headCores w.head all with
  | none => []
  | some cores =>
    let mine := fitSaves (s.die (dieOf (cores.headD 0))).pools.save (order (pool.filter (fun e => e.2.cores.any cores.contains)))
    let need := (List.range (mine.length + 1)).find? (fun n =>
      let out := (mine.take n).map (fun e => e.1)
      (s.headCores w.head (fun k c => c.isRun || c.saving || out.contains k)).isSome)
    (mine.take (need.getD mine.length)).map (fun e => e.1)

/-- The pointer of the rotating order stands at the last core of a placement (R322). -/
def State.noteCores (s : State) (cores : List Nat) : State := { s with distPtr := cores.getLast? }

/-- The next block of a launch is placed on cores. -/
def State.placeBlock (s : State) (n : Nat) (cores : List Nat) : State :=
  match s.launches.find? (fun l => l.no == n) with
  | none => s
  | some l =>
    let s := s.placeCtx { launch := n, block := l.next, dim := l.cmd.blockdim, ltime := l.cmd.ltime, loc := l.cmd.loc
                          phase := l.phase, gtag := l.cmd.gtag, prio := l.prio, arg := l.cmd.args, kernel := l.kernel
                          specBit := l.specBit } cores
    ((s.modLaunch n (fun l => { l with next := l.next + 1 })).noteCores cores).showQueue l.queue

/-- The head task of a die is placed: one count of its pair moves to its unit (R327, R337). -/
def State.placeTask (s : State) (d : Nat) (cores : List Nat) : State :=
  match (s.die d).tasks with
  | [] => s
  | t :: rest =>
    let s := s.modDie d (fun x => { x with tasks := rest })
    let id := s.nextCtx
    let s := s.placeCtx { launch := t.launch, dim := 32, ltime := t.time, loc := t.loc, task := t.cap, trec := some t
                          graph := if t.isGraph then some (t.inst, (capOfs t.succ % 8192 - 32) / 4, t.gen) else none
                          phase := t.phase, prio := t.prio, arg := t.args, kernel := taskKernel t } cores
    ((s.addNet d t.owner t.loc t.time (-1)).addNet d (.unit id) t.loc t.time 1).noteCores cores

/-- Cores that hold nothing (R355). -/
def State.idleCores (s : State) : List Nat := s.rotation.filter (fun c => !s.ctxs.any (fun e => e.2.cores.contains c))

/-- The next block of a run is placed on idle cores, if they hold it (R356). -/
def State.placeRun (s : State) (j : Nat) : Option State :=
  let x := s.slot j
  let l := x.pred.cmd
  let nw := wheelsFor l.blockdim
  if !s.serving ∨ x.state ≠ .running ∨ l.blocks ≤ x.next then none
  else match spreadOf x.kernel nw with
    | none => none
    | some n =>
      let idle := s.idleCores.filter (fun c => decide (privBytes x.kernel * nw ≤ (s.die (dieOf c)).pools.priv))
      let cores := ((diesOf idle).findSome? (fun d =>
        let l := (if n = 1 then idle else idle.filter (fun c => dieOf c == d)).take n
        if l.length = n then some l else none)).getD []
      if cores.length < n then none
      else
        let s := s.placeCtx { block := x.next, dim := l.blockdim, ltime := l.ltime, loc := l.loc, gtag := l.gtag
                              prio := ((s.qdesc x.queue).map (fun d => d.prio)).getD 0, arg := mkCap x.argobj 0
                              kernel := x.kernel, spec := some j, specBit := true } cores
        some (s.modSlot j (fun x => { x with next := x.next + 1 }))

/-- Blocks of runs go to idle cores. -/
def State.placeRuns (s : State) : State :=
  (List.range 4).foldl (fun s j => (s.placeRun j).getD s) s

/-- Something can be placed, or a run has a block to place. -/
def State.placeDue (s : State) : Bool := s.nextWork.isSome || (List.range 4).any (fun j => (s.placeRun j).isSome)

/-- PLACEMENT_ATTEMPT (R322, R323): the head of the chosen candidate is placed or restored, or victims are saved for it. -/
def execPlacementAttempt (s : State) : Out :=
  act (retryPins (fun s =>
    match s.nextWork with
    | none => s.placeRuns
    | some w =>
      match s.headCores w.head (fun _ c => c.isRun) with
      | some cores =>
        let s := s.evictRuns cores
        (match w.head with
          | .block n => (s.placeBlock n cores).placeRuns
          | .task d => (s.placeTask d cores).placeRuns
          | .saved k => s.push (.contextRestore k))
      | none => ((s.victims w).foldl (fun s k => s.push (.contextSave k)) s).placeRuns)) s

end Sys2Proof.Machine
end

