-- ==== Sys2Proof/Machine/Save.lean ====
section
/-! DEFINITION. Saving and restoring a context (R152, R258, R299, R386-R391). -/

namespace Sys2Proof.Machine

/-! ### Saving (R386, R387) -/

/-- Operations of a context that wait in its cores' matrix queues, in queue order (R152). -/
def State.queuedOps (s : State) (ctx : Nat) (c : Ctx) : List (Nat × Nat × Nat × List Signer) :=
  c.cores.flatMap (fun o => ((s.core o).mqueue.filter (fun m => m.ctx == ctx)).map (fun m => (o, m.creg, m.group, m.signers)))

/-- Step 1: no beat issues, queued matrix operations are withdrawn, latches are released, and the save area is the context's own (R152, R163, R386, R389). -/
def State.stopCtx (s : State) (ctx : Nat) : State :=
  match sGet s.ctxs ctx with
  | none => s
  | some c =>
    let ops := s.queuedOps ctx c
    let s := if c.saving then s.setCtx ctx { c with withdrawn := c.withdrawn ++ ops }
      else
        let n := c.areaBytes
        let c' := { c with saving := true, area := n, areaAt := s.areaRoom c.die n, withdrawn := c.withdrawn ++ ops }
        (s.setCtx ctx c').modDie c.die (fun d => { d with pools := { d.pools with save := d.pools.save - n } })
    c.cores.foldl (fun s o => s.modCore o (fun x => { x with
      mqueue := x.mqueue.filter (fun m => m.ctx != ctx), latches := x.latches.filter (fun l => l.ctx != ctx) })) s

/-- Steps 1 and 2 have ended: no operation in a matrix unit, no copy of a thread whose bytes have not moved: one whose release waits for acknowledgements makes an entry (R390), no engine entry into its shared memory. -/
def State.stopped (s : State) (ctx : Nat) (c : Ctx) : Bool :=
  c.cores.all (fun o => (s.core o).mdone.all (fun m => m.op.ctx != ctx)) && c.loads.all (fun o => o.cpy.isEmpty || o.moved)
    && !s.sharedEntries ctx false

/-- A place lies in a private region of the context (R171). -/
def Ctx.privAt (c : Ctx) (p : Nat) : Bool :=
  decide (pTag p = 1) && c.wheels.any (fun w =>
    decide (c.die * 2 ^ 37 + w.frame ≤ pIdx p) && decide (pIdx p < c.die * 2 ^ 37 + w.frame + privBytes c.kernel))

/-- A saved task wheel goes before the tasks of its die that are not ahead of it: behind the head that it was saved for, or first (R323). -/
def requeue (t : Task) (l : List Task) : List Task :=
  match l with
  | h :: rest => if t.prio < h.prio then h :: t :: rest else t :: l
  | [] => [t]

/-- Steps 4 and 5, after the release: the range locks, and the context in its save area (R386, R387, R389). -/
def State.storeCtx (s : State) (ctx : Nat) : State :=
  match sGet s.ctxs ctx with
  | none => s
  | some c =>
    let s := c.cores.foldl (fun s o => (s.flushL1 o c.privAt).dropL1 o c.privAt) s
    let locks := c.cores.flatMap (fun o => (s.core o).locks.filter (fun l => l.ctx == ctx))
    let s := c.cores.foldl (fun s o => s.modCore o (fun x => { x with locks := x.locks.filter (fun l => l.ctx != ctx) })) s
    let s := s.modDie c.die (fun d => { d with
      tasks := match c.trec with
        | some t => requeue { t with saved := some ctx, start := false } d.tasks
        | none => d.tasks })
    let c := { c with saving := false, locks := c.locks ++ locks }
    let s : State := { s with ctxs := sDel s.ctxs ctx, saved := sPut s.saved ctx c }
    if c.trec.isSome then s else s.modLaunch c.launch (fun l => { l with restore := l.restore ++ [ctx] })

/-- CONTEXT_SAVE (R386): the context stops, and is stored once the matrix unit and the engines are done with it and its release is over. -/
def execContextSave (ctx : Nat) (s : State) : Out :=
  act (retryPinsFor (((sGet s.ctxs ctx).map (fun c => c.cores)).getD []) (fun s =>
    match sGet s.ctxs ctx with
    | none => s
    | some c =>
      if c.handler || c.cancelled || c.spec.isSome then s
      else if !c.saving && decide ((s.die c.die).pools.save < c.areaBytes) then s
      else
        let s := s.stopCtx ctx
        if s.stopped ctx c then
          let s := s.settleStores ctx
          if s.storesSettled ctx then s.storeCtx ctx else s
        else s)) s

/-! ### Restoring (R258, R391) -/

/-- The core of a share after the restore. -/
def Ctx.newCore (c : Ctx) (new : List Nat) (o : Nat) : Nat :=
  match c.cores.findIdx? (fun x => x == o) with
  | some j => (new[j]?).getD o
  | none => o

/-- The wheels that have not ended on their new cores, each in a free slot of its quarter, the lowest first (R251). -/
def State.reseat (s : State) (c : Ctx) (new : List Nat) : List Wheel :=
  c.wheels.map (fun w =>
    let o := c.newCore new w.core
    let nth := (c.wheels.filter (fun x => x.core == w.core && x.quarter == w.quarter && !x.gone && decide (x.idx < w.idx))).length
    { w with core := o, slot := if w.gone then w.slot else ((s.freeSlots o w.quarter)[nth]?).getD 0 })

/-- What a wait names on its new core. -/
def WaitKind.moveTo (k : WaitKind) (f : Nat → Nat) : WaitKind :=
  match k with
  | .claim o q w n => .claim (f o) q w n
  | .gather o q pc ws ts => .gather (f o) q pc ws ts
  | .regroup o ps => .regroup (f o) ps
  | .miss (.desc o obj) => .miss (.desc (f o) obj)
  | k => k

/-- The thread waits in a blocking claim. -/
def WaitKind.isClaim : WaitKind → Bool
  | .claim _ _ _ _ => true
  | _ => false

/-- Waits restart; claims take new numbers, which puts them at the tail of their queues (R209, R258). -/
def Ctx.restart (c : Ctx) (new : List Nat) (now next : Nat) : Ctx × Nat :=
  let ws := c.waits.map (fun w => { w with kind := w.kind.moveTo (c.newCore new), deadline := w.deadline.map (fun _ => now + w.span) })
  let cl := (sortBy (fun (w : Wait) => w.wid) (ws.filter (fun w => w.kind.isClaim))).zipIdx
  let num := fun (w : Wait) => match cl.find? (fun x => x.1.wid == w.wid) with
    | some x => next + x.2
    | none => w.wid
  ({ c.modT (fun _ => true) (fun t => match t.st with
      | .suspended i => (match ws.find? (fun w => w.wid == i) with
        | some w => { t with st := .suspended (num w) }
        | none => t)
      | _ => t) with waits := ws.map (fun w => { w with wid := num w }) }, next + cl.length)

/-- Stamps restart at the restore cycle, in their saved order (R258). -/
def Ctx.restamp (c : Ctx) (now : Nat) : Ctx :=
  let olds := sortBy id ((c.threads.filterMap (fun t => t.stamp)).dedup)
  c.modT (fun t => t.stamp.isSome) (fun t => { t with
    stamp := some now, rank := (olds.findIdx? (fun x => t.stamp == some x)).getD 0 })

/-- The coordinate of a refused load's peer. -/
def OLoad.peer (o : OLoad) : Nat :=
  match o.places with
  | p :: _ => if pTag p = 5 then (peerOf p).1 else o.coord
  | [] => o.coord

/-- Saved loads whose reply has come write their registers, and enter no cache: the bytes are those of the reply's cycle (R276); refused ones park their threads with a record of the remote class (R391). -/
def State.landSaved (s : State) (ctx : Nat) : State :=
  match sGet s.ctxs ctx with
  | none => s
  | some c =>
    let tags := ((c.loads.filter (fun o => o.arrived && !o.isFill)).map (fun o => o.ltag)).dedup
    let s : State := { s with late := s.late ++ tags }
    let s := tags.foldl (fun s t =>
      let os := c.loads.filter (fun o => o.ltag == t)
      s.landReply ctx c os ((os.head?.map (fun o => o.data)).getD [])) s
    let bad := c.loads.filter (fun o => o.refused && o.nreg != 0)
    let s := s.modCtx ctx (fun c => bad.foldl (fun c o => c.dropLoad o) c)
    ((bad.map (fun o => (o.pc, o.words))).dedup).foldl (fun s k =>
      s.faultLanes ctx k.1 k.2 ((bad.filter (fun o => (o.pc, o.words) == k)).any (fun o => o.uni)) ((bad.filter (fun o => (o.pc, o.words) == k)).flatMap (fun o => o.tids.map (fun t =>
        { tid := t, cls := 0x11, cause := o.cause, addr := o.cap, info := BitVec.ofNat 64 o.peer })))) s

/-- The new cores' range-lock tables take the saved locks (R191, R391). -/
def State.locksFit (s : State) (c : Ctx) (new : List Nat) : Bool :=
  new.all (fun o => decide ((s.core o).locks.length + (c.locks.filter (fun l => c.newCore new l.core == o)).length ≤ 64))

/-- What a saved context has waiting in stage 2 waits at the die of its new core, whose coalescer will take it (R234, R299). -/
def State.restage (s : State) (ctx : Nat) (c : Ctx) : State :=
  let all := s.dies.flatMap (fun d => d.2.grid.staged.filter (fun x => x.contrib.ctx == ctx))
  let s : State := { s with dies := s.dies.map (fun d => (d.1, { d.2 with grid := { d.2.grid with
    staged := d.2.grid.staged.filter (fun x => x.contrib.ctx != ctx) } })) }
  all.foldl (fun s x =>
    let die := dieOf (((c.wheel x.contrib.wheel).map (fun w => w.core)).getD (c.cores.headD 0))
    s.modGrid die (fun g => { g with staged := g.staged ++ [{ x with contrib := { x.contrib with
      core := (((c.wheel x.contrib.wheel).map (fun w => w.core)).getD (c.cores.headD 0)) % 40
      pkts := x.contrib.pkts.map (fun p => { p with srcDie := die }) } }] })) s

/-- A saved context is placed on cores again (R391). -/
def State.restoreCtx (s : State) (ctx : Nat) (c : Ctx) (new : List Nat) : State :=
  let f := c.newCore new
  let ws := s.reseat c new
  let r := c.restart new s.cycle s.nextWid
  let c' := (r.1.restamp s.cycle)
  let c' := { c' with
    cores := new, wheels := ws, placed := s.cycle, area := 0, areaAt := 0, withdrawn := [], locks := []
    cregs := c.cregs.map (fun e => (cvKey (f (e.1 / 16)) (e.1 % 16), e.2))
    tregs := c.tregs.map (fun e => (cvKey (f (e.1 / 16)) (e.1 % 16), e.2))
    regrouped := c.regrouped.map (fun e => (f e.1, e.2)) }
  let s : State := { s.freshPtrs ws with saved := sDel s.saved ctx, nextWid := r.2 }
  let s := (s.setCtx ctx c').restage ctx c'
  let s := c.locks.foldl (fun s l => s.modCore (f l.core) (fun x => { x with locks := x.locks ++ [{ l with core := f l.core }] })) s
  let s := c.withdrawn.foldl (fun s o => s.modCore (f o.1) (fun x => { x with
    mqueue := x.mqueue ++ [{ ctx := ctx, creg := o.2.1, group := o.2.2.1, signers := o.2.2.2 }] })) s
  let s := s.modDie c.die (fun d => { d with
    pools := { d.pools with save := d.pools.save + c.area }, tasks := d.tasks.filter (fun t => t.saved != some ctx) })
  let s : State := { s with
    chains := s.chains.map (fun ch => { ch with pubs := ch.pubs.map (fun p => if p.2.1 = ctx then (p.1, ctx, f p.2.2) else p) })
    launches := s.launches.map (fun l => { l with restore := l.restore.filter (fun k => k != ctx) }) }
  ((s.startAcquire c' new).noteCores new).landSaved ctx

/-- CONTEXT_RESTORE (R391). -/
def execContextRestore (ctx : Nat) (s : State) : Out :=
  act (fun s =>
    match sGet s.saved ctx, s.headCores (.saved ctx) (fun _ c => c.isRun) with
    | some c, some new => if s.locksFit c new then (s.evictRuns new).restoreCtx ctx c new else s
    | _, _ => s) s

end Sys2Proof.Machine
end

