-- ==== Sys2Proof/Machine/Host.lean ====
section
/-! DEFINITION. The host's attachment: queue pairs and RDMA (R424, R425, R430), the device control area (R366, R367, R415-R418, R422, R423, R426-R428), and the job's load, GO, END and ENDING (R427-R429). -/

namespace Sys2Proof.Machine

/-! ### Queue pairs and answers (R424) -/

/-- An answer or request leaves for the host. -/
def State.tellHost (s : State) (m : HostMsg) : State := { s with hostOut := s.hostOut ++ [m] }

/-- What the device supports of a queue pair: reliable connection, and the three path MTUs (R424). -/
def qpOk (o : QpOpts) : Bool := o.reliable && [1024, 2048, 4096].contains o.mtu

/-- QUEUE_PAIR_CREATE (R424, R431): another transport is refused at connection, and no port is up before die reset ends. -/
def execQueuePairCreate (qp die tag : Nat) (opt : QpOpts) (base : Nat) (s : State) : Out :=
  act (fun s =>
    if 0x10 ≤ qp ∧ qp ≤ 0x100F ∧ die < 4 ∧ tag < 4096 ∧ qpOk opt = true ∧ s.mgmt.power = .main ∧ s.mgmt.inReset = false then
      { s with qps := sPut s.qps qp { die := die, tag := tag, control := opt.control, mtu := opt.mtu, base := base } }
    else s) s

/-- QUEUE_PAIR_DESTROY (R424). -/
def execQueuePairDestroy (qp : Nat) (s : State) : Out := act (fun s => { s with qps := sDel s.qps qp }) s

/-- UNSUPPORTED_RDMA_OPCODE (R424): a NAK, and nothing else. -/
def execUnsupportedRdmaOpcode (qp _opcode : Nat) (s : State) : Out :=
  act (fun s => if (sGet s.qps qp).isSome then s.tellHost (.nakInvalid qp) else s) s

/-- The context, placed or saved, that an outstanding load's tag belongs to. -/
def State.loadCtx (s : State) (tag : Nat) : Option Nat :=
  ((s.ctxs ++ s.saved).find? (fun e => e.2.loads.any (fun o => o.ltag == tag))).map (fun e => e.1)

/-- HOST_RESPONSE (R278, R371, R424): an acknowledgement or data for a request of the device. -/
def execHostResponse (tag : Nat) (ok : Bool) (data : List Byte) (s : State) : Out :=
  act (fun s =>
    let s : State := { s with hostReqs := s.hostReqs.filter (fun r => r.tag != tag) }
    match s.loadCtx tag with
    | some k => s.reply k tag (!ok) data 0x0B 4
    | none => s.engReply tag (!ok) data) s

/-! ### The control area (R426) -/

/-- A change to a die's fabric control block. -/
def State.modFabric (s : State) (d : Nat) (f : Fabric → Fabric) : State := s.modDie d (fun x => { x with fabric := f x.fabric })

/-- A rule of a rule word (R416). -/
def ruleOf (v : Nat) : Rule :=
  { valid := natBits v 0 1 == 1, pfx := natBits v 1 10, len := natBits v 11 4, port := natBits v 15 5, detour := natBits v 20 1 == 1 }

/-- The word of a rule (R416). -/
def ruleWord (r : Rule) : Nat := bitN r.valid 0 + r.pfx % 2 ^ 10 * 2 + r.len % 16 * 2 ^ 11 + r.port % 32 * 2 ^ 15 + bitN r.detour 20

/-- Code of a link state (R422). -/
def linkCode : LinkState → Nat
  | .down => 0
  | .train => 1
  | .up => 2
  | .failed => 3

/-- LSTAT of a link (R422). -/
def lstatWord (k : Link) : Nat :=
  linkCode k.state + bitN k.miswire 4 + k.replays % 256 * 2 ^ 8 + k.crcerr % 65536 * 2 ^ 16 + k.peercoord % 2 ^ 25 * 2 ^ 32
    + k.peerdie % 4 * 2 ^ 57

/-- The destination word of a rank (R417). -/
def State.destReg (s : State) (d r : Nat) : Nat :=
  bitN (s.destWord d r).use 0 + bitN (s.destWord d r).hold 1 + s.pend d r % 2 ^ 13 * 4

/-- A 32-bit word of a die's fabric control block as it reads (R415-R418, R422, R423). -/
def State.fabricGet (s : State) (d o : Nat) : Nat :=
  let f := (s.die d).fabric
  if o = 0 then bitN f.curver 0 + bitN f.busy 2
  else if o = 4 then s.coordAt d % 2 ^ 25
  else if 0x100 ≤ o ∧ o < 0x300 then ruleWord ((sGet f.rules ((o - 0x100) / 4)).getD {})
  else if 0x300 ≤ o ∧ o < 0x380 then s.destReg d ((o - 0x300) / 4)
  else if 0x400 ≤ o ∧ o < 0x440 then
    let k := 8 * d + (o - 0x400) / 8
    if k = 31 then 0 else lstatWord (s.link k) / 2 ^ (32 * (o / 4 % 2)) % 2 ^ 32
  else if 0x440 ≤ o ∧ o < 0x460 then
    let k := 8 * d + (o - 0x440) / 4
    if k = 31 then 0 else (s.link k).lexpPeer % 2 ^ 25 + bitN (s.link k).lexpChk 31
  else 0

/-- A 32-bit word of a die's fabric control block written; SWITCH starts a switch, RESET resets a link (R415, R416, R418, R421, R423). -/
def State.fabricSet (s : State) (d o v : Nat) : State :=
  let f := (s.die d).fabric
  if o = 0 then
    (if v / 2 % 2 = 1 ∧ !f.busy then (s.modFabric d (fun f => { f with busy := true })).push (.routeSwitch d) else s)
  else if o = 4 then s.modFabric d (fun f => { f with mycoord := v % 2 ^ 25 })
  else if 0x100 ≤ o ∧ o < 0x300 then
    let i := (o - 0x100) / 4
    if i / 64 = (if f.curver then 1 else 0) then s else s.modFabric d (fun f => { f with rules := sPut f.rules i (ruleOf v) })
  else if 0x400 ≤ o ∧ o < 0x440 ∧ o % 8 = 0 then
    let k := 8 * d + (o - 0x400) / 8
    if k ≠ 31 ∧ v / 8 % 2 = 1 then s.push (.linkReset k) else s
  else if 0x440 ≤ o ∧ o < 0x460 then
    let k := 8 * d + (o - 0x440) / 4
    if k = 31 then s else s.modLink k (fun x => { x with lexpPeer := v % 2 ^ 25, lexpChk := v / 2 ^ 31 % 2 == 1 })
  else s

/-- RUN of a predictor status word (R367). -/
def runCode : RunState → Nat
  | .idle => 0
  | .running => 1
  | .done => 2
  | .claiming => 3
  | .commit => 4

/-- The predictor status of a queue (R367). -/
def State.predWord (s : State) (q : Nat) : Nat :=
  let x := s.queue q
  let k := s.runOf q [.running, .done, .claiming, .commit]
  (if (s.predict x.hist).isSome then (period x.hist).getD 0 else 0) + x.conf % 8 * 16 + x.hist.length % 32 * 2 ^ 7
    + (match k with | some j => runCode (s.slot j).state * 2 ^ 12 + j % 4 * 2 ^ 15 | none => 0) + x.lastCause % 16 * 2 ^ 17

/-- A half of a 64-bit word. -/
def half64 (v i : Nat) : Nat := v / 2 ^ (32 * i) % 2 ^ 32

/-- A 64-bit word with a half replaced. -/
def setHalf (v i x : Nat) : Nat := natSetBits v (32 * i) 32 x

/-- Code of a job state (R426). -/
def jobCode : JobState → Nat
  | .idle => 0
  | .loading => 1
  | .run => 2
  | .ending => 3

/-- A 32-bit word of the device control area as it reads (R426). -/
def State.ctlGet (s : State) (o : Nat) : Nat :=
  let j := s.job
  if o < 0x2000 then s.fabricGet (o / 2048) (o % 2048)
  else if o = 0x2000 then bitN s.pectl.en 0 + s.pectl.maxrun * 2 + s.pectl.argobj * 16
  else if o = 0x2004 then s.pectl.starts
  else if o = 0x2008 then s.pectl.claims
  else if o = 0x200C then s.pectl.discards
  else if 0x2100 ≤ o ∧ o < 0x2500 then s.predWord ((o - 0x2100) / 4)
  else if 0x2800 ≤ o ∧ o < 0x2840 then (sGet s.leases ((o - 0x2800) / 4)).getD 15
  else if o = 0x2900 then jobCode j.state + j.err % 256 * 256
  else if o / 8 = 0x2908 / 8 then half64 j.qtbl.toNat (o / 4 % 2)
  else if o = 0x2910 then j.savepool
  else if o = 0x2914 then j.respages
  else if o = 0x2918 then j.privpool
  else if o = 0x291C then j.scrblks
  else if o / 8 = 0x2920 / 8 then half64 j.gmeta.toNat (o / 4 % 2)
  else if o / 8 = 0x2928 / 8 then half64 j.psum.toNat (o / 4 % 2)
  else if 0x2A00 ≤ o ∧ o < 0x2A80 then
    let t := s.otbl ((o - 0x2A00) / 32)
    match o % 32 / 4 with
    | 0 => t.dirframe
    | 1 => t.nobj
    | 2 => t.leafframe
    | 3 => t.leafbytes
    | k => (t.rsv[k - 4]?).getD 0
  else if 0x2B00 ≤ o ∧ o < 0x2B80 then
    let h := (sGet j.handler ((o - 0x2B00) / 32)).getD {}
    match o % 32 / 8 with
    | 0 => half64 h.krec.toNat (o / 4 % 2)
    | 1 => half64 h.code.toNat (o / 4 % 2)
    | 2 => half64 h.args.toNat (o / 4 % 2)
    | _ => half64 h.rsv (o / 4 % 2)
  else 0

/-- A word of the job's tables and pools written: only in IDLE and LOADING (R427, R428). -/
def State.jobSet (s : State) (o v : Nat) : State :=
  let cap := fun (c : Cap) => (BitVec.ofNat 64 (setHalf c.toNat (o / 4 % 2) v) : Cap)
  let j := s.job
  if j.state = .run ∨ j.state = .ending then s
  else if 0x2800 ≤ o ∧ o < 0x2840 then { s with leases := sPut s.leases ((o - 0x2800) / 4) (v % 16) }
  else
    let j := if o / 8 = 0x2908 / 8 then { j with qtbl := cap j.qtbl }
      else if o = 0x2910 then { j with savepool := v }
      else if o = 0x2914 then { j with respages := v }
      else if o = 0x2918 then { j with privpool := v }
      else if o = 0x291C then { j with scrblks := v }
      else if o / 8 = 0x2920 / 8 then { j with gmeta := cap j.gmeta }
      else if o / 8 = 0x2928 / 8 then { j with psum := cap j.psum }
      else if 0x2A00 ≤ o ∧ o < 0x2A80 then
        let d := (o - 0x2A00) / 32
        let t := s.otbl d
        let t := match o % 32 / 4 with
          | 0 => { t with dirframe := v }
          | 1 => { t with nobj := v }
          | 2 => { t with leafframe := v }
          | 3 => { t with leafbytes := v }
          | k => { t with rsv := (List.range 4).map (fun i => if i = k - 4 then v else (t.rsv[i]?).getD 0) }
        { j with otbl := sPut j.otbl d t }
      else if 0x2B00 ≤ o ∧ o < 0x2B80 then
        let d := (o - 0x2B00) / 32
        let h := (sGet j.handler d).getD {}
        let h := match o % 32 / 8 with
          | 0 => { h with krec := cap h.krec }
          | 1 => { h with code := cap h.code }
          | 2 => { h with args := cap h.args }
          | _ => { h with rsv := setHalf h.rsv (o / 4 % 2) v }
        { j with handler := sPut j.handler d h }
      else j
    { s with job := j }

/-- A 32-bit word of the device control area written (R366, R415, R426, R428). -/
def State.ctlSet (s : State) (o v : Nat) : State :=
  if o < 0x2000 then s.fabricSet (o / 2048) (o % 2048) v
  else if o = 0x2000 then
    { s with pectl := { s.pectl with en := v % 2 == 1, maxrun := min 4 (natBits v 1 3), argobj := natBits v 4 20 } }
  else if o = 0x2900 then
    let s := if natBits v 3 1 = 1 ∧ s.job.state = .idle then s.push (.jobLoad { grid := s.grid }) else s
    let s := if natBits v 4 1 = 1 ∧ s.job.state = .loading then s.push .jobGo else s
    if natBits v 5 1 = 1 ∧ s.job.state = .run then s.push .jobEnd else s
  else s.jobSet o v

/-- The word at an offset is the low half of a 64-bit register. -/
def wideReg (o : Nat) : Bool :=
  o % 8 == 0 && (decide (0x2908 ≤ o ∧ o < 0x2930) || decide (0x2B00 ≤ o ∧ o < 0x2B80) || decide (o < 0x2000 ∧ 0x400 ≤ o % 2048 ∧ o % 2048 < 0x440))

/-- SECCFG written (R439): RESP unless LOCK is set, LOCK only ever set; RESP 11 is stored as 10. -/
def SecCfg.write (c : SecCfg) (v : Nat) : SecCfg :=
  { resp := if c.lock then c.resp else min 2 (v % 4), lock := c.lock || v / 4 % 2 == 1 }

/-- EVCTL written (R441): SPARE; REQ in RUN starts the handshake. -/
def State.evctlSet (s : State) (v : Nat) : State :=
  let sp := natBits v 32 25
  let s : State := { s with mgmt := { s.mgmt with evctl := { s.mgmt.evctl with spare := sp } } }
  if v % 2 = 1 ∧ s.mgmt.evctl.state = .run then s.push (.evictionRequest sp) else s

/-- A request of the same queue pair waits, so that writes arrive in order (R430). -/
def State.qpDelayed (s : State) (qp : Nat) : Bool :=
  s.delayed.any (fun d => match d.req with
    | .rdmaWrite r _ => r.qp == qp
    | .rdmaRead r _ => r.qp == qp
    | .rdmaAtomic r _ _ _ => r.qp == qp
    | .registerWrite (.control q _) _ => q == qp
    | _ => false)

/-- A host request waits inside the device and is tried again (R279, R425). -/
def State.delay (s : State) (i : Instr) : State := { s with delayed := s.delayed ++ [{ req := i }] }

/-- REGISTER_WRITE (R366, R415, R423, R426, R428, R439, R441): a word of the control area through a queue pair with the control right, or a register of the management bus; it waits for the pair's earlier requests (R429, R430). -/
def execRegisterWrite (r : CtlReg) (v : BitVec 64) (s : State) : Out :=
  act (fun s =>
    match r with
    | .control qp o =>
      if s.qpDelayed qp then s.delay (.registerWrite r v)
      else (match sGet s.qps qp with
        | some q =>
          if q.control && o % 4 == 0 then
            let s := s.ctlSet o (v.toNat % 2 ^ 32)
            if wideReg o then s.ctlSet (o + 4) (v.toNat / 2 ^ 32) else s
          else s
        | none => s)
    | .seccfg => { s with mgmt := { s.mgmt with seccfg := s.mgmt.seccfg.write v.toNat } }
    | .evctl => s.evctlSet v.toNat
    | .wall => { s with mgmt := { s.mgmt with wall := some v.toNat } }) s

/-! ### RDMA (R425, R427, R430) -/

/-- Where a host request goes: nowhere, the control area, the loader window of a die, or places of device memory. -/
inductive RdmaAt where
  | refused
  | control (ofs : Nat)
  | loader (p : Nat)
  | places (die : Nat) (ps : List Nat)
  deriving DecidableEq, Repr

/-- The target of a host request of `n` bytes with rights (R62, R63, R371, R425-R427); no object table is in force before GO (R428). -/
def State.rdmaAt (s : State) (r : Rdma) (n need : Nat) (write : Bool) : RdmaAt :=
  match sGet s.qps r.qp with
  | none => .refused
  | some q =>
    let o := capOfs r.addr
    if r.rkey / 2 ^ 20 ≠ q.tag ∨ r.rkey % 2 ^ 20 ≠ capObj r.addr then .refused
    else if capObj r.addr = 0xFFFFF then
      if !q.control then .refused
      else if o / 2 ^ 39 % 2 = 1 then
        (if s.job.state = .loading ∧ o < 2 ^ 40 ∧ o % 2 ^ 37 + n ≤ 2 ^ 37 then .loader (canopyP (natBits o 37 2) (o % 2 ^ 37)) else .refused)
      else if o % 4 = 0 ∧ n % 4 = 0 then .control o else .refused
    else if s.job.state = .idle ∨ s.job.state = .loading then .refused
    else match s.unitRange q.die r.addr n need write false with
      | .ok ps => .places q.die ps
      | .error _ => .refused

/-- The requests to peers or the host that serve a queue pair's request. -/
def State.forHost (s : State) (qp : Nat) : List EngReq := s.engReqs.filter (fun q => q.host == some qp)

/-- They are forgotten. -/
def State.hostDone (s : State) (qp : Nat) : State := { s with engReqs := s.engReqs.filter (fun q => q.host != some qp) }

/-- The PUBSEQs of this device that a range of places covers, of enabled queues and of chains that a core has published: the queue and the control block's place (R314, R430). -/
def State.pubOf (s : State) (ps : List Nat) : List (Option Nat × Nat) :=
  let at_ := fun (q : Option Nat) (d : Nat) (c : Cap) => match s.ccbPlace d c with
    | none => none
    | some blk => if !isRemote blk && ps.contains (blk + 8 * 24) && ps.contains (blk + 8 * 31) then some (q, blk) else none
  let qs := (List.range 256).filterMap (fun q => (s.qdesc q).bind (fun d => if d.en then at_ (some q) 0 d.chain else none))
  qs ++ s.chains.filterMap (fun c => if c.queue.isSome || c.fill then none
    else (at_ none c.die c.ccb).bind (fun x => if qs.any (fun y => y.2 == x.2) then none else some x))

/-- PUBSEQ written as CHADV does: the maximum, unless the value is above APPSEQ, which faults a queue and is not applied (R186, R314, R430, R445). -/
def State.hostPublish (s : State) (q : Option Nat) (blk v : Nat) : State :=
  let bad := decide (s.num (blk + 8 * 16) 8 < v)
  let s := if bad then s else s.putNum (blk + 8 * 24) 8 (max (s.num (blk + 8 * 24) 8) v)
  match q with
  | some q => (s.modQueue q (fun x => { x with badPub := bad })).showQueue q
  | none => s

/-- The bytes of this device that a host write stores; every PUBSEQ among them is published. -/
def State.hostCells (s : State) (die : Nat) (cells : List (Nat × Byte)) : State :=
  let own := cells.filter (fun c => !isRemote c.1)
  let pubs := s.pubOf (own.map (fun c => c.1))
  let rest := own.filter (fun c => !pubs.any (fun x => (run (x.2 + 8 * 24) 8).contains c.1))
  pubs.foldl (fun s x => s.hostPublish x.1 x.2
    (bytesNat ((run (x.2 + 8 * 24) 8).map (fun p => ((own.find? (fun c => c.1 == p)).map (fun c => c.2)).getD 0)))) (s.unitPuts die rest)

/-- The bytes of a host write behind peer and host apertures are sent. -/
def State.hostFar (s : State) (qp die : Nat) (cells : List (Nat × Byte)) : State :=
  let x := s.unitCells die (cells.filter (fun c => isRemote c.1))
  { x.2 with engReqs := x.2.engReqs ++ x.1.map (fun t => { tag := t, host := some qp }) }

/-- Each peer that a host write reaches is asked first whether its checks pass, so that a write which one of them refuses is nowhere performed (R374, R425; the question is the model's, log 137). -/
def State.hostAsk (s : State) (qp : Nat) (cells : List (Nat × Byte)) : State :=
  (runsOf (cells.filter (fun c => pTag c.1 == 5))).foldl (fun s r =>
    let (tag, s) := s.newTag
    let (co, obj, ofs) := peerOf r.1
    { s with
      peerOut := s.peerOut ++ [{ src := co, tag := tag, obj := obj, ofs := ofs, n := r.2.length, op := .check }]
      engReqs := s.engReqs ++ [{ tag := tag, host := some qp, check := true }] }) s

/-- Words of the control area written from bytes, four at a time. -/
def State.ctlBytes (s : State) (o : Nat) (bs : List Byte) : State :=
  (List.range (bs.length / 4)).foldl (fun s i => s.ctlSet (o + 4 * i) (fld bs (4 * i) 4)) s

/-- RDMA_WRITE (R425, R427, R430). -/
def execRdmaWrite (r : Rdma) (data : List Byte) (s : State) : Out :=
  act (fun s =>
    if s.qpDelayed r.qp then s.delay (.rdmaWrite r data)
    else match s.rdmaAt r data.length 2 true with
      | .refused => s.tellHost (.nakAccess r.qp)
      | .control o => (s.ctlBytes o data).tellHost (.ack r.qp)
      | .loader p => (s.homeWrites ((run p data.length).zip data)).tellHost (.ack r.qp)
      | .places die ps =>
        let cells := ps.zip data
        let out := s.forHost r.qp
        if out.any (fun q => q.refused) then (s.hostDone r.qp).tellHost (.nakAccess r.qp)
        else if out.any (fun q => !q.got) || ps.any (fun p => s.pinned 160 (lineOf p)) then s.delay (.rdmaWrite r data)
        else if out.isEmpty && ps.any (fun p => pTag p == 5) then (s.hostAsk r.qp cells).delay (.rdmaWrite r data)
        else if out.all (fun q => q.check) && ps.any isRemote then ((s.hostDone r.qp).hostFar r.qp die cells).delay (.rdmaWrite r data)
        else ((s.hostDone r.qp).hostCells die cells).tellHost (.ack r.qp)) s

/-- The bytes of places behind peer and host apertures are asked for. -/
def State.hostAskRead (s : State) (qp : Nat) (ps : List Nat) : State :=
  (runsOf ((ps.filter isRemote).map (fun p => (p, 0)))).foldl (fun s r =>
    let (tag, s) := s.newTag
    let l := run r.1 r.2.length
    let s := s.askRead tag l
    { s with engReqs := s.engReqs ++ [{ tag := tag, places := l, host := some qp }] }) s

/-- A byte of a host read: from an answer, or this device's. -/
def State.hostByte (s : State) (qp die p : Nat) : Byte :=
  if isRemote p then
    ((s.forHost qp).findSome? (fun q => (q.places.zip q.data).findSome? (fun c => if c.1 = p then some c.2 else none))).getD 0
  else s.unitByte die p

/-- RDMA_READ (R425, R427). -/
def execRdmaRead (r : Rdma) (n : Nat) (s : State) : Out :=
  act (fun s =>
    if s.qpDelayed r.qp then s.delay (.rdmaRead r n)
    else match s.rdmaAt r n 1 false with
      | .refused => s.tellHost (.nakAccess r.qp)
      | .control o => s.tellHost (.data r.qp ((List.range (n / 4)).flatMap (fun i => natBytes 4 (s.ctlGet (o + 4 * i)))))
      | .loader p => s.tellHost (.data r.qp (s.bytes p n))
      | .places die ps =>
        let out := s.forHost r.qp
        if ps.any (fun p => s.pinned 160 (lineOf p)) then s.delay (.rdmaRead r n)
        else if ps.any isRemote && out.isEmpty then (s.hostAskRead r.qp ps).delay (.rdmaRead r n)
        else if out.any (fun q => q.refused) then (s.hostDone r.qp).tellHost (.nakAccess r.qp)
        else if out.any (fun q => !q.got) then s.delay (.rdmaRead r n)
        else if ps.any (fun p => s.poison.contains (place (pTag p) (pIdx p / 4 * 4))) then (s.hostDone r.qp).tellHost (.nakAccess r.qp)
        else (s.hostDone r.qp).tellHost (.data r.qp (ps.map (s.hostByte r.qp die)))) s

/-- RDMA_ATOMIC (R424, R425): at the page's home L2. -/
def execRdmaAtomic (r : Rdma) (cas : Bool) (v cmp : BitVec 64) (s : State) : Out :=
  act (fun s =>
    if s.qpDelayed r.qp then s.delay (.rdmaAtomic r cas v cmp)
    else match s.rdmaAt r 8 8 true with
      | .places _ ps =>
        if capOfs r.addr % 8 ≠ 0 ∨ ps.any (fun p => pTag p != 0) ∨ ps.any (fun p => s.poison.contains (place (pTag p) (pIdx p / 4 * 4))) then
          s.tellHost (.nakAccess r.qp)
        else if ps.any (fun p => s.pinned 160 (lineOf p)) then s.delay (.rdmaAtomic r cas v cmp)
        else
          let (old, s) := s.rmw ps (fun m => if cas then (if m = cmp.toNat then v.toNat else m) else (m + v.toNat) % 2 ^ 64)
          s.tellHost (.old r.qp (BitVec.ofNat 64 old))
      | _ => s.tellHost (.nakAccess r.qp)) s

/-! ### The load of a job (R368, R372, R394, R426-R429) -/

/-- The extents of a grid are legal (R65). -/
def gridOk (g : List Nat) : Bool := decide (1 ≤ g.length ∧ g.length ≤ 5) && g.all (fun x => decide (1 ≤ x ∧ x ≤ 32)) && decide (gridSize g ≤ 32)

/-- A residency entry with the RW fields of its 32 bytes (R382). -/
def Resid.load (bs : List Byte) : Resid := bs.zipIdx.foldl (fun r x => r.setByte x.2 x.1) {}

/-- JOB_LOAD (R382, R426): IDLE goes to LOADING; the grid is the job's (R65), and the residency table has the RW fields that the load brings. Extents that break R65 leave the grid of the job before, or [1] (DESIGN CHOICE, log 6). -/
def execJobLoad (image : JobImage) (s : State) : Out :=
  act (fun s => if s.job.state = .idle then
    { s with job := { s.job with state := .loading }, grid := if gridOk image.grid then image.grid else s.grid
             resid := image.resid.foldl (fun m x => sPut m x.1 (Resid.load x.2)) s.resid } else s) s

/-- Frames of a die's directory (R427). -/
def OTbl.dirFrames (t : OTbl) : Nat := cdiv (32 * t.nobj) 65536
/-- Frames of a die's leaf area (R427). -/
def OTbl.leafFrames (t : OTbl) : Nat := cdiv t.leafbytes 65536

/-- An OTBL word fails R427. -/
def OTbl.bad (t : OTbl) : Bool :=
  decide (2 ^ 21 ≤ t.dirframe) || decide (2 ^ 21 ≤ t.leafframe) || t.rsv.any (fun x => x != 0) || t.nobj == 0 || decide (2 ^ 20 ≤ t.nobj)
    || t.leafbytes % 8 != 0 || decide (2 ^ 21 < t.dirframe + t.dirFrames) || decide (2 ^ 21 < t.leafframe + t.leafFrames)
    || (decide (t.dirframe < t.leafframe + t.leafFrames) && decide (t.leafframe < t.dirframe + t.dirFrames))

/-- The copies of the object table hold the same descriptors, and the same entries but for the apertures of each die (R368, R370). -/
def State.copiesAgree (s : State) : Bool :=
  (List.range (s.otbl 0).nobj).all (fun o =>
    let w := s.num (s.descP 0 o) 32
    [1, 2, 3].all (fun d => s.num (s.descP d o) 32 == w
      && (!s.descOk w || (descPages w).all (fun p => s.leafWord d o p == leafFor 0 d (s.leafWord 0 o p)))))

/-- Frames of a die that some table maps, with those of the die's copy (R380, R427). -/
def State.mappedFrames (s : State) (d : Nat) : List Nat :=
  let t := s.otbl d
  let own := (List.range t.dirFrames).map (fun i => t.dirframe + i) ++ (List.range t.leafFrames).map (fun i => t.leafframe + i)
  (own ++ s.heldFrames d).dedup

/-- A capability passes R63 in a die's copy. -/
def State.passes63 (s : State) (d : Nat) (c : Cap) (n need : Nat) : Bool :=
  (r63 (s.readDesc d (capObj c)) (capObj c) (capOfs c) n need).isNone

/-- The .gmeta image keeps R329. -/
def State.gmetaOk (s : State) : Bool :=
  let n := s.gmeta 0 2
  let g := s.gmeta 2 2
  let loc := s.gmeta 4 4
  let dir := s.gmeta 8 4
  let inside := fun (o len : Nat) => s.passes63 0 (capAdd s.job.gmeta o) (max 1 len) 1
  decide (n ≤ 1024) && loc % 4 == 0 && dir % 8 == 0 && s.gmeta 12 4 == 0
    && (n == 0 || inside loc (4 * n)) && (g == 0 || inside dir (8 * g))
    && (List.range n).all (fun i =>
      let dp := s.gmeta (loc + 4 * i) 1
      let kind := s.gmeta (loc + 4 * i + 1) 1
      let gr := s.gmeta (loc + 4 * i + 2) 2
      decide (1 ≤ dp ∧ dp ≤ 4) && decide (kind ≤ 1) && (if kind = 0 then gr == 0 else decide (gr < g)))
    && (List.range g).all (fun i =>
      let o := s.gmeta (dir + 8 * i) 4
      o % 8 == 0 && inside o (s.gmeta (dir + 8 * i + 4) 4))

/-- The handler's kernel of a die, when its HANDLER word passes R427; its record must ask for no shared and no private memory. -/
def State.handlerKernel (s : State) (d : Nat) : Option Kernel :=
  let h := (sGet s.job.handler d).getD {}
  if h.rsv ≠ 0 ∨ !s.passes63 d h.krec 64 1 ∨ capOfs h.code ≠ 0 ∨ !s.passes63 d h.args 16 1 then none
  else match s.unitRead d h.krec 64 with
    | none => none
    | some r =>
      let k := kernelOf r h.code
      if recordBad r ∨ k.shared ≠ 0 ∨ k.priv ≠ 0 ∨ !s.passes63 d k.entry 12 4 then none else some k

/-- The ERR of a GO, 0 when the job passes (R426, R427); among several failures the OTBL words come first, then the lowest code (log entry 18). -/
def State.goErr (s : State) : Nat :=
  let ds := [0, 1, 2, 3]
  if ds.any (fun d => (s.otbl d).bad || (s.otbl d).nobj != (s.otbl 0).nobj) then 5
  else if !s.copiesAgree then 1
  else if !s.passes63 0 s.job.qtbl 8192 3 then 2
  else if !(List.range 16).any (fun k => (s.leaseExp k).isSome) then 3
  else if ds.any (fun d => decide (2 ^ 21 < (s.mappedFrames d).length + 512 + s.job.savepool + s.job.privpool + s.job.respages)) then 4
  else if !s.passes63 0 s.job.gmeta 16 1 || !s.gmetaOk || !s.passes63 0 s.job.psum ((s.nLoc - 1) * 4096 + s.nLoc * 4) 1
      || decide (1536 < s.job.scrblks) then 5
  else if ds.any (fun d => (s.handlerKernel d).isNone) then 6
  else 0

/-- `n` frames taken from a pool, the lowest that it holds. -/
def Pools.takeN : Nat → Pools → List Nat × Pools
  | 0, p => ([], p)
  | n + 1, p =>
    match p.lowest with
    | none => ([], p)
    | some f =>
      let r := Pools.takeN n (p.take f)
      (f :: r.1, r.2)

/-- The pools of a die at GO (R380, R427). -/
def State.goPools (s : State) (d : Nat) : Pools :=
  let p : Pools := { used := s.mappedFrames d, aside := 512 + s.job.savepool + s.job.privpool }
  let r := p.takeN s.job.respages
  { r.2 with res := r.1, priv := s.job.privpool * 65536, save := s.job.savepool * 65536 }

/-- This device is one of the job's grid (R65). -/
def State.inGrid (s : State) : Bool := coordOk s.grid s.mycoord

/-- The regulator of a die at GO: the start count of every device, one of which the job owns on die 0 of each device of the grid (R332, R337). -/
def State.goReg (s : State) (d : Nat) : Regulator :=
  let t := BitVec.ofNat 64 (mkTime (s.locDepth 0) [])
  { view := [{ loc := 0, time := t, n := (gridSize s.grid : Int) }]
    owners := if d = 0 && s.inGrid then [{ owner := .job, loc := 0, time := t, n := 1 }] else [] }

/-- A die's handler context is placed on its core 39 (R394, R427). -/
def State.placeHandler (s : State) (d : Nat) : State :=
  match s.handlerKernel d with
  | none => s
  | some k => s.placeCtx { handler := true, dim := 32, kernel := k, arg := ((sGet s.job.handler d).getD {}).args } [40 * d + 39]

/-- Every canopy byte outside the frames that tables hold reads 0 (R380). -/
def State.zeroPool (s : State) (held : List (Nat × List Nat)) : State :=
  let free := fun (c : Host.Cell) => pTag c.1 == 0 && !((sGet held (pIdx c.1 / 2 ^ 37)).getD []).contains (pIdx c.1 % 2 ^ 37 / 65536)
  { s with wr := (s.mem.filter free).map (fun c => (c.1, 0)) ++ (s.wr.filter free).map (fun c => (c.1, 0)) ++ s.wr }

/-- A passed GO, in R429's order. -/
def State.go (s : State) : State :=
  let s := s.zeroPool ([0, 1, 2, 3].map (fun d => (d, s.mappedFrames d)))
  let s := [0, 1, 2, 3].foldl (fun s d => s.modDie d (fun x => { x with pools := s.goPools d })) s
  let s := [0, 1, 2, 3].foldl (fun s d => s.modReg d (fun _ => s.goReg d)) s
  let tco := capObj (BitVec.ofNat 64 ((s.unitGet 0 ((sGet s.job.handler 0).getD {}).args 8).getD 0))
  let s : State := { s with job := { s.job with tco := tco, err := 0 } }
  let s := [0, 1, 2, 3].foldl (fun s d => s.placeHandler d) s
  let s := [0, 1, 2, 3].foldl (fun s d => s.announce d) s
  { s with job := { s.job with state := .run }, queues := [], launchNo := 0 }

/-- JOB_GO (R427-R429, R332, R394). -/
def execJobGo (s : State) : Out :=
  act (fun s =>
    if s.job.state ≠ .loading then s
    else if s.goErr ≠ 0 then { s with job := { s.job with err := s.goErr } }
    else s.go) s

/-- JOB_END (R426): END in RUN cancels the job at level 4 and ends it. -/
def execJobEnd (s : State) : Out := act (fun s => if s.job.state = .run then (s.cancelJob 0).recount else s) s

/-! ### ENDING (R2, R381, R429) -/

/-- Every byte of the device's storages reads 0, and no line is poisoned. -/
def State.zeroAll (s : State) : State :=
  { s with wr := (s.mem.map (fun c => (c.1, 0))) ++ (s.wr.map (fun c => (c.1, 0))) ++ s.wr, poison := [] }

/-- What a die keeps beyond a job: its system registers, its fabric control block, and the sequence and filter of its contributions (R2, R223, R415, R420). -/
def Die.endJob (d : Die) : Die :=
  { waitiv := d.waitiv, rcvwait := d.rcvwait, bkpten := d.bkpten, fabric := d.fabric
    grid := { cseq := d.grid.cseq, high := d.grid.high, lastResp := d.grid.lastResp } }

/-- The job's state is zeroed; what lives for the module stays (R2, R381). The extents of the grid are kept (DESIGN CHOICE, log 6), and so is the state of the fabric (log 75). -/
def State.endJob (s : State) : State :=
  let s := s.zeroAll
  { s with
    ctxs := [], saved := [], insts := [], cores := [], quarters := [], dies := s.dies.map (fun d => (d.1, d.2.endJob))
    queues := [], prioPtr := [], launches := [], launchNo := 0, graphs := [], distPtr := none, newtag := 0
    seq := 1, submitted := [], sendbuf := [], slots := [], shadow := [], chains := [], engReqs := [], hotth := 0xFFFF
    resid := [], fillNo := 0, leases := [(0, 0)], job := {}, mgmt := s.mgmt.noTransfer, beat := none, delayed := [] }

/-- No engine of the device runs an entry. -/
def State.enginesIdle (s : State) : Bool := s.dies.all (fun d => d.2.engines.all (fun g => g.2.run.isNone))

/-- ENDING is over: Lmax has passed and the engines are done (R381, R429). -/
def State.endingOver (s : State) : Bool := decide (s.job.state = .ending) && decide (s.job.endAt < s.cycle) && s.enginesIdle

/-- JOB_ENDING_COMPLETE (R381, R429). -/
def execJobEndingComplete (s : State) : Out := act (fun s => if s.endingOver then s.endJob else s) s

end Sys2Proof.Machine
end

