-- ==== Sys2Proof/Machine/Manage.lean ====
section
/-! DEFINITION. The management controller: start-up (R431, R436), identity (R433), sensors and the event log (R434, R435), firmware (R436, R437), security (R438, R439), soft errors (R440), and the eviction handshake (R441-R444). -/

namespace Sys2Proof

/-- The bytes of the evicted device's tables, regulators and counts, whose layout is open (R442, R443, log entry 79). -/
opaque Config.transferState : Machine.State → List Byte

/-- The tables, regulators and counts that such bytes hold (R442, R443, log entry 79). -/
opaque Config.transferred : List Byte → Machine.State

/-- The bytes of a section of a save area whose order the spec gives and whose places it leaves open (R389, log entry 100). -/
opaque Config.areaRest : Machine.Ctx → Nat → List Byte

namespace Machine

/-! ### The image of a save area (R389, R390) -/

/-- Bytes cut or filled with zeros to a size. -/
def padTo (n : Nat) (bs : List Byte) : List Byte := bs.take n ++ List.replicate (n - bs.length) 0

/-- The 32-byte entry of an outstanding load for a lane (R390). -/
def OLoad.entry (o : OLoad) (lane : Nat) : List Byte :=
  natBytes 2 o.ltag ++ [byteOf lane, byteOf (bitN o.arrived 0 + bitN o.refused 1)] ++ natBytes 2 o.wheel ++ [byteOf o.dreg, byteOf o.nreg]
    ++ List.replicate 8 0 ++ padTo 16 (if o.asked.isEmpty then o.data else o.places.filterMap (sGet (o.asked.zip o.data)))

/-- The entries of a context's outstanding loads (R390). -/
def Ctx.loadEntries (c : Ctx) : List Byte :=
  c.loads.flatMap (fun o => (if o.uni then o.tids.take 1 else o.tids).flatMap (fun t => o.entry (((c.thread t).map (fun x => x.lane)).getD 0)))

/-- Register `v` of the lane of a wheel, as the vector section holds it (R389). -/
def Ctx.laneReg (c : Ctx) (w : Wheel) (v lane : Nat) : Word :=
  match c.threads.find? (fun t => t.wheel == w.idx && t.lane == lane) with
  | some t => (sGet t.vregs v).getD 0
  | none => 0

/-- The sections of the save area of a context, by their number (R389). -/
def State.areaSection (s : State) (k : Nat) (c : Ctx) : Nat → List Byte
  | 1 => c.wheels.flatMap (fun w => padTo 1024 ((List.range 192).flatMap (fun r => natBytes 4 ((sGet w.sregs r).getD 0).toNat)
      ++ natBytes 4 w.fstat.toNat ++ Config.areaRest c (16 + w.idx)))
  | 3 => c.wheels.flatMap (fun w => (List.range w.window).flatMap (fun v => (List.range 32).flatMap (fun l => natBytes 4 (c.laneReg w v l).toNat)))
  | 4 =>
    let o := c.cores.headD 0
    (List.range 16).flatMap (fun t => natBytes 64 ((sGet c.tregs (cvKey o t)).getD 0).toNat) ++ padTo 768 (Config.areaRest c 4)
      ++ (List.range 64).flatMap (fun g => natBytes 8 (slotImage (c.slotOf g)) ++ natBytes 8 ((c.slotOf g).pattern.getD 0).toNat)
  | 6 => c.loadEntries
  | 8 => s.bytes (sharedP k 0) c.kernel.sharedBytes
  | n => Config.areaRest c n

/-- The bytes of the save area of a context: its sections in their order, each of its size (R389). -/
def State.saveImage (s : State) (k : Nat) (c : Ctx) : List Byte :=
  padTo c.areaBytes (c.areaSections.zipIdx.flatMap (fun x => padTo x.1 (s.areaSection k c x.2)))

/-- The management controller changes. -/
def State.modMgmt (s : State) (f : Mgmt → Mgmt) : State := { s with mgmt := f s.mgmt }

/-! ### Identity and the event log (R433, R435) -/

/-- PART of the identity EEPROM: "PLOVIK-4160" in ASCII (R433). -/
def partText : List Byte := [0x50, 0x4C, 0x4F, 0x56, 0x49, 0x4B, 0x2D, 0x34, 0x31, 0x36, 0x30]

/-- Byte `i` of the EEPROM below CHK; SERIAL is ASCII, zero-padded (R433). -/
def eepromBody (i : Nat) : Byte :=
  if i < 16 then
    (if (List.range i).any (fun k => (Config.identity k).toNat % 128 == 0) then 0 else BitVec.ofNat 8 ((Config.identity i).toNat % 128))
  else if i < 32 then (partText[i - 16]?).getD 0 else if 72 ≤ i then 0 else Config.identity i

/-- A byte of the identity EEPROM; a read beyond byte 255 wraps (R433). -/
def eepromByte (i : Nat) : Byte :=
  let i := i % 256
  if i < 254 then eepromBody i
  else BitVec.ofNat 8 (((List.range 254).foldl (fun a k => a + (eepromBody k).toNat) 0) % 65536 / 256 ^ (i - 254))

/-- What the management bus answers to a read of a byte at a bus address; the EEPROM needs the bus's standby pin alone, whatever power the module has (R433). -/
def busRead (pin : Bool) (dev i : Nat) : Option Byte := if pin && dev == 0x50 then some (eepromByte i) else none

/-- The 64 bytes of a log entry (R435). -/
def Event.bytes (e : Event) : List Byte :=
  let us := e.at_ / 3300
  natBytes 8 us ++ natBytes 8 (match e.wall with | some w => us + w | none => 0) ++ natBytes 2 e.source ++ natBytes 2 e.code
    ++ (e.data.map (fun n => BitVec.ofNat 8 n) ++ List.replicate 44 0).take 44

/-- Codes of the controller's own log entries (log entry 19). -/
def evAlarm : Nat := 0x200
/-- A firmware check. -/
def evFirmware : Nat := 0x201
/-- A soft error. -/
def evSoft : Nat := 0x202
/-- A state of the eviction handshake. -/
def evEvict : Nat := 0x203
/-- A reading that removes main power. -/
def evSensor : Nat := 0x204

/-! ### Power and firmware (R431, R434, R436, R437) -/

/-- The device without power: only the controller's state stays (R2, R431). -/
def State.dark (s : State) (m : Mgmt) : State := { wr := s.zeroAll.wr, mgmt := m, free := s.free }

/-- The controller goes on with a count of cycles that begins anew, and no handover. -/
def State.goesOn (s : State) : Mgmt := { s.mgmt.noTransfer with base := s.mgmt.base + s.cycle, sampleAt := 0, evctl := {} }

/-- Main power is enabled: every unit takes its reset value, and die reset begins (R431 steps 2 and 3). -/
def State.powerUp (s : State) : State := s.dark { s.goesOn with power := .main, inReset := true }

/-- What the persistent store brings to standby power (R2, R435-R439): the image, whole or not, the keys' cells and the log. -/
def Mgmt.kept (m : Mgmt) : Mgmt := { fw := m.fw, torn := m.torn, keysErased := m.keysErased, log := m.log }

/-- The stored image is checked: it runs, or the recovery loader waits; one that is not whole fails (R436, R437). -/
def State.checkImage (s : State) : State :=
  let ok := !s.mgmt.torn && Config.verified s.mgmt.fw && decide (Config.minVersion ≤ s.mgmt.fw.version)
  let s := s.logEvent 0 255 evFirmware [if ok then 1 else 0, s.mgmt.fw.version]
  if ok then s.powerUp else s.modMgmt (fun m => { m with power := .recovery })

/-- STANDBY_POWER (R431, R436). -/
def execStandbyPower (s : State) : Out :=
  act (fun s => if s.mgmt.power = .off then
    (s.dark s.mgmt.kept).checkImage else s) s

/-- RECOVERY_IMAGE (R436). -/
def execRecoveryImage (img : Sys2Proof.Image) (s : State) : Out :=
  act (fun s => if s.mgmt.power = .recovery then (s.modMgmt (fun m => { m with fw := img, torn := false })).checkImage else s) s

/-- FIRMWARE_UPDATE (R437): in JOBCTL state IDLE the write over the old image begins, which takes a number of cycles that the spec leaves open (log 82); the new image takes effect at the next standby cycle. -/
def execFirmwareUpdate (img : Sys2Proof.Image) (s : State) : Out :=
  act (fun s => if s.mgmt.power = .main ∧ s.job.state = .idle then
    let (k, s) := s.fresh
    s.modMgmt (fun m => { m with torn := true, writing := some (img, Config.writeCycles k) })
    else s) s

/-- The write of an image goes on, and at its end the store holds the new image whole (R437). -/
def State.writeImage (s : State) : State :=
  match s.mgmt.writing with
  | none => s
  | some (img, 0) => s.modMgmt (fun m => { m with fw := img, torn := false, writing := none })
  | some (img, n + 1) => s.modMgmt (fun m => { m with writing := some (img, n) })

/-- Main power goes; the controller runs on under standby power. -/
def State.mainOff (s : State) : State :=
  s.dark { s.goesOn with power := .standby, inReset := false }

/-- POWER_LOSS (R2, R437, R439): main power, or standby power with it; only the persistent store survives the second. -/
def execPowerLoss (standby : Bool) (s : State) : Out :=
  act (fun s =>
    if standby then s.dark s.mgmt.kept
    else if s.mgmt.power = .main then s.mainOff else s) s

/-- DIE_RESET_END (R421, R431, R432): the links go from DOWN to TRAIN. -/
def execDieResetEnd (s : State) : Out :=
  act (fun s =>
    if s.mgmt.inReset then
      let s := s.modMgmt (fun m => { m with inReset := false })
      (List.range 31).foldl (fun s l => s.modLink l (fun k => { k with state := .train, since := s.cycle })) s
    else s) s

/-- Cycles in 10 ms of the 3.3 GHz clock (R6, R434). -/
def sampleCycles : Nat := 33000000

/-- A die or a layer is above its limit (R434). -/
def overLimit (r : Sensors) : Bool := r.dies.any (fun t => decide (Config.dieLimit < t)) || r.layers.any (fun t => decide (Config.layerLimit < t))

/-- The controller runs and its next sample is due (R434). -/
def State.sampleDue (s : State) : Bool :=
  (s.mgmt.power == .main || s.mgmt.power == .standby) && decide (s.mgmt.sampleAt + sampleCycles ≤ s.cycle)

/-- SENSOR_SAMPLE (R434): the event is logged first; a critical reading removes main power, a high one lowers the clock by a step. -/
def execSensorSample (r : Sensors) (s : State) : Out :=
  act (fun s =>
    let s := s.modMgmt (fun m => { m with sensors := r, sampleAt := s.cycle })
    if Config.critical r || decide (r.millivolts < 48000) || decide (54000 < r.millivolts) then
      let s := s.logEvent 0 255 evSensor [1]
      if s.mgmt.power = .main then s.mainOff else s
    else if overLimit r || decide (2600 < r.watts) then
      (s.logEvent 0 255 evSensor [0]).modMgmt (fun m => { m with clockSteps := m.clockSteps + 1 })
    else s) s

/-! ### Security (R438, R439) -/

/-- SECURITY_ALARM (R439): logged; RESP 01 resets the module, 10 also erases the identity key. -/
def execSecurityAlarm (s : State) : Out :=
  act (fun s =>
    let s := s.logEvent 0 255 evAlarm [s.mgmt.seccfg.resp]
    let s := if s.mgmt.seccfg.resp = 2 then s.modMgmt (fun m => { m with keysErased := true }) else s
    if s.mgmt.seccfg.resp ≠ 0 ∧ s.mgmt.power = .main then s.powerUp else s) s

/-- The bytes of the loaded code objects, those with the execute right alone asked, page by page as die 0 fetches them (R368, R438). -/
def State.loadedCode (s : State) : List Byte :=
  (List.range (s.otbl 0).nobj).flatMap (fun o =>
    match s.readDesc 0 o with
    | none => []
    | some w => if natBits (dRights w) 2 1 = 0 then []
      else (List.range (cdiv (dExtent w) 65536)).flatMap (fun p =>
        match s.unitRange 0 (mkCap o (65536 * p)) (min 65536 (dExtent w - 65536 * p)) 4 false false with
        | .error _ => []
        | .ok ps => (ps.filter (fun q => !isRemote q)).map (s.unitByte 0)))

/-- The bytes of a die's copy of the object table (R368). -/
def State.copyBytes (s : State) (d : Nat) : List Byte :=
  s.bytes (canopyP d ((s.otbl d).dirframe * 65536)) (32 * (s.otbl d).nobj)
    ++ s.bytes (canopyP d ((s.otbl d).leafframe * 65536)) (s.otbl d).leafbytes

/-- ATTESTATION (R438): the signature, or nothing once the key is erased (R439). -/
def execAttestation (nonce : List Byte) (s : State) : Out :=
  act (fun s =>
    if s.mgmt.keysErased then s.modMgmt (fun m => { m with attest := [] })
    else
      let (k, s) := s.fresh
      let parts := Config.sm3 s.mgmt.fw.bytes ++ Config.sm3 (natBytes 4 Config.minVersion) ++ Config.sm3 s.loadedCode
        ++ [0, 1, 2, 3].flatMap (fun d => Config.sm3 (s.copyBytes d)) ++ nonce
      s.modMgmt (fun m => { m with attest := Config.sign k parts })) s

/-- The words that an ECC error spoils (R440). -/
def eccWords (die : Nat) : EccAt → List Nat
  | .line n => (List.range 32).map (fun i => canopyP die (128 * n + 4 * i))
  | .word p => [wordOf p]

/-- The data of its log entry. -/
def eccData : EccAt → List Nat
  | .line n => (natBytes 8 n).map BitVec.toNat
  | .word p => (natBytes 32 p).map BitVec.toNat

/-- PATROL_SCRUB (R440), and a read that finds an error in an SRAM array or a register file: a corrected error is counted and logged and changes no data; an uncorrectable one is logged and marks its words. -/
def execPatrolScrub (die : Nat) (at_ : EccAt) (found : EccFound) (s : State) : Out :=
  act (fun s =>
    match found with
    | .clean => s
    | .corrected => (s.modMgmt (fun m => { m with corrected := m.corrected + 1 })).logEvent die 41 evSoft (0 :: eccData at_)
    | .uncorrectable =>
      let s := s.logEvent die 41 evSoft (1 :: eccData at_)
      { s with poison := s.poison ++ (eccWords die at_).filter (fun w => !s.poison.contains w) }) s

/-! ### Eviction of this module (R441-R444) -/

/-- The states of the handshake as EVCTL codes them (R441). -/
def evCode : EvState → Nat
  | .run => 0
  | .evictReq => 1
  | .quiesce => 2
  | .transfer => 3
  | .drain => 4
  | .safe => 5
  | .abort => 6

/-- Cycles in 125 ms of the 3.3 GHz clock (R6, R441). -/
def stepCycles : Nat := 412500000

/-- EVCTL as it reads (R441). -/
def State.evctlWord (s : State) : Nat :=
  let e := s.mgmt.evctl
  evCode e.state * 2 + bitN e.unlatch 4 + bitN e.aborted 5
    + (if e.state = .run then 0 else min 255 ((s.cycle - e.reqAt) / stepCycles)) * 2 ^ 8 + e.spare % 2 ^ 25 * 2 ^ 32

/-- The handshake enters a state, which the log records (R435, R442). -/
def State.evGo (s : State) (n : EvState) : State :=
  (s.modMgmt (fun m => { m with evctl := { m.evctl with state := n, stateAt := s.cycle } })).logEvent 0 255 evEvict [evCode n]

/-- A message leaves on the management channel: on a direct link, or on the one that the controller takes to a device without one (R413, R442; log 20). -/
def State.mgmtSend (s : State) (ty dst : Nat) (ofs : Nat := 0) : State :=
  let m : Mail := { ty := ty, src := s.mycoord, dst := dst, ofs := ofs }
  let s := s.modMgmt (fun x => { x with sent := x.sent ++ [(ty, dst)] })
  match s.linkTo dst with
  | some l => s.enlink l (.mgmt m)
  | none =>
    let l := Config.mgmtPath dst % 31
    if (s.link l).state = .up then s.enlink l (.mgmt m) else s

/-- TYPEs of the messages that the spec names by purpose only (log entry 20). -/
def tyReady : Nat := 0x31
/-- The cancel and reroute notices of ABORT. -/
def tyAbort : Nat := 0x32
/-- The reroute message of DRAIN. -/
def tyReroute : Nat := 0x33
/-- The acknowledgement of the last transfer packet. -/
def tyTransferAck : Nat := 0x35

/-- EVICTION_REQUEST (R441, R442). -/
def execEvictionRequest (spare : Nat) (s : State) : Out :=
  act (fun s =>
    if s.mgmt.evctl.state = .run ∧ s.mgmt.power = .main then
      ((s.modMgmt (fun m => { m with evctl := { m.evctl with spare := spare, reqAt := s.cycle, aborted := false } })).evGo .evictReq).mgmtSend 0x30 spare
    else s) s

/-- SPARE_READY (R362, R442): speculative runs are discarded, and the module quiesces. -/
def execSpareReady (s : State) : Out :=
  act (fun s =>
    if s.mgmt.evctl.state = .evictReq then
      let s := (List.range 4).foldl (fun s k => s.discardRun k 7) s
      s.evGo .quiesce
    else s) s

/-- Nothing runs and nothing is owed: no context but the handlers', no engine entry, no remote operation (R442). -/
def State.quiet (s : State) : Bool :=
  s.ctxs.all (fun e => e.2.handler) && s.enginesIdle && s.hostReqs.isEmpty && s.engReqs.isEmpty && s.delayed.isEmpty
    && s.dies.all (fun d => d.2.grid.contribs.isEmpty && d.2.grid.staged.isEmpty) && s.saved.all (fun e => e.2.remotes.isEmpty && e.2.loads.all (fun o => o.arrived || o.refused))

/-- The bytes of transfer (R442, R443): the sizes of the two parts that follow, the state whose layout is open, the save areas, and each mapped frame after its place in the canopies. -/
def State.transferBytes (s : State) : List Byte :=
  let ctl := Config.transferState s
  let areas := s.saved.flatMap (fun e => s.saveImage e.1 e.2)
  natBytes 8 ctl.length ++ natBytes 8 areas.length ++ ctl ++ areas
    ++ [0, 1, 2, 3].flatMap (fun d => (s.mappedFrames d).flatMap (fun f =>
      natBytes 8 (2 ^ 37 * d + 65536 * f) ++ s.bytes (canopyP d (65536 * f)) 65536))

/-- Bytes as transfer packets of 40 bytes, the last one marked (R443; log 79). -/
def transferMail (src dst : Nat) : Nat → Nat → List Byte → List Mail
  | 0, _, _ => []
  | n + 1, ofs, bs =>
    { ty := 0x34, src := src, dst := dst, ofs := ofs, data := bs.take 40, last := decide (bs.length ≤ 40) }
      :: transferMail src dst n (ofs + 40) (bs.drop 40)

/-- The transfer packets of this device. -/
def State.transferPackets (s : State) : List Mail :=
  transferMail s.mycoord s.mgmt.evctl.spare (cdiv s.transferBytes.length 40) 0 s.transferBytes

/-- QUIESCE_COMPLETE (R442): the regulators stop, and the transfer packets are ready for the spare. -/
def execQuiesceComplete (s : State) : Out :=
  act (fun s => if s.mgmt.evctl.state = .quiesce ∧ s.quiet then
    (s.evGo .transfer).modMgmt (fun m => { m with tx := s.transferPackets }) else s) s

/-- The first links of the paths of transfer packets: the direct link to the spare, and those to up to four relays (R443). -/
def State.transferLinks (s : State) : List Nat :=
  ((s.linkTo s.mgmt.evctl.spare).toList ++ (Config.relays.take 4).filterMap s.linkTo).dedup

/-- In TRANSFER, each path's link takes the next packet once its last one has left (R442, R443). -/
def State.pumpTransfer (s : State) : State :=
  if s.mgmt.evctl.state ≠ .transfer then s
  else s.transferLinks.foldl (fun s l =>
    match s.mgmt.tx with
    | [] => s
    | m :: rest =>
      if (s.link l).txq.any (fun x => x.chan == 4) then s
      else (s.modMgmt (fun x => { x with tx := rest, sent := x.sent ++ [(m.ty, m.dst)] })).enlink l (.mgmt m)) s

/-- TRANSFER_COMPLETE (R442): the spare has acknowledged the last packet; each peer is told to reroute. -/
def execTransferComplete (s : State) : Out :=
  act (fun s =>
    if s.mgmt.evctl.state = .transfer then
      (s.others.filter (fun c => c != s.mgmt.evctl.spare)).foldl (fun s c => s.mgmtSend tyReroute c s.mgmt.evctl.spare) (s.evGo .drain)
    else s) s

/-- The links of this module carry no sequenced flit (R442). -/
def State.linksQuiet (s : State) : Bool :=
  s.links.all (fun l => decide (l.2.state ≠ .up) || (l.2.replay.isEmpty && l.2.cur.isEmpty && l.2.txq.isEmpty))

/-- SAFE is entered: the links go DOWN, and the evicted job leads through ENDING (R429, R442). -/
def State.toSafe (s : State) (unlatch : Bool) : State :=
  let e := s.mgmt.evctl
  let s := (s.links.map (fun l => l.1)).foldl (fun s l => s.loseLink l .down) s
  let s := s.modMgmt (fun m => { m with evctl := { m.evctl with aborted := e.state == .abort, unlatch := unlatch } })
  s.startEnding.evGo .safe

/-- DRAIN_COMPLETE (R429, R442): in DRAIN or ABORT, when every die of every peer shows BUSY 0, the device is SAFE and the blade may unlatch. A device that ABORT's budget brought to SAFE unlatches only now (log 138). -/
def execDrainComplete (s : State) : Out :=
  act (fun s =>
    let e := s.mgmt.evctl
    if (e.state = .drain ∨ e.state = .abort) ∧ s.linksQuiet then s.toSafe true
    else if e.state = .safe then s.modMgmt (fun m => { m with evctl := { m.evctl with unlatch := true } })
    else s) s

/-- Cycles of a state's budget (R442). -/
def budget : EvState → Option Nat
  | .evictReq => some (8 * stepCycles)
  | .quiesce => some (40 * stepCycles)
  | .transfer => some (48 * stepCycles)
  | .drain => some (64 * stepCycles)
  | .abort => some (80 * stepCycles)
  | _ => none

/-- A state of the handshake has overrun its budget. -/
def State.overrun (s : State) : Bool :=
  match budget s.mgmt.evctl.state with
  | some n => decide (s.mgmt.evctl.stateAt + n < s.cycle)
  | none => false

/-- EVICTION_BUDGET_EXPIRY (R442): ABORT; a job cancel at level 4 goes to every controller. ABORT itself, after its 2 s and 8 s, ends in SAFE (log 138). -/
def execEvictionBudgetExpiry (s : State) : Out :=
  act (fun s =>
    if s.overrun then
      if s.mgmt.evctl.state = .abort then s.toSafe false
      else
      let s := ((s.modMgmt (fun m => { m with tx := [] })).evGo .abort).cancelJob 0
      let s := s.recount
      ((s.others.filter (fun c => c != s.mgmt.evctl.spare)) ++ [s.mgmt.evctl.spare]).foldl (fun s c => s.mgmtSend tyAbort c) s
    else s) s

/-- The counters of a die's regulator in the word that the controller reads: LATEINC, REGERR, UNREACH of die 0, ENTRIES (R350). -/
def State.regWord (s : State) (die : Nat) : BitVec 64 :=
  let r := s.reg die
  BitVec.ofNat 64 (r.lateinc + r.regerr * 2 ^ 16 + (if die = 0 then r.unreach else 0) * 2 ^ 32 + r.view.length / 4 * 2 ^ 48)

/-! ### The other side: a spare, and a peer (R442, R443) -/

/-- EVICT_NOTICE (R442): a spare answers ready with JOBCTL IDLE. -/
def execEvictNotice (src : Nat) (s : State) : Out :=
  act (fun s =>
    if s.job.state = .idle ∧ s.mgmt.power = .main then
      (s.modMgmt (fun m => { m.noTransfer with evictSrc := some src })).mgmtSend tyReady src
    else s) s

/-- The parts of the evicted device's state that the spare takes from another state (R442): save areas and what restores them, tables, chains, regulators with views, owner tables and NEXT, SEQ and the send buffer (R348). -/
def State.takeState (s x : State) : State :=
  let s : State := { s with
    saved := x.saved, launches := x.launches, launchNo := x.launchNo, graphs := x.graphs, queues := x.queues, prioPtr := x.prioPtr
    chains := x.chains, resid := x.resid, fillNo := x.fillNo, leases := x.leases, newtag := x.newtag
    seq := x.seq, submitted := x.submitted, sendbuf := x.sendbuf, grid := x.grid, job := { x.job with state := .run }
    nextCtx := max s.nextCtx x.nextCtx, nextWid := max s.nextWid x.nextWid, nextTag := max s.nextTag x.nextTag }
  [0, 1, 2, 3].foldl (fun s d => s.modDie d (fun y => { y with
    reg := (x.die d).reg, tasks := (x.die d).tasks, pools := (x.die d).pools, recs := (x.die d).recs
    openRecs := (x.die d).openRecs, rseq := (x.die d).rseq })) s

/-- Bytes received, by their offset. -/
def Mgmt.rxBytes (m : Mgmt) (o n : Nat) : List Byte := (List.range n).map (fun i => mGet m.rx (o + i))

/-- The mapped frames among the received bytes, each written at its place (R442, R443). -/
def State.takeFrames (s : State) (m : Mgmt) : Nat → Nat → State
  | 0, _ => s
  | n + 1, o =>
    let p := bytesNat (m.rxBytes o 8)
    (s.homeWrites ((run (canopyP (p / 2 ^ 37 % 4) (p % 2 ^ 37)) 65536).zip (m.rxBytes (o + 8) 65536))).takeFrames m n (o + 8 + 65536)

/-- The spare takes over what it received, and the evicted coordinate on each of its dies (R442). -/
def State.takeOver (s : State) (m : Mgmt) (src : Nat) : State :=
  let n := bytesNat (m.rxBytes 0 8) + bytesNat (m.rxBytes 8 8)
  let s := (s.takeState (Config.transferred (m.rxBytes 16 n))).takeFrames m ((m.rxGot - 16 - n) / 65544) (16 + n)
  [0, 1, 2, 3].foldl (fun s d => s.modFabric d (fun f => { f with mycoord := src })) s

/-- What the spare holds after a transfer packet: packets come on several paths, in any order. -/
def Mgmt.receive (m : Mgmt) (ofs : Nat) (data : List Byte) (last : Bool) : Mgmt :=
  { m with
    rx := mPuts m.rx (((List.range data.length).map (fun i => ofs + i)).zip data).reverse
    rxGot := m.rxGot + data.length
    rxEnd := if last then some (ofs + data.length) else m.rxEnd }

/-- TRANSFER_PACKET (R348, R442, R443): the spare keeps the bytes; with the last of them it acknowledges, takes over what they carry and the evicted coordinate, and enters RUN. -/
def execTransferPacket (ofs : Nat) (data : List Byte) (last : Bool) (s : State) : Out :=
  act (fun s =>
    match s.mgmt.evictSrc with
    | none => s
    | some src =>
      if s.mgmt.rxDone then s
      else
        let m := s.mgmt.receive ofs data last
        if m.rxEnd = some m.rxGot then ((s.modMgmt (fun _ => { m with rxDone := true })).mgmtSend tyTransferAck src).takeOver m src
        else s.modMgmt (fun _ => m)) s

/-- The rules of a die's current bank, by index. -/
def State.curRules (s : State) (d : Nat) : List (Nat × Rule) :=
  let b := s.curBank d
  (List.range 64).filterMap (fun i => (sGet (s.die d).fabric.rules (b * 64 + i)).map (fun r => (i, r)))

/-- A rule matches a coordinate (R292). -/
def State.ruleHits (s : State) (r : Rule) (coord : Nat) : Bool :=
  let w := gridWidth s.grid
  r.valid && decide (r.len ≤ 10) && decide (r.len ≤ w) && natBits r.pfx 0 r.len = natBits (gridString s.grid coord) (w - r.len) r.len

/-- The free bank of a die is filled with rules, and the switch begins (R416, R418). -/
def State.fillBank (s : State) (d : Nat) (rs : List (Nat × Rule)) : State :=
  if (s.die d).fabric.busy then s
  else
    let b := 1 - s.curBank d
    let keep := (s.die d).fabric.rules.filter (fun e => e.1 / 64 != b)
    (s.modFabric d (fun f => { f with rules := keep ++ rs.map (fun x => (b * 64 + x.1, x.2)), busy := true })).push (.routeSwitch d)

/-- The rules under which a peer reaches the evicted coordinate at the spare: its own full-length rule on a link to the spare (R442). -/
def State.spareRules (s : State) (d spare evicted : Nat) : List (Nat × Rule) :=
  let w := gridWidth s.grid
  let old := (s.curRules d).filter (fun x => !(s.ruleHits x.2 evicted && x.2.len == w))
  match s.linkTo spare with
  | none => old
  | some l =>
    match (List.range 64).find? (fun i => !old.any (fun x => x.1 == i)) with
    | none => old
    | some i => old ++ [(i, { valid := true, pfx := gridString s.grid evicted, len := w, port := l })]

/-- PEER_ROUTE_DRAIN (R418, R442): each die of a peer fills its free bank with rules that name the spare, and switches. -/
def execPeerRouteDrain (spare evicted : Nat) (s : State) : Out :=
  act (fun s => [0, 1, 2, 3].foldl (fun s d => s.fillBank d (s.spareRules d spare evicted)) s) s

/-- ABORT_CANCEL_NOTICE (R442): the job is cancelled, a spare discards what it received, and a peer switches to banks without a rule for the evicted coordinate. -/
def execAbortCancelNotice (evicted : Nat) (s : State) : Out :=
  act (fun s =>
    let s := (s.cancelJob 0).recount
    let s := if s.mgmt.evictSrc = some evicted then s.modMgmt (fun m => m.noTransfer) else s
    [0, 1, 2, 3].foldl (fun s d => s.fillBank d ((s.curRules d).filter (fun x => !s.ruleHits x.2 evicted))) s) s

end Machine

end Sys2Proof
end

