-- ==== Sys2Proof/Machine/Spec.lean ====
section
/-! DEFINITION. Speculative runs: their start (R355, R356), the claim check (R362), the commit of the shadow store (R363), and the timeout (R362). -/

namespace Sys2Proof.Machine

/-- The frame of a slot's argument object, when it is usable (R355). -/
def State.argFrame (s : State) (j : Nat) : Option Nat :=
  let obj := s.pectl.argobj + j
  if s.pectl.argobj = 0 then none
  else match s.readDesc 0 obj with
    | none => none
    | some d =>
      let leaf := s.num (s.leafP 0 (dLeafofs d) 0) 8
      if dRights d % 2 = 1 ∧ 256 ≤ dExtent d ∧ lfV leaf ∧ lfAp leaf ≤ 1 ∧ !s.leafBad leaf false then some (s.leafPlace 0 obj 0 leaf) else none

/-- The lowest free slot whose argument object is usable. -/
def State.freeSlot (s : State) : Option Nat :=
  [0, 1, 2, 3].find? (fun j => decide ((s.slot j).state = .idle) && (s.argFrame j).isSome)

/-- The predicted launch of a queue that may start a run, with its kernel and slot (R355). The run starts once the blocks of the queue's last launch are placed, as in R405: R355 lets the command unit start at most one run in a cycle and does not say in which (DEDUCED, log 135). -/
def State.mayRun (s : State) (q : Nat) : Option (Hist × Kernel × Nat) :=
  let x := s.queue q
  if x.conf < 4 ∨ (s.runOf q [.running, .done, .claiming, .commit]).isSome ∨ x.pend.any (fun p => !p.done && s.unplaced p) then none
  else match s.predict x.hist, s.freeSlot with
    | some p, some j =>
      (match s.launchCheck p.cmd with
        | .ok k => if k.spec ∧ !s.idleCores.isEmpty then some (p, k, j) else none
        | .error _ => none)
    | _, _ => none

/-- The queue that starts a run in this cycle (R355): eligible, of the highest priority, then the lowest number. -/
def State.runQueue (s : State) : Option Nat :=
  if !s.serving ∨ !s.pectl.en ∨ s.pectl.maxrun ≤ (s.slots.filter (fun x => decide (x.2.state ≠ .idle))).length then none
  else
    let qs := (s.queues.filter (fun x => decide (4 ≤ x.2.conf) && ((s.qdesc x.1).map (fun d => d.en)).getD false && (s.mayRun x.1).isSome)).map
      (fun x => (x.1, ((s.qdesc x.1).map (fun d => d.prio)).getD 0))
    (qs.foldl (fun (a : Option (Nat × Nat)) x => match a with
      | none => some x
      | some b => if b.2 < x.2 ∨ (b.2 = x.2 ∧ x.1 < b.1) then some x else some b) none).map (fun x => x.1)

/-- SPECULATION_START (R355, R356, R358): the argument object is written, the filters are clear but for the read of KREC, and the first blocks are placed. -/
def execSpeculationStart (q : Nat) (s : State) : Out :=
  act (retryPins (fun s =>
    if s.runQueue ≠ some q then s
    else match s.mayRun q with
      | none => s
      | some (p, k, j) =>
        let s := match s.argFrame j with
          | none => s
          | some a => s.unitPuts ((homeDie a).getD 0) ((run a (8 * p.argv.length)).zip (p.argv.flatMap (fun (v : BitVec 64) => natBytes 8 v.toNat)))
        let s := s.modSlot j (fun _ => { state := .running, queue := q, pred := p, kernel := k, argobj := s.pectl.argobj + j })
        let s := match s.unitRange 0 p.cmd.krec 64 1 false false with
          | .error _ => s
          | .ok ps => ps.foldl (fun s a => s.noteRead { spec := some j } a) s
        let s : State := { s with pectl := { s.pectl with starts := min (s.pectl.starts + 1) 0xFFFFFFFF } }
        s.placeRuns)) s

/-- A frame of the read set has been written since the start (R360, R362). -/
def Slot.conflict (x : Slot) : Bool := x.readSet.any (fun b => x.monitors.any (fun m => m.2.contains b))

/-- The step checks a claim. -/
def isClaimCheck (i : Instr) : Bool :=
  match i with
  | .claimCheck _ => true
  | _ => false

/-- CLAIM_CHECK (R362, R363): a common bit discards the run, else the launch has its number and count and the commit begins. The check comes after every other effect of its cycle: a write performed in the cycle counts as before it. -/
def execClaimCheck (slot : Nat) (s : State) : Out :=
  act (fun s =>
    let x := s.slot slot
    if s.agenda.any (fun i => !isClaimCheck i) then s.push (.claimCheck slot)
    else match x.state, x.claim with
    | .claiming, some (_, seq) =>
      if x.conflict then (s.discardRun slot 5).enter x.queue seq x.phase x.real x.realKernel
      else
        let l := x.pred.cmd
        let (n, s) := s.register l
        let live := (s.ctxs.filter (fun e => e.2.spec == some slot)).map (fun e => e.2.block)
        let s : State := { s with launches := s.launches ++ [{
          no := n, cmd := { l with args := mkCap x.argobj 0 }, kernel := x.kernel
          prio := ((s.qdesc x.queue).map (fun d => d.prio)).getD 0
          phase := x.phase, queue := x.queue, seq := seq, next := if x.wasDone then l.blocks else x.next, units := l.blocks, taken := s.cycle, specBit := true
          slot := some slot, ended := (List.range x.next).filter (fun b => !live.contains b) }]
                                  pectl := { s.pectl with claims := min (s.pectl.claims + 1) 0xFFFFFFFF } }
        let s := s.modPend x.queue seq (fun p => { p with launch := some n })
        let s : State := { s with ctxs := s.ctxs.map (fun e => if e.2.spec = some slot then (e.1, { e.2 with launch := n, phase := x.phase }) else e) }
        s.modSlot slot (fun y => { y with state := .commit, claim := some (n, seq) })
    | _, _ => s) s

/-- A commit may be written: its launch's count is accepted (R341, R363). -/
def State.commitReady (s : State) (slot : Nat) : Bool :=
  match (s.slot slot).state, (s.slot slot).claim with
  | .commit, some (n, _) => s.countAccepted n
  | _, _ => false

/-- SHADOW_COMMIT_COMPLETE (R363): the stopped blocks go on as real blocks, and a run that was DONE completes its launch. -/
def execShadowCommitComplete (slot : Nat) (s : State) : Out :=
  act (retryPins (fun s =>
    let x := s.slot slot
    match x.claim with
    | some (n, _) =>
      if !s.commitReady slot then s
      else
        let s := (s.realize slot n).modLaunch n (fun l => { l with units := if x.wasDone then 0 else l.cmd.blocks - x.ended })
        (s.endLaunch n).showQueue x.queue
    | none => s)) s

/-- No take by the queue for 2^22 cycles (R362). -/
def State.runStale (s : State) (slot : Nat) : Bool :=
  let x := s.slot slot
  decide (x.state = .done) && decide (max (s.queue x.queue).lastTake x.doneAt + 2 ^ 22 < s.cycle)

/-- SPECULATION_TIMEOUT (R362). -/
def execSpeculationTimeout (slot : Nat) (s : State) : Out :=
  act (fun s => if s.runStale slot then s.discardRun slot 8 else s) s

end Sys2Proof.Machine
end

