-- ==== Sys2Proof/Machine/Agenda.lean ====
section
/-! DEFINITION. The end of a cycle: which steps of the hardware are due then, in the order in which they happen (R249-R254, and the rules of each unit), and the cycle's advance (log entry 1). -/

namespace Sys2Proof.Machine

/-! ### Threads and cores -/

/-- The event that a wait asks for in this state, if any (R249). -/
def State.dueWait (s : State) (k : Nat) (c : Ctx) (w : Wait) : List Instr :=
  let past := match w.deadline with
    | some d => decide (d < s.cycle)
    | none => false
  let late := if past then [Instr.waitIntervalExpiry k w.wid] else []
  match w.kind with
  | .tryw _ _ lanes => if lanes.all (s.trywMet c) then [.trywConditionMet k w.wid] else late
  | .pbwait _ _ _ lanes => if lanes.all (fun x => (s.pbStatus x).isSome) then [.pbwaitRelease k w.wid] else late
  | .gwait _ g _ => if (c.slotOf g).complete then [.gwaitComplete k w.wid] else late
  | .fwait _ _ _ lanes => if s.fwaitMet c lanes then [.fwaitComplete k w.wid] else late
  | .exacq e _ _ _ => if (s.residOf e).ready then [.exacqEntryReady k w.wid] else late
  | .rcv _ _ _ => if past then [.rcvDeadlineExpiry k w.wid] else []
  | .gather _ _ _ _ _ => if past then [.repackGatherTimeout k w.wid] else []
  | .yield => if past then [.yieldExpiry k w.wid] else []
  | .pause => if past then [.yieldExpiry k w.wid] else []
  | .presence _ => if s.holdOver c w.kind then [.presenceHoldRelease k w.wid] else []
  | .retry => [.presenceHoldRelease k w.wid]
  | .room => []
  | .acks _ _ _ => if s.holdOver c w.kind then [.presenceHoldRelease k w.wid] else []
  | .tmdec x => if ((c.wheel x).map (fun y => y.unaccepted)).getD 0 = 0 then [.heldTmdecRelease k w.wid] else []
  | .miss e => [.translationFill e]
  | .claim _ _ _ _ => []
  | .regroup _ _ => []

/-- What is due in a context but for its waits: results, copies, its end, its save (R85, R183, R206, R386, R442). -/
def State.dueCtx (s : State) (k : Nat) (c : Ctx) : List Instr :=
  (if c.writebackDue s.cycle then [.resultWriteback k] else [])
    ++ (c.loads.filter (fun o => !o.cpy.isEmpty)).map (fun o => .cpyComplete k o.ltag)
    ++ (if s.mayEnd k c then [.blockEnd k] else [])
    ++ (if c.saving || (decide (s.mgmt.evctl.state = .quiesce) && !c.handler) then [.contextSave k] else [])

/-- What is due in a core (R161, R164, R209, R252). -/
def State.dueCore (s : State) (core : Nat) : List Instr :=
  (if (s.mmDone core).isSome then [.matrixOpComplete core] else [])
    ++ (if (s.mmNext core).isSome then [.matrixOpStart core] else [])
    ++ (List.range 4).flatMap (fun q =>
      (match s.claims core q with
        | [] => []
        | x :: _ => if x.2.2.2 / 8 ≤ s.freeUnits core q then [.claimGrant core q] else [])
      ++ (if s.starvingIn core q && !(s.quarter (4 * core + q)).starving then [.candidateStarving core q] else []))

/-- Cores that hold a wheel or a matrix operation. -/
def State.busyCores (s : State) : List Nat :=
  (s.ctxs.flatMap (fun e => e.2.wheels.map (fun w => w.core)) ++ s.cores.map (fun e => e.1)).dedup

/-! ### The command unit and the engines (R187, R317, R321, R445) -/

/-- The step that takes an entry with an OP on an engine. -/
def engineEvent (die eng op : Nat) : Instr :=
  match op with
  | 1 => .linearCopy die eng
  | 2 => .tileCopy die eng
  | 3 => .windowCopy die eng
  | 4 => .fill die eng
  | 5 => .barrierArrivalOnly die eng
  | 15 => .endOfStream die eng
  | _ => .engineEntryFault die eng

/-- The step that takes the next command. -/
def State.dueCmd (s : State) : List Instr :=
  match s.nextCmd with
  | none => []
  | some c =>
    let eng := s.ccb 0 c.blk 40 1 % 8
    match c.op with
    | 0x20 => [.launch c.q]
    | 0x21 => [.runGraphInstance c.q]
    | 0x22 => [.waitForFrontier c.q]
    | 0x23 => [.signal c.q]
    | 0x24 => [.cancelCommand c.q]
    | op => [if (s.badCmd (c.q % 4) eng).isSome then .engineEntryFault (c.q % 4) eng else engineEvent (c.q % 4) eng op]

/-- Wait commands whose time is complete (R317). -/
def State.dueFrontier (s : State) : List Instr :=
  (s.queues.filter (fun q => q.2.pend.any (fun p => p.op == 0x22 && !p.done && p.fin.isNone && (match p.wait with
    | some (loc, t) => (s.timeStatus 0 loc t.toNat).isSome
    | none => false)))).map (fun q => .frontierWaitComplete q.1)

/-- Engines that run an entry or serve a chain. -/
def State.busyEngines (s : State) : List (Nat × Nat) :=
  (s.chains.map (fun c => (c.die, c.eng)) ++ s.dies.flatMap (fun d => d.2.engines.map (fun g => (d.1, g.1)))).dedup

/-- Engines whose running entry goes on in this cycle: the hardware's choice, which the spec leaves open (log entry 10). -/
def State.running (s : State) : List (Nat × Nat) × State :=
  (s.busyEngines.filter (fun x => (s.engine x.1 x.2).run.isSome)).foldl (fun (a : List (Nat × Nat) × State) x =>
    let (k, s) := a.2.fresh
    (if Config.engineRuns k then a.1 ++ [x] else a.1, s)) ([], s)

/-- What is due in an engine; `on` are the engines whose entries go on. -/
def State.dueEngine (s : State) (on : List (Nat × Nat)) (x : Nat × Nat) : List Instr :=
  (if on.contains x then [] else match s.engineOutcome x.1 x.2 with
    | some (_, _, _, none) => [.engineEntryComplete x.1 x.2]
    | some (_, _, _, some _) => [.engineEntryFault x.1 x.2]
    | none => [])
  ++ (match s.engNext x.1 x.2 with
    | some (_, _, e) => [engineEvent x.1 x.2 (if e.isEmpty then 0 else fld e 0 1)]
    | none => [])

/-! ### Prediction, tables and residency -/

/-- What is due for speculative runs but for claim checks (R355, R362, R363). -/
def State.dueRuns (s : State) : List Instr :=
  (match s.runQueue with
    | some q => [.speculationStart q]
    | none => [])
  ++ s.slots.flatMap (fun x =>
    (if s.commitReady x.1 then [.shadowCommitComplete x.1] else [])
      ++ (if s.runStale x.1 then [.speculationTimeout x.1] else []))

/-- Claims whose write monitors are compared: after every other effect of the cycle (R362). -/
def State.dueClaims (s : State) : List Instr :=
  (s.slots.filter (fun x => x.2.state == .claiming)).map (fun x => .claimCheck x.1)

/-- What is due in the table unit for a die's block (R378, R379). -/
def State.dueTable (s : State) (d : Nat) : List Instr :=
  (if s.tableReady d then [match s.cmdFld d 0 1 with
    | 2 => .migrate d
    | 3 => .writedesc d
    | 4 => .hotread d
    | _ => .writeleaf d] else [])
  ++ (match (s.die d).twait with
    | none => []
    | some w =>
      if w.status.isNone && w.frame.isSome then (if (s.migrateOutcome d w).isSome then [.migrateCopyComplete d false] else [])
      else if w.till < s.cycle then [.tableLeaseWaitExpiry d] else [])
  ++ (((s.die d).pools.back ++ (s.die d).pools.resBack).filter (fun e => decide (e.2 < s.cycle))).map (fun e => .frameReturn d e.1)

/-- Leases that have ended (R373). -/
def State.dueLeases (s : State) : List Instr :=
  s.cores.flatMap (fun c => (c.2.dcache.filter (fun e => decide (e.till < s.cycle))).map (fun e => .leaseExpiry (.desc c.1 e.obj)))
    ++ s.dies.flatMap (fun d => (d.2.lcache.filter (fun e => decide (e.till < s.cycle))).map (fun e => .leaseExpiry (.leaf d.1 e.obj e.page)))

/-- What is due for a residency entry (R383-R385). -/
def State.dueResid (s : State) (x : Nat × Resid) : List Instr :=
  let r := x.2
  if r.state = 1 ∧ r.bad then [.expertFillFault x.1]
  else if r.state = 1 ∧ r.mapped ∧ r.nt + 1 ≤ r.filled then [.expertFillComplete x.1]
  else if r.state = 4 ∧ r.evictAt < s.cycle then [.evictionEnd x.1] else []

/-! ### Regulators, grid and links -/

/-- What is due in a die's regulator and the sequencer (R338, R340, R342, R346). -/
def State.dueTime (s : State) : List Instr :=
  ([0, 1, 2, 3].filter (fun d => (s.reg d).closes s.cycle)).map .batchCloseTimeout
    ++ (match s.nextBatch with
      | some b => [.batchSequencing b.die]
      | none => [])
    ++ s.sendbuf.flatMap (fun b => (b.dests.filter (fun x => x.2.due s.cycle)).map (fun x => .batchResendTimeout x.1 b.seq))
    ++ ([0, 1, 2, 3].filter (fun d => match (s.reg d).announce with | some c => decide (c < s.cycle) && !(s.reg d).stopped | none => false)).map .frontierAnnouncement

/-- What is due in a die's crossbar and contribution buffer (R291, R297, R420). -/
def State.dueGrid (s : State) (d : Nat) : List Instr :=
  (s.die d).grid.owing.filterMap (fun x => match x.2.2 with
    | .retryAt c => if c ≠ 0 ∧ c ≤ s.cycle then some (.retryResend d x.1.cseq x.2.1) else none
    | .sent _ c => if c + 2 ^ 20 < s.cycle then some (.contributionResendTimeout d x.1.cseq x.2.1) else none
    | .fresh => none)
  ++ (if (s.nextSend d).isSome || (match s.stagedNext d with
      | some x => (sGet s.ctxs x.contrib.ctx).all (fun c => c.cancelled) || s.gridRoom d (x.contrib.pkts.length * x.contrib.dests.length)
      | none => false) then [.crossbarExpansion d] else [])
  ++ (if (s.die d).grid.held.any (fun h => decide (h.at_ ≤ s.cycle)) then [.responseRelookup d] else [])
  ++ (if (s.die d).fabric.busy then [.routeSwitch d] else [])

/-- What is due on a link: a flit every two cycles, and its timers (R408, R412, R421). -/
def State.dueLink (s : State) (l : Nat) (k : Link) : List Instr :=
  match k.state with
  | .up => (if s.cycle % 2 = 0 then [.flitTransmit l] else []) ++ (if k.replayDue s.cycle then [.replayTimeout l] else [])
  | .train => (if s.cycle % 2 = 0 then [.flitTransmit l] else []) ++ (if k.since + 2 ^ 24 < s.cycle then [.trainTimeout l] else [])
  | _ => if k.since + 2 ^ 22 < s.cycle then [.failedRetryTimeout l] else []

/-! ### The cycle's end -/

/-- What is due in the job's control and the management controller (R381, R421, R442). -/
def State.dueModule (s : State) : List Instr :=
  (if s.endingOver then [.jobEndingComplete] else [])
    ++ (if s.mgmt.inReset then [.dieResetEnd] else [])
    ++ (if s.mgmt.evctl.state = .quiesce ∧ s.quiet then [.quiesceComplete] else [])
    ++ (if s.overrun then [.evictionBudgetExpiry] else [])
    ++ (if s.sampleDue then [.sensorSample (Config.reading (s.mgmt.base + s.cycle))] else [])

/-- What is due at the end of a cycle; `on` are the engines whose entries go on. The ends of waits come last but for the checks of claims, so that what happens in an interval's last cycle counts (R192, R362). -/
def State.due (s : State) (on : List (Nat × Nat)) : List Instr :=
  s.delayed.map (fun d => d.req)
    ++ s.ctxs.flatMap (fun e => s.dueCtx e.1 e.2) ++ s.busyCores.flatMap s.dueCore
    ++ s.busyEngines.flatMap (s.dueEngine on)
    ++ [0, 1, 2, 3].flatMap (fun d => s.dueTable d ++ s.dueGrid d)
    ++ s.resid.flatMap s.dueResid ++ s.dueLeases ++ s.dueTime
    ++ s.links.flatMap (fun l => s.dueLink l.1 l.2)
    ++ s.dueFrontier ++ s.dueRuns ++ s.dueCmd
    ++ ([0, 1, 2, 3].filter (fun d => !(s.die d).recs.isEmpty && (s.recRoom d).isSome)).map .faultRecordWrite
    ++ (if s.placeDue then [.placementAttempt] else [])
    ++ s.dueModule
    ++ s.ctxs.flatMap (fun e => e.2.waits.flatMap (s.dueWait e.1 e.2))
    ++ s.dueClaims

/-- Stores that leave their queues and a line that a cache evicts in this cycle: the hardware's choice (R266, R267, R270). -/
def State.chosen (s : State) : List Instr × State :=
  let ws := s.ctxs.flatMap (fun e => (e.2.wheels.filter (fun w => !w.stores.isEmpty)).map (fun w => (e.1, w.idx)))
  let x := ws.foldl (fun (a : List Instr × State) w =>
    let (k, s) := a.2.fresh
    (if Config.drains k then a.1 ++ [.storeQueueDrain w.1 w.2] else a.1, s)) ([], s)
  if s.cores.all (fun e => e.2.l1.isEmpty) && s.dies.all (fun e => e.2.l2.isEmpty) then x
  else
    let (k, s) := x.2.fresh
    (match Config.evicts k with
      | some (.l1 c, l) => x.1 ++ [.cacheEviction (.l1 c) (evictee (s.core c).l1 (s.core c).hints l)]
      | some (.l2 d, l) => x.1 ++ [.cacheEviction (.l2 d) (evictee (s.die d).l2 (s.die d).hints l)]
      | none => x.1, s)

/-- What the command unit and the engines need of chains behind apertures, and ended tasks of their instances, is asked for (R313, R327, R374). -/
def State.pollUnits (s : State) : State :=
  let s := if s.job.qtbl = 0 ∨ !s.serving then s else (List.range 256).foldl State.pollQueue s
  let s := s.chains.foldl State.pollChain s
  s.ctxs.foldl (fun s e => if e.2.trec.isSome && !e.2.cancelled && e.2.threads.all (fun t => !t.live) then s.askReads e.2.die (s.endReads e.2) else s) s

/-- What every cycle does of itself: loads that a pin refused and waits on peers' words are tried again, fills take frames, start tasks of graphs join their queue, commands and launches end, queues show their STATE, an image is written, and transfer packets leave. -/
def State.housekeep (s : State) : State :=
  let s := [0, 1, 2, 3].foldl (fun s d => retryPins (fun s => s.pumpFill d) s) s.serveLoads.pollWaits
  (retryPins State.pumpGraphs s.pollUnits).finishCmds.endLaunches.showQueues.writeImage.pumpTransfer

/-- The cycle ends: what is due then happens before the next cycle's first issue. -/
def State.tick (s : State) : State :=
  let s := s.settleAll s.cycle
  let s : State := { s with cycle := s.cycle + 1, turns := [], ctxs := s.ctxs.map (fun e => (e.1, if e.2.twrites.isEmpty then e.2 else e.2.tspread)) }
  let (xs, s) := s.housekeep.chosen
  let (on, s) := s.running
  { s with agenda := xs ++ s.due on, delayed := [] }

end Sys2Proof.Machine
end

