-- ==== Sys2Proof/Machine/Func.lean ====
section
/-! DEFINITION. FFN (R138, R139). Each function's exact value is bounded by fixed-point arithmetic with 320 fraction bits; the result is the free value of Config where it keeps the error bound, and the nearest code where it does not (log entry 4). -/

namespace Sys2Proof.Machine

/-- Fraction bits of the reference arithmetic. -/
def fxP : Nat := 320

/-- 1 in fixed point. -/
def fxOne : Nat := 2 ^ fxP

/-- ln 2 in fixed point. -/
def fxLn2 : Nat :=
  1480553391661173448385607439722553250922680800745876974795605978609098082859138712941075737848984

/-- 2π in fixed point. -/
def fxTwoPi : Nat :=
  13420802360424337830311681948440006481608388178854297901454212848703426437343610760199000777828079

/-- The integer square root by Newton's iteration from above, `fuel` steps. -/
def isqrtAux : Nat → Nat → Nat → Nat
  | 0, _, x => x
  | fuel + 1, n, x =>
    let y := (x + n / x) / 2
    if x ≤ y then x else isqrtAux fuel n y

/-- The integer square root. -/
def isqrt (n : Nat) : Nat := if n = 0 then 0 else isqrtAux 64 n (2 ^ (Nat.log2 n / 2 + 1))

/-- Σ over `k` up to `fuel` of terms `t * y / (k+1)`: the exponential series from term `t`. -/
def expSeries : Nat → Nat → Nat → Nat → Nat
  | 0, _, _, _ => 0
  | fuel + 1, k, t, y => t + expSeries fuel (k + 1) (t * y / fxOne / (k + 1)) y

/-- e^y in fixed point for 0 ≤ y < 1. -/
def fxExp (y : Nat) : Nat := expSeries 90 0 fxOne y

/-- The alternating series of sine (`k` 1, `t` y) and cosine (`k` 0, `t` 1) from term `t`. -/
def trigSeries : Nat → Nat → Int → Int → Int
  | 0, _, _, _ => 0
  | fuel + 1, k, t, y2 => t + trigSeries fuel (k + 2) (-(t * y2 / fxOne / ((k + 1) * (k + 2) : Nat))) y2

/-- Σ of z^(2k+1)/(2k+1): the inverse hyperbolic tangent of `z`, from power `t`. -/
def atanhSeries : Nat → Nat → Nat → Nat → Nat
  | 0, _, _, _ => 0
  | fuel + 1, k, t, z2 => t / k + atanhSeries fuel (k + 2) (t * z2 / fxOne) z2

/-- An approximation `± n / d * 2 ^ e` of a function's value, `exact` when it is the value. -/
structure Approx where
  neg : Bool
  n : Nat
  d : Nat := 1
  e : Int := 0
  exact : Bool := false
  deriving DecidableEq, Repr

/-- A finite magnitude in fixed point. -/
def toFx (n : Nat) (e : Int) : Nat :=
  let s := e + fxP
  if 0 ≤ s then n * 2 ^ s.toNat else n / 2 ^ (-s).toNat

/-- 2^x as fixed-point mantissa and exponent, for the signed fixed-point `x` times ln 2 given as `y`. -/
def fxExpInt (y : Int) : Nat × Int :=
  let k := y / (fxLn2 : Int)
  (fxExp (y - k * fxLn2).toNat, max (-400) (min 400 k))

/-- e^(-|x|) in fixed point. -/
def fxExpNeg (n : Nat) (e : Int) : Nat :=
  let (m, k) := fxExpInt (-(toFx n e : Int))
  m / 2 ^ (-k).toNat

/-- The value of a function at a finite nonzero input, outside the special inputs of R138. -/
def fnApprox (fn : Fn) (neg : Bool) (n : Nat) (e : Int) : Approx :=
  match fn with
  | .rcp => { neg := neg, n := 1, d := n, e := -e, exact := n == 2 ^ Nat.log2 n }
  | .rsqrt =>
    let (m, g) := if e % 2 = 0 then (n, e) else (2 * n, e - 1)
    let s := isqrt (m * 2 ^ (2 * fxP))
    { neg := false, n := fxOne, d := s, e := -(g / 2), exact := s * s == m * 2 ^ (2 * fxP) }
  | .sqrt =>
    let (m, g) := if e % 2 = 0 then (n, e) else (2 * n, e - 1)
    let s := isqrt (m * 2 ^ (2 * fxP))
    if s * s = m * 2 ^ (2 * fxP) then { neg := false, n := s, e := g / 2 - fxP, exact := true }
    else { neg := false, n := 2 * s + 1, e := g / 2 - fxP - 1 }
  | .ex2 =>
    let x : Int := if neg then -(toFx n e : Int) else toFx n e
    let k := x / (fxOne : Int)
    let f := (x - k * fxOne).toNat
    if f = 0 && decide (0 ≤ e ∨ n % 2 ^ (-e).toNat = 0) then { neg := false, n := 1, e := max (-400) (min 400 k), exact := true }
    else { neg := false, n := fxExp (f * fxLn2 / fxOne), e := max (-400) (min 400 k) - fxP }
  | .lg2 =>
    -- n * 2^e = M * 2^E with M in [1, 2)
    let l := Nat.log2 n
    let E : Int := l + e
    if n = 2 ^ l then { neg := decide (E < 0), n := E.natAbs, exact := true }
    else
      let M := if l ≤ fxP then n * 2 ^ (fxP - l) else n / 2 ^ (l - fxP)
      let z := (M - fxOne) * fxOne / (M + fxOne)
      let lnM := 2 * atanhSeries 220 1 z (z * z / fxOne)
      let v : Int := E * fxOne + (lnM * fxOne / fxLn2 : Nat)
      { neg := decide (v < 0), n := v.natAbs, e := -(fxP : Int) }
  | .sin | .cos =>
    let y : Int := (toFx n e) % fxTwoPi
    let y2 := y * y / fxOne
    let v := if fn = .sin then trigSeries 60 1 y y2 else trigSeries 60 0 fxOne y2
    { neg := decide (v < 0) != (neg && fn == .sin), n := v.natAbs, e := -(fxP : Int) }
  | .tanh =>
    let t := fxExpNeg (2 * n) e
    { neg := neg, n := fxOne - t, d := fxOne + t }
  | .sigm =>
    if neg then
      let (m, k) := fxExpInt (-(toFx n e : Int))
      { neg := false, n := m, d := fxOne + fxExpNeg n e, e := k }
    else { neg := false, n := fxOne, d := fxOne + fxExpNeg n e }

/-- The result of R138 for special inputs: code and flags; `none` for the others. -/
def fnSpecial (fn : Fn) (v : FV) : Option (Nat × Word) :=
  let nan : Nat × Word := (0x7FC00000, fINV)
  let inf (neg : Bool) : Nat := if neg then 0xFF800000 else 0x7F800000
  let zero (neg : Bool) : Nat := if neg then 0x80000000 else 0
  match v with
  | .nan s => some (0x7FC00000, flagIf s fINV)
  | .inf neg =>
    some (match fn with
      | .rcp => (zero neg, 0)
      | .rsqrt => if neg then nan else (0, 0)
      | .sqrt => if neg then nan else (inf false, 0)
      | .ex2 => if neg then (0, 0) else (inf false, 0)
      | .lg2 => if neg then nan else (inf false, 0)
      | .sin | .cos => nan
      | .tanh => (if neg then 0xBF800000 else 0x3F800000, 0)
      | .sigm => (if neg then 0 else 0x3F800000, 0))
  | .fin neg n e =>
    if n = 0 then
      some (match fn with
        | .rcp => (inf neg, fDZ)
        | .rsqrt => (inf neg, fDZ)
        | .sqrt => (zero neg, 0)
        | .ex2 | .cos => (0x3F800000, 0)
        | .lg2 => (inf true, fDZ)
        | .sin | .tanh => (zero neg, 0)
        | .sigm => (0x3F000000, 0))
    else if neg && (match fn with | .rsqrt | .sqrt | .lg2 => true | _ => false) then some nan
    else if (match fn with | .ex2 => true | _ => false) && !neg && (Dy.cmp ⟨n, e⟩ ⟨128, 0⟩ != .lt) then some (inf false, fOF ||| fNX)
    else none

/-- Whether the finite binary32 code `w` lies within `2 ^ be * bn` of an approximation. -/
def withinBound (a : Approx) (w bn : Nat) (be : Int) : Bool :=
  match f32.decode w with
  | .fin neg n e =>
    let d := Dy.add ⟨(dyOf neg n e).m * a.d, e⟩ (dyOf (!a.neg) a.n a.e)
    (Dy.cmp ⟨d.m.natAbs, d.e⟩ ⟨bn * a.d, be⟩) != .gt
  | _ => false

/-- The error bound of R138 for the input and the nearest code: whether `w` keeps it. -/
def fnKeeps (fn : Fn) (x : FV) (a : Approx) (near w : Nat) : Bool :=
  let q := (f32.mag (near % 0x80000000)).2
  match fn with
  | .rcp | .rsqrt => withinBound a w 1 q
  | .sqrt => w == near
  | .ex2 | .tanh | .sigm => withinBound a w 2 q
  | .lg2 => withinBound a w 2 q || (withinBound a w 1 (-22) && (match x with
      | .fin _ n e => Dy.cmp ⟨n, e⟩ ⟨1, -1⟩ != .lt && Dy.cmp ⟨n, e⟩ ⟨2, 0⟩ != .gt
      | _ => false))
  | .sin | .cos => withinBound a w 1 (-21)

/-- FFN (R138, R139): code and flags. FFN.ex2 of an integer takes the nearest code below the least one too (DESIGN CHOICE, log 106). -/
def ffnEval (ftz : Bool) (fn : Fn) (c : Nat) : Nat × Word :=
  let x := f32.flushIn ftz c
  match fnSpecial fn x with
  | some r => r
  | none =>
    match x with
    | .fin neg n e =>
      let a := fnApprox fn neg n e
      let (near, fl) := f32.settle .rn false false 0 0 a.neg a.n a.d a.e
      if near % 0x80000000 = 0x7F800000 then (near, fl)
      else if a.exact && fn != .rsqrt then f32.settle .rn false ftz 0 0 a.neg a.n a.d a.e
      else
        let w := (Config.ffn fn (BitVec.ofNat 32 c)).toNat
        let r := if fnKeeps fn x a near w then w else near
        let nx := !(a.exact && withinBound a r 0 0)
        let tiny := decide (r % 0x80000000 < 2 ^ 23)
        if ftz && tiny && r % 0x80000000 != 0 then (r / 0x80000000 * 0x80000000, fUF ||| fNX)
        else (r, flagIf nx fNX ||| flagIf (nx && tiny) fUF)
    | _ => (0, 0)

end Sys2Proof.Machine
end

