-- ==== Sys2Proof/Machine/Float.lean ====
section
/-! DEFINITION. Floating-point and conversion instructions (R130-R145). -/

namespace Sys2Proof.Machine

/-- Results and flags of elements packed into registers. -/
def packFl (n w : Nat) (rs : List (Nat × Word)) : List Word × Word :=
  (natWords n (packElems w (rs.map (fun r => r.1))), rs.foldl (fun a r => a ||| r.2) 0)

/-- The floating format of a type (R131). -/
def tyFmt (ty : Ty) : Fmt :=
  match ty with
  | .f16 => f16
  | .bf16 => bf16
  | .f64 => f64
  | _ => f32

/-- A two-operand floating body (R132). -/
def fpTwo (ty : Ty) (f : Nat → Nat → Nat × Word) (l : Lane) (a b : Src) : List Word × Word :=
  packFl (tyRegs ty) (tyW ty) (List.zipWith f (readElems l ty a) (readElems l ty b))

/-- A fused floating body (R132). -/
def fpThree (ty : Ty) (f : Nat → Nat → Nat → Nat × Word) (l : Lane) (a b c : Src) : List Word × Word :=
  packFl (tyRegs ty) (tyW ty)
    (List.zipWith (fun x (y : Nat × Nat) => f x y.1 y.2) (readElems l ty a) ((readElems l ty b).zip (readElems l ty c)))

/-- FADD (R132). -/
def execFadd (h : Head) (sat : Bool) (rnd : Rnd) (ftz : Bool) (d : Dst) (a b : Src) (s : State) : Out :=
  act (aluOp h d 3 (fun l => fpTwo .f32 (fAdd f32 rnd sat ftz) l a b)) s

/-- FMUL (R132). -/
def execFmul (h : Head) (sat : Bool) (rnd : Rnd) (ftz : Bool) (d : Dst) (a b : Src) (s : State) : Out :=
  act (aluOp h d 3 (fun l => fpTwo .f32 (fMul f32 rnd sat ftz) l a b)) s

/-- FFMA (R132). -/
def execFfma (h : Head) (sat : Bool) (rnd : Rnd) (ftz : Bool) (d : Dst) (a b c : Src) (s : State) : Out :=
  act (aluOp h d 3 (fun l => fpThree .f32 (fFma f32 rnd sat ftz) l a b c)) s

/-- FMIN (R135). -/
def execFmin (h : Head) (ftz : Bool) (d : Dst) (a b : Src) (s : State) : Out :=
  act (aluOp h d 3 (fun l => fpTwo .f32 (fMinMax f32 ftz false) l a b)) s

/-- FMAX (R135). -/
def execFmax (h : Head) (ftz : Bool) (d : Dst) (a b : Src) (s : State) : Out :=
  act (aluOp h d 3 (fun l => fpTwo .f32 (fMinMax f32 ftz true) l a b)) s

/-- FCMP (R136). -/
def execFcmp (h : Head) (ty : Ty) (ftz : Bool) (rel : Rel) (un and : Bool) (pd : BitVec 5) (a b : Src) (s : State) : Out :=
  act (onBeat h (fun e s =>
    let r := fun l => fCmp (tyFmt ty) ftz rel un (readSrc l (tyRegs ty) a) (readSrc l (tyRegs ty) b)
    (s.writeP e pd.toNat 3 (fun l => if and then readP l pd && (r l).1 else (r l).1)).raise e 3 (fun l => (r l).2))) s

/-- FFN (R138, R139): a vector form holds the datapath for 2 cycles (R134). -/
def execFfn (h : Head) (ftz : Bool) (fn : Fn) (d : Dst) (a : Src) (s : State) : Out :=
  act (fun s => holdPath d 2 (aluOp h d 7 (fun l =>
    packFl 1 32 [ffnEval ftz fn (readSrc l 1 a)]) s)) s

/-- FTEST (R137). -/
def execFtest (h : Head) (ty : Ty) (cls : BitVec 10) (hi : Bool) (pd : BitVec 5) (a : Src) (s : State) : Out :=
  act (predOp h pd 3 (fun l =>
    let x := elemAt (tyW ty) (if hi then 1 else 0) (readSrc l (tyRegs ty) a)
    cls.getLsbD (fClass (tyFmt ty) x))) s

/-- HADD2 (R132). -/
def execHadd2 (h : Head) (ty : Ty) (sat : Bool) (rnd : Rnd) (ftz : Bool) (d : Dst) (a b : Src) (s : State) : Out :=
  act (aluOp h d 3 (fun l => fpTwo ty (fAdd (tyFmt ty) rnd sat ftz) l a b)) s

/-- HMUL2 (R132). -/
def execHmul2 (h : Head) (ty : Ty) (sat : Bool) (rnd : Rnd) (ftz : Bool) (d : Dst) (a b : Src) (s : State) : Out :=
  act (aluOp h d 3 (fun l => fpTwo ty (fMul (tyFmt ty) rnd sat ftz) l a b)) s

/-- HFMA2 (R132). -/
def execHfma2 (h : Head) (ty : Ty) (sat : Bool) (rnd : Rnd) (ftz : Bool) (d : Dst) (a b c : Src) (s : State) : Out :=
  act (aluOp h d 3 (fun l => fpThree ty (fFma (tyFmt ty) rnd sat ftz) l a b c)) s

/-- HMNX2 (R135). -/
def execHmnx2 (h : Head) (ty : Ty) (ftz max : Bool) (d : Dst) (a b : Src) (s : State) : Out :=
  act (aluOp h d 3 (fun l => fpTwo ty (fMinMax (tyFmt ty) ftz max) l a b)) s

/-- DADD (R132): a vector form holds the datapath for 4 cycles (R134). -/
def execDadd (h : Head) (sat : Bool) (rnd : Rnd) (ftz : Bool) (d : Dst) (a b : Src) (s : State) : Out :=
  act (fun s => holdPath d 4 (aluOp h d 7 (fun l => fpTwo .f64 (fAdd f64 rnd sat ftz) l a b) s)) s

/-- DMUL (R132, R134). -/
def execDmul (h : Head) (sat : Bool) (rnd : Rnd) (ftz : Bool) (d : Dst) (a b : Src) (s : State) : Out :=
  act (fun s => holdPath d 4 (aluOp h d 7 (fun l => fpTwo .f64 (fMul f64 rnd sat ftz) l a b) s)) s

/-- DFMA (R132, R134). -/
def execDfma (h : Head) (sat : Bool) (rnd : Rnd) (ftz : Bool) (d : Dst) (a b c : Src) (s : State) : Out :=
  act (fun s => holdPath d 4 (aluOp h d 7 (fun l => fpThree .f64 (fFma f64 rnd sat ftz) l a b c) s)) s

/-- The random bits of element `i` of `n` in C, in the number that R28 gives to each element. -/
def rhoOf (n i c : Nat) : Nat × Nat :=
  let b := if n ≤ 2 then 16 else if n ≤ 4 then 8 else 4
  (b, elemAt b i c)

/-- CVT's elements in a lane (R141, R142). -/
def cvtLane (rnd : Rnd) (sat ftz : Bool) (ln : BitVec 2) (sf df : BitVec 8) (l : Lane) (a : Src) (c : Option Src) :
    List Word × Word :=
  let n := 2 ^ ln.toNat
  let sw := fmtBits sf
  let dw := fmtBits df
  let x := readSrc l (elemRegs n sw) a
  let r := (c.map (readSrc l 1)).getD 0
  packFl (elemRegs n dw) dw ((List.range n).map (fun i =>
    cvtElem (elemOf sf) (elemOf df) rnd sat ftz (rhoOf n i r).1 (rhoOf n i r).2 (elemAt sw i x)))

/-- CVT (R140-R143). -/
def execCvt (h : Head) (rnd : Rnd) (sat ftz : Bool) (ln : BitVec 2) (sfmt dfmt : BitVec 8) (d : Dst) (a : Src) (c : Option Src) (s : State) : Out :=
  act (aluOp h d 3 (fun l => cvtLane rnd sat ftz ln sfmt dfmt l a c)) s

/-- The floating format of an element code (R144). -/
def efmtOf (c : BitVec 8) : Fmt :=
  match elemOf c with
  | .flt f => f
  | _ => e2m1

/-- QBLK's scale, element registers and flags in a lane (R144). -/
def qblkLane (rnd : Rnd) (sc32 : Bool) (ef : BitVec 8) (l : Lane) (a : Src) : Nat × List Word × Word :=
  let n := if sc32 then 32 else 16
  let x := readSrc l n a
  let r := qblkBlock (efmtOf ef) sc32 rnd ((List.range n).map (fun i => elemAt 32 i x))
  (r.1, natWords (elemRegs n (fmtBits ef)) (packElems (fmtBits ef) r.2.1), r.2.2)

/-- QBLK (R144): byte BYTE of SD receives the scale. -/
def execQblk (h : Head) (rnd : Rnd) (sc32 : Bool) (sd : BitVec 8) (byte : BitVec 2) (efmt : BitVec 8) (d : Dst) (a : Src) (s : State) : Out :=
  act (fun s => onBeat h (fun e s =>
    let q := fun l => qblkLane rnd sc32 efmt l a
    let sdw := fun (old : Nat) (l : Lane) => [BitVec.ofNat 32 (natSetBits old (8 * byte.toNat) 8 (q l).1)]
    match d with
    | .v r =>
      ((s.writeV e r.toNat 7 (fun l => (q l).2.1)).writeV e sd.toNat 7 (fun l => sdw (readV l.t 1 sd) l)).raise e 7 (fun l => (q l).2.2)
    | .s r =>
      ((s.writeS e r.toNat 7 (fun l => (q l).2.1)).writeS e sd.toNat 7 (fun l => sdw (readS l.w 1 sd) l)).raiseS e 7 (fun l => (q l).2.2)) s) s

/-- DQBLK's destination format (R145). -/
def dqFmt (c : BitVec 2) : Fmt :=
  match c.toNat with
  | 1 => f16
  | 2 => bf16
  | _ => f32

/-- DQBLK's elements in a lane (R145). -/
def dqblkLane (rnd : Rnd) (sc32 : Bool) (df : BitVec 2) (sat ftz : Bool) (byte : BitVec 2) (ef : BitVec 8) (l : Lane) (a b : Src) :
    List Word × Word :=
  let n := if sc32 then 32 else 16
  let w := fmtBits ef
  let x := readSrc l (elemRegs n w) a
  let sc := elemAt 8 byte.toNat (readSrc l 1 b)
  let dw := if df = 0 then 32 else 16
  let r := dqblkBlock (efmtOf ef) (dqFmt df) sc32 rnd sat ftz sc ((List.range n).map (fun i => elemAt w i x))
  (natWords (elemRegs n dw) (packElems dw r.1), r.2)

/-- DQBLK (R145). -/
def execDqblk (h : Head) (rnd : Rnd) (sc32 : Bool) (dfmt : BitVec 2) (sat ftz : Bool) (byte : BitVec 2) (efmt : BitVec 8) (d : Dst) (a b : Src) (s : State) : Out :=
  act (aluOp h d 7 (fun l => dqblkLane rnd sc32 dfmt sat ftz byte efmt l a b)) s

end Sys2Proof.Machine
end

