-- ==== Sys2Proof/Machine/Int.lean ====
section
/-! DEFINITION. Integer, bit, move and predicate instructions (R100-R117, R128, R129). -/

namespace Sys2Proof.Machine

/-! ### Integer arithmetic (R106) -/

/-- The value of an element under its type (R101). -/
def elemVal (ty : Ty) (x : Nat) : Int := sgnVal (tySigned ty) (tyW ty) x

/-- An exact result fitted to an element of a type (R13). -/
def elemFit (ty : Ty) (sat : Bool) (x : Int) : Nat := fitInt sat (tySigned ty) (tyW ty) x

/-- The body of R106 for one source. -/
def intOne (ty : Ty) (sat : Bool) (f : Int → Int) (l : Lane) (a : Src) : List Word :=
  packTy ty ((readElems l ty a).map (fun x => elemFit ty sat (f (elemVal ty x))))

/-- The body of R106 for two sources. -/
def intTwo (ty : Ty) (sat : Bool) (f : Int → Int → Int) (l : Lane) (a b : Src) : List Word :=
  packTy ty (List.zipWith (fun x y => elemFit ty sat (f (elemVal ty x) (elemVal ty y))) (readElems l ty a) (readElems l ty b))

/-- The value of a 32- or 64-bit operand under a type (R101). -/
def srcInt (l : Lane) (ty : Ty) (a : Src) : Int := sgnVal (tySigned ty) (tyW ty) (readSrc l (tyRegs ty) a)

/-- NOP (R105). -/
def execNop (h : Head) (s : State) : Out := act (onBeat h (fun _ s => s)) s

/-- IADD (R106). -/
def execIadd (h : Head) (ty : Ty) (sat : Bool) (d : Dst) (a b : Src) (s : State) : Out :=
  act (regOp h d 3 (fun l => intTwo ty sat (fun x y => x + y) l a b)) s

/-- ISUB (R106). -/
def execIsub (h : Head) (ty : Ty) (sat : Bool) (d : Dst) (a b : Src) (s : State) : Out :=
  act (regOp h d 3 (fun l => intTwo ty sat (fun x y => x - y) l a b)) s

/-- IMUL (R106): the low half. -/
def execImul (h : Head) (ty : Ty) (sat : Bool) (d : Dst) (a b : Src) (s : State) : Out :=
  act (regOp h d 3 (fun l => intTwo ty sat (fun x y => x * y) l a b)) s

/-- IMULH (R106): the high half, floor(a × b / 2^w). -/
def execImulh (h : Head) (ty : Ty) (d : Dst) (a b : Src) (s : State) : Out :=
  act (regOp h d 3 (fun l => intTwo ty false (fun x y => x * y / 2 ^ tyW ty) l a b)) s

/-- IMAD (R106). -/
def execImad (h : Head) (ty : Ty) (sat : Bool) (d : Dst) (a b c : Src) (s : State) : Out :=
  act (regOp h d 3 (fun l => natWords (tyRegs ty)
    (elemFit ty sat (srcInt l ty a * srcInt l ty b + srcInt l ty c)))) s

/-- IMADW (R106): 32-bit factors, a 64-bit accumulator of the same signedness. -/
def execImadw (h : Head) (ty : Ty) (sat : Bool) (d : Dst) (a b c : Src) (s : State) : Out :=
  act (regOp h d 3 (fun l => natWords 2 (fitInt sat (tySigned ty) 64
    (srcInt l ty a * srcInt l ty b + sgnVal (tySigned ty) 64 (readSrc l 2 c))))) s

/-- IMIN (R106). -/
def execImin (h : Head) (ty : Ty) (d : Dst) (a b : Src) (s : State) : Out :=
  act (regOp h d 3 (fun l => intTwo ty false min l a b)) s

/-- IMAX (R106). -/
def execImax (h : Head) (ty : Ty) (d : Dst) (a b : Src) (s : State) : Out :=
  act (regOp h d 3 (fun l => intTwo ty false max l a b)) s

/-- IABS (R106). -/
def execIabs (h : Head) (ty : Ty) (sat : Bool) (d : Dst) (a : Src) (s : State) : Out :=
  act (regOp h d 3 (fun l => intOne ty sat (fun x => if x < 0 then -x else x) l a)) s

/-- INEG (R106). -/
def execIneg (h : Head) (ty : Ty) (sat : Bool) (d : Dst) (a : Src) (s : State) : Out :=
  act (regOp h d 3 (fun l => intOne ty sat (fun x => -x) l a)) s

/-- A condition code on two integers (R107). -/
def ccHolds (cc : Cc) (a b : Int) : Bool :=
  match cc with
  | .eq => decide (a = b)
  | .ne => decide (a ≠ b)
  | .lt => decide (a < b)
  | .le => decide (a ≤ b)
  | .gt => decide (b < a)
  | .ge => decide (b ≤ a)

/-- ICMP (R107). -/
def execIcmp (h : Head) (ty : Ty) (cc : Cc) (and : Bool) (pd : BitVec 5) (a b : Src) (s : State) : Out :=
  act (predOp h pd 3 (fun l =>
    let t := ccHolds cc (srcInt l ty a) (srcInt l ty b)
    if and then readP l pd && t else t)) s

/-- SEL (R108). -/
def execSel (h : Head) (ty : Ty) (d : BitVec 8) (a b : Src) (pc : BitVec 5) (s : State) : Out :=
  act (regOp h (.v d) 3 (fun l => natWords (tyRegs ty) (readSrc l (tyRegs ty) (if readP l pc then a else b)))) s

/-- The packed elements of a dot-product operand (R109). -/
def dotElems (l : Lane) (n : Nat) (signed : Bool) (a : Src) : List Int :=
  let w := 32 / n
  (List.range n).map (fun i =>
    sgnVal signed w (match a with
      | .imm k => wrapInt w (immVal k)
      | _ => elemAt w i (readSrc l 1 a)))

/-- The dot product of R109 with `n` elements. -/
def dotOp (n : Nat) (sat sa sb : Bool) (l : Lane) (a b c : Src) : List Word :=
  let x := sgnVal true 32 (readSrc l 1 c) +
    (List.zipWith (fun p q => p * q) (dotElems l n sa a) (dotElems l n sb b)).sum
  natWords 1 (fitInt sat true 32 x)

/-- IDP4 (R109). -/
def execIdp4 (h : Head) (sat sa sb : Bool) (d : Dst) (a b c : Src) (s : State) : Out :=
  act (regOp h d 3 (fun l => dotOp 4 sat sa sb l a b c)) s

/-- IDP8 (R109). -/
def execIdp8 (h : Head) (sat sa sb : Bool) (d : Dst) (a b c : Src) (s : State) : Out :=
  act (regOp h d 3 (fun l => dotOp 8 sat sa sb l a b c)) s

/-! ### Bits and fields (R110-R115) -/

/-- A bitwise function of two operands over the width of a type. -/
def bitTwo (ty : Ty) (f : Nat → Nat → Nat) (l : Lane) (a b : Src) : List Word :=
  natWords (tyRegs ty) (f (readSrc l (tyRegs ty) a) (readSrc l (tyRegs ty) b))

/-- AND (R110). -/
def execAndB (h : Head) (ty : Ty) (d : Dst) (a b : Src) (s : State) : Out :=
  act (regOp h d 3 (fun l => bitTwo ty (fun x y => x &&& y) l a b)) s

/-- OR (R110). -/
def execOrB (h : Head) (ty : Ty) (d : Dst) (a b : Src) (s : State) : Out :=
  act (regOp h d 3 (fun l => bitTwo ty (fun x y => x ||| y) l a b)) s

/-- XOR (R110). -/
def execXorB (h : Head) (ty : Ty) (d : Dst) (a b : Src) (s : State) : Out :=
  act (regOp h d 3 (fun l => bitTwo ty (fun x y => x ^^^ y) l a b)) s

/-- NOT (R110). -/
def execNotB (h : Head) (ty : Ty) (d : Dst) (a : Src) (s : State) : Out :=
  act (regOp h d 3 (fun l => natWords (tyRegs ty) (2 ^ tyW ty - 1 - readSrc l (tyRegs ty) a))) s

/-- The truth table of R110: A selects the lowest bit of the index. -/
def lutBit (tbl : BitVec 8) (a b c : Bool) : Bool :=
  tbl.getLsbD ((if a then 1 else 0) + (if b then 2 else 0) + (if c then 4 else 0))

/-- The bits of LUT3 over `w` bits. -/
def lutBits (tbl : BitVec 8) (a b c : Nat) : Nat → Nat
  | 0 => 0
  | n + 1 => lutBits tbl a b c n + (if lutBit tbl (a.testBit n) (b.testBit n) (c.testBit n) then 2 ^ n else 0)

/-- LUT3 (R110). -/
def execLut3 (h : Head) (ty : Ty) (d : Dst) (a b c : Src) (tbl : BitVec 8) (s : State) : Out :=
  act (regOp h d 3 (fun l => natWords (tyRegs ty)
    (lutBits tbl (readSrc l (tyRegs ty) a) (readSrc l (tyRegs ty) b) (readSrc l (tyRegs ty) c) (tyW ty)))) s

/-- SHL (R111). -/
def execShl (h : Head) (ty : Ty) (d : Dst) (a b : Src) (s : State) : Out :=
  act (regOp h d 3 (fun l =>
    let n := readSrc l 1 b
    natWords (tyRegs ty) (if tyW ty ≤ n then 0 else readSrc l (tyRegs ty) a * 2 ^ n % 2 ^ tyW ty))) s

/-- SHR (R111). -/
def execShr (h : Head) (ty : Ty) (d : Dst) (a b : Src) (s : State) : Out :=
  act (regOp h d 3 (fun l =>
    let n := readSrc l 1 b
    natWords (tyRegs ty) (if tyW ty ≤ n then 0 else readSrc l (tyRegs ty) a / 2 ^ n))) s

/-- SAR (R111). -/
def execSar (h : Head) (ty : Ty) (d : Dst) (a b : Src) (s : State) : Out :=
  act (regOp h d 3 (fun l =>
    let n := min (readSrc l 1 b) (tyW ty)
    natWords (tyRegs ty) (wrapInt (tyW ty) (sgnVal true (tyW ty) (readSrc l (tyRegs ty) a) / 2 ^ n)))) s

/-- FSH (R112). -/
def execFsh (h : Head) (right : Bool) (d : Dst) (a b c : Src) (s : State) : Out :=
  act (regOp h d 3 (fun l =>
    let n := min (readSrc l 1 c) 32
    let x := readSrc l 1 a * 2 ^ 32 + readSrc l 1 b
    natWords 1 (if right then x / 2 ^ n else x * 2 ^ n % 2 ^ 64 / 2 ^ 32))) s

/-- PCNT (R113). -/
def execPcnt (h : Head) (ty : Ty) (d : Dst) (a : Src) (s : State) : Out :=
  act (regOp h d 3 (fun l => natWords 1 (popNat (tyW ty) (readSrc l (tyRegs ty) a)))) s

/-- CLZ (R113). -/
def execClz (h : Head) (ty : Ty) (d : Dst) (a : Src) (s : State) : Out :=
  act (regOp h d 3 (fun l =>
    let x := readSrc l (tyRegs ty) a
    natWords 1 (if x = 0 then tyW ty else tyW ty - 1 - Nat.log2 x))) s

/-- BREV (R113). -/
def execBrev (h : Head) (ty : Ty) (d : Dst) (a : Src) (s : State) : Out :=
  act (regOp h d 3 (fun l => natWords (tyRegs ty) (revNat (tyW ty) (readSrc l (tyRegs ty) a)))) s

/-- BFX (R114). -/
def bfx (signed : Bool) (w a p : Nat) : Nat :=
  let pos := natBits p 0 8
  let len := min (natBits p 8 8) w
  let f := wrapInt len (sgnVal signed w a / 2 ^ pos)
  if len = 0 then 0 else wrapInt w (sgnVal signed len f)

/-- BFX (R114). -/
def execBfx (h : Head) (ty : Ty) (d : Dst) (a b : Src) (s : State) : Out :=
  act (regOp h d 3 (fun l => natWords (tyRegs ty)
    (bfx (tySigned ty) (tyW ty) (readSrc l (tyRegs ty) a) (readSrc l 1 b)))) s

/-- BFI (R114). -/
def bfi (w a b p : Nat) : Nat :=
  let pos := natBits p 0 8
  let len := natBits p 8 8
  if w ≤ pos ∨ len = 0 then a else natSetBits a pos (min len (w - pos)) b

/-- BFI (R114). -/
def execBfi (h : Head) (ty : Ty) (d : Dst) (a b c : Src) (s : State) : Out :=
  act (regOp h d 3 (fun l => natWords (tyRegs ty)
    (bfi (tyW ty) (readSrc l (tyRegs ty) a) (readSrc l (tyRegs ty) b) (readSrc l 1 c)))) s

/-- BPERM's byte `i` (R115). -/
def bpermByte (x c i : Nat) : Nat :=
  let sel := natBits c (4 * i) 4
  let y := natBits x (8 * (sel % 8)) 8
  if 8 ≤ sel then (if 128 ≤ y then 255 else 0) else y

/-- BPERM (R115). -/
def execBperm (h : Head) (d : Dst) (a b c : Src) (s : State) : Out :=
  act (regOp h d 3 (fun l =>
    let x := readSrc l 1 a + 2 ^ 32 * readSrc l 1 b
    natWords 1 (packElems 8 ((List.range 4).map (bpermByte x (readSrc l 1 c)))))) s

/-! ### Moves (R116, R79) -/

/-- MOV (R116). -/
def execMov (h : Head) (ty : Ty) (d : Dst) (a : Src) (s : State) : Out :=
  act (regOp h d 3 (fun l => natWords (tyRegs ty) (readSrc l (tyRegs ty) a))) s

/-- MOVI (R79). -/
def execMovi (h : Head) (d : Dst) (k : Word) (s : State) : Out :=
  act (regOp h d 3 (fun _ => [k])) s

/-- The special registers in a lane but %fstat (R60); a handler context reads 0 in %launch, %block, %ltime, %loc, %task, %spec and %role (R394). -/
def special (s : State) (e : Site) (l : Lane) (num : Nat) : Nat :=
  match num with
  | 0 => l.t.tid
  | 1 => l.t.lane
  | 2 => l.w.idx
  | 3 => e.c.block
  | 4 => e.c.dim
  | 5 => e.c.launch
  | 6 => l.w.core % 40
  | 7 => dieOf l.w.core
  | 8 => l.w.quarter
  | 9 => if e.c.handler then 0 else l.w.role
  | 10 => s.coordAt (dieOf l.w.core)
  | 11 => gridShape s.grid
  | 12 => e.c.ltime.toNat
  | 13 => e.c.loc
  | 14 => e.c.task.toNat
  | 15 => if e.c.specBit then 1 else 0
  | _ => s.cycle

/-- MOVS (R117): %launch ends a speculative run (R358), and %fstat is read at the retirement. -/
def execMovs (h : Head) (clr : Bool) (d : Dst) (num : BitVec 8) (s : State) : Out :=
  act (onBeat h (fun e s =>
    if num = 16 then
      (match d with
       | .v r => s.modCtx e.b.ctx (fun c => c.eachLane e.lanes (fun _ t =>
           t.put r.toNat [] (mkPend s (.v r.toNat 1) 3)))
       | .s r => s.modCtx e.b.ctx (fun c => c.eachWheel e.lanes (fun _ w =>
           w.put r.toNat [] (mkPend s (.s r.toNat 1) 3)))).readFlags e clr d 3
    else if num = 5 ∧ e.c.spec.isSome ∧ e.lanes ≠ [] then s.discardRun (e.c.spec.getD 0) 1
    else
      let n := if num = 12 ∨ num = 14 ∨ num = 17 then 2 else 1
      match d with
      | .v r => s.writeV e r.toNat 3 (fun l => natWords n (special s e l num.toNat))
      | .s r => s.writeS e r.toNat 3 (fun l => natWords n (special s e l num.toNat)))) s

/-! ### Predicate words (R128, R129) -/

/-- PLOP (R128). -/
def execPlop (h : Head) (pd pa pb pc : BitVec 5) (tbl : BitVec 8) (s : State) : Out :=
  act (predOp h pd 3 (fun l => lutBit tbl (readP l pa) (readP l pb) (readP l pc))) s

/-- PTOV (R129). -/
def execPtov (h : Head) (d : BitVec 8) (s : State) : Out :=
  act (regOp h (.v d) 3 (fun l => [l.t.preds])) s

/-- VTOP (R129). -/
def execVtop (h : Head) (a b : Src) (s : State) : Out :=
  act (onBeat h (fun e s => s.modCtx e.b.ctx (fun c => c.eachLane e.lanes (fun l t =>
    let x := BitVec.ofNat 32 (readSrc l 1 a)
    let m := BitVec.ofNat 32 (readSrc l 1 b)
    { t with preds := (l.t.preds &&& ~~~m) ||| (x &&& m)
             pend := t.pend ++ (List.range 32).flatMap (fun k => mkPend s (.p k) 3) })))) s

end Sys2Proof.Machine
end

