-- ==== Sys2Proof/Machine/LaneOps.lean ====
section
/-! DEFINITION. Lane instructions (R118-R123) and pointer instructions (R124-R127). -/

namespace Sys2Proof.Machine

/-! ### Lanes (R119-R123) -/

/-- The active lane with a home lane number, if the beat holds one. -/
def Site.lane (e : Site) (n : Nat) : Option Lane := e.lanes.find? (fun l => l.t.lane == n)

/-- The source lane of SHFL, out of range for some .off (R119). -/
def shflSrc (mode : ShflMode) (n b : Nat) : Option Nat :=
  match mode with
  | .sel => some (b % 32)
  | .rot => some ((n + b % 32) % 32)
  | .swz => some (n ^^^ (b % 32))
  | .off =>
    let x := (n : Int) + sgnVal true 6 b
    if 0 ≤ x ∧ x < 32 then some x.toNat else none

/-- SHFL (R119). -/
def execShfl (h : Head) (ty : Ty) (mode : ShflMode) (d a : BitVec 8) (b : Src) (s : State) : Out :=
  act (onBeat h (fun e s => s.writeV e d.toNat 5 (fun l =>
    let src := ((shflSrc mode l.t.lane (readSrc l 1 b)).bind e.lane).getD l
    natWords (tyRegs ty) (readV src.t (tyRegs ty) a)))) s

/-- The mask of lanes. -/
def laneMask (ls : List Lane) : Word := ls.foldl (fun a l => a ||| BitVec.ofNat 32 (2 ^ l.t.lane)) 0

/-- VOTE (R120). -/
def execVote (h : Head) (op : VoteOp) (pa : BitVec 5) (s : State) : Out :=
  act (onBeat h (fun e s =>
    let act := laneMask e.lanes
    let mask := laneMask (e.lanes.filter (fun l => readP l pa))
    match op with
    | .every pd => s.writeP e pd.toNat 5 (fun _ => mask == act)
    | .any pd => s.writeP e pd.toNat 5 (fun _ => mask != 0)
    | .agree pd => s.writeP e pd.toNat 5 (fun _ => mask == 0 || mask == act)
    | .mask cnt d =>
      let v := if cnt then BitVec.ofNat 32 (popNat 32 mask.toNat) else mask
      match d with
      | .v r => s.writeV e r.toNat 5 (fun _ => [v])
      | .s r => s.writeS e r.toNat 5 (fun _ => [v]))) s

/-- MATCH's word for a lane (R121). -/
def matchWord (e : Site) (ty : Ty) (a : BitVec 8) (l : Lane) : Word :=
  let g := e.lanes.filter (fun m => readV m.t (tyRegs ty) a == readV l.t (tyRegs ty) a)
  let lead := g.foldl (fun x m => min x m.t.lane) 31
  let rank := (g.filter (fun m => decide (m.t.lane < l.t.lane))).length
  BitVec.ofNat 32 (lead + g.length * 32 + rank * 2048)

/-- MATCH (R121). -/
def execMatchL (h : Head) (ty : Ty) (d a : BitVec 8) (s : State) : Out :=
  act (onBeat h (fun e s => s.writeV e d.toNat 5 (fun l => [matchWord e ty a l]))) s

/-- The value of A in a lane under REDUX's type (R122). -/
def reduxVal (ty : Ty) (a : BitVec 8) (l : Lane) : Int := sgnVal (tySigned ty) 32 (readV l.t 1 a)

/-- A fold over the active lanes from the first one's value. -/
def foldLanes {α : Type} (f : α → α → α) (dflt : α) : List α → α
  | [] => dflt
  | x :: xs => xs.foldl f x

/-- REDUX's result for a lane (R122). -/
def reduxWord (e : Site) (ty : Ty) (sat : Bool) (op : ReduxOp) (a : BitVec 8) (l : Lane) : Word :=
  let vals := e.lanes.map (reduxVal ty a)
  let bits := e.lanes.map (fun m => readV m.t 1 a)
  let sumOf := fun (ls : List Lane) => BitVec.ofNat 32 (fitInt sat (tySigned ty) 32 ((ls.map (reduxVal ty a)).sum))
  match op with
  | .add => sumOf e.lanes
  | .min => BitVec.ofInt 32 (foldLanes min 0 vals)
  | .max => BitVec.ofInt 32 (foldLanes max 0 vals)
  | .and => BitVec.ofNat 32 (foldLanes (fun x y => x &&& y) 0 bits)
  | .or => BitVec.ofNat 32 (foldLanes (fun x y => x ||| y) 0 bits)
  | .xor => BitVec.ofNat 32 (foldLanes (fun x y => x ^^^ y) 0 bits)
  | .scan => sumOf (e.lanes.filter (fun m => decide (m.t.lane ≤ l.t.lane)))
  | .xscan => sumOf (e.lanes.filter (fun m => decide (m.t.lane < l.t.lane)))

/-- REDUX (R122). -/
def execRedux (h : Head) (ty : Ty) (sat : Bool) (op : ReduxOp) (d : Dst) (a : BitVec 8) (s : State) : Out :=
  act (onBeat h (fun e s =>
    match d with
    | .v r => s.writeV e r.toNat 5 (fun l => [reduxWord e ty sat op a l])
    | .s r => s.writeS e r.toNat 5 (fun l => [reduxWord e ty sat op a l]))) s

/-- VTOS's value for a home wheel (R123). -/
def vtosVal (e : Site) (ty : Ty) (a : BitVec 8) (lane : Option Src) (l : Lane) : Nat :=
  let low := e.lanes.foldl (fun x m => if m.t.lane < x.t.lane then m else x) l
  match (match lane with
    | none => some low
    | some b => e.lane (readSrc l 1 b % 32)) with
  | some m => readV m.t (tyRegs ty) a
  | none => 0

/-- VTOS (R123). -/
def execVtos (h : Head) (ty : Ty) (d a : BitVec 8) (lane : Option Src) (s : State) : Out :=
  act (onBeat h (fun e s => s.writeS e d.toNat 5 (fun l =>
    natWords (tyRegs ty) (vtosVal e ty a lane l)))) s

/-! ### Pointers (R124-R127) -/

/-- PADD's result (R124). -/
def paddVal (wide sat : Bool) (a b : Nat) : Nat :=
  let n : Int := ((a % 2 ^ 44 : Nat) : Int) + sgnVal true (if wide then 64 else 32) b
  a / 2 ^ 44 * 2 ^ 44 + (if sat then min (max n 0) (2 ^ 44 - 1) else n % (2 ^ 44 : Int)).toNat

/-- PADD (R124). -/
def execPadd (h : Head) (wide sat : Bool) (d : Dst) (a b : Src) (s : State) : Out :=
  act (regOp h d 3 (fun l => natWords 2 (paddVal wide sat (readSrc l 2 a) (readSrc l (if wide then 2 else 1) b)))) s

/-- PDIFF's result (R125). -/
def pdiffVal (a b : Nat) : Nat :=
  if a / 2 ^ 44 = b / 2 ^ 44 then wrapInt 64 (((a % 2 ^ 44 : Nat) : Int) - ((b % 2 ^ 44 : Nat) : Int)) else 2 ^ 63

/-- PDIFF (R125). -/
def execPdiff (h : Head) (d : Dst) (a b : Src) (s : State) : Out :=
  act (regOp h d 3 (fun l => natWords 2 (pdiffVal (readSrc l 2 a) (readSrc l 2 b)))) s

/-- PRSTR (R127). -/
def execPrstr (h : Head) (d : Dst) (a b : Src) (s : State) : Out :=
  act (regOp h d 3 (fun l => natWords 2 (readSrc l 1 b % 2 ^ 20 * 2 ^ 44 + readSrc l 2 a % 2 ^ 44))) s

/-- The answer of PCHK on a core; `none` while the core holds no entry for the object (R126, R373). -/
def State.pchk (s : State) (core a need size : Nat) : Option Bool :=
  let obj := a / 2 ^ 44
  let ofs := a % 2 ^ 44
  if obj = 0 ∨ obj = 0xFFFFF then some false
  else match (s.core core).desc obj with
    | none => none
    | some d => some (d.valid && d.rights &&& need == need && decide (ofs + size ≤ d.extent))

/-- PCHK (R126). -/
def execPchk (h : Head) (pd : BitVec 5) (a : Src) (rights : BitVec 5) (size : BitVec 16) (s : State) : Out :=
  act (onBeat h (fun e s =>
    let ans := fun (l : Lane) => s.pchk l.w.core (readSrc l 2 a) rights.toNat size.toNat
    match e.lanes.find? (fun l => (ans l).isNone) with
    | some l => s.hold e.b (.miss (.desc l.w.core (readSrc l 2 a / 2 ^ 44)))
    | none => s.writeP e pd.toNat 3 (fun l => (ans l).getD false))) s

end Sys2Proof.Machine
end

