-- ==== Sys2Proof/Machine/Dispatch.lean ====
section
/-! DEFINITION. The dispatch of every instruction and event to its meaning. -/

namespace Sys2Proof.Machine

def exec (i : Instr) (s : State) : Host.Outcome State Fault Refusal :=
  match i with
  | .nop h => Sys2Proof.Machine.execNop h s
  | .iadd h ty sat d a b => Sys2Proof.Machine.execIadd h ty sat d a b s
  | .isub h ty sat d a b => Sys2Proof.Machine.execIsub h ty sat d a b s
  | .imul h ty sat d a b => Sys2Proof.Machine.execImul h ty sat d a b s
  | .imulh h ty d a b => Sys2Proof.Machine.execImulh h ty d a b s
  | .imad h ty sat d a b c => Sys2Proof.Machine.execImad h ty sat d a b c s
  | .imadw h ty sat d a b c => Sys2Proof.Machine.execImadw h ty sat d a b c s
  | .imin h ty d a b => Sys2Proof.Machine.execImin h ty d a b s
  | .imax h ty d a b => Sys2Proof.Machine.execImax h ty d a b s
  | .iabs h ty sat d a => Sys2Proof.Machine.execIabs h ty sat d a s
  | .ineg h ty sat d a => Sys2Proof.Machine.execIneg h ty sat d a s
  | .icmp h ty cc and pd a b => Sys2Proof.Machine.execIcmp h ty cc and pd a b s
  | .sel h ty d a b pc => Sys2Proof.Machine.execSel h ty d a b pc s
  | .idp4 h sat sa sb d a b c => Sys2Proof.Machine.execIdp4 h sat sa sb d a b c s
  | .idp8 h sat sa sb d a b c => Sys2Proof.Machine.execIdp8 h sat sa sb d a b c s
  | .andB h ty d a b => Sys2Proof.Machine.execAndB h ty d a b s
  | .orB h ty d a b => Sys2Proof.Machine.execOrB h ty d a b s
  | .xorB h ty d a b => Sys2Proof.Machine.execXorB h ty d a b s
  | .notB h ty d a => Sys2Proof.Machine.execNotB h ty d a s
  | .lut3 h ty d a b c tbl => Sys2Proof.Machine.execLut3 h ty d a b c tbl s
  | .shl h ty d a b => Sys2Proof.Machine.execShl h ty d a b s
  | .shr h ty d a b => Sys2Proof.Machine.execShr h ty d a b s
  | .sar h ty d a b => Sys2Proof.Machine.execSar h ty d a b s
  | .fsh h right d a b c => Sys2Proof.Machine.execFsh h right d a b c s
  | .pcnt h ty d a => Sys2Proof.Machine.execPcnt h ty d a s
  | .clz h ty d a => Sys2Proof.Machine.execClz h ty d a s
  | .brev h ty d a => Sys2Proof.Machine.execBrev h ty d a s
  | .bfx h ty d a b => Sys2Proof.Machine.execBfx h ty d a b s
  | .bfi h ty d a b c => Sys2Proof.Machine.execBfi h ty d a b c s
  | .bperm h d a b c => Sys2Proof.Machine.execBperm h d a b c s
  | .mov h ty d a => Sys2Proof.Machine.execMov h ty d a s
  | .movi h d k => Sys2Proof.Machine.execMovi h d k s
  | .movs h clr d num => Sys2Proof.Machine.execMovs h clr d num s
  | .vtos h ty d a lane => Sys2Proof.Machine.execVtos h ty d a lane s
  | .shfl h ty mode d a b => Sys2Proof.Machine.execShfl h ty mode d a b s
  | .vote h op pa => Sys2Proof.Machine.execVote h op pa s
  | .matchL h ty d a => Sys2Proof.Machine.execMatchL h ty d a s
  | .redux h ty sat op d a => Sys2Proof.Machine.execRedux h ty sat op d a s
  | .padd h wide sat d a b => Sys2Proof.Machine.execPadd h wide sat d a b s
  | .pdiff h d a b => Sys2Proof.Machine.execPdiff h d a b s
  | .pchk h pd a rights size => Sys2Proof.Machine.execPchk h pd a rights size s
  | .prstr h d a b => Sys2Proof.Machine.execPrstr h d a b s
  | .plop h pd pa pb pc tbl => Sys2Proof.Machine.execPlop h pd pa pb pc tbl s
  | .ptov h d => Sys2Proof.Machine.execPtov h d s
  | .vtop h a b => Sys2Proof.Machine.execVtop h a b s
  | .cvt h rnd sat ftz ln sfmt dfmt d a c => Sys2Proof.Machine.execCvt h rnd sat ftz ln sfmt dfmt d a c s
  | .qblk h rnd sc32 sd byte efmt d a => Sys2Proof.Machine.execQblk h rnd sc32 sd byte efmt d a s
  | .dqblk h rnd sc32 dfmt sat ftz byte efmt d a b => Sys2Proof.Machine.execDqblk h rnd sc32 dfmt sat ftz byte efmt d a b s
  | .fadd h sat rnd ftz d a b => Sys2Proof.Machine.execFadd h sat rnd ftz d a b s
  | .fmul h sat rnd ftz d a b => Sys2Proof.Machine.execFmul h sat rnd ftz d a b s
  | .ffma h sat rnd ftz d a b c => Sys2Proof.Machine.execFfma h sat rnd ftz d a b c s
  | .fmin h ftz d a b => Sys2Proof.Machine.execFmin h ftz d a b s
  | .fmax h ftz d a b => Sys2Proof.Machine.execFmax h ftz d a b s
  | .fcmp h ty ftz rel un and pd a b => Sys2Proof.Machine.execFcmp h ty ftz rel un and pd a b s
  | .ffn h ftz fn d a => Sys2Proof.Machine.execFfn h ftz fn d a s
  | .ftest h ty cls hi pd a => Sys2Proof.Machine.execFtest h ty cls hi pd a s
  | .hadd2 h ty sat rnd ftz d a b => Sys2Proof.Machine.execHadd2 h ty sat rnd ftz d a b s
  | .hmul2 h ty sat rnd ftz d a b => Sys2Proof.Machine.execHmul2 h ty sat rnd ftz d a b s
  | .hfma2 h ty sat rnd ftz d a b c => Sys2Proof.Machine.execHfma2 h ty sat rnd ftz d a b c s
  | .hmnx2 h ty ftz max d a b => Sys2Proof.Machine.execHmnx2 h ty ftz max d a b s
  | .dadd h sat rnd ftz d a b => Sys2Proof.Machine.execDadd h sat rnd ftz d a b s
  | .dmul h sat rnd ftz d a b => Sys2Proof.Machine.execDmul h sat rnd ftz d a b s
  | .dfma h sat rnd ftz d a b c => Sys2Proof.Machine.execDfma h sat rnd ftz d a b c s
  | .mmbf h m => Sys2Proof.Machine.execMmbf h m s
  | .mmhf h m => Sys2Proof.Machine.execMmhf h m s
  | .mm8p h m => Sys2Proof.Machine.execMm8p h m s
  | .mmi8 h m => Sys2Proof.Machine.execMmi8 h m s
  | .mmi4 h m => Sys2Proof.Machine.execMmi4 h m s
  | .mmf6a h m => Sys2Proof.Machine.execMmf6a h m s
  | .mmf6b h m => Sys2Proof.Machine.execMmf6b h m s
  | .mmf4 h m => Sys2Proof.Machine.execMmf4 h m s
  | .mms8p h m => Sys2Proof.Machine.execMms8p h m s
  | .mmsf6a h m => Sys2Proof.Machine.execMmsf6a h m s
  | .mmsf6b h m => Sys2Proof.Machine.execMmsf6b h m s
  | .mmsf4 h m => Sys2Proof.Machine.execMmsf4 h m s
  | .ldmx h m128 frag w6 d a t ofs => Sys2Proof.Machine.execLdmx h m128 frag w6 d a t ofs s
  | .stmx h m128 frag w6 a t ofs c => Sys2Proof.Machine.execStmx h m128 frag w6 a t ofs c s
  | .ld h sp sz ord sc d a ofs => Sys2Proof.Machine.execLd h sp sz ord sc d a ofs s
  | .st h sp sz ord sc a ofs b => Sys2Proof.Machine.execSt h sp sz ord sc a ofs b s
  | .atom h sp op ty ord sc d a b c => Sys2Proof.Machine.execAtom h sp op ty ord sc d a b c s
  | .red h sp op ty ord sc a b => Sys2Proof.Machine.execRed h sp op ty ord sc a b s
  | .fence h sem sc => Sys2Proof.Machine.execFence h sem sc s
  | .pref h sp l2 a ofs => Sys2Proof.Machine.execPref h sp l2 a ofs s
  | .spadj h d a => Sys2Proof.Machine.execSpadj h d a s
  | .cpy h dsp ssp sz sc d a b dofs sofs => Sys2Proof.Machine.execCpy h dsp ssp sz sc d a b dofs sofs s
  | .chapp h d a b => Sys2Proof.Machine.execChapp h d a b s
  | .chadv h a b => Sys2Proof.Machine.execChadv h a b s
  | .tryw h sp wide acq sc pd a ofs b => Sys2Proof.Machine.execTryw h sp wide acq sc pd a ofs b s
  | .ldsh h sp t a ofs => Sys2Proof.Machine.execLdsh h sp t a ofs s
  | .setsh h field t b => Sys2Proof.Machine.execSetsh h field t b s
  | .stsh h sp t a ofs => Sys2Proof.Machine.execStsh h sp t a ofs s
  | .pbinit h a b => Sys2Proof.Machine.execPbinit h a b s
  | .pbarr h rel sc d a b => Sys2Proof.Machine.execPbarr h rel sc d a b s
  | .pbwait h acq sc d pd a b => Sys2Proof.Machine.execPbwait h acq sc d pd a b s
  | .pbinv h a => Sys2Proof.Machine.execPbinv h a s
  | .cvset h m128 c => Sys2Proof.Machine.execCvset h m128 c s
  | .cvsign h c => Sys2Proof.Machine.execCvsign h c s
  | .rcv h pd bound => Sys2Proof.Machine.execRcv h pd bound s
  | .bra h ofs => Sys2Proof.Machine.execBra h ofs s
  | .brx h a tag => Sys2Proof.Machine.execBrx h a tag s
  | .call h d ofs => Sys2Proof.Machine.execCall h d ofs s
  | .callx h d a tag => Sys2Proof.Machine.execCallx h d a tag s
  | .ret h a => Sys2Proof.Machine.execRet h a s
  | .land h tag => Sys2Proof.Machine.execLand h tag s
  | .exit h => Sys2Proof.Machine.execExit h s
  | .yield h count => Sys2Proof.Machine.execYield h count s
  | .gst h sz rel sc a b su x => Sys2Proof.Machine.execGst h sz rel sc a b su x s
  | .gld h sz acq sc d a ofs c => Sys2Proof.Machine.execGld h sz acq sc d a ofs c s
  | .gatom h op ty ord sc d a b c => Sys2Proof.Machine.execGatom h op ty ord sc d a b c s
  | .gred h op ty n ssp a b su x conv => Sys2Proof.Machine.execGred h op ty n ssp a b su x conv s
  | .gcpy h ssp sz rel sc d a b su x => Sys2Proof.Machine.execGcpy h ssp sz rel sc d a b su x s
  | .garm h pat g b => Sys2Proof.Machine.execGarm h pat g b s
  | .gwait h acq pd g => Sys2Proof.Machine.execGwait h acq pd g s
  | .gstat h d g => Sys2Proof.Machine.execGstat h d g s
  | .tminc h a b c => Sys2Proof.Machine.execTminc h a b c s
  | .tmdec h a b c => Sys2Proof.Machine.execTmdec h a b c s
  | .fwait h acq d pd a b => Sys2Proof.Machine.execFwait h acq d pd a b s
  | .fread h d a => Sys2Proof.Machine.execFread h d a s
  | .tadv h d a b => Sys2Proof.Machine.execTadv h d a b s
  | .tcmp h cc and pd a b => Sys2Proof.Machine.execTcmp h cc and pd a b s
  | .tspawn h a => Sys2Proof.Machine.execTspawn h a s
  | .grun h d a b => Sys2Proof.Machine.execGrun h d a b s
  | .cancel h level => Sys2Proof.Machine.execCancel h level s
  | .rfgive h count => Sys2Proof.Machine.execRfgive h count s
  | .rfclaim h pd count => Sys2Proof.Machine.execRfclaim h pd count s
  | .regroup h a base n1 => Sys2Proof.Machine.execRegroup h a base n1 s
  | .ungroup h base n1 => Sys2Proof.Machine.execUngroup h base n1 s
  | .exacq h nw d a => Sys2Proof.Machine.execExacq h nw d a s
  | .exrel h a => Sys2Proof.Machine.execExrel h a s
  | .expin h unpin a => Sys2Proof.Machine.execExpin h unpin a s
  | .trap h code => Sys2Proof.Machine.execTrap h code s
  | .bkpt h code => Sys2Proof.Machine.execBkpt h code s
  | .eret h act level d a b c => Sys2Proof.Machine.execEret h act level d a b c s
  | .sysr h d num => Sys2Proof.Machine.execSysr h d num s
  | .sysw h num a => Sys2Proof.Machine.execSysw h num a s
  | .ill w0 w1 w2 => Sys2Proof.Machine.execIll w0 w1 w2 s
  | .reservedOpcode w0 w1 w2 => Sys2Proof.Machine.execReservedOpcode w0 w1 w2 s
  | .faultRecordWrite die => Sys2Proof.Machine.execFaultRecordWrite die s
  | .resultWriteback ctx => Sys2Proof.Machine.execResultWriteback ctx s
  | .memoryReply ctx ltag refused data => Sys2Proof.Machine.execMemoryReply ctx ltag refused data s
  | .candidateStarving core quarter => Sys2Proof.Machine.execCandidateStarving core quarter s
  | .waitIntervalExpiry ctx wid => Sys2Proof.Machine.execWaitIntervalExpiry ctx wid s
  | .trywConditionMet ctx wid => Sys2Proof.Machine.execTrywConditionMet ctx wid s
  | .pbwaitRelease ctx wid => Sys2Proof.Machine.execPbwaitRelease ctx wid s
  | .gwaitComplete ctx wid => Sys2Proof.Machine.execGwaitComplete ctx wid s
  | .fwaitComplete ctx wid => Sys2Proof.Machine.execFwaitComplete ctx wid s
  | .exacqEntryReady ctx wid => Sys2Proof.Machine.execExacqEntryReady ctx wid s
  | .rcvDeadlineExpiry ctx wid => Sys2Proof.Machine.execRcvDeadlineExpiry ctx wid s
  | .repackGatherTimeout ctx gid => Sys2Proof.Machine.execRepackGatherTimeout ctx gid s
  | .yieldExpiry ctx wid => Sys2Proof.Machine.execYieldExpiry ctx wid s
  | .claimGrant core quarter => Sys2Proof.Machine.execClaimGrant core quarter s
  | .presenceHoldRelease ctx wid => Sys2Proof.Machine.execPresenceHoldRelease ctx wid s
  | .heldTmdecRelease ctx wid => Sys2Proof.Machine.execHeldTmdecRelease ctx wid s
  | .matrixOpStart core => Sys2Proof.Machine.execMatrixOpStart core s
  | .matrixOpComplete core => Sys2Proof.Machine.execMatrixOpComplete core s
  | .cpyComplete ctx ltag => Sys2Proof.Machine.execCpyComplete ctx ltag s
  | .linearCopy die eng => Sys2Proof.Machine.execLinearCopy die eng s
  | .tileCopy die eng => Sys2Proof.Machine.execTileCopy die eng s
  | .windowCopy die eng => Sys2Proof.Machine.execWindowCopy die eng s
  | .fill die eng => Sys2Proof.Machine.execFill die eng s
  | .barrierArrivalOnly die eng => Sys2Proof.Machine.execBarrierArrivalOnly die eng s
  | .endOfStream die eng => Sys2Proof.Machine.execEndOfStream die eng s
  | .engineEntryComplete die eng => Sys2Proof.Machine.execEngineEntryComplete die eng s
  | .engineEntryFault die eng => Sys2Proof.Machine.execEngineEntryFault die eng s
  | .blockEnd ctx => Sys2Proof.Machine.execBlockEnd ctx s
  | .launch q => Sys2Proof.Machine.execLaunch q s
  | .runGraphInstance q => Sys2Proof.Machine.execRunGraphInstance q s
  | .waitForFrontier q => Sys2Proof.Machine.execWaitForFrontier q s
  | .frontierWaitComplete q => Sys2Proof.Machine.execFrontierWaitComplete q s
  | .signal q => Sys2Proof.Machine.execSignal q s
  | .cancelCommand q => Sys2Proof.Machine.execCancelCommand q s
  | .placementAttempt => Sys2Proof.Machine.execPlacementAttempt s
  | .contextSave ctx => Sys2Proof.Machine.execContextSave ctx s
  | .contextRestore ctx => Sys2Proof.Machine.execContextRestore ctx s
  | .speculationStart q => Sys2Proof.Machine.execSpeculationStart q s
  | .claimCheck slot => Sys2Proof.Machine.execClaimCheck slot s
  | .shadowCommitComplete slot => Sys2Proof.Machine.execShadowCommitComplete slot s
  | .speculationTimeout slot => Sys2Proof.Machine.execSpeculationTimeout slot s
  | .writeleaf die => Sys2Proof.Machine.execWriteleaf die s
  | .migrate die => Sys2Proof.Machine.execMigrate die s
  | .writedesc die => Sys2Proof.Machine.execWritedesc die s
  | .hotread die => Sys2Proof.Machine.execHotread die s
  | .tableLeaseWaitExpiry die => Sys2Proof.Machine.execTableLeaseWaitExpiry die s
  | .migrateCopyComplete die faulted => Sys2Proof.Machine.execMigrateCopyComplete die faulted s
  | .frameReturn die frame => Sys2Proof.Machine.execFrameReturn die frame s
  | .leaseExpiry e => Sys2Proof.Machine.execLeaseExpiry e s
  | .translationFill e => Sys2Proof.Machine.execTranslationFill e s
  | .expertFillComplete e => Sys2Proof.Machine.execExpertFillComplete e s
  | .expertFillFault e => Sys2Proof.Machine.execExpertFillFault e s
  | .evictionEnd e => Sys2Proof.Machine.execEvictionEnd e s
  | .batchCloseTimeout die => Sys2Proof.Machine.execBatchCloseTimeout die s
  | .batchSequencing die => Sys2Proof.Machine.execBatchSequencing die s
  | .batchArrival die b => Sys2Proof.Machine.execBatchArrival die b s
  | .batchAckArrival src seq status => Sys2Proof.Machine.execBatchAckArrival src seq status s
  | .batchResendTimeout dst seq => Sys2Proof.Machine.execBatchResendTimeout dst seq s
  | .frontierAnnouncement die => Sys2Proof.Machine.execFrontierAnnouncement die s
  | .crossbarExpansion die => Sys2Proof.Machine.execCrossbarExpansion die s
  | .requestPacketArrival die r => Sys2Proof.Machine.execRequestPacketArrival die r s
  | .detourRelay die p => Sys2Proof.Machine.execDetourRelay die p s
  | .acknowledgementArrival die p => Sys2Proof.Machine.execAcknowledgementArrival die p s
  | .gridReplyArrival die p => Sys2Proof.Machine.execGridReplyArrival die p s
  | .retryResend die cseq dst => Sys2Proof.Machine.execRetryResend die cseq dst s
  | .responseRelookup die => Sys2Proof.Machine.execResponseRelookup die s
  | .contributionResendTimeout die cseq dst => Sys2Proof.Machine.execContributionResendTimeout die cseq dst s
  | .flitReceive link flit => Sys2Proof.Machine.execFlitReceive link flit s
  | .replayTimeout link => Sys2Proof.Machine.execReplayTimeout link s
  | .laneLock link peerCoord peerDie => Sys2Proof.Machine.execLaneLock link peerCoord peerDie s
  | .trainTimeout link => Sys2Proof.Machine.execTrainTimeout link s
  | .laneLockLoss link => Sys2Proof.Machine.execLaneLockLoss link s
  | .failedRetryTimeout link => Sys2Proof.Machine.execFailedRetryTimeout link s
  | .linkReset link => Sys2Proof.Machine.execLinkReset link s
  | .routeSwitch die => Sys2Proof.Machine.execRouteSwitch die s
  | .registerWrite r v => Sys2Proof.Machine.execRegisterWrite r v s
  | .rdmaWrite r data => Sys2Proof.Machine.execRdmaWrite r data s
  | .rdmaRead r n => Sys2Proof.Machine.execRdmaRead r n s
  | .rdmaAtomic r cas v cmp => Sys2Proof.Machine.execRdmaAtomic r cas v cmp s
  | .unsupportedRdmaOpcode qp opcode => Sys2Proof.Machine.execUnsupportedRdmaOpcode qp opcode s
  | .hostResponse tag ok data => Sys2Proof.Machine.execHostResponse tag ok data s
  | .queuePairCreate qp die tag opt base => Sys2Proof.Machine.execQueuePairCreate qp die tag opt base s
  | .queuePairDestroy qp => Sys2Proof.Machine.execQueuePairDestroy qp s
  | .jobLoad image => Sys2Proof.Machine.execJobLoad image s
  | .jobGo => Sys2Proof.Machine.execJobGo s
  | .jobEnd => Sys2Proof.Machine.execJobEnd s
  | .jobEndingComplete => Sys2Proof.Machine.execJobEndingComplete s
  | .standbyPower => Sys2Proof.Machine.execStandbyPower s
  | .recoveryImage img => Sys2Proof.Machine.execRecoveryImage img s
  | .firmwareUpdate img => Sys2Proof.Machine.execFirmwareUpdate img s
  | .powerLoss standby => Sys2Proof.Machine.execPowerLoss standby s
  | .sensorSample r => Sys2Proof.Machine.execSensorSample r s
  | .securityAlarm => Sys2Proof.Machine.execSecurityAlarm s
  | .attestation nonce => Sys2Proof.Machine.execAttestation nonce s
  | .patrolScrub die at_ found => Sys2Proof.Machine.execPatrolScrub die at_ found s
  | .evictionRequest spare => Sys2Proof.Machine.execEvictionRequest spare s
  | .evictNotice src => Sys2Proof.Machine.execEvictNotice src s
  | .spareReady => Sys2Proof.Machine.execSpareReady s
  | .quiesceComplete => Sys2Proof.Machine.execQuiesceComplete s
  | .transferPacket ofs data last => Sys2Proof.Machine.execTransferPacket ofs data last s
  | .transferComplete => Sys2Proof.Machine.execTransferComplete s
  | .drainComplete => Sys2Proof.Machine.execDrainComplete s
  | .evictionBudgetExpiry => Sys2Proof.Machine.execEvictionBudgetExpiry s
  | .flitTransmit link => Sys2Proof.Machine.execFlitTransmit link s
  | .storeQueueDrain ctx wheel => Sys2Proof.Machine.execStoreQueueDrain ctx wheel s
  | .cacheEviction at_ line => Sys2Proof.Machine.execCacheEviction at_ line s
  | .dieResetEnd => Sys2Proof.Machine.execDieResetEnd s
  | .peerRouteDrain spare evicted => Sys2Proof.Machine.execPeerRouteDrain spare evicted s
  | .abortCancelNotice evicted => Sys2Proof.Machine.execAbortCancelNotice evicted s

end Sys2Proof.Machine
end

