-- ==== Sys2Proof/Machine/Step.lean ====
section
/-! DEFINITION. One step of the machine, and the placing of an instruction where it fetches next. -/

namespace Sys2Proof.Machine

/-- The term is a step of the hardware or of the outside world, not an instruction word. -/
def isEvent (i : Instr) : Bool := (encodeWords i).isNone && wf i

/-- One step: the next event of the agenda; else the turn of the next quarter of the cycle that holds a ready thread, which may issue an instruction; else the end of the cycle (R250, R251). -/
def step (s : State) : Host.Outcome State Fault Refusal :=
  match s.agenda with
  | e :: rest => if isEvent e then exec e { s with agenda := rest } else .next { s with agenda := rest }
  | [] =>
    match s.nextQuarter with
    | some k =>
      match s.quarterTurn k with
      | (s', some i) => exec i s'
      | (s', none) => .next (s'.seal s.mem)
    | none => .next (s.tick.seal s.mem)

/-- The state with an instruction where the next step fetches it: one thread of one wheel in quarter 0 of core 0 stands at the first instruction of object 1, whose descriptor and leaf entry the core and its port hold; the words lie in canopy frame 1 of die 0 (log entry 11). -/
def State.withFetchWord (s : State) (nbits w : Nat) : State :=
  let kernel : Kernel := { regs := 256, entry := mkCap 1 0 }
  let ctx : Ctx := { dim := 1, cores := [0], kernel := kernel,
                     threads := [{ tid := 0, wheel := 0, lane := 0, pc := mkCap 1 0 }],
                     wheels := [{ idx := 0, window := 256 }] }
  { s with
    mem := mPuts s.mem ((run (canopyP 0 65536) 12).zip (natBytes 12 (w % 2 ^ nbits)))
    wr := []
    ctxs := [(s.nextCtx, ctx)]
    nextCtx := s.nextCtx + 1
    cores := sPut s.cores 0 { dcache := [{ obj := 1, valid := true, extent := 65536, rights := 7, leafofs := 0, till := 2 ^ 64 }] }
    quarters := sDel s.quarters 0
    dies := sPut s.dies 0 { s.die 0 with lcache := [{ obj := 1, page := 0, word := 0x111, till := 2 ^ 64 }] }
    agenda := []
    turns := [] }

end Sys2Proof.Machine
end

