-- ==== Sys2Proof/Safety.lean ====
section
/-! DEFINITION. What counts as a safe run, and the terms in which the statements speak of an instruction's effect: what its beat writes in each lane and wheel, and what it leaves. -/

namespace Sys2Proof

/-- The memory is canonical and no home write is pending between steps. -/
def Machine.State.Sound (s : Machine.State) : Prop := Machine.Memory.wf s.mem = true ∧ s.wr = []

/-- A run of `k` steps is safe: it meets no fault and no refusal, and every state on the way is sound. -/
def SafeRun : Nat → Machine.State → Prop
  | 0, s => s.Sound
  | k + 1, s => s.Sound ∧ ∃ t, Machine.step s = .next t ∧ SafeRun k t

namespace Claims

open Sys2Proof.Machine

/-- A beat of a context is in issue (R250). -/
def InIssue (s : State) (b : Beat) (c : Ctx) : Prop := s.beat = some b ∧ sGet s.ctxs b.ctx = some c

/-- The lanes in which an instruction with a guard acts: the beat's threads whose guard holds, each with its home wheel (R76). -/
def acting (b : Beat) (c : Ctx) (h : Head) : List Lane := (c.lanes b.tids).filter (fun l => guardOn h.guard l.t)

/-- Where the instruction executes. -/
def siteOf (b : Beat) (c : Ctx) (h : Head) : Site := { b := b, c := c, lanes := acting b c h }

/-- A thread as a lane of the instruction, if the instruction acts in it. -/
def actingLane (b : Beat) (c : Ctx) (h : Head) (x : Thread) : Option Lane :=
  if x.tid ∈ b.tids ∧ guardOn h.guard x then (c.wheel x.wheel).map (fun w => { t := x, w := w }) else none

/-- Registers after writes of words from a base up; base 255 discards (R46-R48). -/
def after (old : Nat → Word) : List (Nat × List Word) → Nat → Word
  | [] => old
  | (d, ws) :: r => after (fun n => if d ≠ 255 ∧ d ≤ n ∧ n < d + ws.length then ws.getD (n - d) 0 else old n) r

/-- What an instruction that touches registers alone does: vector registers, predicates of each acting lane, uniform registers and flags of each home wheel, and how long it holds the vector datapath (R134). -/
structure Effect where
  vec : Lane → List (Nat × List Word) := fun _ => []
  preds : Lane → Word := fun l => l.t.preds
  uni : Lane → List (Nat × List Word) := fun _ => []
  flags : List Lane → Word := fun _ => 0
  lat : Nat := 3
  hold : Nat := 0
  /-- Stores that join the queue of a home wheel, from its acting lanes (R270). -/
  stores : List Lane → List QStore := fun _ => []
  /-- Where an acting thread goes on, if not at the next instruction (R74). -/
  pc : Lane → Option Cap := fun _ => none
  /-- Other changes of an acting thread, and of the context. -/
  thread : Lane → Thread → Thread := fun _ t => t
  ctx : Ctx → Ctx := id

/-- A register destination that takes the words `f` in each lane, or once for each home wheel (R77). -/
def into (d : Dst) (f : Lane → List Word) : Effect :=
  match d with
  | .v r => { vec := fun l => [(r.toNat, f l)] }
  | .s r => { uni := fun l => [(r.toNat, f l)] }

/-- The flags of the lanes of a wheel: of each lane for a vector form, once for a uniform form (R34, R86). -/
def flagsOf (d : Dst) (f : Lane → Word) (ls : List Lane) : Word :=
  match d with
  | .v _ => ls.foldl (fun a l => a ||| f l) 0
  | .s _ => (ls.head?.map f).getD 0

/-- A destination and flags. -/
def intoFl (d : Dst) (lat : Nat) (f : Lane → List Word × Word) : Effect :=
  { into d (fun l => (f l).1) with flags := flagsOf d (fun l => (f l).2), lat := lat }

/-- A predicate destination (R103). -/
def intoP (pd : BitVec 5) (f : Lane → Bool) : Effect := { preds := fun l => setPred l.t.preds pd.toNat (f l) }

/-- No write of a list reaches a range of registers. -/
def untouched (ws : List (Nat × List Word)) (d n : Nat) : Bool :=
  ws.all (fun v => v.1 == 255 || !(decide (v.1 < d + n) && decide (d < v.1 + v.2.length)))

/-- A thread after the instruction: its address moves on if it is of the beat; its registers and predicates take the effect if it acts; the ranges that latches hold and the status words still to be read lose what the writes reach (R163, R274); nothing else changes but the scoreboard and the escapement's marks. -/
structure ThreadRan (b : Beat) (c : Ctx) (h : Head) (E : Effect) (x y : Thread) : Prop where
  rest : y = { ((actingLane b c h x).map (fun l => E.thread l x)).getD x with
    pc := y.pc, vregs := y.vregs, preds := y.preds, pend := y.pend, stamp := y.stamp, yielded := y.yielded, latched := y.latched, acqs := y.acqs }
  pc : y.pc = ((actingLane b c h x).bind E.pc).getD (if x.tid ∈ b.tids then nextPc b.pc else x.pc)
  regs : ∀ n, y.v n = after x.v (((actingLane b c h x).map E.vec).getD []) n
  preds : y.preds = ((actingLane b c h x).map E.preds).getD x.preds
  latched : y.latched = x.latched.filter (fun r => untouched (((actingLane b c h x).map E.vec).getD []) r.2.1 r.2.2)
  acqs : y.acqs = x.acqs.filter (fun a => untouched (((actingLane b c h x).map E.vec).getD []) a.1 1)

/-- A wheel after the instruction: its uniform registers take the effect if a lane of it acts, and the flags that are on their way to %fstat. -/
structure WheelRan (cycle : Nat) (b : Beat) (c : Ctx) (h : Head) (E : Effect) (w v : Wheel) : Prop where
  rest : v = { w with sregs := v.sregs, pend := v.pend, retire := v.retire, stores := v.stores }
  stores : v.stores = w.stores ++ E.stores ((acting b c h).filter (fun l => l.w.idx == w.idx))
  regs : ∀ n, v.s n = after w.s ((((acting b c h).find? (fun l => l.w.idx == w.idx)).map E.uni).getD []) n
  flags : v.retire = w.retire ++
    (let fl := E.flags ((acting b c h).filter (fun l => l.w.idx == w.idx))
     if fl = 0 then [] else [{ due := cycle + E.lat, flags := fl }])

/-- The context after the instruction: its threads, wheels and other parts take the effect. -/
structure CtxRan (cycle : Nat) (b : Beat) (c : Ctx) (h : Head) (E : Effect) (c' : Ctx) : Prop where
  rest : c' = { E.ctx c with threads := c'.threads, wheels := c'.wheels }
  tids : c'.threads.map (fun x => x.tid) = c.threads.map (fun x => x.tid)
  idxs : c'.wheels.map (fun w => w.idx) = c.wheels.map (fun w => w.idx)
  threads : ∀ i x, c.thread i = some x → ∃ y, c'.thread i = some y ∧ ThreadRan b c h E x y
  wheels : ∀ k w, c.wheel k = some w → ∃ v, c'.wheel k = some v ∧ WheelRan cycle b c h E w v

/-- The whole effect of an instruction that touches registers alone, with its frame: every other context, register, unit and byte is as before. -/
structure Ran (s : State) (b : Beat) (c : Ctx) (h : Head) (E : Effect) (t : State) : Prop where
  ctx : ∃ c', sGet t.ctxs b.ctx = some c' ∧ CtxRan s.cycle b c h E c'
  others : ∀ k, k ≠ b.ctx → sGet t.ctxs k = sGet s.ctxs k
  memory : ∀ a, t.byte a = s.byte a
  path : ∀ k, t.quarter k =
    if E.hold ≠ 0 ∧ k = 4 * b.core + b.quarter then { s.quarter k with free := s.cycle + E.hold } else s.quarter k
  rest : t = { s with ctxs := t.ctxs, quarters := t.quarters, mem := t.mem, wr := [] }

/-- The instruction completes in the beat in issue, with an effect on registers alone. -/
def Does (i : Instr) (s : State) (b : Beat) (c : Ctx) (h : Head) (E : Effect) : Prop :=
  ∃ t, exec i s = .next t ∧ Ran s b c h E t

/-- The effect of an instruction that reads or writes memory: the context as in `E`, and home bytes as in `cells`; beside them only cached copies, page counts, the ring of the table control object, poison marks of bytes written, write monitors, the histories of queues whose descriptors are written, the tags of replies that enter no cache, and the model's free counter may change. Every other context and every other byte outside the table control object is as before. -/
structure Touched (s : State) (b : Beat) (c : Ctx) (h : Head) (E : Effect) (cells : List (Nat × Byte)) (t : State) : Prop where
  ctx : ∃ c', sGet t.ctxs b.ctx = some c' ∧ CtxRan s.cycle b c h E c'
  others : ∀ k, k ≠ b.ctx → sGet t.ctxs k = sGet s.ctxs k
  memory : ∀ a, pTag a ≠ 7 → t.byte a = (sGet cells a).getD (s.byte a)
  queues : t.queues = s.queues ∨ t.queues = s.queues.map (fun q => (q.1, q.2.noteEn cells))
  rest : t = { s with
    ctxs := t.ctxs, cores := t.cores, dies := t.dies, slots := t.slots, poison := t.poison, queues := t.queues, late := t.late
    free := t.free, mem := t.mem, wr := [] }

/-- The instruction completes with an effect on its context and memory. -/
def Uses (i : Instr) (s : State) (b : Beat) (c : Ctx) (h : Head) (E : Effect) (cells : List (Nat × Byte)) : Prop :=
  ∃ t, exec i s = .next t ∧ Touched s b c h E cells t

/-- What an instruction that may suspend threads does: the context as in `E`; every other context, register, unit and byte is as before, and wait numbers may be used. -/
structure Turned (s : State) (b : Beat) (c : Ctx) (h : Head) (E : Effect) (t : State) : Prop where
  ctx : ∃ c', sGet t.ctxs b.ctx = some c' ∧ CtxRan s.cycle b c h E c'
  others : ∀ k, k ≠ b.ctx → sGet t.ctxs k = sGet s.ctxs k
  memory : ∀ a, t.byte a = s.byte a
  rest : t = { s with ctxs := t.ctxs, nextWid := t.nextWid, mem := t.mem, wr := [] }

/-- A change of one context alone, wait numbers and the reuse latches of cores: every other context, register, unit and byte is as before. -/
structure Quiet (s : State) (k : Nat) (t : State) : Prop where
  others : ∀ j, j ≠ k → sGet t.ctxs j = sGet s.ctxs j
  memory : ∀ a, t.byte a = s.byte a
  latches : ∀ i, t.core i = { s.core i with latches := (t.core i).latches }
  rest : t = { s with ctxs := t.ctxs, nextWid := t.nextWid, cores := t.cores, mem := t.mem, wr := [] }

/-- Acting threads park at the instruction, and a re-formed membership ends (R249). -/
def parks (b : Beat) : Effect :=
  { pc := fun _ => some b.pc, thread := fun _ x => { x with st := .parked, reformed := none } }

/-- The open record of lanes of one home wheel, whose first is `l` (R393). -/
def recordOf (b : Beat) (c : Ctx) (l : Lane) (ls : List Lane) (cls : Nat) (info : BitVec 64) : FaultRec :=
  { cls := cls, cause := 0, opn := true, lanes := ls.foldl (fun a x => a ||| BitVec.ofNat 32 (2 ^ x.t.lane)) 0
    launch := c.launch, block := c.block, wheel := l.w.idx, core := l.w.core % 40, quarter := l.w.quarter, die := dieOf l.w.core
    pc := b.pc, words := b.words, info := info, ctx := b.ctx, tids := ls.map (fun x => x.t.tid) }

/-- The instruction takes an exception: its acting lanes park, one record joins the queue of their die, and nothing else changes (R172, R249, R393). -/
def Faults (i : Instr) (s : State) (b : Beat) (c : Ctx) (h : Head) (r : FaultRec) : Prop :=
  ∃ t, exec i s = .next t ∧ (∃ c', sGet t.ctxs b.ctx = some c' ∧ CtxRan s.cycle b c h (parks b) c') ∧
    (∀ k, k ≠ b.ctx → sGet t.ctxs k = sGet s.ctxs k) ∧ (∀ a, t.byte a = s.byte a) ∧
    t = { s with ctxs := t.ctxs, dies := sPut s.dies r.die { s.die r.die with recs := (s.die r.die).recs ++ [r] }, mem := t.mem, wr := [] }

/-- Threads whose only change is that those of the beat stand at the next instruction (R84). -/
def Moved (b : Beat) (c c' : Ctx) : Prop :=
  ∀ i x, c.thread i = some x → ∃ y, c'.thread i = some y ∧
    y = { x with pc := if i ∈ b.tids then nextPc b.pc else x.pc, stamp := y.stamp, yielded := y.yielded }

/-- No wheel of the context has a queued store (R270). -/
def NoStores (c : Ctx) : Prop := ∀ w ∈ c.wheels, w.stores = []

/-- The context waits for no load or atomic that its later accesses follow, and for no bytes that a held beat asked for (R267, R271, R272). -/
def Alone (c : Ctx) : Prop := ∀ o ∈ c.loads, o.orders = false ∧ o.isFill = false

/-- An access resolves to places, none of which a pin holds back (R172, R279). -/
def Passes (s : State) (core : Nat) (r : Res) (ps : List Nat) : Prop :=
  ∃ pages, r = .ok ps pages ∧ s.pinCheck core false r = r

/-- No cache holds a dirty byte (R266). -/
def Clean (s : State) : Prop :=
  (∀ x ∈ s.cores, ∀ e ∈ x.2.l1, e.2.2 = false) ∧ ∀ x ∈ s.dies, ∀ e ∈ x.2.l2, e.2.2 = false

/-- What a step that concerns one context leaves: the other contexts and every byte of memory outside the table control object. -/
structure Calm (s : State) (k : Nat) (t : State) : Prop where
  others : ∀ j, j ≠ k → sGet t.ctxs j = sGet s.ctxs j
  memory : ∀ a, pTag a ≠ 7 → t.byte a = s.byte a

/-- The state in which a beat's lanes read their places: the sectors that they lack have entered the caches (R177, R266). -/
def filled (s : State) (pol : Nat) (ls : List Lane) (places : Lane → List Nat) : State :=
  ls.foldl (fun s l => s.fillFor l.w.core pol (places l)) s

/-- The bytes of the core order at some places, all of them there (R270). -/
def Holds (s : State) (core : Nat) (ps : List Nat) : Prop := ∀ b ∈ s.coreBytes core ps, b.isSome = true

/-- No core holds a line by a pin (R279). -/
def NoPins (s : State) : Prop := ∀ e ∈ s.cores, e.2.pins = []

/-- Those bytes. -/
def bytesAt (s : State) (core : Nat) (ps : List Nat) : List Byte := held (s.coreBytes core ps)

/-- The step completes, and the state is `u` with its home writes performed. -/
def Becomes (i : Instr) (s u : State) : Prop := exec i s = .next (u.seal s.mem)

/-- The step completes in a state of which `P` holds. -/
def Reaches (i : Instr) (s : State) (P : State → Prop) : Prop := ∃ t, exec i s = .next t ∧ P t

/-- A state within a step that differs in one context, in cached copies, page counts and what goes with them: every other context and every byte outside the table control object is as before. -/
structure Near (s : State) (k : Nat) (u : State) : Prop where
  others : ∀ j, j ≠ k → sGet u.ctxs j = sGet s.ctxs j
  memory : ∀ a, pTag a ≠ 7 → u.byte a = s.byte a
  rest : u = { s with ctxs := u.ctxs, cores := u.cores, dies := u.dies, slots := u.slots, poison := u.poison, late := u.late, free := u.free, wr := u.wr }

/-- The line accesses of a beat counted at their ports after its effect `w` (R376): page counts and the rings of the table control object alone differ. -/
structure Counted (w v : State) : Prop where
  memory : ∀ a, pTag a ≠ 7 → v.byte a = w.byte a
  dies : ∀ d, v.die d = { w.die d with hot := (v.die d).hot, ringHead := (v.die d).ringHead }
  rest : v = { w with dies := v.dies, wr := v.wr }

end Claims

end Sys2Proof
end

