-- ==== Sys2Proof/Certificates/Slice0/Obligations.lean ====
section
/-! DEFINITION. The statements for the provers, in the terms of Safety.lean; each docstring names the rules of spec/ that it formalises. -/

open Sys2Proof Sys2Proof.Machine Sys2Proof.Claims

/-! ### Register instructions

Wherever a statement gives registers after an instruction, they are written as it issues, and the scoreboard holds them until the cycle of R254 (log 9). -/

/-- R106, R109: the integer arithmetic instructions write the fitted result of their operands into D in every acting lane, or once for each home wheel, and change nothing else. -/
def Obligations.IntegerResults : Prop :=
  ∀ s b c, InIssue s b c → ∀ (h : Head) (ty : Ty) (sat sa sb : Bool) (d : Dst) (x y z : Src),
    Does (.iadd h ty sat d x y) s b c h (into d (fun l => intTwo ty sat (fun p q => p + q) l x y)) ∧
    Does (.isub h ty sat d x y) s b c h (into d (fun l => intTwo ty sat (fun p q => p - q) l x y)) ∧
    Does (.imul h ty sat d x y) s b c h (into d (fun l => intTwo ty sat (fun p q => p * q) l x y)) ∧
    Does (.imulh h ty d x y) s b c h (into d (fun l => intTwo ty false (fun p q => p * q / 2 ^ tyW ty) l x y)) ∧
    Does (.imin h ty d x y) s b c h (into d (fun l => intTwo ty false min l x y)) ∧
    Does (.imax h ty d x y) s b c h (into d (fun l => intTwo ty false max l x y)) ∧
    Does (.iabs h ty sat d x) s b c h (into d (fun l => intOne ty sat (fun p => if p < 0 then -p else p) l x)) ∧
    Does (.ineg h ty sat d x) s b c h (into d (fun l => intOne ty sat (fun p => -p) l x)) ∧
    Does (.imad h ty sat d x y z) s b c h (into d (fun l => natWords (tyRegs ty)
      (elemFit ty sat (srcInt l ty x * srcInt l ty y + srcInt l ty z)))) ∧
    Does (.imadw h ty sat d x y z) s b c h (into d (fun l => natWords 2 (fitInt sat (tySigned ty) 64
      (srcInt l ty x * srcInt l ty y + sgnVal (tySigned ty) 64 (readSrc l 2 z))))) ∧
    Does (.idp4 h sat sa sb d x y z) s b c h (into d (fun l => dotOp 4 sat sa sb l x y z)) ∧
    Does (.idp8 h sat sa sb d x y z) s b c h (into d (fun l => dotOp 8 sat sa sb l x y z))

/-- R110-R115: the bit and field instructions write their result into D and change nothing else. LUT3's index is that of the formula of R110 (log 8). -/
def Obligations.BitResults : Prop :=
  ∀ s b c, InIssue s b c → ∀ (h : Head) (ty : Ty) (right : Bool) (d : Dst) (x y z : Src) (tbl : BitVec 8),
    let n := tyRegs ty
    let w := tyW ty
    Does (.andB h ty d x y) s b c h (into d (fun l => natWords n (readSrc l n x &&& readSrc l n y))) ∧
    Does (.orB h ty d x y) s b c h (into d (fun l => natWords n (readSrc l n x ||| readSrc l n y))) ∧
    Does (.xorB h ty d x y) s b c h (into d (fun l => natWords n (readSrc l n x ^^^ readSrc l n y))) ∧
    Does (.notB h ty d x) s b c h (into d (fun l => natWords n (2 ^ w - 1 - readSrc l n x))) ∧
    Does (.lut3 h ty d x y z tbl) s b c h (into d (fun l => natWords n (lutBits tbl (readSrc l n x) (readSrc l n y) (readSrc l n z) w))) ∧
    Does (.shl h ty d x y) s b c h (into d (fun l => natWords n (if w ≤ readSrc l 1 y then 0 else readSrc l n x * 2 ^ readSrc l 1 y % 2 ^ w))) ∧
    Does (.shr h ty d x y) s b c h (into d (fun l => natWords n (if w ≤ readSrc l 1 y then 0 else readSrc l n x / 2 ^ readSrc l 1 y))) ∧
    Does (.sar h ty d x y) s b c h (into d (fun l => natWords n (wrapInt w (sgnVal true w (readSrc l n x) / 2 ^ min (readSrc l 1 y) w)))) ∧
    Does (.fsh h right d x y z) s b c h (into d (fun l => natWords 1
      (let k := min (readSrc l 1 z) 32
       let p := readSrc l 1 x * 2 ^ 32 + readSrc l 1 y
       if right then p / 2 ^ k else p * 2 ^ k % 2 ^ 64 / 2 ^ 32))) ∧
    Does (.pcnt h ty d x) s b c h (into d (fun l => natWords 1 (popNat w (readSrc l n x)))) ∧
    Does (.clz h ty d x) s b c h (into d (fun l => natWords 1 (if readSrc l n x = 0 then w else w - 1 - Nat.log2 (readSrc l n x)))) ∧
    Does (.brev h ty d x) s b c h (into d (fun l => natWords n (revNat w (readSrc l n x)))) ∧
    Does (.bfx h ty d x y) s b c h (into d (fun l => natWords n (bfx (tySigned ty) w (readSrc l n x) (readSrc l 1 y)))) ∧
    Does (.bfi h ty d x y z) s b c h (into d (fun l => natWords n (bfi w (readSrc l n x) (readSrc l n y) (readSrc l 1 z)))) ∧
    Does (.bperm h d x y z) s b c h (into d (fun l => natWords 1 (packElems 8 ((List.range 4).map
      (bpermByte (readSrc l 1 x + 2 ^ 32 * readSrc l 1 y) (readSrc l 1 z))))))

/-- R105, R107, R108, R116, R117, R79, R128, R129, R358: NOP, the compare, the moves, the predicate-word instructions, and MOVS of every special register but %fstat; MOVS %launch in a speculative run ends the run with cause 1 (R358). PLOP's index is that of its formula (log 8). -/
def Obligations.MoveResults : Prop :=
  (∀ s b c, InIssue s b c → ∀ (h : Head) (ty : Ty) (cc : Cc) (and : Bool) (d : Dst) (x y : Src) (r tbl : BitVec 8) (pd pa pb pc : BitVec 5) (k : Word),
    Does (.nop h) s b c h {} ∧
    Does (.mov h ty d x) s b c h (into d (fun l => natWords (tyRegs ty) (readSrc l (tyRegs ty) x))) ∧
    Does (.movi h d k) s b c h (into d (fun _ => [k])) ∧
    Does (.sel h ty r x y pc) s b c h (into (.v r) (fun l => natWords (tyRegs ty) (readSrc l (tyRegs ty) (if readP l pc then x else y)))) ∧
    Does (.icmp h ty cc and pd x y) s b c h (intoP pd (fun l =>
      (!and || readP l pd) && ccHolds cc (srcInt l ty x) (srcInt l ty y))) ∧
    Does (.plop h pd pa pb pc tbl) s b c h (intoP pd (fun l => lutBit tbl (readP l pa) (readP l pb) (readP l pc))) ∧
    Does (.ptov h r) s b c h (into (.v r) (fun l => [l.t.preds])) ∧
    Does (.vtop h x y) s b c h { preds := fun l =>
      (l.t.preds &&& ~~~(BitVec.ofNat 32 (readSrc l 1 y))) ||| (BitVec.ofNat 32 (readSrc l 1 x) &&& BitVec.ofNat 32 (readSrc l 1 y)) }) ∧
  (∀ s b c, InIssue s b c → ∀ (h : Head) (clr : Bool) (d : Dst) (num : BitVec 8), num ≠ 16 → (num = 5 → c.spec = none ∨ acting b c h = []) →
    Does (.movs h clr d num) s b c h (into d (fun l =>
      natWords (if num = 12 ∨ num = 14 ∨ num = 17 then 2 else 1) (special s (siteOf b c h) l num.toNat)))) ∧
  (∀ s b c, InIssue s b c → ∀ (h : Head) (clr : Bool) (d : Dst) (k : Nat), c.spec = some k → acting b c h ≠ [] →
    Becomes (.movs h clr d 5) s ((s.setCtx b.ctx (c.advance b h.yld)).discardRun k 1) ∧
    ((s.slot k).state ≠ .idle → Reaches (.movs h clr d 5) s (fun t =>
      (t.slot k).state = .idle ∧ (t.queue (s.slot k).queue).lastCause = 1 ∧ sGet t.ctxs b.ctx = none)))

/-- R119-R123: the lane instructions, which read the acting lanes of the beat. -/
def Obligations.LaneResults : Prop :=
  ∀ s b c, InIssue s b c → ∀ (h : Head) (ty : Ty) (sat cnt : Bool) (mode : ShflMode) (op : ReduxOp) (d : Dst) (r x : BitVec 8) (y : Src) (lane : Option Src) (pd pa : BitVec 5),
    let e := siteOf b c h
    let all := laneMask e.lanes
    let mask := laneMask (e.lanes.filter (fun l => readP l pa))
    Does (.shfl h ty mode r x y) s b c h (into (.v r) (fun l =>
      natWords (tyRegs ty) (readV (((shflSrc mode l.t.lane (readSrc l 1 y)).bind e.lane).getD l).t (tyRegs ty) x))) ∧
    Does (.vote h (.every pd) pa) s b c h (intoP pd (fun _ => mask == all)) ∧
    Does (.vote h (.any pd) pa) s b c h (intoP pd (fun _ => mask != 0)) ∧
    Does (.vote h (.agree pd) pa) s b c h (intoP pd (fun _ => mask == 0 || mask == all)) ∧
    Does (.vote h (.mask cnt d) pa) s b c h (into d (fun _ => [if cnt then BitVec.ofNat 32 (popNat 32 mask.toNat) else mask])) ∧
    Does (.matchL h ty r x) s b c h (into (.v r) (fun l => [matchWord e ty x l])) ∧
    Does (.redux h ty sat op d x) s b c h (into d (fun l => [reduxWord e ty sat op x l])) ∧
    Does (.vtos h ty r x lane) s b c h (into (.s r) (fun l => natWords (tyRegs ty) (vtosVal e ty x lane l)))

/-- R124-R127: the pointer instructions; PCHK answers once its core holds an entry for every object named. -/
def Obligations.PointerResults : Prop :=
  ∀ s b c, InIssue s b c → ∀ (h : Head) (wide sat : Bool) (d : Dst) (x y : Src) (pd rights : BitVec 5) (size : BitVec 16),
    Does (.padd h wide sat d x y) s b c h (into d (fun l => natWords 2 (paddVal wide sat (readSrc l 2 x) (readSrc l (if wide then 2 else 1) y)))) ∧
    Does (.pdiff h d x y) s b c h (into d (fun l => natWords 2 (pdiffVal (readSrc l 2 x) (readSrc l 2 y)))) ∧
    Does (.prstr h d x y) s b c h (into d (fun l => natWords 2 (readSrc l 1 y % 2 ^ 20 * 2 ^ 44 + readSrc l 2 x % 2 ^ 44))) ∧
    ((∀ l ∈ acting b c h, (s.pchk l.w.core (readSrc l 2 x) rights.toNat size.toNat).isSome) →
      Does (.pchk h pd x rights size) s b c h (intoP pd (fun l => (s.pchk l.w.core (readSrc l 2 x) rights.toNat size.toNat).getD false)))

/-- R132-R139: the floating instructions write D, send their flags to the home wheel's %fstat, and hold the vector datapath where R134 says so. FFN's result is free within its bound (log 4). -/
def Obligations.FloatResults : Prop :=
  ∀ s b c, InIssue s b c → ∀ (h : Head) (ty : Ty) (sat ftz un and hi mx : Bool) (rnd : Rnd) (fn : Fn) (rel : Rel) (cls : BitVec 10)
      (d : Dst) (x y z : Src) (pd : BitVec 5),
    let held := fun (n : Nat) (E : Effect) => { E with hold := match d with | .v _ => n | .s _ => 0 }
    Does (.fadd h sat rnd ftz d x y) s b c h (intoFl d 3 (fun l => fpTwo .f32 (fAdd f32 rnd sat ftz) l x y)) ∧
    Does (.fmul h sat rnd ftz d x y) s b c h (intoFl d 3 (fun l => fpTwo .f32 (fMul f32 rnd sat ftz) l x y)) ∧
    Does (.ffma h sat rnd ftz d x y z) s b c h (intoFl d 3 (fun l => fpThree .f32 (fFma f32 rnd sat ftz) l x y z)) ∧
    Does (.fmin h ftz d x y) s b c h (intoFl d 3 (fun l => fpTwo .f32 (fMinMax f32 ftz false) l x y)) ∧
    Does (.fmax h ftz d x y) s b c h (intoFl d 3 (fun l => fpTwo .f32 (fMinMax f32 ftz true) l x y)) ∧
    Does (.fcmp h ty ftz rel un and pd x y) s b c h
      (let r := fun l => fCmp (tyFmt ty) ftz rel un (readSrc l (tyRegs ty) x) (readSrc l (tyRegs ty) y)
       { intoP pd (fun l => if and then readP l pd && (r l).1 else (r l).1) with flags := fun ls => ls.foldl (fun a l => a ||| (r l).2) 0 }) ∧
    Does (.ffn h ftz fn d x) s b c h (held 2 (intoFl d 7 (fun l => packFl 1 32 [ffnEval ftz fn (readSrc l 1 x)]))) ∧
    Does (.ftest h ty cls hi pd x) s b c h (intoP pd (fun l =>
      cls.getLsbD (fClass (tyFmt ty) (elemAt (tyW ty) (if hi then 1 else 0) (readSrc l (tyRegs ty) x))))) ∧
    Does (.hadd2 h ty sat rnd ftz d x y) s b c h (intoFl d 3 (fun l => fpTwo ty (fAdd (tyFmt ty) rnd sat ftz) l x y)) ∧
    Does (.hmul2 h ty sat rnd ftz d x y) s b c h (intoFl d 3 (fun l => fpTwo ty (fMul (tyFmt ty) rnd sat ftz) l x y)) ∧
    Does (.hfma2 h ty sat rnd ftz d x y z) s b c h (intoFl d 3 (fun l => fpThree ty (fFma (tyFmt ty) rnd sat ftz) l x y z)) ∧
    Does (.hmnx2 h ty ftz mx d x y) s b c h (intoFl d 3 (fun l => fpTwo ty (fMinMax (tyFmt ty) ftz mx) l x y)) ∧
    Does (.dadd h sat rnd ftz d x y) s b c h (held 4 (intoFl d 7 (fun l => fpTwo .f64 (fAdd f64 rnd sat ftz) l x y))) ∧
    Does (.dmul h sat rnd ftz d x y) s b c h (held 4 (intoFl d 7 (fun l => fpTwo .f64 (fMul f64 rnd sat ftz) l x y))) ∧
    Does (.dfma h sat rnd ftz d x y z) s b c h (held 4 (intoFl d 7 (fun l => fpThree .f64 (fFma f64 rnd sat ftz) l x y z)))

/-- R140-R145: the conversions; QBLK writes the element registers and then byte BYTE of the register SD. Conversions at the ends of a format follow log 54 and 56. -/
def Obligations.ConversionResults : Prop :=
  ∀ s b c, InIssue s b c → ∀ (h : Head) (rnd : Rnd) (sat ftz sc32 : Bool) (ln df byte : BitVec 2) (sf dfm ef sd r : BitVec 8)
      (d : Dst) (x y : Src) (z : Option Src),
    Does (.cvt h rnd sat ftz ln sf dfm d x z) s b c h (intoFl d 3 (fun l => cvtLane rnd sat ftz ln sf dfm l x z)) ∧
    Does (.dqblk h rnd sc32 df sat ftz byte ef d x y) s b c h (intoFl d 7 (fun l => dqblkLane rnd sc32 df sat ftz byte ef l x y)) ∧
    (let q := fun l => qblkLane rnd sc32 ef l x
     let scale := fun (old : Nat) (l : Lane) => [BitVec.ofNat 32 (natSetBits old (8 * byte.toNat) 8 (q l).1)]
     Does (.qblk h rnd sc32 sd byte ef (.v r) x) s b c h
      { vec := fun l => [(r.toNat, (q l).2.1), (sd.toNat, scale (readV l.t 1 sd) l)]
        flags := flagsOf (.v r) (fun l => (q l).2.2), lat := 7 } ∧
     Does (.qblk h rnd sc32 sd byte ef (.s r) x) s b c h
      { uni := fun l => [(r.toNat, (q l).2.1), (sd.toNat, scale (readS l.w 1 sd) l)]
        flags := flagsOf (.s r) (fun l => (q l).2.2), lat := 7 })

/-! ### The arithmetic itself -/

/-- The 32-bit word of a source. -/
def Sys2Proof.Claims.srcWord (l : Lane) (x : Src) : Word := BitVec.ofNat 32 (readSrc l 1 x)

/-- R13, R106, R107, R110: over 32 bits without SAT, the sum, difference, product and bitwise results are those of 32-bit words, signed or unsigned alike; with SAT the signed sum is the exact sum clamped to the format; the orders of ICMP are those of two's-complement and binary words. -/
def Obligations.WordArithmetic : Prop :=
  (∀ s b c, InIssue s b c → ∀ (h : Head) (d : Dst) (x y : Src), ∀ ty ∈ [Ty.s32, Ty.n32],
    Does (.iadd h ty false d x y) s b c h (into d (fun l => [srcWord l x + srcWord l y])) ∧
    Does (.isub h ty false d x y) s b c h (into d (fun l => [srcWord l x - srcWord l y])) ∧
    Does (.imul h ty false d x y) s b c h (into d (fun l => [srcWord l x * srcWord l y])) ∧
    Does (.ineg h ty false d x) s b c h (into d (fun l => [-srcWord l x])) ∧
    Does (.andB h .b32 d x y) s b c h (into d (fun l => [srcWord l x &&& srcWord l y])) ∧
    Does (.orB h .b32 d x y) s b c h (into d (fun l => [srcWord l x ||| srcWord l y])) ∧
    Does (.xorB h .b32 d x y) s b c h (into d (fun l => [srcWord l x ^^^ srcWord l y])) ∧
    Does (.notB h .b32 d x) s b c h (into d (fun l => [~~~srcWord l x]))) ∧
  (∀ s b c, InIssue s b c → ∀ (h : Head) (d : Dst) (x y : Src), ∃ f : Lane → Word,
    Does (.iadd h .s32 true d x y) s b c h (into d (fun l => [f l])) ∧
    ∀ l, (f l).toInt = max (-2 ^ 31) (min ((srcWord l x).toInt + (srcWord l y).toInt) (2 ^ 31 - 1))) ∧
  (∀ s b c, InIssue s b c → ∀ (h : Head) (pd : BitVec 5) (x y : Src),
    Does (.icmp h .s32 .lt false pd x y) s b c h (intoP pd (fun l => (srcWord l x).slt (srcWord l y))) ∧
    Does (.icmp h .n32 .lt false pd x y) s b c h (intoP pd (fun l => (srcWord l x).ult (srcWord l y))) ∧
    Does (.icmp h .s32 .eq false pd x y) s b c h (intoP pd (fun l => srcWord l x == srcWord l y)) ∧
    Does (.icmp h .s32 .ge true pd x y) s b c h (intoP pd (fun l => readP l pd && !(srcWord l x).slt (srcWord l y))))

/-- R111: SHL, SHR and SAR shift A by the 32-bit count; a count at or past the width gives 0 for SHL and SHR and copies of the sign bit for SAR, and no count is taken modulo the width. -/
def Obligations.ShiftPastWidth : Prop :=
  ∀ s b c, InIssue s b c → ∀ (h : Head) (d : Dst) (x y : Src), ∀ ty ∈ [Ty.s32, Ty.n32, Ty.b32, Ty.s64, Ty.n64, Ty.b64],
    let w := tyW ty
    let a := fun (l : Lane) => readSrc l (tyRegs ty) x
    let n := fun (l : Lane) => readSrc l 1 y
    ((∀ l ∈ acting b c h, w ≤ n l) →
      Does (.shl h ty d x y) s b c h (into d (fun _ => List.replicate (tyRegs ty) 0)) ∧
      Does (.shr h ty d x y) s b c h (into d (fun _ => List.replicate (tyRegs ty) 0)) ∧
      Does (.sar h ty d x y) s b c h (into d (fun l => List.replicate (tyRegs ty) (if (a l).testBit (w - 1) then 0xFFFFFFFF else 0)))) ∧
    ((∀ l ∈ acting b c h, n l < w) →
      Does (.shl h ty d x y) s b c h (into d (fun l => natWords (tyRegs ty) (a l * 2 ^ n l % 2 ^ w))) ∧
      Does (.shr h ty d x y) s b c h (into d (fun l => natWords (tyRegs ty) (a l / 2 ^ n l))) ∧
      Does (.sar h ty d x y) s b c h (into d (fun l => natWords (tyRegs ty)
        (a l / 2 ^ n l + if (a l).testBit (w - 1) then 2 ^ w - 2 ^ (w - n l) else 0))))

/-- R124, R125, R127: PADD keeps OBJ and moves OFS modulo 2^44 or, with SAT, clamps it; PDIFF writes the signed difference of the offsets within one object and 2^63 for two; PRSTR pairs an object id with an offset. None asks for a descriptor. -/
def Obligations.PointerFields : Prop :=
  ∀ s b c, InIssue s b c → ∀ (h : Head) (sat wide : Bool) (d : Dst) (x y : Src),
    let obj := fun (a : Nat) => a / 2 ^ 44
    let ofs := fun (a : Nat) => ((a % 2 ^ 44 : Nat) : Int)
    let a := fun (l : Lane) => readSrc l 2 x
    (∃ f : Lane → Nat, Does (.padd h wide sat d x y) s b c h (into d (fun l => natWords 2 (f l))) ∧
      ∀ l, let n := ofs (a l) + sgnVal true (if wide then 64 else 32) (readSrc l (if wide then 2 else 1) y)
        f l < 2 ^ 64 ∧ obj (f l) = obj (a l) ∧ ofs (f l) = if sat then max 0 (min n (2 ^ 44 - 1)) else n % 2 ^ 44) ∧
    (∃ f : Lane → BitVec 64, Does (.pdiff h d x y) s b c h (into d (fun l => natWords 2 (f l).toNat)) ∧
      ∀ l, let e := readSrc l 2 y
        (obj (a l) = obj e → (f l).toInt = ofs (a l) - ofs e) ∧ (obj (a l) ≠ obj e → f l = 0x8000000000000000)) ∧
    Does (.prstr h d x y) s b c h (into d (fun l => natWords 2 (readSrc l 1 y % 2 ^ 20 * 2 ^ 44 + a l % 2 ^ 44)))

/-- R46, R48: VZ and SZ read as zero and discard every write, as single registers, pairs and ranges. -/
def Obligations.ZeroRegisters : Prop :=
  (∀ (l : Lane) (n : Nat), readSrc l n (.v 255) = 0 ∧ readSrc l n (.s 255) = 0) ∧
  ∀ s b c, InIssue s b c → ∀ (h : Head) (ty : Ty) (sat : Bool) (x y : Src),
    Does (.iadd h ty sat (.v 255) x y) s b c h {} ∧ Does (.iadd h ty sat (.s 255) x y) s b c h {} ∧
    Does (.mov h ty (.v 255) x) s b c h {} ∧ Does (.mov h ty (.s 255) x) s b c h {}

/-! ### Memory instructions -/

/-- R170, R175, R168: LD and LDMX of bytes that copies on the device supply write them, little-endian and extended as the size says, to D; no byte of memory changes. When registers are written, and what a beat's lanes read when one brings in a line, follow log 9 and 53. -/
def Obligations.LoadResults : Prop :=
  ∀ s b c, InIssue s b c → NoStores c → Alone c → c.run = none →
    ∀ (h : Head) (sp : Space) (sz : Size) (ord : Ordr) (sc : Scope) (d : Dst) (x : Src) (ofs : BitVec 24) (m128 w6 : Bool) (fr : Frag) (r : BitVec 8) (t : BitVec 4)
      (places : Lane → List Nat),
    let e := siteOf b c h
    let passes := fun (ls : List Lane) (acc : Lane → Res) => ∀ l ∈ ls, Passes s l.w.core (acc l) (places l)
    let ls := e.actors (dstNum d).2
    let u := filled s h.pol.toNat ls places
    (passes ls (fun l => s.access e l { sp := sp, n := szBytes sz, align := szBytes sz, need := 1, lock := false } x ofs.toInt) →
      (∀ l ∈ ls, Holds u l.w.core (places l)) →
      Uses (.ld h sp sz ord sc d x ofs) s b c h
        (into d (fun l => extendBytes (szRegs sz) (szSigned sz) (bytesAt u l.w.core (places l)))) []) ∧
    (passes e.lanes (fun l => s.fragAccess e l false m128 fr w6 x t ofs) → (∀ l ∈ e.lanes, Holds s l.w.core (places l)) →
      Uses (.ldmx h m128 fr w6 r x t ofs) s b c h
        (into (.v r) (fun l => natWords (fragRegs fr m128 w6) (bytesNat (bytesAt s l.w.core (places l))))) [])

/-- R168, R175, R193, R270, R307: ST without ordering, STMX and STSH queue their bytes, at the places their accesses resolve to, on the home wheels of their lanes, those of .g and .p for each line, the lines ascending; no byte of memory changes yet. A byte that two lanes write takes the highest lane's value (log 21). R274, R278, R279: the bytes of ST.rel of one lane, nothing else queued, dirty or outstanding, are in shared memory or the scratchpad, or, at a wider scope than the core's, at their canopy home; at a narrow scope they are dirty in the core's L1 and their line is pinned. -/
def Obligations.StoreResults : Prop :=
  (∀ s b c, InIssue s b c → Alone c → c.run = none →
    ∀ (h : Head) (sp : Space) (sz : Size) (sc : Scope) (x y : Src) (ofs : BitVec 24) (m128 w6 : Bool) (fr : Frag) (r : BitVec 8) (t : BitVec 4) (places : Lane → List Nat),
    let e := siteOf b c h
    let passes := fun (ls : List Lane) (acc : Lane → Res) => ∀ l ∈ ls, ∃ pages, acc l = .ok (places l) pages
    let cells := fun (l : Lane) => (places l).zip (natBytes (szBytes sz) (readSrc l (szRegs sz) y))
    let store := fun (line : Option Nat) (ls : List Lane) (bytes : List (Nat × Byte)) (pol : Nat) (cap : Cap) =>
      ({ tids := ls.map (fun l => l.t.tid), line := line.map (fun y => (s.cycle, y)), bytes := bytes, pol := pol, pc := b.pc, words := b.words, cap := cap } : QStore)
    let queues := fun (cells : List (Lane × List (Nat × Byte))) (tids : Lane → List Lane) (pol : Nat) (cap : Lane → Cap) (ls : List Lane) =>
      ((beatStores sp cells).filter (fun x => ls.any (fun l => l.w.idx == x.2.1.w.idx))).map (fun x => store x.1 (tids x.2.1) x.2.2 pol (cap x.2.1))
    (passes e.lanes (fun l => s.access e l { sp := sp, n := szBytes sz, align := szBytes sz, need := 2, write := true } x ofs.toInt) →
      Uses (.st h sp sz .plain sc x ofs y) s b c h
        { stores := queues (e.lanes.map (fun l => (l, (cells l).map (highest (e.lanes.map cells))))) (fun l => [l]) h.pol.toNat (fun l => accessCap l sp x ofs.toInt) } []) ∧
    (passes e.lanes (fun l => s.fragAccess e l true m128 fr w6 x t ofs) →
      Uses (.stmx h m128 fr w6 x t ofs r) s b c h
        { stores := fun ls => ls.map (fun l => store none [l] ((places l).zip (natBytes (places l).length (readV l.t (fragRegs fr m128 w6) r))) 0 0) } []) ∧
    (passes (e.actors true) (fun l => s.access e l (shWant sp true) (.s r) ofs.toInt) →
      Uses (.stsh h sp t r ofs) s b c h
        { stores := queues ((e.actors true).map (fun l => (l, (places l).zip (natBytes 64 (c.tval l.w.core t.toNat).toNat)))) (fun l => e.hit true l) 0
            (fun l => accessCap l sp (.s r) ofs.toInt) } [])) ∧
  (∀ (sp : Space) (cells : List (Lane × List (Nat × Byte))),
    (sp = .s ∨ sp = .d → beatStores sp cells = cells.map (fun x => (none, x.1, x.2))) ∧
    (sp = .g ∨ sp = .p →
      (∀ l v, (∃ x ∈ beatStores sp cells, x.2.1 = l ∧ v ∈ x.2.2) ↔ ∃ x ∈ cells, x.1 = l ∧ v ∈ x.2) ∧
      (∀ x ∈ beatStores sp cells, x.2.2 ≠ [] ∧ ∀ v ∈ x.2.2, x.1 = some (lineOf v.1)) ∧
      (beatStores sp cells).Pairwise (fun x y => x.1.getD 0 ≤ y.1.getD 0))) ∧
  ∀ s b c, InIssue s b c → NoStores c → Alone c → Clean s → NoPins s → c.run = none →
    ∀ (h : Head) (sp : Space) (sz : Size) (sc : Scope) (x y : Src) (ofs : BitVec 24) (l : Lane) (ps : List Nat) (pages : List (Nat × Nat × Nat)),
    acting b c h = [l] → s.relWaits b.ctx c [l.t.tid] sc = ([], []) → ps.Nodup →
    s.access (siteOf b c h) l { sp := sp, n := szBytes sz, align := szBytes sz, need := 2, write := true } x ofs.toInt = .ok ps pages →
    let i := Instr.st h sp sz .rel sc x ofs y
    let cells := ps.zip (natBytes (szBytes sz) (readSrc l (szRegs sz) y))
    ((∀ p ∈ ps, pTag p = 2 ∨ pTag p = 3) → Uses i s b c h {} cells) ∧
    (sp = .g → (∀ p ∈ ps, pTag p = 0 ∧ homeHere (dieOf l.w.core) p = true) → l.w.core = b.core →
      (scopeRank c sc ≠ 0 → Uses i s b c h {} cells) ∧
      (scopeRank c sc = 0 → h.pol ≠ 3 → (((s.core b.core).l1.map (fun e => lineOf e.1)).dedup).length + ps.length ≤ l1Lines →
        ∃ t, exec i s = .next t ∧ (∃ c', sGet t.ctxs b.ctx = some c' ∧ CtxRan s.cycle b c h {} c') ∧ Calm s b.ctx t ∧
          (∀ p ∈ ps, (t.core b.core).pins.any (fun e => e.1 == lineOf p) = true) ∧
          ∀ a, cacheGet (t.core b.core).l1 a = match sGet cells a with | some v => some (v, true) | none => cacheGet (s.core b.core).l1 a))

/-- R178: ATOM and RED of one lane on this device, no other level holding dirty bytes: the places take the new value of the operation, and ATOM's D the old one; and what the operations compute on whole words of 32 bits. -/
def Obligations.AtomicResults : Prop :=
  (∀ s b c, InIssue s b c → NoStores c → Alone c → c.run = none → Clean s →
    ∀ (h : Head) (sp : Space) (op : AmoOp) (ty : Ty) (ord : Ordr) (sc : Scope) (d : Dst) (x y : Src) (z : Option Src) (l : Lane) (ps : List Nat) (pages : List (Nat × Nat × Nat)),
    let e := siteOf b c h
    let n := tyRegs ty
    let acc := s.access e l (amoWant sp op ty) x 0
    let old := bytesNat (ps.map s.byte)
    let new := fun (z : Nat) => natBytes ps.length (amoNew op ty old (readSrc l n y) z)
    acting b c h = [l] → acc = .ok ps pages → s.pinCheck l.w.core true acc = acc →
    ps.Nodup → (∀ p ∈ ps, pTag p < 5) → s.relWaits b.ctx c [l.t.tid] sc = ([], []) →
    Uses (.atom h sp op ty ord sc d x y z) s b c h (into d (fun _ => natWords n old)) (ps.zip (new ((z.map (readSrc l n)).getD 0))) ∧
    Uses (.red h sp op ty ord sc x y) s b c h {} (ps.zip (new 0))) ∧
  (∀ (m x z : Word),
    amoNew .add .n32 m.toNat x.toNat z.toNat = (m + x).toNat ∧ amoNew .add .s32 m.toNat x.toNat z.toNat = (m + x).toNat ∧
    amoNew .and .b32 m.toNat x.toNat z.toNat = (m &&& x).toNat ∧ amoNew .or .b32 m.toNat x.toNat z.toNat = (m ||| x).toNat ∧
    amoNew .xor .b32 m.toNat x.toNat z.toNat = (m ^^^ x).toNat ∧ amoNew .exch .b32 m.toNat x.toNat z.toNat = x.toNat ∧
    amoNew .cas .b32 m.toNat x.toNat z.toNat = (if m = x then z else m).toNat ∧
    amoNew .max .n32 m.toNat x.toNat z.toNat = (if m.ult x then x else m).toNat ∧
    amoNew .min .s32 m.toNat x.toNat z.toNat = (if m.slt x then m else x).toNat)

/-- R180, R181, R182, R278: with nothing queued, dirty or outstanding, FENCE only moves its threads on, as PREF does of lines on this device whose addresses wait for nothing; SPADJ adds to FOFS and writes the sum to D in lanes whose new frame is aligned and fits. What a fence drains follows log 47. -/
def Obligations.FenceAndFrameResults : Prop :=
  ∀ s b c, InIssue s b c → ∀ (h : Head) (sem : Sem) (sc : Scope) (sp : Space) (l2 : Bool) (x : Src) (ofs : BitVec 24) (d : BitVec 8),
    (NoStores c → Alone c → Clean s → s.relWaits b.ctx c ((acting b c h).map (fun l => l.t.tid)) sc = ([], []) → Uses (.fence h sem sc) s b c h {} []) ∧
    (let acc := fun l => s.pinCheck l.w.core false (s.access (siteOf b c h) l { sp := sp, n := 1, align := 1, need := 1, lock := false } x ofs.toInt)
     (∀ l ∈ acting b c h, (acc l).waits = none ∧ ∀ p ps pages, acc l = .ok (p :: ps) pages → isRemote p = false) →
     Uses (.pref h sp l2 x ofs) s b c h {} []) ∧
    (let new := fun (l : Lane) => (l.t.fofs : Int) + sgnVal true 32 (readSrc l 1 x)
     (∀ l ∈ acting b c h, new l % 4 = 0 ∧ 0 ≤ new l ∧ new l ≤ c.kernel.priv) →
     Does (.spadj h d x) s b c h { into (.v d) (fun l => [BitVec.ofInt 32 (new l)]) with thread := fun l t => { t with fofs := (new l).toNat } })

/-- R52, R56, R193: SETSH replaces one field of a shape register and LDSH all of it, for a beat of one home wheel: at once in its core's copy, and at the end of the cycle in every copy of its block (log 92). -/
def Obligations.ShapeRegisterResults : Prop :=
  (∀ s b c, InIssue s b c → c.run = none → ∀ (h : Head) (field : BitVec 5) (sp : Space) (t : BitVec 4) (x : Src) (r : BitVec 8) (ofs : BitVec 24) (l : Lane) (ps : List Nat),
    wheelsOf (acting b c h) = [l] →
    let f := setshField field.toNat
    let u := filled s h.pol.toNat [l] (fun _ => ps)
    Does (.setsh h field t x) s b c h { ctx := fun c => c.twrite l.w.core t.toNat f.1 f.2 (readSrc l 2 x) } ∧
    (NoStores c → Alone c → Passes s l.w.core (s.access (siteOf b c h) l (shWant sp false) (.s r) ofs.toInt) ps → Holds s l.w.core ps →
     Uses (.ldsh h sp t r ofs) s b c h { ctx := fun c => c.twrite l.w.core t.toNat 0 512 (bytesNat (bytesAt u l.w.core ps)) } [])) ∧
  ∀ (c : Ctx) (core t lo n v : Nat), t < 16 → lo + n ≤ 512 →
    let new := tSet (c.tval core t) lo n v
    (∀ i, i < 512 → new.getLsbD i = if lo ≤ i ∧ i < lo + n then v.testBit (i - lo) else (c.tval core t).getLsbD i) ∧
    (c.twrite core t lo n v).tval core t = new ∧
    (∀ o r, r < 16 → (o, r) ≠ (core, t) → (c.twrite core t lo n v).tval o r = c.tval o r) ∧
    (c.twrites = [] → 1 < c.cores.length → ∀ o ∈ c.cores, o ≠ core →
      (c.twrite core t lo n v).tspread.tval o t = tSet (c.tval o t) lo n v)

/-- R194-R197: the phase-barrier instructions on one lane, nothing else waiting in the block: what each leaves in the barrier word, in D and in Pd; an arrival counts PENDING down, and the last one completes the phase: PHASE toggles and PENDING takes EXPECTED again. -/
def Obligations.BarrierResults : Prop :=
  (∀ s b c, InIssue s b c → NoStores c → Alone c → c.run = none → c.waits = [] →
    ∀ (h : Head) (acq rel : Bool) (sc : Scope) (d : BitVec 8) (pd : BitVec 5) (x y : Src) (l : Lane) (p : Nat) (ps : List Nat),
    let e := siteOf b c h
    let w := pbOf (s.num p 8)
    let k := readSrc l 1 y
    let at_ := fun (v : PBar) => (run p 8).zip (natBytes 8 (pbWord v))
    acting b c h = [l] → run p 8 = p :: ps →
    s.pbAccess e l x = .ok (run p 8) [] → s.access e l { sp := .s, n := 8, align := 8, need := 1 } x 0 = .ok (run p 8) [] →
    (0 < k → k ≤ 65535 → Uses (.pbinit h x y) s b c h {} (at_ { pending := k, expected := k, phase := 0, gen := w.gen + 1 })) ∧
    Uses (.pbinv h x) s b c h {} (at_ { w with pending := 0, expected := 0, gen := w.gen + 1 }) ∧
    (w.expected ≠ 0 → 0 < k → k ≤ w.pending → (rel = true → Clean s ∧ NoPins s ∧ s.relWaits b.ctx c [l.t.tid] sc = ([], [])) →
      Uses (.pbarr h rel sc d x y) s b c h (into (.v d) (fun _ => [BitVec.ofNat 32 (w.gen * 2 + w.phase)])) (at_ (w.arrive k))) ∧
    (∀ st, s.pbStatus (l.t.tid, p, k, none) = some st →
      Uses (.pbwait h acq sc d pd x y) s b c h
        { into (.v d) (fun _ => [BitVec.ofNat 32 st]) with preds := fun l => setPred l.t.preds pd.toNat (st == 0) } [])) ∧
  (∀ (v : PBar) (k : Nat), v.phase ≤ 1 → k ≤ v.pending →
    (k < v.pending → v.arrive k = { v with pending := v.pending - k }) ∧
    (k = v.pending → v.arrive k = { v with pending := v.expected, phase := 1 - v.phase }) ∧
    (v.pending < 2 ^ 32 → v.expected < 2 ^ 16 → v.gen < 2 ^ 15 → pbOf (pbWord v) = v))

/-- R192, R249: threads that begin a wait are suspended under its number, and a wake of that number makes them ready and ends the wait, nothing else of the context changing; TRYW whose lanes all see their word reached ends at once with Pd set. -/
def Obligations.Suspension : Prop :=
  (∀ (s : State) (k : Nat) (c : Ctx) (tids : List Nat) (kind : WaitKind) (till : Option Nat), sGet s.ctxs k = some c →
    let t := s.suspend k tids kind till
    t.nextWid = s.nextWid + 1 ∧ (∀ j, j ≠ k → sGet t.ctxs j = sGet s.ctxs j) ∧ t.mem = s.mem ∧ t.wr = s.wr ∧
    ∃ c', sGet t.ctxs k = some c' ∧ (∃ w, c'.waits = c.waits ++ [w] ∧ w.wid = s.nextWid ∧ w.tids = tids ∧ w.kind = kind ∧ w.deadline = till) ∧
      (∀ i x, c.thread i = some x → i ∈ tids → c'.thread i = some { x with st := .suspended s.nextWid, stamp := none }) ∧
      (∀ i x, c.thread i = some x → i ∉ tids → c'.thread i = some x) ∧
      ((∀ x ∈ c.threads, x.st ≠ .suspended s.nextWid) → (∀ w ∈ c.waits, w.wid ≠ s.nextWid) →
        (c'.wake s.nextWid).waits = c.waits ∧
        ∀ i x, c.thread i = some x → (c'.wake s.nextWid).thread i = some (if i ∈ tids then { x with st := .ready, stamp := none } else x))) ∧
  (∀ s b c, InIssue s b c → Alone c → c.run = none → ∀ (h : Head) (sp : Space) (wide acq : Bool) (sc : Scope) (pd : BitVec 5) (x y : Src) (ofs : BitVec 24) (places : Lane → List Nat),
    let e := siteOf b c h
    let n := if wide then 8 else 4
    let acc := fun l => s.access e l { sp := sp, n := n, align := n, need := 1, lock := false } x ofs.toInt
    (∀ l ∈ e.lanes, Passes s l.w.core (acc l) (places l)) → (∀ l ∈ e.lanes, s.trywMet c (l.t.tid, places l, readSrc l (if wide then 2 else 1) y)) →
    Uses (.tryw h sp wide acq sc pd x ofs y) s b c h { preds := fun l => setPred l.t.preds pd.toNat true } [])

/-- R85, R176, R183: CPY captures the places of its sources and destinations, makes the destination lines absent and D pending on the scoreboard of its threads, and lets them go on. -/
def Obligations.CopyStarts : Prop :=
  ∀ s b c, InIssue s b c → Alone c → NoStores c → c.run = none → ∀ (h : Head) (dsp ssp : Space) (sz : CSize) (sc : Scope) (d : BitVec 8) (x y : Src) (dofs sofs : BitVec 12)
      (src dst : Lane → List Nat),
    let e := siteOf b c h
    let n := cszBytes sz
    let from_ := fun l => s.access e l { sp := ssp, n := n, align := n, need := 1, lock := false } y sofs.toInt
    let to_ := fun l => s.access e l { sp := dsp, n := n, align := n, need := 2, write := true } x dofs.toInt
    e.lanes ≠ [] →
    (∀ l ∈ e.lanes, Passes s l.w.core (from_ l) (src l) ∧ (∃ q, to_ l = .ok (dst l) q) ∧ s.passBars l.w.core h.pol.toNat (dst l) = false ∧
      (src l).length = n ∧ Holds s l.w.core (src l)) →
    ∃ t c' o, exec (.cpy h dsp ssp sz sc d x y dofs sofs) s = .next t ∧ sGet t.ctxs b.ctx = some c' ∧ Calm s b.ctx t ∧
      c'.loads = c.loads ++ [o] ∧ o.ltag = s.nextTag ∧ o.cpy = e.lanes.map (fun l => (l.t.tid, src l, dst l)) ∧ o.dreg = d.toNat ∧ o.rel = some sc ∧
      o.moved = false ∧ o.tids = e.lanes.map (fun l => l.t.tid) ∧
      c'.absent = c.absent ++ ((linesOf (e.lanes.flatMap dst)).filter (fun l => !l.1)).map (fun l => (l.2, s.nextTag)) ∧
      ∀ i x, c.thread i = some x → ∃ y, c'.thread i = some y ∧ y.st = x.st ∧ y.vregs = x.vregs ∧ y.preds = x.preds ∧
        y.pend = x.pend ++ (if d ≠ 255 ∧ i ∈ o.tids then [{ use := .v d.toNat 1, due := none, tag := o.ltag }] else []) ∧
        y.pc = (if i ∈ b.tids then nextPc b.pc else x.pc)

/-- R85, R175, R183, R274, R390: the reply of an outstanding load writes its registers in its threads, extended as the size says, and a copy's end moves its bytes and, its release over, writes the status word, whose reads are acquires from then on; neither stays outstanding, and no other register changes. -/
def Obligations.RepliesLand : Prop :=
  ∀ (s : State) (k ltag : Nat) (c : Ctx) (o : OLoad) (data : List Byte), sGet s.ctxs k = some c →
    let rest := c.loads.filter (fun x => !(x.ltag == ltag && x.tids == o.tids))
    let landed := fun (x y : Thread) => y = { x with vregs := y.vregs, pend := y.pend, latched := y.latched, acqs := y.acqs }
    (c.loads.filter (fun x => x.ltag == ltag && x.cpy.isEmpty && !x.arrived && !x.refused && !x.pinned) = [o] →
      o.nreg ≠ 0 → o.pref = false → o.uni = false → (∀ e ∈ s.ctxs ++ s.saved, sGet e.2.posted ltag = none) →
      ∃ t c', exec (.memoryReply k ltag false data) s = .next t ∧ sGet t.ctxs k = some c' ∧ Calm s k t ∧
        c'.loads = rest ∧ c'.wheels = c.wheels ∧
        ∀ i x, c.thread i = some x → ∃ y, c'.thread i = some y ∧ landed x y ∧
          ∀ n, y.v n = if i ∈ o.tids then after x.v [(o.dreg, extendBytes o.nreg o.signed (o.bytes data))] n else x.v n) ∧
    (∀ (tid : Nat) (l : Lane) (src dst : List Nat) (sc : Scope), c.loads.find? (fun x => x.ltag == ltag && !x.cpy.isEmpty) = some o →
      o.cpy = [(tid, src, dst)] → o.tids = [tid] → o.uni = false → o.moved = false → o.rel = some sc → (∀ b ∈ o.known, b = none) →
      c.lanes [tid] = [l] → NoStores c → Clean s → NoPins s → c.run = none → s.relWaits k c [tid] sc = ([], []) →
      src.length = dst.length → dst.Nodup → (∀ p ∈ dst, pTag p = 2 ∨ pTag p = 3) →
      let u := filled s o.pol [l] (fun _ => src)
      Holds u l.w.core src →
      ∃ t c', exec (.cpyComplete k ltag) s = .next t ∧ sGet t.ctxs k = some c' ∧
        (∀ a, t.byte a = (sGet (dst.zip (bytesAt u l.w.core src)) a).getD (s.byte a)) ∧
        c'.loads = rest ∧ c'.absent = c.absent.filter (fun x => x.2 != ltag) ∧
        ∀ i x, c.thread i = some x → ∃ y, c'.thread i = some y ∧ landed x y ∧ (i = tid → (o.dreg, sc) ∈ y.acqs) ∧
          ∀ n, y.v n = if i = tid then after x.v [(o.dreg, [0x80000001])] n else x.v n)

/-- R266, R269, R270, R307: the oldest store of a wheel leaves its queue, with those of its line access, and their bytes enter the core order: shared and scratchpad bytes at their place, bytes behind the caches as dirty bytes of the core's L1 while it has room (log 97); an evicted line that no other core pins leaves the L1, and its dirty bytes whose home is this die are home. -/
def Obligations.StoresReachMemory : Prop :=
  (∀ (s : State) (k idx : Nat) (c : Ctx) (w : Wheel) (q : QStore) (rest : List QStore),
    sGet s.ctxs k = some c → c.wheel idx = some w → w.stores = q :: rest → c.run = none →
    let behind := rest.takeWhile (fun e => q.line.isSome && e.line == q.line)
    let bytes := (q :: behind).flatMap (fun e => e.bytes)
    (∀ e ∈ q :: behind, e.pol ≠ 3) → (bytes.map (fun x => x.1)).Nodup →
    (((s.core w.core).l1.map (fun e => lineOf e.1)).dedup).length + bytes.length ≤ l1Lines →
    ∃ t c' w', exec (.storeQueueDrain k idx) s = .next t ∧ sGet t.ctxs k = some c' ∧ c'.wheel idx = some w' ∧
      w' = { w with stores := rest.drop behind.length } ∧ c'.threads = c.threads ∧
      ((∀ x ∈ bytes, pTag x.1 = 2 ∨ pTag x.1 = 3) →
        (∀ a, t.byte a = (sGet bytes a).getD (s.byte a)) ∧ (t.core w.core).l1 = (s.core w.core).l1) ∧
      ((∀ x ∈ bytes, pTag x.1 ∈ [0, 1, 5, 6]) →
        (∀ a, t.byte a = s.byte a) ∧
        ∀ a, cacheGet (t.core w.core).l1 a = match sGet bytes a with | some v => some (v, true) | none => cacheGet (s.core w.core).l1 a)) ∧
  (∀ (s : State) (core line : Nat), s.pinned core line = false → (∀ e ∈ (s.core core).l1, lineOf e.1 = line → homeHere (dieOf core) e.1 = true) →
    ((s.core core).l1.map (fun e => e.1)).Nodup →
    ∃ t, exec (.cacheEviction (.l1 core) line) s = .next t ∧ t.ctxs = s.ctxs ∧
      (∀ p, lineOf p = line → cacheGet (t.core core).l1 p = none) ∧
      (∀ p, lineOf p ≠ line → cacheGet (t.core core).l1 p = cacheGet (s.core core).l1 p ∧ t.byte p = s.byte p) ∧
      ∀ p, lineOf p = line → t.byte p = match cacheGet (s.core core).l1 p with | some (v, true) => v | _ => s.byte p)

/-! ### Matrix instructions -/

/-- R147-R150, R153: CVSET declares the set on every core of the block that has no open generation; a matrix instruction and CVSIGN of lanes that no check of R148 refuses apply the signatures of their lanes in order, the signers of a matrix instruction blocked at it; one signature sets its bit, and the one that completes the set clears the register and queues one operation with the generation's signers in their order. -/
def Obligations.Convergence : Prop :=
  (∀ s b c, InIssue s b c → ∀ (h : Head) (m : MmArgs) (n : BitVec 4),
    let e := siteOf b c h
    let tids := e.lanes.map (fun l => l.t.tid)
    let blocked := (s.setCtx b.ctx ((c.advance b h.yld).modT (fun t => tids.contains t.tid) (fun t => { t with st := .blocked, pc := b.pc })))
    let signs := fun (i : Instr) => exec i s = .next ((blocked.sign b.ctx b.core m.c.toNat (e.lanes.map (signerOf e false m.set128))).seal s.mem)
    ((∀ l ∈ e.lanes, signBad c (c.conv b.core m.c.toNat) l.t.tid (some m.set128) = none) →
      signs (.mmbf h m) ∧ signs (.mmhf h m) ∧ signs (.mm8p h m) ∧ signs (.mmi8 h m) ∧ signs (.mmi4 h m) ∧ signs (.mmf6a h m) ∧
      signs (.mmf6b h m) ∧ signs (.mmf4 h m) ∧ signs (.mms8p h m) ∧ signs (.mmsf6a h m) ∧ signs (.mmsf6b h m) ∧ signs (.mmsf4 h m)) ∧
    ((∀ l ∈ e.lanes, signBad c (c.conv b.core n.toNat) l.t.tid none = none) →
      exec (.cvsign h n) s = .next (((s.setCtx b.ctx (c.advance b h.yld)).sign b.ctx b.core n.toNat (e.lanes.map (signerOf e true false))).seal s.mem))) ∧
  (∀ (s : State) (k core n : Nat) (c : Ctx) (g : Signer), sGet s.ctxs k = some c →
    let v := c.conv core n
    let bit : BitVec 128 := BitVec.ofNat 128 (2 ^ (g.tid % v.size))
    signBad c v g.tid (if g.void then none else some g.m128) = none → v.held = [] → g.void = false →
    (v.sgn = 0 ∨ v.group = some (g.tid / v.size) ∧ v.sgn &&& bit = 0) →
    (v.sgn ||| bit ≠ v.exp → s.sign k core n [g] =
      s.setCtx k (c.modConv (cvKey core n) (fun v => { v with sgn := v.sgn ||| bit, group := some (g.tid / v.size), signers := v.signers ++ [g] }))) ∧
    (v.sgn ||| bit = v.exp → (∀ x ∈ v.signers, x.void ∨ signedBits x.words = signedBits g.words) → s.sign k core n [g] =
      (s.setCtx k (c.modConv (cvKey core n) (fun v => { v with sgn := 0, group := none, signers := [], held := [] }))).modCore core
        (fun x => { x with mqueue := x.mqueue ++ [{ ctx := k, creg := n, group := g.tid / v.size, signers := v.signers ++ [g] }] }))) ∧
  (∀ s b c, InIssue s b c → ∀ (h : Head) (m128 : Bool) (n : BitVec 4), acting b c h ≠ [] →
    (∀ core ∈ c.cores, (c.conv core n.toNat).sgn = 0 ∧ (c.conv core n.toNat).held = []) →
    Uses (.cvset h m128 n) s b c h { ctx := fun c => c.cores.dedup.foldl (fun x core => x.modConv (cvKey core n.toNat) (fun v =>
      { v with exp := if m128 then BitVec.allOnes 128 else 0xFFFFFFFF, sgn := 0, group := none, signers := [], held := [] })) c } [])

/-- R159-R161, R164: the operation that the unit takes with B in registers leaves its queue, holds the unit for its occupancy and holds its results, one list of 32 registers for each member that signed it, until the eighth cycle after; its end writes them to D, and the members go on behind the instruction. The sign of a zero scaled sum and the reuse latch follow log 44 and 45. -/
def Obligations.MatrixOperation : Prop :=
  ∀ (s : State) (core : Nat),
    (∀ (o : MOp) (c : Ctx) (x : MmOp), s.mmNext core = some o → sGet s.ctxs o.ctx = some c → o.args = some x → x.m.breg = true → NoStores c → (∀ p ∈ s.poison, pTag p ≠ 4) →
      let size := if x.m.set128 then 128 else 32
      let occ := if x.m.set128 then 16 else 4
      let rows := if x.m.set128 then 64 else 32
      let rowsA := (List.range rows).map (o.regRow c size x.kind.k (fmtBits x.kind.fa) (fragA (s.latchFor core o x) x))
      let colsB := (List.range rows).map (o.regRow c size x.kind.k (fmtBits x.kind.fb)
        (fun l => readV l.t (cdiv (x.kind.k * fmtBits x.kind.fb / (if x.m.set128 then 2 else 1)) 32) x.m.b))
      ∃ t r, exec (.matrixOpStart core) s = .next t ∧ Calm s o.ctx t ∧ (t.core core).mfree = s.cycle + occ ∧
        (t.core core).mqueue = (s.core core).mqueue.erase o ∧ (t.core core).mdone = (s.core core).mdone ++ [r] ∧
        r.op = o ∧ r.due = s.cycle + occ - 1 + 8 ∧ r.d = x.m.d.toNat ∧
        r.outs = (List.range size).filterMap (fun i => (o.member c size i).map (fun l => (l.t.tid,
          (o.result c x size i ((rowsA[i % rows]?).getD []) (fun j => (colsB[j]?).getD []) (o.uni c size x 2) (o.uni c size x 3)).1)))) ∧
    (∀ (r : MDone) (c : Ctx), s.mmDone core = some r → sGet s.ctxs r.op.ctx = some c →
      ∃ t c', exec (.matrixOpComplete core) s = .next t ∧ Calm s r.op.ctx t ∧ (t.core core).mdone = (s.core core).mdone.erase r ∧
        sGet t.ctxs r.op.ctx = some c' ∧ c'.wheels = c.wheels ∧
        ∀ i x, c.thread i = some x → ∃ y, c'.thread i = some y ∧
          match r.outs.find? (fun o => o.1 == i) with
          | none => y = x
          | some o => (∀ n, y.v n = after x.v [(r.d, o.2)] n) ∧ y.preds = x.preds ∧ y.pc = nextPc x.pc ∧ (x.st = .blocked → y.st = .ready))

/-! ### Control flow -/

/-- R74, R75, R200, R201: in lanes whose target passes its checks, BRA and CALL go to the address that OFS gives in instructions from the next one, BRX, CALLX and RET to the capability in A, BRX and CALLX at a landing pad with the tag; the calls leave the next instruction's address in D; LAND does nothing. A target whose offset is no multiple of 12 fails with class 0x0E cause 1, one outside its object fails the bounds check, one within an executable object passes. -/
def Obligations.BranchResults : Prop :=
  (∀ s b c, InIssue s b c → ∀ (h : Head) (ofs : BitVec 24) (x : Src) (tag : BitVec 16) (d : BitVec 8) (pads : Lane → List Nat),
    let ls := acting b c h
    let step := (capOfs b.pc : Int) + 12 + 12 * ofs.toInt
    let near : Cap := mkCap (capObj b.pc) step.toNat
    let far := fun (l : Lane) => (BitVec.ofNat 64 (readSrc l 2 x) : Cap)
    let link : Effect := into (.v d) (fun _ => natWords 2 (nextPc b.pc).toNat)
    let pad := fun (l : Lane) => s.padTarget l.w.core c (capObj (far l)) (capOfs (far l))
    ((∀ l ∈ ls, s.target l.w.core (capObj b.pc) step = .ok [] []) →
      (h.repack = false → Does (.bra h ofs) s b c h { pc := fun _ => some near }) ∧
      Does (.call h d ofs) s b c h { link with pc := fun _ => some near }) ∧
    ((∀ l ∈ ls, s.target l.w.core (capObj (far l)) (capOfs (far l)) = .ok [] []) → Does (.ret h x) s b c h { pc := fun l => some (far l) }) ∧
    (NoStores c → Alone c → c.run = none → (∀ l ∈ ls, ∃ pages, pad l = .ok (pads l) pages) →
      (∀ l ∈ ls, Holds s l.w.core (pads l) ∧ s.padBad (siteOf b c h) l (pads l) tag = none) →
      (h.repack = false → Uses (.brx h x tag) s b c h { pc := fun l => some (far l) } []) ∧
      Uses (.callx h d x tag) s b c h { link with pc := fun l => some (far l) } []) ∧
    Does (.land h tag) s b c h {}) ∧
  (∀ (s : State) (core obj : Nat) (ofs : Int) (d : CDesc), 0 < obj → obj < 0xFFFFF → (s.core core).desc obj = some d → d.valid = true → d.rights &&& 4 = 4 →
    let addr := mkCap obj (ofs % (2 ^ 44 : Int)).toNat
    (ofs % 12 ≠ 0 → s.target core obj ofs = .bad 0x0E 1 addr 0) ∧
    (ofs % 12 = 0 → (ofs < 0 ∨ (d.extent : Int) < ofs + 12) → s.target core obj ofs = .bad 3 5 addr 12) ∧
    (ofs % 12 = 0 → 0 ≤ ofs → ofs + 12 ≤ d.extent → ofs < 2 ^ 44 → s.target core obj ofs = .ok [] []))

/-- R205: RCV of every live thread of its wheel converges at once: the threads go on in their home wheel with Pd set; while a live thread of the wheel is elsewhere, the threads wait, at most for the bound, and Pd reads 0 when it ends. -/
def Obligations.Reconvergence : Prop :=
  (∀ s b c, InIssue s b c → NoStores c → NoPins s → Alone c → c.waits = [] → (∀ x ∈ c.threads, x.st ≠ .suspended s.nextWid) →
    ∀ (h : Head) (pd : Option (BitVec 5)) (bound : BitVec 16) (l : Lane), wheelsOf (acting b c h) = [l] →
    let all := ∀ i x, c.thread i = some x → x.live = true → x.wheel = l.w.idx → ∃ y ∈ acting b c h, y.t.tid = i
    let till := s.cycle + (if bound = 0 then (s.die (dieOf b.core)).rcvwait else bound.toNat)
    ∃ t, exec (.rcv h pd bound) s = .next t ∧ t.nextWid = s.nextWid + 1 ∧
      (all → Turned s b c h
        { preds := fun l => match pd with | none => l.t.preds | some p => setPred l.t.preds p.toNat true
          thread := fun _ x => { x with st := .ready, reformed := none } } t) ∧
      (¬all → Turned s b c h
        { thread := fun _ x => { x with st := .suspended s.nextWid, reformed := none }
          ctx := fun c => { c with waits := [{ wid := s.nextWid, tids := (acting b c h).map (fun l => l.t.tid)
                                               kind := .rcv l.w.idx b.pc (pd.map (fun p => p.toNat)), deadline := some till, span := till - s.cycle }] } } t)) ∧
  ∀ (s : State) (k : Nat) (c : Ctx) (w : Wait) (wheel till : Nat) (pc : Cap) (pd : Option Nat),
    sGet s.ctxs k = some c → NoStores c → NoPins s → Alone c → c.waitOf w.wid = some w → w.kind = .rcv wheel pc pd → w.deadline = some till → till < s.cycle →
    ∃ t c', exec (.rcvDeadlineExpiry k w.wid) s = .next t ∧ sGet t.ctxs k = some c' ∧ Quiet s k t ∧
      c'.waits = c.waits.filter (fun x => x.wid != w.wid) ∧ c'.wheels = c.wheels ∧
      ∀ i x, c.thread i = some x → c'.thread i = some (if x.st = .suspended w.wid then
        { x with st := .ready, stamp := none, preds := match pd with | none => x.preds | some p => setPred x.preds p false } else x)

/-- R206: EXIT ends its threads; a wheel whose last thread has ended gives its window back and holds no register any more; a block whose threads have all ended leaves the device at BLOCK_END; the last one of a launch, everything acknowledged, ends the launch: its count is decremented and its command is done (R318, R320). -/
def Obligations.ThreadsEnd : Prop :=
  (∀ s b c, InIssue s b c → c.waits = [] → c.regrouped = [] → (∀ core n, (c.conv core n).sgn = 0) → ∀ (h : Head),
    let ends := fun (x : Thread) => (acting b c h).any (fun l => l.t.tid == x.tid)
    let last := fun (k : Nat) => (∃ l ∈ acting b c h, l.w.idx = k) ∧ ∀ x ∈ c.threads, x.wheel = k → x.live = true → ends x = true
    ∃ t c', exec (.exit h) s = .next t ∧ sGet t.ctxs b.ctx = some c' ∧ Quiet s b.ctx t ∧ t.cores = s.cores ∧
      (∀ i x, c.thread i = some x → ∃ y, c'.thread i = some y ∧
        (ends x = true → y.st = .ended ∧ y.reformed = none) ∧ (ends x = false → y.st = x.st ∧ y.reformed = x.reformed) ∧
        (last x.wheel → y.vregs = [] ∧ y.preds = 0) ∧ (¬last x.wheel → y.vregs = x.vregs ∧ y.preds = x.preds) ∧
        y.pc = (if i ∈ b.tids then nextPc b.pc else x.pc)) ∧
      ∀ k w, c.wheel k = some w → (last k → c'.wheel k = some { w with window := 0, sregs := [], fstat := 0 }) ∧ (¬last k → c'.wheel k = some w)) ∧
  ∀ (s : State) (k slot : Nat) (c : Ctx), sGet s.ctxs k = some c → s.mayEnd k c = true → NoStores c → NoPins s →
    (c.spec = none → c.trec = none → c.held = [] → (∀ l ∈ s.launches, l.no = c.launch → 1 < l.units) →
      ∃ t, exec (.blockEnd k) s = .next t ∧ sGet t.ctxs k = none ∧ (∀ a, a < 2 ^ 32 → t.byte (sharedP k a) = 0) ∧
        t.launches = s.launches.map (fun l => if l.no = c.launch then { l with units := l.units - 1, ended := l.ended ++ [c.block] } else l)) ∧
    (∀ l, c.spec = none → c.trec = none → c.held = [] → c.posted = [] → Clean s → (∀ d ∈ s.dies, d.2.evAcks = []) →
      s.launches.find? (fun l => l.no == c.launch) = some l → l.units = 1 → l.cancelled = false →
      s.owesGrid (fun g => g.launch == c.launch && g.graph.isNone) = false →
      ∃ t i, exec (.blockEnd k) s = .next t ∧ sGet t.ctxs k = none ∧ t.launches = s.launches.filter (fun x => x.no != c.launch) ∧
        (t.die 0).reg.issued.getLast? = some i ∧ i.upd = { loc := l.cmd.loc, time := l.cmd.ltime, delta := -1 } ∧ i.owner = some (.launch c.launch) ∧
        ∀ p, (s.queue l.queue).pend.find? (fun p => p.seq == l.seq && !p.done) = some p → p.fin = none → p.crec = none →
          ∀ x ∈ (t.queue l.queue).pend, x.seq = l.seq → x.done = true) ∧
    (c.spec = some slot → ∃ t, exec (.blockEnd k) s = .next t ∧ sGet t.ctxs k = none ∧ (t.slot slot).ended = (s.slot slot).ended + 1)

/-- R207: YIELD marks its threads as having yielded; with a count it suspends them until that many cycles have passed, and then they are ready. -/
def Obligations.Yielding : Prop :=
  (∀ s b c, InIssue s b c → ∀ (h : Head) (count : BitVec 16), acting b c h ≠ [] →
    ∃ t c', exec (.yield h count) s = .next t ∧ sGet t.ctxs b.ctx = some c' ∧
      (∀ l ∈ acting b c h, ∃ y, c'.thread l.t.tid = some y ∧ y.yielded = true) ∧
      (count = 0 → Turned s b c h {} t ∧ t.nextWid = s.nextWid) ∧
      (count ≠ 0 → t.nextWid = s.nextWid + 1 ∧ Turned s b c h
        { thread := fun _ x => { x with st := .suspended s.nextWid }
          ctx := fun c => { c with waits := c.waits ++ [{ wid := s.nextWid, tids := (acting b c h).map (fun l => l.t.tid), kind := .yield, deadline := some (s.cycle + count.toNat), span := count.toNat }] } } t)) ∧
  ∀ (s : State) (k till : Nat) (c : Ctx) (w : Wait), sGet s.ctxs k = some c → c.waitOf w.wid = some w →
    (w.kind = .yield ∨ w.kind = .pause) → w.deadline = some till → till < s.cycle → exec (.yieldExpiry k w.wid) s = .next ((s.setCtx k (c.wake w.wid)).seal s.mem)

/-- R203, R204: a .repack branch, BRA or BRX at a landing pad with its tag, joins the gather of its address, which lasts at most 64 cycles more; when it closes, each thread whose target passed stands at it in a re-formed wheel and goes on a cycle later, and threads of one home lane take different re-formed wheels. When targets are checked follows log 50. -/
def Obligations.RepackGathers : Prop :=
  (∀ s b c, InIssue s b c → c.waits = [] → ∀ (h : Head) (ofs : BitVec 24) (x : Src) (tag : BitVec 16) (pads : Lane → List Nat),
    h.repack = true → (∀ i ∈ b.tids, (c.lanes [i]).length = 1) →
    let ls := acting b c h
    let step := (capOfs b.pc : Int) + 12 + 12 * ofs.toInt
    let far := fun (l : Lane) => (BitVec.ofNat 64 (readSrc l 2 x) : Cap)
    let off := b.tids.filter (fun i => !ls.any (fun l => l.t.tid == i))
    (∃ i x w, c.thread i = some x ∧ i ∉ b.tids ∧ x.live = true ∧ x.st ≠ .suspended s.nextWid ∧
      c.wheel x.wheel = some w ∧ w.core = b.core ∧ w.quarter = b.quarter) →
    let gathers := fun (i : Instr) (aim : Lane → Cap) => ∃ t, exec i s = .next t ∧ t.nextWid = s.nextWid + 1 ∧ Turned s b c { h with guard := .always }
      { thread := fun _ x => { x with st := .suspended s.nextWid }
        ctx := fun c => { c with waits := [{ wid := s.nextWid, tids := b.tids, deadline := some (s.cycle + 64), span := 64
                                             kind := .gather b.core b.quarter b.pc b.words
                                               (ls.map (fun l => { tid := l.t.tid, pc := aim l }) ++
                                                off.map (fun i => { tid := i, pc := nextPc b.pc })) }] } } t
    ((∀ l ∈ ls, s.target l.w.core (capObj b.pc) step = .ok [] []) → gathers (.bra h ofs) (fun _ => mkCap (capObj b.pc) step.toNat)) ∧
    (Alone c → (∀ l ∈ ls, (∃ pages, s.padTarget l.w.core c (capObj (far l)) (capOfs (far l)) = .ok (pads l) pages) ∧
        Holds s l.w.core (pads l) ∧ s.padBad (siteOf b c h) l (pads l) tag = none) →
      gathers (.brx h x tag) far)) ∧
  (∀ (s : State) (k core q till : Nat) (c : Ctx) (w : Wait) (pc : Cap) (words : Word × Word × Word) (targets : List Target),
    sGet s.ctxs k = some c → c.waitOf w.wid = some w → w.kind = .gather core q pc words targets → w.deadline = some till → till < s.cycle →
    (∀ g ∈ targets, g.bad = none ∧ (c.lanes [g.tid]).length = 1) → (targets.map (fun g => g.tid)).Nodup →
    ∃ t c' wid, exec (.repackGatherTimeout k w.wid) s = .next t ∧ sGet t.ctxs k = some c' ∧ Quiet s k t ∧ s.nextWid ≤ wid ∧
      (∃ p, c'.waits = c.waits.filter (fun x => x.wid != w.wid) ++ [p] ∧ p.wid = wid ∧ p.kind = .pause ∧ p.deadline = some s.cycle) ∧
      ∀ i x, c.thread i = some x → ∃ y, c'.thread i = some y ∧ y.vregs = x.vregs ∧ y.preds = x.preds ∧
        (∀ g ∈ targets, g.tid = i → x.st = .suspended w.wid → y.pc = g.pc ∧ y.st = .suspended wid ∧ y.reformed.isSome) ∧
        ((∀ g ∈ targets, g.tid ≠ i) ∨ x.st ≠ .suspended w.wid → y = x)) ∧
  ∀ (ls : List Lane), (ls.map (fun l => l.t.tid)).Nodup → ∀ l ∈ ls, ∀ m ∈ ls, l.t.lane = m.t.lane → l.w.idx < m.w.idx →
    ∃ n k, sGet (reformSlots ls) l.t.tid = some n ∧ sGet (reformSlots ls) m.t.tid = some k ∧ n < k

/-- R208, R209: RFGIVE takes the highest registers from its wheel, whose threads lose their contents; RFCLAIM adds registers when the pool holds them and no claim waits before it, says so in Pd or, without Pd, waits; a waiting claim at the head is granted when the pool holds its units. Which threads wait follows log 52. -/
def Obligations.RegisterPool : Prop :=
  (∀ s b c, InIssue s b c → ∀ (h : Head) (count : BitVec 9) (pd : BitVec 5) (l : Lane) (rest : List Lane),
    acting b c h = l :: rest → (∀ x ∈ acting b c h, x.t.reformed = none ∧ x.w.idx = l.w.idx) →
    let n := count.toNat
    let ok := decide (n / 8 ≤ s.freeUnits l.w.core l.w.quarter) && (s.claims l.w.core l.w.quarter).isEmpty
    (n + 8 ≤ l.w.window → (∀ x ∈ c.threads, x.wheel = l.w.idx → x.pend = [] ∧ x.st ≠ .blocked ∧ ∀ v ∈ c.waits, x.st ≠ .suspended v.wid) →
      ∃ t c', exec (.rfgive h count) s = .next t ∧ sGet t.ctxs b.ctx = some c' ∧ Quiet s b.ctx t ∧
        (∀ k w, c.wheel k = some w → c'.wheel k = some (if k = l.w.idx then { w with window := w.window - n } else w)) ∧
        ∀ i x, c.thread i = some x → ∃ y, c'.thread i = some y ∧ y.preds = x.preds ∧ y.st = x.st ∧
          y.pc = (if i ∈ b.tids then nextPc b.pc else x.pc) ∧
          ∀ k, y.v k = if x.wheel = l.w.idx ∧ l.w.window - n ≤ k then 0 else x.v k) ∧
    (l.w.window + n ≤ 256 →
      (∃ t c', exec (.rfclaim h (some pd) count) s = .next t ∧ sGet t.ctxs b.ctx = some c' ∧ Quiet s b.ctx t ∧
        (∀ k w, c.wheel k = some w → c'.wheel k = some (if k = l.w.idx ∧ ok = true then { w with window := w.window + n } else w)) ∧
        ∀ i x, c.thread i = some x → ∃ y, c'.thread i = some y ∧ y.vregs = x.vregs ∧ y.st = x.st ∧
          y.preds = if ∃ m ∈ acting b c h, m.t.tid = i then setPred x.preds pd.toNat ok else x.preds) ∧
      ∃ t c', exec (.rfclaim h none count) s = .next t ∧ sGet t.ctxs b.ctx = some c' ∧ Quiet s b.ctx t ∧
        (∀ k w, c.wheel k = some w → c'.wheel k = some (if k = l.w.idx ∧ ok = true then { w with window := w.window + n } else w)) ∧
        (ok = true → c'.waits = c.waits ∧ Moved b c c') ∧
        (ok = false → ∃ p, c'.waits = c.waits ++ [p] ∧ p.kind = .claim l.w.core l.w.quarter l.w.idx n ∧
          ∀ m ∈ acting b c h, ∃ y, c'.thread m.t.tid = some y ∧ y.st = .suspended p.wid))) ∧
  ∀ (s : State) (core q k wid wheel n : Nat) (rest : List (Nat × Nat × Nat × Nat)), s.claims core q = (k, wid, wheel, n) :: rest → n / 8 ≤ s.freeUnits core q →
    exec (.claimGrant core q) s =
      .next ((s.modCtx k (fun c => (c.modW wheel (fun w => { w with window := w.window + n })).wake wid)).seal s.mem)

/-- R210, R211: when the beat holds every live thread of its core and the core holds one wheel of the block, REGROUP gives each thread the lane of its place in the order of the keys, keeps N registers from BASE and its predicates, clears its other registers, and holds the threads for the cycles of the move; UNGROUP puts them back. When mismatches are checked follows log 51. -/
def Obligations.Regrouping : Prop :=
  ∀ s b c, InIssue s b c → NoStores c → NoPins s → Alone c → c.waits = [] → ∀ (h : Head) (a base n1 : BitVec 8) (w : Wheel),
    (c.threads.map (fun x => x.tid)).Nodup → c.wheels.filter (fun x => x.core == b.core) = [w] → w.gone = false → w.retire = [] → w.pend = [] → b.tids.length ≤ 32 → b.tids ≠ [] →
    (∀ x ∈ c.threads, x.live = true → x.wheel = w.idx → x.tid ∈ b.tids) →
    (∀ i ∈ b.tids, ∃ x, c.thread i = some x ∧ x.wheel = w.idx ∧ x.reformed = none ∧ x.pend = []) → c.wheel w.idx = some w →
    let on := fun (l : Lane) => (acting b c h).any (fun x => x.t.tid == l.t.tid)
    let part := fun (un : Bool) (l : Lane) =>
      ({ tid := l.t.tid, key := if on l then (if un then 0 else readV l.t 1 a) else 0xFFFFFFFF, pc := b.pc, un := un
         base := base.toNat, n := n1.toNat + 1, words := b.words } : RPart)
    let slots := regroupSlots 1 0 0 none (regroupOrder ((c.lanes b.tids).map (part false)))
    let moved := fun (i : Nat) (t : State) (c' : Ctx) (wheel lane : Nat) => ∀ x, c.thread i = some x →
      ∃ y, c'.thread i = some y ∧ y.wheel = wheel ∧ y.lane = lane ∧ y.preds = x.preds ∧ y.pc = nextPc b.pc ∧
        (∃ p, c'.waits = [p] ∧ y.st = .suspended p.wid ∧ p.kind = .pause ∧ p.deadline = some (s.cycle + cdiv (b.tids.length * (n1.toNat + 1)) 32) ∧ p.wid < t.nextWid) ∧
        ∀ k, y.v k = if base.toNat ≤ k ∧ k < base.toNat + (n1.toNat + 1) then x.v k else 0
    (sGet c.regrouped b.core = none →
      ∃ t c' o, exec (.regroup h a base n1) s = .next t ∧ sGet t.ctxs b.ctx = some c' ∧ Quiet s b.ctx t ∧ sGet c'.regrouped b.core = some o ∧
        o.base = base.toNat ∧ o.n = n1.toNat + 1 ∧
        ∀ i ∈ b.tids, ∃ lane, (i, 0, lane) ∈ slots ∧ moved i t c' w.idx lane ∧ ∀ x, c.thread i = some x → sGet o.old i = some (x.wheel, x.lane)) ∧
    (∀ o, sGet c.regrouped b.core = some o → o.base = base.toNat → o.n = n1.toNat + 1 →
      ∃ t c', exec (.ungroup h base n1) s = .next t ∧ sGet t.ctxs b.ctx = some c' ∧ Quiet s b.ctx t ∧ sGet c'.regrouped b.core = none ∧
        ∀ i ∈ b.tids, ∀ slot, sGet o.old i = some slot → moved i t c' slot.1 slot.2)

/-! ### Exceptions, privilege and the return from a fault -/

/-- R89, R172, R219, R224, R249, R393: TRAP takes class 0x16 and BKPT, while enabled, class 0x17, each in its acting threads with the code in INFO; ILL and a reserved opcode take class 1 in every thread of the beat; the threads park at the instruction and one record of their wheel joins the queue of their die. BKPT does nothing while disabled. Records of a home wheel follow log 22. -/
def Obligations.TrapResults : Prop :=
  ∀ s b c, InIssue s b c → c.spec = none → c.handler = false → ∀ (h : Head) (code : BitVec 16) (w0 w1 w2 : Word) (l m : Lane),
    (wheelsOf (acting b c h) = [l] →
      Faults (.trap h code) s b c h (recordOf b c l (acting b c h) 0x16 (code.setWidth 64)) ∧
      ((s.die (dieOf b.core)).bkpten = true → Faults (.bkpt h code) s b c h (recordOf b c l (acting b c h) 0x17 (code.setWidth 64)))) ∧
    ((s.die (dieOf b.core)).bkpten = false → Does (.bkpt h code) s b c h {}) ∧
    (wheelsOf (c.lanes b.tids) = [m] → (∀ i ∈ b.tids, (c.lanes [i]).length = 1) →
      Faults (.ill w0 w1 w2) s b c {} (recordOf b c m (c.lanes b.tids) 1 0) ∧
      Faults (.reservedOpcode w0 w1 w2) s b c {} (recordOf b c m (c.lanes b.tids) 1 0))

/-- R222, R223: SYSR reads a system register in any context; SYSW writes one in the handler context, and elsewhere SYSW and ERET take the privilege fault. -/
def Obligations.SystemRegisters : Prop :=
  ∀ s b c, InIssue s b c → ∀ (h : Head) (num : BitVec 12) (a ra rb rc d : BitVec 8) (dst : Dst) (act_ : EretAct) (lv : Level) (l : Lane),
    Does (.sysr h dst num) s b c h (into dst (fun l => [BitVec.ofNat 32 (s.sysReg (siteOf b c h) l num.toNat)])) ∧
    (wheelsOf (acting b c h) = [l] → c.spec = none →
      let v := readS l.w 1 a
      let die := dieOf l.w.core
      (c.handler = true → ∃ t c', exec (.sysw h num a) s = .next t ∧ sGet t.ctxs b.ctx = some c' ∧ Moved b c c' ∧ c'.wheels = c.wheels ∧
        (∀ k, k ≠ b.ctx → sGet t.ctxs k = sGet s.ctxs k) ∧ (∀ p, t.byte p = s.byte p) ∧
        (∀ k, t.die k = if k ≠ die then s.die k
          else if num = 0 then { s.die k with waitiv := max 64 (v % 2 ^ 20) }
          else if num = 1 then { s.die k with rcvwait := max 16 (v % 2 ^ 16) }
          else if num = 4 then { s.die k with bkpten := v % 2 == 1 } else s.die k) ∧
        (∀ k, t.core k = if k = l.w.core ∧ num = 2 then { s.core k with stalearr := BitVec.ofNat 32 v } else s.core k)) ∧
      (c.handler = false →
        Faults (.sysw h num a) s b c h (recordOf b c l (acting b c h) 0x15 0) ∧
        Faults (.eret h act_ lv d ra rb rc) s b c h (recordOf b c l (acting b c h) 0x15 0)))

/-- R221, R395: ERET of a record that is not open answers 1; of an open record that parks threads of another context, replay makes them ready at their instruction, skip behind it, its destination written from B, and exit at the code address in C, which answers 2 if it fails its check; cancel ends the unit that the record names at its level, and answers 3 if it names none; a chain record's chain goes on at replay and skip, and exit answers 3. With 0 the record closes. -/
def Obligations.ReturnsFromFault : Prop :=
  ∀ s b c, InIssue s b c → c.spec = none → c.handler = true → ∀ (h : Head) (lv : Level) (d ra rb rc : BitVec 8) (l : Lane),
    wheelsOf (acting b c h) = [l] →
    let die := dieOf l.w.core
    let rseq := s.unitGet die (capAdd (BitVec.ofNat 64 (readS l.w 2 ra)) 20) 4
    let open_ := rseq.bind (fun n => (s.die die).openRecs.find? (fun x => x.1 == n))
    (open_ = none → ∀ a, Does (.eret h a lv d ra rb rc) s b c h (into (.s d) (fun _ => [1]))) ∧
    (∀ (n : Nat) (r : FaultRec) (c2 : Ctx), open_ = some (n, r) → r.chain = false → r.ctx ≠ b.ctx → sGet s.ctxs r.ctx = some c2 →
      let back := fun (a : EretAct) (f : Thread → Thread) =>
        ∃ t c' c3, exec (.eret h a lv d ra rb rc) s = .next t ∧ sGet t.ctxs b.ctx = some c' ∧ CtxRan s.cycle b c h (into (.s d) (fun _ => [0])) c' ∧
          sGet t.ctxs r.ctx = some c3 ∧ c3.threads = c2.threads.map (fun x => if x.tid ∈ r.tids ∧ x.st = .parked then f x else x) ∧
          (∀ k, k ≠ b.ctx → k ≠ r.ctx → sGet t.ctxs k = sGet s.ctxs k) ∧ (∀ p, t.byte p = s.byte p) ∧
          t = { s with ctxs := t.ctxs, mem := t.mem, wr := []
                       dies := sPut s.dies die { s.die die with openRecs := (s.die die).openRecs.filter (fun y => y.1 != n) } }
      let ready := fun (pc : Thread → Cap) (x : Thread) => { x with st := .ready, pc := pc x, stamp := none }
      back .replay (ready (fun x => x.pc)) ∧
      (∀ (o : Op) (g : XRange), Op.ofCode (r.words.1.toNat % 256) = some o →
        let w := Raw.ofWords r.words.1 r.words.2.1 r.words.2.2
        o ≠ .qblk → o ≠ .vtop → dstRange (form o w) w = some g → g.vec = true → (form o w).d ≠ .pred → (form o w).xpd = none →
        (∀ x ∈ c2.threads, x.tid ∈ r.tids → x.st = .parked → ∃ v, c2.wheel x.wheel = some v ∧ g.base.toNat + g.n ≤ v.window) →
        back .skip (fun x => ready (fun x => nextPc x.pc) (x.put g.base.toNat (skipWords (natWords 4 (readS l.w 4 rb)) g.n) []))) ∧
      (s.exitOk die (BitVec.ofNat 64 (readS l.w 2 rc)) = true → back .exit (ready (fun _ => BitVec.ofNat 64 (readS l.w 2 rc))))) ∧
    ∀ (n : Nat) (r : FaultRec), open_ = some (n, r) →
      let u := s.setCtx b.ctx (c.advance b h.yld)
      let does := fun (a : EretAct) => Instr.eret h a lv d ra rb rc
      let answers := fun (a : EretAct) (k : Word) => Does (does a) s b c h (into (.s d) (fun _ => [k]))
      let closes := fun (v : State) => (v.modDie die (fun x => { x with openRecs := x.openRecs.filter (fun y => y.1 != n) })).modCtx b.ctx (fun k =>
        k.modW l.w.idx (fun w => w.put d.toNat [0] (mkPend s (.s d.toNat 1) 0)))
      (r.chain = false → s.exitOk die (BitVec.ofNat 64 (readS l.w 2 rc)) = false → answers .exit 2) ∧
      (∀ x, u.recCancel r lv = some x → Becomes (does .cancel) s (closes (u.cancelAll die lv x))) ∧
      (u.recCancel r lv = none → answers .cancel 3) ∧
      (r.chain = true →
        answers .exit 3 ∧ Becomes (does .replay) s (closes (u.freeRec r true)) ∧ Becomes (does .skip) s (closes (u.freeRec r false)) ∧
        ∀ ch, u.recQueue r = none → u.chains.find? (fun x => x.ccb == r.addr && !x.fill) = some ch → ch.faulted = true →
          ∀ a ∈ [EretAct.replay, .skip], Reaches (does a) s (fun t => ∀ x ∈ t.chains, x.ccb = ch.ccb → x.fill = false → x.faulted = false))

/-- R393-R395: the 64 bytes of a record hold its fields at the offsets of R393, and the oldest record of a die goes to its handler's queue when that has room: its bytes stand at record TAIL mod SIZE of the queue, then TAIL has advanced, every other byte is as before; the die's RSEQ counts it, and it stays open if it parks threads. -/
def Obligations.FaultRecords : Prop :=
  (∀ (s : State) (r : FaultRec) (n : Nat),
    let e := s.recBytes r n
    e.length = 64 ∧ fld e 0 1 = r.cls % 256 ∧ fld e 1 1 = r.cause % 256 ∧ fld e 2 2 = s.recFlags r % 2 ^ 16 ∧ fld e 4 4 = r.lanes.toNat ∧
      fld e 8 4 = r.launch % 2 ^ 32 ∧ fld e 12 4 = r.block % 2 ^ 32 ∧ fld e 16 2 = r.wheel % 2 ^ 16 ∧ fld e 18 1 = r.core % 256 ∧
      fld e 19 1 = r.die % 4 + 4 * (r.quarter % 4) ∧ fld e 20 4 = n % 2 ^ 32 ∧ fld e 24 8 = r.pc.toNat ∧ fld e 32 4 = r.words.1.toNat ∧
      fld e 36 4 = r.words.2.1.toNat ∧ fld e 40 4 = r.words.2.2.toNat ∧ fld e 44 4 = 0 ∧ fld e 48 8 = r.addr.toNat ∧ fld e 56 8 = r.info.toNat) ∧
  ∀ (s : State) (die : Nat) (r : FaultRec) (rest : List FaultRec) (room : Cap × Nat × Nat),
    (s.die die).recs = r :: rest → s.recRoom die = some room → NoPins s →
    ∃ t, exec (.faultRecordWrite die) s = .next t ∧ t.ctxs = s.ctxs ∧ (t.die die).recs = rest ∧ (t.die die).rseq = (s.die die).rseq + 1 ∧
      (t.die die).openRecs = (s.die die).openRecs ++ (if r.opn then [((s.die die).rseq + 1, r)] else []) ∧
      let to_ := capAdd room.1 (64 + 64 * (room.2.1 % room.2.2))
      let bytes := s.recBytes r ((s.die die).rseq + 1)
      ∀ ps ts, s.unitRange die to_ 64 2 true false = .ok ps → (s.unitWrite die to_ bytes).unitRange die (capAdd room.1 8) 8 2 true false = .ok ts →
        (∀ p ∈ ps ++ ts, isRemote p = false ∧ pTag p ≠ 7) → ps.Nodup → ts.Nodup →
        ∀ a, t.byte a = (sGet (ts.zip (natBytes 8 (room.2.1 + 1)) ++ ps.zip bytes) a).getD (s.byte a)

/-! ### Flags, waits and residency -/

/-- R34, R117, R85: a read of %fstat joins its wheel's retirements behind earlier instructions; flags that retire are ORed into %fstat, a read takes the value before the flags of its cycle and with CLR leaves only those; results whose cycle has passed leave the scoreboard. -/
def Obligations.FlagsRetire : Prop :=
  (∀ s b c, InIssue s b c → ∀ (h : Head) (clr : Bool) (d : Dst),
    ∃ t c', exec (.movs h clr d 16) s = .next t ∧ sGet t.ctxs b.ctx = some c' ∧ Quiet s b.ctx t ∧
      (∀ i x, c.thread i = some x → ∃ y, c'.thread i = some y ∧ (∀ n, y.v n = x.v n) ∧ y.preds = x.preds ∧ y.pc = if i ∈ b.tids then nextPc b.pc else x.pc) ∧
      ∀ k w, c.wheel k = some w → ∃ v, c'.wheel k = some v ∧ v.fstat = w.fstat ∧ (∀ n, v.s n = w.s n) ∧
        let mine := (acting b c h).filter (fun l => l.w.idx == k)
        v.retire = w.retire ++ (if mine = [] then [] else
          [{ due := s.cycle + 3, read := some { clr := clr, uni := (dstNum d).2, d := (dstNum d).1, tids := mine.map (fun l => l.t.tid) } }])) ∧
  ∀ (s : State) (k : Nat) (c : Ctx), sGet s.ctxs k = some c → c.waits = [] → (c.wheels.map (fun w => w.idx)).Nodup →
    ∃ t c', exec (.resultWriteback k) s = .next t ∧ sGet t.ctxs k = some c' ∧ Quiet s k t ∧
      (∀ i x, c.thread i = some x → ∃ y, c'.thread i = some y ∧ y.preds = x.preds ∧ y.pc = x.pc ∧ y.st = x.st ∧
        y.pend = x.pend.filter (fun p => match p.due with | some d => decide (s.cycle ≤ d) | none => true)) ∧
      ∀ j w e, c.wheel j = some w → e < s.cycle → ∃ v, c'.wheel j = some v ∧
        ((∀ r ∈ w.retire, r.due = e ∧ r.read = none) → v.fstat = w.retire.foldl (fun a r => a ||| r.flags) w.fstat ∧ v.retire = []) ∧
        (∀ r fl, w.retire = [{ due := e, read := some r }, { due := e, flags := fl }] → r.uni = true →
          v.fstat = (if r.clr then 0 else w.fstat) ||| fl ∧ ∀ n, v.s n = after w.s [(r.d, [w.fstat])] n)

/-- R192, R197, R237, R240, R249: a wait whose condition is met, or whose interval is over, ends with the results of this cycle: TRYW, GWAIT and FWAIT set Pd, PBWAIT and FWAIT write a status into D; its threads are ready. -/
def Obligations.WaitsEnd : Prop :=
  ∀ (s : State) (k : Nat) (c : Ctx) (w : Wait), sGet s.ctxs k = some c → c.waitOf w.wid = some w →
    let late := ∃ d, w.deadline = some d ∧ d < s.cycle
    let ends := fun (i : Instr) (d pd : Nat) (res : Nat → Option (List Word × Bool)) =>
      ∃ t c', exec i s = .next t ∧ sGet t.ctxs k = some c' ∧ (∀ j, j ≠ k → sGet t.ctxs j = sGet s.ctxs j) ∧ (∀ p, t.byte p = s.byte p) ∧
        t = { s with ctxs := t.ctxs, cores := t.cores, dies := t.dies, late := t.late, mem := t.mem, wr := [] } ∧
        c'.waits = c.waits.filter (fun x => x.wid != w.wid) ∧ c'.wheels = c.wheels ∧
        ∀ i x, c.thread i = some x → ∃ y, c'.thread i = some y ∧
          y = { x with st := if x.st = .suspended w.wid then .ready else x.st, stamp := y.stamp, vregs := y.vregs, preds := y.preds } ∧
          (∀ n, y.v n = match res i with | some r => after x.v [(d, r.1)] n | none => x.v n) ∧
          y.preds = match res i with | some r => setPred x.preds pd r.2 | none => x.preds
    let expiry := Instr.waitIntervalExpiry k w.wid
    (∀ pd acq lanes, w.kind = .tryw pd acq lanes →
      let res := fun (i : Nat) => (lanes.find? (fun x => x.1 == i)).map (fun x => (([] : List Word), s.trywMet c x))
      (lanes.all (s.trywMet c) = true → ends (.trywConditionMet k w.wid) 255 pd res) ∧ (late → ends expiry 255 pd res)) ∧
    (∀ d pd acq lanes, w.kind = .pbwait d pd acq lanes →
      let res := fun (i : Nat) => (lanes.find? (fun x => x.1 == i)).map (fun x =>
        ([BitVec.ofNat 32 ((s.pbStatus x).getD 1)], (s.pbStatus x).getD 1 == 0))
      (lanes.all (fun x => (s.pbStatus x).isSome) = true → ends (.pbwaitRelease k w.wid) d pd res) ∧ (late → ends expiry d pd res)) ∧
    (∀ pd g acq, w.kind = .gwait pd g acq →
      let res := fun (i : Nat) => if i ∈ w.tids then some (([] : List Word), (c.slotOf g).complete) else none
      ((c.slotOf g).complete = true → ends (.gwaitComplete k w.wid) 255 pd res) ∧ (late → ends expiry 255 pd res)) ∧
    (∀ d pd acq lanes, w.kind = .fwait d pd acq lanes →
      let core := ((c.lanes (lanes.map (fun x => x.1))).head?.map (fun l => l.w.core)).getD 0
      let res := fun (i : Nat) => (lanes.find? (fun x => x.1 == i)).map (fun x =>
        let st := (s.timeStatus (dieOf core) x.2.1 x.2.2.toNat).getD 2
        ([BitVec.ofNat 32 st], st != 2))
      (s.fwaitMet c lanes = true → ends (.fwaitComplete k w.wid) d pd res) ∧ (late → ends expiry d pd res))

/-- R176, R239, R252: a beat held for presence bits, acknowledgements or a retry is ready again when what it waits for has come about, a held TMDEC when its wheel's increments are accepted; a quarter is marked when one of its candidates starves. -/
def Obligations.HoldsRelease : Prop :=
  (∀ (s : State) (k : Nat) (c : Ctx) (w : Wait), sGet s.ctxs k = some c → c.waitOf w.wid = some w →
    (s.holdOver c w.kind = true → exec (.presenceHoldRelease k w.wid) s = .next ((s.setCtx k (c.wake w.wid)).seal s.mem)) ∧
    (∀ x v, w.kind = .tmdec x → c.wheel x = some v → v.unaccepted = 0 →
      exec (.heldTmdecRelease k w.wid) s = .next ((s.setCtx k (c.wake w.wid)).seal s.mem))) ∧
  ∀ (s : State) (core q : Nat),
    ∃ t, exec (.candidateStarving core q) s = .next t ∧ (t.quarter (4 * core + q)).starving = s.starvingIn core q ∧
      (∀ j, j ≠ 4 * core + q → t.quarter j = s.quarter j) ∧ (∀ p, t.byte p = s.byte p) ∧
      t = { s with quarters := t.quarters, mem := t.mem, wr := [] }

/-- R213-R215: EXACQ of a ready entry answers the weights' capability and state and takes a reference that the block does not hold yet; of an empty entry with .nw it starts the fill; of an entry that is not ready it waits without .nw; a waiting EXACQ ends when its entry is ready; EXREL drops the block's reference; EXPIN pins and unpins. -/
def Obligations.ResidencyResults : Prop :=
  (∀ s b c, InIssue s b c → c.spec = none → ∀ (h : Head) (nw unpin : Bool) (d : BitVec 8) (x : Src) (l : Lane),
    wheelsOf (acting b c h) = [l] → readSrc l 1 x < 4096 →
    let i := readSrc l 1 x
    let r := s.residOf i
    let new := decide (i ∉ c.held)
    let ends := fun (j : Instr) (E : Effect) (r' : Resid) =>
      ∃ t c', exec j s = .next t ∧ sGet t.ctxs b.ctx = some c' ∧ CtxRan s.cycle b c h E c' ∧
        (∀ k, k ≠ b.ctx → sGet t.ctxs k = sGet s.ctxs k) ∧ (∀ p, t.byte p = s.byte p) ∧
        t = { s with ctxs := t.ctxs, cores := t.cores, dies := t.dies, late := t.late, resid := sPut s.resid i r', mem := t.mem, wr := [] }
    (r.ready = true → c.held.length < 64 → (new = true → r.refs < 65535) →
      ends (.exacq h nw d x)
        { into (.s d) (fun _ => natWords 2 (mkCap r.wobj 0).toNat ++ [BitVec.ofNat 32 (r.state + if new then 256 else 0), 0]) with
          ctx := fun c => { c with held := if new then c.held ++ [i] else c.held } }
        { r with stamp := s.stampNow, refs := if new then r.refs + 1 else r.refs }) ∧
    (r.state = 0 → new = true → c.held.length < 64 → r.refs < 65535 → ∃ t c', exec (.exacq h true d x) s = .next t ∧ sGet t.ctxs b.ctx = some c' ∧
      CtxRan s.cycle b c h { into (.s d) (fun _ => [0, 0, BitVec.ofNat 32 (1 + 256 + 512), 0]) with ctx := fun c => { c with held := c.held ++ [i] } } c' ∧
      (t.residOf i).state = 1 ∧ (t.residOf i).refs = r.refs + 1) ∧
    (r.ready = false → c.held.length < 64 → (new = true → r.refs < 65535) →
      let till := (s.die (dieOf l.w.core)).waitiv
      ∃ t c', exec (.exacq h false d x) s = .next t ∧ t.nextWid = s.nextWid + 1 ∧ sGet t.ctxs b.ctx = some c' ∧
        CtxRan s.cycle b c h
          { thread := fun _ x => { x with st := .suspended s.nextWid }
            ctx := fun c => { c with
              held := if new then c.held ++ [i] else c.held
              waits := c.waits ++ [{ wid := s.nextWid, tids := (acting b c h).map (fun l => l.t.tid), deadline := some (s.cycle + till), span := till
                                     kind := .exacq i d.toNat new (new && r.state == 0) }] } } c' ∧
        (∀ k, k ≠ b.ctx → sGet t.ctxs k = sGet s.ctxs k) ∧
        (d ≠ 255 → ∃ v p, c'.wheel l.w.idx = some v ∧ p ∈ v.pend ∧ p.use = .s d.toNat 4 ∧ p.due = none) ∧
        (r.state ≠ 0 → (∀ p, t.byte p = s.byte p) ∧ t.residOf i = { r with
          stamp := s.stampNow, refs := if new then r.refs + 1 else r.refs, refill := r.refill || (new && r.state == 4) })) ∧
    (new = false →
      ends (.exrel h x) { ctx := fun c => { c with held := c.held.filter (fun y => y != i) } } { r with refs := r.refs - 1, stamp := s.stampNow } ∧
      (r.ready = true → ends (.expin h unpin x) {} { r with state := if unpin then 2 else 3 }))) ∧
  ∀ (s : State) (k i d : Nat) (took started : Bool) (c : Ctx) (w : Wait) (l : Lane) (ls : List Lane),
    sGet s.ctxs k = some c → c.waitOf w.wid = some w → w.kind = .exacq i d took started → (s.residOf i).ready = true → c.lanes w.tids = l :: ls →
    ∃ t c', exec (.exacqEntryReady k w.wid) s = .next t ∧ sGet t.ctxs k = some c' ∧ (∀ p, t.byte p = s.byte p) ∧
      c'.waits = c.waits.filter (fun x => x.wid != w.wid) ∧ c'.threads = (c.wake w.wid).threads ∧
      ∀ j v, c.wheel j = some v → ∃ u, c'.wheel j = some u ∧ ∀ n, u.s n = if j = l.w.idx then
        after v.s [(d, natWords 2 (mkCap (s.residOf i).wobj 0).toNat ++
          [BitVec.ofNat 32 ((s.residOf i).state + (if took then 256 else 0) + if started then 512 else 0), 0])] n else v.s n

/-! ### Time, tasks and graphs -/

/-- R238, R240-R242: TADV writes the image of a time under a summary, or the top time where there is no path; TCMP compares two times of one depth; FREAD reads a frontier; FWAIT whose times are complete writes their status at once. -/
def Obligations.TimeResults : Prop :=
  ∀ s b c, InIssue s b c → ∀ (h : Head) (d : Dst) (r : BitVec 8) (cc : Cc) (and acq : Bool) (pd : BitVec 5) (x y : Src),
    let e := siteOf b c h
    ((∀ l ∈ e.actors (dstNum d).2, tadvCause (readSrc l 1 y) (readSrc l 2 x) = none) →
      Does (.tadv h d x y) s b c h (into d (fun l => natWords 2 (tadvValue (readSrc l 1 y) (readSrc l 2 x))))) ∧
    ((∀ l ∈ e.lanes, tBad (readSrc l 2 x) = false ∧ tBad (readSrc l 2 y) = false ∧ tDepth (readSrc l 2 x) = tDepth (readSrc l 2 y)) →
      Does (.tcmp h cc and pd x y) s b c h (intoP pd (fun l => tRel cc (readSrc l 2 x) (readSrc l 2 y) && (!and || readP l pd)))) ∧
    (c.spec = none → (∀ l ∈ e.actors (dstNum d).2, readSrc l 1 x < s.nLoc) →
      Does (.fread h d x) s b c h (into d (fun l => s.freadWords (dieOf l.w.core) (readSrc l 1 x)))) ∧
    (c.spec = none → ∀ l0, e.lanes.head? = some l0 →
      let st := fun (l : Lane) => s.timeStatus (dieOf l0.w.core) (readSrc l 1 x) (BitVec.ofNat 64 (readSrc l 2 y)).toNat
      (∀ l ∈ e.lanes, s.timeCause (readSrc l 1 x) (readSrc l 2 y) = none ∧ (st l).isSome) →
      Uses (.fwait h acq r pd x y) s b c h
        { into (.v r) (fun l => [BitVec.ofNat 32 ((st l).getD 2)]) with preds := fun l => setPred l.t.preds pd.toNat true } [])

/-- R69, R72: a time of a depth holds DEPTH-1, two zero bits and its counters from the outermost down, those at or beyond the depth 0; a summary applied to such a time gives no path, a time fault, or the time of the new depth with the counter of its level incremented, the outer ones kept and the inner ones 0. Beside these, times of one depth order like the lists of their counters. -/
def Obligations.TimeArithmetic : Prop :=
  (∀ (d : Nat) (cs : List Nat), 1 ≤ d → d ≤ 4 → cs.length = 4 → (∀ x ∈ cs, x < 2 ^ 15) →
    let t := mkTime d cs
    t < 2 ^ 64 ∧ t / 2 ^ 62 = d - 1 ∧ t / 2 ^ 60 % 4 = 0 ∧ tDepth t = d ∧ tBad t = false ∧
    ∀ k, k < 4 → tCtr t k = t / 2 ^ (45 - 15 * k) % 2 ^ 15 ∧ tCtr t k = if k < d then cs.getD k 0 else 0) ∧
  mkTime 3 [3, 0, 7] = 0x8000600000038000 ∧
  (∀ t, t < 2 ^ 64 → (tBad t = false ↔ t / 2 ^ 60 % 4 = 0 ∧ ∀ k, tDepth t ≤ k → k < 4 → tCtr t k = 0)) ∧
  (∀ (d : Nat) (a b : List Nat), 1 ≤ d → d ≤ 4 → a.length = d → b.length = d → (∀ x ∈ a ++ b, x < 2 ^ 15) →
    (mkTime d a < mkTime d b ↔ a < b)) ∧
  ∀ (s t : Nat), s < 2 ^ 32 → t < 2 ^ 64 → tBad t = false →
    let leave := s / 2 ^ 30
    let enter := s / 2 ^ 28 % 4
    let lev := s / 2 ^ 26 % 4
    let inc := s / 2 ^ 16 % 2 ^ 10
    let d := tDepth t
    let wrong := s % 2 ^ 16 ≠ 0 ∨ d ≤ leave ∨ d - leave ≤ lev ∨ 4 < d - leave + enter
    (s = 0xFFFFFFFF → applySum s t = .noPath) ∧
    (s ≠ 0xFFFFFFFF → (wrong ∨ 32767 < tCtr t lev + inc) → ∃ cause, applySum s t = .bad cause) ∧
    (s ≠ 0xFFFFFFFF → ¬wrong → tCtr t lev + inc ≤ 32767 → ∃ u, applySum s t = .at_ u ∧ u < 2 ^ 64 ∧ tBad u = false ∧ tDepth u = d - leave + enter ∧
      ∀ k, k < d - leave + enter → tCtr u k = if k < lev then tCtr t k else if k = lev then tCtr t lev + inc else 0)

/-- R239, R243: TMINC and TMDEC of one home wheel issue the change of their pair, TMDEC while no increment of its wheel is open and nothing is to be released; TSPAWN of one lane queues the task with the program's fields and counts its pair. -/
def Obligations.CountsAndTasks : Prop :=
  ∀ s b c, InIssue s b c → c.spec = none → ∀ (h : Head) (x y z : Src) (l : Lane), wheelsOf (acting b c h) = [l] →
    let n := readSrc l 1 z
    let die := dieOf l.w.core
    let issued := fun (t : State) (i : Issued) => (t.die die).reg = { (s.die die).reg with issued := (s.die die).reg.issued ++ [{ i with at_ := s.cycle }] }
    let upd := fun (k : Int) => ({ loc := readSrc l 1 x, time := BitVec.ofNat 64 (readSrc l 2 y), delta := k } : Upd)
    (s.countCause (readSrc l 1 x) (readSrc l 2 y) n = none →
      (∃ t c', exec (.tminc h x y z) s = .next t ∧ sGet t.ctxs b.ctx = some c' ∧ Calm s b.ctx t ∧ Moved b c c' ∧
        issued t { upd := upd n, owner := some (.unit b.ctx), wheel := some (b.ctx, l.w.idx), site := some (l.w.core, l.w.quarter, b.pc, b.words) } ∧
        ∀ k w, c.wheel k = some w → c'.wheel k = some (if k = l.w.idx then { w with unaccepted := w.unaccepted + 1 } else w)) ∧
      (l.w.unaccepted = 0 → NoStores c → Alone c → Clean s →
        s.relWaits b.ctx c ((c.threads.filter (fun x => x.wheel == l.w.idx)).map (fun x => x.tid)) .dom = ([], []) →
        ∃ t c', exec (.tmdec h x y z) s = .next t ∧ sGet t.ctxs b.ctx = some c' ∧ Calm s b.ctx t ∧ Moved b c c' ∧ c'.wheels = c.wheels ∧
          issued t { upd := upd (-n), owner := some (.unit b.ctx) })) ∧
    (acting b c h = [l] → NoStores c → Alone c → ∀ (ps : List Nat),
      Passes s l.w.core (s.access (siteOf b c h) l { sp := .g, n := 64, align := 64, need := 1, lock := false } x 0) ps → Holds s l.w.core ps →
      let u := filled s h.pol.toNat [l] (fun _ => ps)
      let bytes := bytesAt u l.w.core ps
      let own := dieOf b.core
      u.taskRes l.w.core bytes = .ok [] [] → (s.die own).tasks.length < 65536 →
      ∃ t c' v, exec (.tspawn h x) s = .next t ∧ sGet t.ctxs b.ctx = some c' ∧ Moved b c c' ∧
        (∀ k, k ≠ b.ctx → sGet t.ctxs k = sGet s.ctxs k) ∧
        (∀ a, pTag a ≠ 7 → t.byte a = (sGet ((run (taskP v.copy 0) 64).zip v.bytes) a).getD (s.byte a)) ∧
        (t.die own).tasks = (s.die own).tasks ++ [v] ∧
        v = { taskOf bytes with flags := (taskOf bytes).flags % 32 + 64 * c.prio, prio := c.prio, launch := c.launch, phase := c.phase
                                owner := .unit b.ctx, cap := Config.taskCap v.copy, copy := v.copy, spawned := s.cycle } ∧
        (∃ i, (t.die own).reg.issued = (s.die own).reg.issued ++ [i] ∧
          i.upd = { loc := (taskOf bytes).loc, time := (taskOf bytes).time, delta := 1 } ∧ i.owner = some (.unit b.ctx)) ∧
        t.launches = s.launches.map (fun k => if k.no = c.launch then { k with units := k.units + 1 } else k))


/-! ### Chains and grid addressing -/

/-- R184, R186, R187: one lane's CHAPP appends its entry to its chain and answers the new APPSEQ, and CHADV publishes up to its value; an append to an empty chain makes the entry head and tail, and a publication raises PUBSEQ and binds the chain to its engine. CHADV's checks follow log 49. -/
def Obligations.ChainResults : Prop :=
  (∀ s b c, InIssue s b c → NoStores c → Alone c → Clean s → NoPins s → c.run = none →
    ∀ (h : Head) (d : Dst) (x y : Src) (l : Lane) (blk ent : Nat) (pages : List (Nat × Nat × Nat)), acting b c h = [l] →
    let e := siteOf b c h
    let ccb := accessCap l .g x 0
    let acc := (s.ccbAccess e l x).join (s.access e l { sp := .g, n := 128, align := 128, need := 3, write := true } y 0)
    let who := { e.issuer [l.t.tid] with cap := accessCap l .g y 0 }
    let pend := mkPend s (if (dstNum d).2 then .s (dstNum d).1 2 else .v (dstNum d).1 2) 0
    (acc = .ok (run blk 64 ++ run ent 128) pages → isRemote ent = false → (∀ p, s.tailNext (dieOf l.w.core) blk = some p → isRemote p = false) →
      ∃ u c' v, Near s b.ctx u ∧ sGet u.ctxs b.ctx = some c' ∧ Moved b c c' ∧
        (let r := u.append (dieOf l.w.core) who blk ent (accessCap l .g y 0)
         Counted (r.2.putD b.ctx (dstNum d).2 l (dstNum d).1 (natWords 2 r.1) pend) v) ∧ Becomes (.chapp h d x y) s v) ∧
    (s.ccbAccess e l x = .ok (run blk 64) pages → s.relWaits b.ctx c [l.t.tid] .dev = ([], []) → readSrc l 2 y ≤ s.num (blk + 8 * 16) 8 →
      ∃ u c' v, Near s b.ctx u ∧ sGet u.ctxs b.ctx = some c' ∧ Moved b c c' ∧
        Counted (u.publish ccb blk (readSrc l 2 y) (dieOf l.w.core) b.ctx l.w.core) v ∧ Becomes (.chadv h x y) s v)) ∧
  (∀ (s : State) (die : Nat) (who : Issuer) (blk ent : Nat) (b : Cap), isRemote ent = false → (∀ p ∈ run blk 64, p ∉ run ent 128) →
    s.num (blk + 8 * 8) 8 = 0 →
    let r := s.append die who blk ent b
    r.1 = (s.num (blk + 8 * 16) 8 + 1) % 2 ^ 64 ∧ r.2.num blk 8 = b.toNat ∧ r.2.num (blk + 8 * 8) 8 = b.toNat ∧
    r.2.num (blk + 8 * 16) 8 = r.1 ∧ r.2.num (ent + 8 * 56) 8 = 0 ∧
    ∀ a, a ∉ run blk 24 → a ∉ run (ent + 8 * 56) 8 → r.2.byte a = s.byte a) ∧
  ∀ (s : State) (ccb : Cap) (blk v die ctx core : Nat), v ≤ s.num (blk + 8 * 16) 8 →
    let pub := max (s.num (blk + 8 * 24) 8) v
    let t := s.publish ccb blk v die ctx core
    t.num (blk + 8 * 24) 8 = pub ∧ (∀ a, a ∉ run (blk + 8 * 24) 8 → t.byte a = s.byte a) ∧
    ((s.putNum (blk + 8 * 24) 8 pub).queueOf ccb = none → (∀ x ∈ s.chains, x.ccb ≠ ccb) →
      t.chains = s.chains ++ [{ ccb := ccb, die := die, eng := s.num (blk + 8 * 40) 1 % 8, pubs := [(pub, ctx, core)] }])

/-- R226, R230-R232, R234, R286, R288, R290: GST, GCPY and GRED of one home wheel put one contribution into their die's buffer for the devices that the pattern matches, GRED for its convergence device; GLD and GATOM of one lane put one request there, whose reply writes D; the threads go on, and their answers are outstanding. -/
def Obligations.GridSends : Prop :=
  ∀ s b c, InIssue s b c → NoStores c → Alone c → Clean s → c.run = none → c.cancelled = false → sGet s.saved b.ctx = none →
    c.waitOf s.nextWid = none → (s.die (dieOf b.core)).grid.staged = [] →
    ∀ (h : Head) (sz : CSize) (f acq : Bool) (sc : Scope) (op : AmoOp) (ty : Ty) (n : BitVec 2) (sp : Space) (ord : Ordr)
      (d r su : BitVec 8) (ofs : BitVec 24) (conv : BitVec 10) (g : GridX) (x y z : Src) (w : Lane) (places : Lane → List Nat),
    let e := siteOf b c h
    let ls := acting b c h
    let tids := ls.map (fun l => l.t.tid)
    let die := dieOf b.core
    let p := patOf su w
    let sent := fun (i : Instr) (base : Pkt) (es : List (Nat × List Byte)) (dests : List Nat) (regs : List (Nat × List Word)) =>
      let pkts := packetsOf { base with rgv := g.rgv, rg := g.rg.toNat, srcc := s.coordAt die, srcDie := die, pattern := p, gtag := c.gtag, block := c.block } es
      dests ≠ [] → (s.die die).grid.used + pkts.length * dests.length ≤ 4096 →
      ∃ t c' k, exec i s = .next t ∧ sGet t.ctxs b.ctx = some c' ∧ Calm s b.ctx t ∧
        (t.die die).grid.contribs = (s.die die).grid.contribs ++ [k] ∧
        k.cseq = ((s.die die).grid.cseq + 1) % 65536 ∧ (t.die die).grid.cseq = k.cseq ∧ k.ltag = some s.nextTag ∧ k.tids = tids ∧
        k.dests = dests.map (fun x => (x, .fresh)) ∧ k.pkts = pkts.map (fun q => { q with cseq := k.cseq }) ∧
        k.lanes = ls.foldl (fun a l => a ||| BitVec.ofNat 32 (2 ^ l.t.lane)) 0 ∧ k.wheel = w.w.idx ∧
        k.ag = (if g.agv then some g.ag.toNat else none) ∧ k.graph = c.graph.map (fun g => (g.1, g.2.2)) ∧
        (let v := c.slotOf g.ag.toNat
         g.agv = true → c'.slotOf g.ag.toNat = if v.armed = false ∧ v.expected = 0 then { v with expected := dests.length, pattern := some p } else v) ∧
        c'.remotes = c.remotes ++ tids.map (fun i => (i, s.nextTag)) ∧
        ∀ i v, c.thread i = some v → ∃ u, c'.thread i = some u ∧ u.st = v.st ∧ u.preds = v.preds ∧
          u.pc = (if i ∈ b.tids then nextPc b.pc else v.pc) ∧ ∀ m, u.v m = after v.v (if i ∈ tids then regs else []) m
    let held := fun (src : Lane → Res) (len : Nat) =>
      ∀ l ∈ ls, (∃ pages, src l = .ok (places l) pages) ∧ (places l).length = len ∧ Holds s l.w.core (places l)
    let got := fun (l : Lane) => bytesAt (filled s 0 ls places) l.w.core (places l)
    let calm := f = true → s.relWaits b.ctx c tids sc = ([], [])
    let size := cszBytes sz
    let k := 2 ^ n.toNat
    let es := 4 * tyRegs ty
    let cpySrc := fun l => s.pinCheck l.w.core false (s.access e l { sp := sp, n := size, align := size, need := 1, lock := false } y 0)
    let redSrc := fun l => s.gredSrc e l sp k es x y
    (wheelsOf ls = [w] →
      (patOk s.grid p = true → calm →
        sent (.gst h sz f sc x r su g) { ty := 1, esize := size }
          (ls.map (fun l => (readSrc l 2 x, natBytes size (readV l.t (size / 4) r)))) (patDests s.grid s.mycoord p) [] ∧
        (held cpySrc size → sent (.gcpy h sp sz f sc d x y su g) { ty := 2, esize := size }
          (ls.map (fun l => (readSrc l 2 x, got l))) (patDests s.grid s.mycoord p)
          [(d.toNat, [BitVec.ofNat 32 (0x80000000 + ls.length)])])) ∧
      (gredBad s conv.toNat p = none → held redSrc (k * es) →
        sent (.gred h op ty n sp x y su g conv)
          { ty := 3, esize := es, op := (amoCode op).toNat, tyc := (tyCode ty).toNat, conv := conv.toNat }
          (ls.flatMap (fun l => (List.range k).map (fun i => (readSrc l 2 x + i * es, ((got l).drop (i * es)).take es))))
          (convCoord s.grid p conv.toNat).toList [])) ∧
    (ls = [w] →
      let asked := fun (i : Instr) (base : Pkt) (nreg : Nat) (acq : Option Scope) (q : Ask) =>
        s.askBad (4 * nreg) q = none → (s.die die).grid.used + 1 ≤ 4096 →
        ∃ t c' k o, exec i s = .next t ∧ sGet t.ctxs b.ctx = some c' ∧ Calm s b.ctx t ∧
          (t.die die).grid.contribs = (s.die die).grid.contribs ++ [k] ∧ k.cseq = ((s.die die).grid.cseq + 1) % 65536 ∧
          k.ltag = some s.nextTag ∧ k.tids = [w.t.tid] ∧ k.lanes = BitVec.ofNat 32 (2 ^ w.t.lane) ∧ k.dests = [(q.coord, .fresh)] ∧
          k.pkts = (packetsOf { base with srcc := s.coordAt die, srcDie := die, gtag := c.gtag, block := c.block, ltag := ltagOf s.nextTag }
            [(q.at_, q.ops)]).map (fun p => { p with cseq := k.cseq }) ∧
          c'.remotes = c.remotes ++ [(w.t.tid, s.nextTag)] ∧ c'.loads = c.loads ++ [o] ∧ o.ltag = s.nextTag ∧ o.tids = [w.t.tid] ∧
          o.dreg = d.toNat ∧ o.nreg = nreg ∧ o.uni = false ∧ o.acq = acq ∧
          ∀ i v, c.thread i = some v → ∃ u, c'.thread i = some u ∧ u.st = v.st ∧ u.preds = v.preds ∧ u.vregs = v.vregs ∧
            u.pc = (if i ∈ b.tids then nextPc b.pc else v.pc)
      let v := readSrc w 2 x
      let m := if op = .cas then 2 * tyRegs ty else tyRegs ty
      asked (.gld h sz acq sc d x ofs z) { ty := 4, esize := size } (size / 4) (if acq then some sc else none)
        { l := w, coord := readSrc w 1 z, addr := ((v % 2 ^ 44 : Nat) : Int) + ofs.toInt, obj := v / 2 ^ 44 % 2 ^ 20, ops := [] } ∧
      ((ordRel ord = true → s.relWaits b.ctx c [w.t.tid] sc = ([], [])) →
        asked (.gatom h op ty ord sc d x y z) { ty := 5, esize := 4 * m, op := (amoCode op).toNat, tyc := (tyCode ty).toNat } (tyRegs ty)
          (if ordAcq ord then some sc else none)
          { l := w, coord := readSrc w 1 z, addr := ((v % 2 ^ 44 : Nat) : Int), obj := v / 2 ^ 44 % 2 ^ 20, ops := natBytes (4 * m) (readSrc w m y) }))

/-- R58, R68, R235-R237: GARM arms a slot with a count or with the derived count of a pattern, GSTAT reads the image, GWAIT of a complete slot sets Pd at once and of another suspends its threads; an arrival counts, completes the slot at the expected count, and after completion sets only OVERRUN. -/
def Obligations.GatherSlots : Prop :=
  (∀ s b c, InIssue s b c → c.run = none → ∀ (h : Head) (pat acq : Bool) (g : BitVec 6) (x : Src) (d : Dst) (pd : BitVec 5) (l : Lane) (n : Nat),
    (wheelsOf (acting b c h) = [l] → s.garmCount pat l x = .ok n →
      Does (.garm h pat g x) s b c h { ctx := fun c => { c with gslots := sPut c.gslots g.toNat { expected := n, armed := n != 0 } } }) ∧
    (pat = false → readSrc l 1 x ≤ 65535 → s.garmCount pat l x = .ok (readSrc l 1 x)) ∧
    (pat = true → patOk s.grid (BitVec.ofNat 64 (readSrc l 2 x)) = true →
      s.garmCount pat l x = .ok (patCount s.grid (s.coordAt (dieOf l.w.core)) (BitVec.ofNat 64 (readSrc l 2 x)))) ∧
    Does (.gstat h d g) s b c h (into d (fun _ => natWords 2 (slotImage (c.slotOf g.toNat)))) ∧
    ((c.slotOf g.toNat).complete = true →
      Uses (.gwait h acq pd g) s b c h { preds := fun l => setPred l.t.preds pd.toNat true } []) ∧
    ((c.slotOf g.toNat).complete = false → acting b c h ≠ [] →
      let till := (s.die (dieOf b.core)).waitiv
      ∃ t, exec (.gwait h acq pd g) s = .next t ∧ t.nextWid = s.nextWid + 1 ∧ Turned s b c h
        { thread := fun _ x => { x with st := .suspended s.nextWid }
          ctx := fun c => { c with waits := c.waits ++ [{ wid := s.nextWid, tids := (acting b c h).map (fun l => l.t.tid), kind := .gwait pd.toNat g.toNat acq, deadline := some (s.cycle + till), span := till }] } } t)) ∧
  ∀ (g : GSlot) (void poison unreach : Bool) (pat : Option (BitVec 64)) (derived : Nat),
    let r := g.count void poison unreach pat derived
    (g.complete = true → r = { g with overrun := true }) ∧
    (g.complete = false →
      r.arrived = g.arrived + 1 ∧ r.void = g.void + (if void then 1 else 0) ∧ r.poison = (g.poison || poison) ∧
      r.unreach = (g.unreach || unreach) ∧ r.overrun = g.overrun ∧ r.armed = g.armed ∧
      r.complete = (r.expected != 0 && r.arrived == r.expected) ∧
      (∀ p, pat = some p → g.armed = false → g.expected = 0 → r.expected = derived ∧ r.pattern = some p) ∧
      (∀ p, pat = some p → g.armed = false → g.expected ≠ 0 → r.mismatch = (g.mismatch || g.pattern != some p)) ∧
      (g.armed = true ∨ g.expected ≠ 0 ∨ pat = none → r.expected = g.expected))

/-! ### Commands, graphs and engines -/

/-- R187, R244, R245, R315-R318, R320, R446: the commands of a queue whose fields pass: a launch is numbered, counted and entered, claims the run that predicted it, or discards a run that did not; a launch whose checks fail is refused with its cause; a graph run starts a generation and its start tasks, as many as the queue has room for; a wait stays open until its time is complete; a signal writes its value; a cancel ends what it names: contexts halt or are gone, tasks are dropped, positive nets are retracted with poison, launches without a context left complete with CODE 4; a command with a reserved field completes with CODE 3 and cause 1, one after the end of the stream is dropped. GRUN and CANCEL do the same from a thread. The die of the command unit, graph runs, instances behind an aperture and SIGNAL's release follow log 59, 65, 111 and 67. -/
def Obligations.QueueCommands : Prop :=
  (∀ (s : State) (q : Nat) (c : Cmd), NoPins s →
    let ok := (s.queue q).ended = false ∧ cmdReserved c = false ∧ s.crecOk c = true
    (s.myCmd q 0x20 = some c → ok → ∀ k, s.launchCheck (launchOf c.e) = .ok k → s.launchLacks (launchOf c.e) = [] → s.runOf q [.running, .done] = none →
      ∃ t l i, exec (.launch q) s = .next t ∧ t.launchNo = nextLaunch s.launchNo ∧ t.launches = s.launches ++ [l] ∧
        l.no = nextLaunch s.launchNo ∧ l.cmd = launchOf c.e ∧ l.kernel = k ∧ l.queue = q ∧ l.seq = c.seq ∧ l.next = 0 ∧
        l.units = (launchOf c.e).blocks ∧ (t.queue q).taken = c.seq ∧ (t.queue q).last = c.entry ∧
        (t.die 0).reg.issued = (s.die 0).reg.issued ++ [i] ∧ i.owner = some (.launch l.no) ∧
        i.upd = { loc := l.cmd.loc, time := l.cmd.ltime, delta := 1 }) ∧
    (let l := launchOf c.e
     let k := match s.record l with
       | some r => kernelOf r l.code
       | none => {}
     let x : Hist := { cmd := l, argv := if k.narg = 0 then [] else s.argSlots l k.narg, kernel := k }
     s.myCmd q 0x20 = some c → (s.queue q).ended = false → s.launchLacks l = [] →
      (∀ cause, s.runOf q [.running, .done] = none →
        (if cmdReserved c then .error 1 else if s.crecOk c then s.launchCheck l else .error 2 : Except Nat Kernel) = .error cause →
        Becomes (.launch q) s (((s.dropLaunch l).learn q x).refuseCmd c cause (s.crecOk c)) ∧
        Reaches (.launch q) s (fun t => t.launches = s.launches ∧ t.launchNo = s.launchNo ∧ (t.queue q).taken = c.seq)) ∧
      (cmdReserved c = false → s.crecOk c = true → ∀ j k', s.launchCheck l = .ok k' → s.runOf q [.running, .done] = some j →
        (matchesRun k x (s.slot j).pred = true → Reaches (.launch q) s (fun t => t.launches = s.launches ∧ t.launchNo = s.launchNo ∧ (t.queue q).taken = c.seq ∧
          t.slot j = { s.slot j with
            state := .claiming, claim := some (0, c.seq), wasDone := decide ((s.slot j).state = .done), real := l, realKernel := k', phase := fld c.e 4 2
            monitors := (t.slot j).monitors } ∧
          ∀ n d, sGet s.ctxs n = some d → d.spec = some j → sGet t.ctxs n = some { d with paused := true })) ∧
        (matchesRun k x (s.slot j).pred = false → (s.slot j).queue = q → (s.slot j).state ≠ .idle → Reaches (.launch q) s (fun t =>
          (t.slot j).state = .idle ∧ (t.queue q).lastCause = 4 ∧ (∀ p ∈ t.shadow, p.slot ≠ j) ∧
          (∀ n d, sGet s.ctxs n = some d → d.spec = some j → sGet t.ctxs n = none) ∧ t.launchNo = nextLaunch s.launchNo ∧
          ∃ m, t.launches = s.launches ++ [m] ∧ m.no = nextLaunch s.launchNo ∧ m.cmd = l ∧ m.kernel = k' ∧ m.queue = q ∧ m.seq = c.seq ∧ m.slot = none)))) ∧
    (s.myCmd q 0x21 = some c → ok → ∀ ns, s.capOk (fldCap c.e 8) 32 3 8192 = true →
      s.readsWait 0 (s.graphReads 0 (fldCap c.e 8)) = false → s.instNodes 0 (fldCap c.e 8) = .ok ns → s.graphCause ns (fld c.e 48 8) = none →
      startNodes ns ≠ [] →
      let gen := ((s.takeCmd c).instGen 0 (fldCap c.e 8) + 1) % 65536
      (∀ g ∈ s.graphs, g.inst = fldCap c.e 8 → g.gen ≠ gen) →
      ∃ t g ts, exec (.runGraphInstance q) s = .next t ∧ t.graphs = s.graphs ++ [g] ∧ g.inst = fldCap c.e 8 ∧ g.gen = gen ∧
        g.tasks = (startNodes ns).length ∧ g.seq = some (q, c.seq) ∧ (t.die 0).tasks = (s.die 0).tasks ++ ts ∧
        ts.length = min (startNodes ns).length (65536 - (s.die 0).tasks.length) ∧ g.waiting.length = (startNodes ns).length - ts.length ∧
        ts.map (fun k => (k.entry, k.args, k.tile, k.loc, k.succ)) =
          ((startNodes ns).take ts.length).map (fun x => (x.2.entry, x.2.args, x.2.tile, x.2.loc, capAdd (fldCap c.e 8) (32 + 4 * x.1))) ∧
        (∀ k ∈ ts, k.time = BitVec.ofNat 64 (fld c.e 48 8) ∧ k.gen = gen) ∧ (t.queue q).taken = c.seq) ∧
    (s.myCmd q 0x22 = some c → ok → s.timeCause (fld c.e 42 2) (fld c.e 48 8) = none →
      Becomes (.waitForFrontier q) s ((((s.takeCmd c).modPend q c.seq (fun p =>
        { p with wait := some (fld c.e 42 2, BitVec.ofNat 64 (fld c.e 48 8)) })).showQueue q).endWait q)) ∧
    (∀ p loc time st, (s.queue q).pend.find? (fun p => p.op == 0x22 && p.fin.isNone && !p.done) = some p → p.wait = some (loc, time) →
      s.timeStatus 0 loc time.toNat = some st →
      Becomes (.frontierWaitComplete q) s (((s.dropL2 0 (inRank 4)).stale isRemote).completeCmd q p.seq st 0 0 0)) ∧
    (s.myCmd q 0x23 = some c → ok → s.capOk (fldCap c.e 8) 8 2 8 = true →
      (4 ≤ fld c.e 2 2 / 4 % 8 → s.releaseAll.allReleased (fld c.e 2 2 / 4 % 8 == 5) = true) →
      Becomes (.signal q) s
        (((s.releaseAll.takeCmd c).unitWrite 0 (fldCap c.e 8) ((c.e.drop 16).take 8)).completeCmd q c.seq 0 0 0 0)) ∧
    (s.myCmd q 0x24 = some c → ok → ∀ lv x, s.cancelTarget (fld c.e 8 1) (fld c.e 16 8) = some (lv, x) →
      Becomes (.cancelCommand q) s (((s.takeCmd c).cancelAll 0 lv x).completeCmd q c.seq 0 0 0 0)) ∧
    ∀ i op, (i, op) ∈ [(Instr.launch q, 0x20), (.runGraphInstance q, 0x21), (.waitForFrontier q, 0x22), (.signal q, 0x23), (.cancelCommand q, 0x24)] →
      s.myCmd q op = some c →
      ((s.queue q).ended = true → Becomes i s (s.dropCmd c)) ∧
      ((s.queue q).ended = false → cmdReserved c = true → op ≠ 0x20 → Becomes i s (s.refuseCmd c 1 (s.crecOk c)))) ∧
  (∀ (s : State) (die : Nat) (lv : Level) (x : Doomed), lv ≠ .job → (∀ k c d, x.ctx k c = x.ctx k d) →
    let t := s.cancelAll die lv x
    let own := fun (o : Option Owner) => match o with
      | some o => x.owner o
      | none => false
    let open_ := ([0, 1, 2, 3].flatMap (fun d => (s.reg d).issued) ++ s.submitted.flatMap (fun b => b.items)).filter (fun i => own i.owner)
    let counts := ([0, 1, 2, 3].flatMap (fun d => (s.reg d).owners)).filter (fun n => x.owner n.owner)
    let total := fun (l : Nat) (u : BitVec 64) =>
      ((counts.filter (fun n => n.loc == l && n.time == u)).map (fun n => n.n)).sum + ((open_.filter (fun i => i.upd.loc == l && i.upd.time == u)).map (fun i => i.upd.delta)).sum
    (∀ k c, sGet s.ctxs k = some c → x.ctx k c = true → sGet t.ctxs k = none ∨
      ∃ c', sGet t.ctxs k = some c' ∧ c'.cancelled = true ∧ ∀ y ∈ c'.threads, y.st = .ended) ∧
    (∀ k c, sGet s.saved k = some c → x.ctx k c = true → sGet t.saved k = none) ∧
    (∀ d, ∀ k ∈ (t.die d).tasks, x.task k = false) ∧
    (∀ d, d < 4 → ∀ n ∈ (t.reg d).owners, x.owner n.owner = false) ∧
    (∀ l u, 0 < total l u → ∃ i ∈ (t.reg die).issued, i.upd = { loc := l, time := u, poison := true, delta := -total l u } ∧ i.owner = none) ∧
    (∀ g ∈ s.graphs, x.graph g = true → ∀ g' ∈ t.graphs, g'.inst = g.inst → g'.gen = g.gen → g'.cancelled = true ∧ g'.waiting = []) ∧
    ((s.launches.map (fun l => l.no)).Nodup → (s.launches.map (fun l => (l.queue, l.seq))).Nodup → ∀ l ∈ s.launches, x.launch l = true →
      (∀ l' ∈ t.launches, l'.no = l.no → l'.cancelled = true ∧ l'.next = l'.cmd.blocks ∧ ∃ e ∈ t.ctxs, e.2.ofLaunch l.no = true) ∧
      ((∀ l' ∈ t.launches, l'.no ≠ l.no) → (∀ p ∈ (s.queue l.queue).pend, p.seq = l.seq → p.fin = none ∧ p.done = false) →
        ∀ p ∈ (t.queue l.queue).pend, p.seq = l.seq → p.fin = some (statusWord 0 4 0, l.no)))) ∧
  (∀ (s : State) (die : Nat) (x : Doomed), (s.cancelAll die .job x).job.state = (if s.job.state = .run then .ending else s.job.state) ∧
    ∀ k c, sGet s.ctxs k = some c → c.handler = false → c.spec = none → sGet (s.cancelAll die .job x).ctxs k = none ∨
      ∃ c', sGet (s.cancelAll die .job x).ctxs k = some c' ∧ c'.cancelled = true ∧ ∀ y ∈ c'.threads, y.st = .ended) ∧
  (∀ (s : State) (k : Nat) (c : Ctx), (k, c) ∈ s.ctxs ++ s.saved → c.handler = false → c.spec = none →
    (doomedUnit k).ctx k c = true ∧ (s.doomedPhase c.phase).ctx k c = true ∧ (c.graph = none → (s.doomedLaunch c.launch).ctx k c = true) ∧
    ∀ i n g, c.graph = some (i, n, g) → (s.doomedGraph i g).ctx k c = true) ∧
  ∀ s b c, InIssue s b c → c.run = none → ∀ (h : Head) (lv : Level) (d : BitVec 8) (x y : Src) (l : Lane) (ps : List Nat) (pages : List (Nat × Nat × Nat)) (ns : List Node),
    let u := s.setCtx b.ctx (c.advance b h.yld)
    let die := dieOf b.core
    let i := accessCap l .g x 0
    (acting b c h ≠ [] → Becomes (.cancel h lv) s (u.cancelAll die lv (u.enclosing b.ctx c lv))) ∧
    (NoStores c → Alone c → Clean s → wheelsOf (acting b c h) = [l] →
      s.pinCheck l.w.core true (s.access (siteOf b c h) l { sp := .g, n := 32, align := 8192, need := 3, write := true } x 0) = .ok ps pages →
      s.readsWait die (s.graphReads die i) = false → s.instNodes die i = .ok ns →
      s.startCause die ns (readSrc l 2 y) = none → s.graphs.length + 1 ≤ 256 → (s.die die).tasks.length + (startNodes ns).length ≤ 65536 →
      ∃ v c' w, Near s b.ctx v ∧ sGet v.ctxs b.ctx = some c' ∧ Moved b c c' ∧
        (let r := v.runGraph die i ns (BitVec.ofNat 64 (readSrc l 2 y)) c.prio c.launch c.phase none
         Counted ((r.2.putD b.ctx true l d.toNat [BitVec.ofNat 32 r.1] (mkPend s (.s d.toNat 1) 0)).endGraph i r.1 |>.dropReads die (s.graphReads die i)) w) ∧
        Becomes (.grun h (.s d) x y) s w)

/-- R187, R188, R190, R196, R320: an engine takes the next entry of a chain bound to it when the OP is one of the six, faulted if its checks fail; an entry whose data can move writes it, a linear copy the bytes of its source and a fill its pattern, and ends with its STATUS, its arrival, DONESEQ and STATE; one that faults ends with its cause, STATE 3, FAULTSEQ and a record; the engine is then free. A queue's command ends with its STATUS, its record and DONESEQ. How many bytes a faulted copy has written is free (log 12). -/
def Obligations.EngineEvents : Prop :=
  ∀ (s : State) (die eng : Nat), NoPins s →
    (∀ i op, (i, op) ∈ [(Instr.linearCopy die eng, 1), (.tileCopy die eng, 2), (.windowCopy die eng, 3), (.fill die eng, 4),
        (.barrierArrivalOnly die eng, 5), (.endOfStream die eng, 15)] →
      ∀ (ch : Chain) (n : Handed) (e : List Byte), s.nextCmd = none → s.engNext die eng = some (ch, n, e) → e ≠ [] → fld e 0 1 = op →
      ch.ended = false → (ch.queue.isSome || ch.fill || (match s.ccbPlace die ch.ccb with | some blk => s.ccbClean die blk | none => true)) = true →
      (s.core (ch.publisher n.seq).2).locks.length + 2 ≤ 64 →
      Reaches i s (fun t => (t.engine die eng).last = ch.ccb ∧ ∃ r, (t.engine die eng).run = some r ∧ r.ccb = ch.ccb ∧ r.seq = n.seq ∧
        r.entry = n.entry ∧ r.ent = e ∧ r.queue = ch.queue ∧ r.fault = entCause e (ch.queue.isSome || ch.fill) ch.queue.isSome ∧ r.dropped = false)) ∧
    (∀ (r : Running) (cells : List (Nat × Byte)) (valid : Nat), (∀ x ∈ cells, isRemote x.1 = false) →
      (s.engineOutcome die eng = some (r, cells, valid, none) →
        Becomes (.engineEntryComplete die eng) s ((s.unitCells die cells).2.finishEntry die eng
          { r with moved := true, valid := if r.moved then r.valid else valid, writes := r.writes } (if r.dropped then 1 else 0)) ∧
        Reaches (.engineEntryComplete die eng) s (fun t => (t.engine die eng).run = none)) ∧
      (∀ k, s.engineOutcome die eng = some (r, cells, valid, some k) → s.badCmd die eng = none →
        Becomes (.engineEntryFault die eng) s ((({ s with free := s.free + 1 } : State).unitCells die
          (cells.take (Config.partBytes s.free))).2.faultEntry die eng r k) ∧
        Reaches (.engineEntryFault die eng) s (fun t => (t.engine die eng).run = none)) ∧
      -- What the data of a linear copy and of a fill are.
      (let e := r.ent
       let need := dstNeed (s.wobjOf r.owner) (fld e 16 8 / 2 ^ 44)
       ∀ src dst, (s.engine die eng).run = some r → r.fault = none → r.moved = false → r.dropped = false → r.reads = [] → r.writes = [] →
        s.side die r.ctx (entD e) (fld e 16 8) (fld e 32 8) need = (dst, none) →
        (fld e 0 1 = 1 → s.side die r.ctx (entS e) (fld e 8 8) (fld e 32 8) 1 = (src, none) → src.length = dst.length → (∀ p ∈ src, s.poisonedAt p = false) →
          s.engineOutcome die eng = some (r, dst.zip (src.map (s.engByte die r)), 0, none)) ∧
        (fld e 0 1 = 4 → s.engineOutcome die eng = some (r, dst.zip ((List.range dst.length).map (fun k => ((e.drop 40)[k % 8]?).getD 0)), 0, none))) ∧
      -- How an entry of a program's chain ends.
      (∀ ch blk es code cause, r.queue = none → r.owner = none → s.chainOf die r = some ch → es.Nodup → (∀ p ∈ es, pTag p = 0 ∧ p ∉ run blk 64) → pTag blk = 0 →
        s.unitRange die (capAdd r.entry 28) 4 2 true false = .ok es →
        let w := fun (code cause : Nat) => s.unitSet die (capAdd r.entry 28) 4 (statusWord (if cause = 0 then r.valid else 0) code cause)
        (w code 0).ccbPlace ch.die ch.ccb = some blk → (w 2 cause).ccbPlace ch.die ch.ccb = some blk →
        let ends := ch.ended || (fld r.ent 0 1 == 15 && !r.dropped)
        let t := s.finishEntry die eng r code
        let f := s.faultEntry die eng r cause
        ((entBarv r.ent = false ∨ r.dropped = true) →
          bytesNat (es.map t.byte) = statusWord r.valid code 0 % 2 ^ 32 ∧ t.num (blk + 8 * 32) 8 = r.seq % 2 ^ 64 ∧
          t.num (blk + 8 * 41) 1 = (if ends then 2 else if (w code 0).ccb ch.die blk 24 8 ≤ r.seq then 0 else 1) ∧
          ∀ a, a ∉ es → a ∉ run (blk + 8 * 32) 8 → a ≠ blk + 8 * 41 → t.byte a = s.byte a) ∧
        (0 < cause → bytesNat (es.map f.byte) = statusWord 0 2 cause % 2 ^ 32 ∧ f.num (blk + 8 * 41) 1 = 3 ∧ f.num (blk + 8 * 48) 8 = r.seq % 2 ^ 64 ∧
          (∀ a, a ∉ es → a ∉ run (blk + 8 * 48) 8 → a ≠ blk + 8 * 41 → f.byte a = s.byte a) ∧
          (∀ x ∈ f.chains, x.ccb = r.ccb → x.fill = false → x.faulted = true) ∧
          ∃ k, (f.die (dieOf r.core)).recs = (s.die (dieOf r.core)).recs ++ [k] ∧ k.cls = 0x14 ∧ k.cause = cause ∧ k.opn = true ∧ k.addr = r.ccb ∧
            k.info = BitVec.ofNat 64 r.seq)) ∧
      -- Its arrival.
      (let a := fld r.ent 24 4
       let t := s.copyArrive r
       let n := (s.core r.core).stalearr
       let stale := (t.core r.core).stalearr = (if n = 0xFFFFFFFF then n else n + 1) ∧ ∀ p, t.byte p = s.byte p
       (s.anyCtx r.ctx = none → stale) ∧
       ∀ c, s.anyCtx r.ctx = some c →
        let p := sharedP r.ctx a
        let b := pbOf (s.num p 8)
        (a % 8 ≠ 0 ∨ c.kernel.sharedBytes < a + 8 ∨ b.gen ≠ fld r.ent 4 2 % 2 ^ 15 ∨ b.expected = 0 ∨ b.pending = 0 → stale) ∧
        (a % 8 = 0 → a + 8 ≤ c.kernel.sharedBytes → b.gen = fld r.ent 4 2 % 2 ^ 15 → b.expected ≠ 0 → b.pending ≠ 0 →
          t.num p 8 = pbWord (if b.pending = 1 then { b with phase := 1 - b.phase, pending := b.expected } else { b with pending := b.pending - 1 }) % 2 ^ 64 ∧
          t.cores = s.cores ∧ ∀ q, q ∉ run p 8 → t.byte q = s.byte q))) ∧
    -- What a unit writes, and how a command of a queue ends.
    (∀ (c : Cap) (bs : List Byte) (ps : List Nat), s.unitRange die c bs.length 2 true false = .ok ps → ps.length = bs.length → ps.Nodup →
      (∀ p ∈ ps, isRemote p = false ∧ pTag p ≠ 7) → ∀ a, (s.unitWrite die c bs).byte a = (sGet (ps.zip bs) a).getD (s.byte a)) ∧
    (∀ q seq valid code cause value p, (s.queue q).pend.find? (fun p => p.seq == seq && !p.done) = some p → p.fin = none →
      ((s.queue q).pend.map (fun p => p.seq)).Nodup →
      let st := statusWord valid code cause
      let u := s.modPend q seq (fun p => { p with fin := some (st, value) })
      let done := fun (w : State) => ((w.modPend q seq (fun p => { p with done := true })).advanceDone q).showQueue q
      (p.crec = none → s.completeCmd q seq valid code cause value = done (u.unitSet 0 (capAdd p.entry 28) 4 st)) ∧
      ∀ c, p.crec = some c → u.releaseAll.allReleased true = true → u.releaseAll.cmdOwes { p with fin := some (st, value) } = false →
        s.completeCmd q seq valid code cause value =
          done ((u.releaseAll.unitSet 0 (capAdd p.entry 28) 4 st).unitWrite 0 c (natBytes 8 p.seq ++ natBytes 4 st ++ natBytes 4 value))) ∧
    ∀ q blk, pTag blk = 0 →
      let rest := (s.queue q).pend.dropWhile (fun p => p.done)
      let n := match rest with
        | [] => (s.queue q).taken
        | p :: _ => p.seq - 1
      let at_ := fun (u : State) => (u.qdesc q).bind (fun d => u.ccbPlace 0 d.chain) = some blk
      let t := s.advanceDone q
      at_ s → at_ (s.setCcb 0 blk 32 8 n) → (t.queue q).pend = rest ∧ t.num (blk + 8 * 32) 8 = n % 2 ^ 64 ∧
        ∀ a, a ∉ run (blk + 8 * 32) 8 → a ≠ blk + 8 * 41 → t.byte a = s.byte a

/-! ### The distributor, saved contexts and speculation -/

/-- R322, R323, R327, R386, R391: with no speculative run, the distributor places the next block of the chosen launch or the head task of a die on the cores chosen for it, or restores a saved context; a context that has stopped is saved with its registers, convergence registers, gather slots, waits and outstanding loads, its shared memory as it was, in an area taken from its die's pool; and a saved one is placed again on its new cores with all of these, its area free again. A placement's acquire and a restored task follow log 26 and 35. -/
def Obligations.Placement : Prop :=
  ∀ (s : State), NoPins s → (∀ e ∈ s.ctxs, e.2.spec = none) → (∀ j, j < 4 → (s.slot j).state = .idle) →
    (∀ w cores, s.nextWork = some w → s.headCores w.head (fun _ c => c.isRun) = some cores →
      let placed := fun (P : Ctx → State → Prop) => Reaches .placementAttempt s (fun t => t.nextCtx = s.nextCtx + 1 ∧
        ∃ c, sGet t.ctxs s.nextCtx = some c ∧ c.cores = cores ∧ c.spec = none ∧ c.placed = s.cycle ∧ P c t)
      (∀ n l, w.head = .block n → s.launches.find? (fun l => l.no == n) = some l → placed (fun c t =>
        c.launch = n ∧ c.block = l.next ∧ c.kernel = l.kernel ∧ c.arg = l.cmd.args ∧ c.threads = mkThreads l.kernel l.cmd.blockdim ∧
        t.launches = s.launches.map (fun l => if l.no = n then { l with next := l.next + 1 } else l))) ∧
      (∀ d k rest, w.head = .task d → (s.die d).tasks = k :: rest → placed (fun c t =>
        c.trec = some k ∧ c.task = k.cap ∧ c.arg = k.args ∧ c.threads = mkThreads (taskKernel k) 32 ∧ (t.die d).tasks = rest)) ∧
      (∀ k, w.head = .saved k → Becomes .placementAttempt s { s with agenda := s.agenda ++ [.contextRestore k] })) ∧
    ∀ (k : Nat) (c : Ctx),
      (sGet s.ctxs k = some c → c.handler = false → c.cancelled = false → NoStores c → Clean s →
        (c.saving = true ∨ c.areaBytes ≤ (s.die c.die).pools.save) → (s.stopCtx k).stopped k c = true →
        Reaches (.contextSave k) s (fun t => sGet t.ctxs k = none ∧ ∃ c', sGet t.saved k = some c' ∧
          c'.threads = c.threads ∧ c'.wheels = c.wheels ∧ c'.cregs = c.cregs ∧ c'.tregs = c.tregs ∧ c'.gslots = c.gslots ∧ c'.waits = c.waits ∧
          c'.loads = c.loads ∧ c'.remotes = c.remotes ∧ c'.withdrawn = c.withdrawn ++ s.queuedOps k c ∧
          c'.area = (if c.saving then c.area else c.areaBytes) ∧
          (t.die c.die).pools.save = (s.die c.die).pools.save - (if c.saving then 0 else c.areaBytes) ∧ (∀ a, t.byte a = s.byte a) ∧
          (c.trec = none → t.launches = s.launches.map (fun l => if l.no = c.launch then { l with restore := l.restore ++ [k] } else l)))) ∧
      (∀ cores, sGet s.saved k = some c → s.headCores (.saved k) (fun _ c => c.isRun) = some cores → s.locksFit c cores = true →
        (∀ o ∈ c.loads, o.arrived = false ∧ o.refused = false) →
        Reaches (.contextRestore k) s (fun t => sGet t.saved k = none ∧ ∃ c', sGet t.ctxs k = some c' ∧ c'.cores = cores ∧
          c'.launch = c.launch ∧ c'.block = c.block ∧
          c'.cregs = c.cregs.map (fun e => (cvKey (c.newCore cores (e.1 / 16)) (e.1 % 16), e.2)) ∧
          c'.tregs = c.tregs.map (fun e => (cvKey (c.newCore cores (e.1 / 16)) (e.1 % 16), e.2)) ∧ c'.gslots = c.gslots ∧ c'.placed = s.cycle ∧
          c'.loads = c.loads ∧ c'.remotes = c.remotes ∧ c'.area = 0 ∧ (t.die c.die).pools.save = (s.die c.die).pools.save + c.area ∧
          (∀ a, t.byte a = s.byte a) ∧ c'.wheels.map (fun w => (w.idx, w.core, w.quarter, w.window, w.sregs, w.frame)) =
            c.wheels.map (fun w => (w.idx, c.newCore cores w.core, w.quarter, w.window, w.sregs, w.frame)) ∧
          c'.threads.map (fun x => (x.tid, x.pc, x.preds, x.vregs)) = c.threads.map (fun x => (x.tid, x.pc, x.preds, x.vregs))))

/-- R355, R358, R360, R362-R365: SPECULATION_START completes in the slot that its queue may use, its predicted arguments in the argument object; CLAIM_CHECK of a claim whose frames nobody wrote completes with a launch that begins its commit, and any other discards the run and enters the launch taken; SHADOW_COMMIT_COMPLETE, once the launch's count is accepted, writes the run's stores, and nothing else, to their home frames and completes with the blocks real, and with the launch's decrement if the run was DONE; SPECULATION_TIMEOUT of a run that nobody claims in time completes with its discard, cause 8. The layers of a commit follow log 66 and 70. -/
def Obligations.SpeculativeRuns : Prop :=
  (∀ (s : State) (q k : Nat) (p : Hist) (kern : Kernel), NoPins s → s.runQueue = some q → s.mayRun q = some (p, kern, k) →
    ∃ t, exec (.speculationStart q) s = .next t ∧
      (t.slot k).state = .running ∧ (t.slot k).queue = q ∧ (t.slot k).pred = p ∧ (t.slot k).kernel = kern ∧
      (t.slot k).argobj = s.pectl.argobj + k ∧ t.pectl.starts = min (s.pectl.starts + 1) 0xFFFFFFFF ∧
      ∀ a, s.argFrame k = some a → ∀ x, t.byte x =
        (sGet ((run a (8 * p.argv.length)).zip (p.argv.flatMap (fun (v : BitVec 64) => natBytes 8 v.toNat))) x).getD (s.byte x)) ∧
  (∀ (s : State) (k n seq : Nat), (s.slot k).state = .claiming → (s.slot k).claim = some (n, seq) → (s.slot k).conflict = false →
    s.agenda.all isClaimCheck = true →
    ∃ t, exec (.claimCheck k) s = .next t ∧ t.launchNo = nextLaunch s.launchNo ∧
      t.slot k = { s.slot k with state := .commit, claim := some (nextLaunch s.launchNo, seq) } ∧
      (∃ l, t.launches = s.launches ++ [l] ∧ l.no = nextLaunch s.launchNo ∧ l.slot = some k ∧ l.seq = seq ∧ l.specBit = true ∧
        l.phase = (s.slot k).phase ∧ l.cmd.args = mkCap (s.slot k).argobj 0) ∧
      t.pectl.claims = min (s.pectl.claims + 1) 0xFFFFFFFF ∧ ∀ a, t.byte a = s.byte a) ∧
  (∀ (s : State) (k n seq : Nat), (s.slot k).state = .claiming → (s.slot k).claim = some (n, seq) → (s.slot k).conflict = true →
    s.agenda.all isClaimCheck = true →
    ∃ t, exec (.claimCheck k) s = .next t ∧ (t.slot k).state = .idle ∧ t.pectl.discards = min (s.pectl.discards + 1) 0xFFFFFFFF ∧
      (∀ p ∈ t.shadow, p.slot ≠ k) ∧ t.launchNo = nextLaunch s.launchNo ∧
      ∃ l, t.launches = s.launches ++ [l] ∧ l.no = nextLaunch s.launchNo ∧ l.slot = none ∧ l.seq = seq ∧ l.cmd = (s.slot k).real) ∧
  (∀ (s : State) (k n seq : Nat), NoPins s → (s.slot k).state = .commit → (s.slot k).claim = some (n, seq) → s.countAccepted n = true →
    (∃ t, exec (.shadowCommitComplete k) s = .next t ∧ (∀ p ∈ t.shadow, p.slot ≠ k) ∧
      ∀ j c, sGet s.ctxs j = some c → c.spec = some k → ∃ c', sGet t.ctxs j = some c' ∧ c'.spec = none ∧ c'.launch = n ∧ c'.paused = false) ∧
    let cells := (s.shadow.filter (fun p => p.slot == k)).flatMap (fun p =>
      p.mask.map (fun o => (canopyP p.die (p.frame * 65536 + o), s.byte (shadowP p.page o))))
    ((∀ e ∈ s.ctxs, e.2.spec = some k → NoStores e.2) → (cells.map (fun c => c.1)).Nodup →
      (∃ v : State, Becomes (.shadowCommitComplete k) s ((v.endLaunch n).showQueue (s.slot k).queue) ∧
        (∀ a, pTag a ≠ 4 → v.byte a = (sGet cells a).getD (s.byte a)) ∧
        v.launches = s.launches.map (fun l => if l.no = n then { l with units := if (s.slot k).wasDone then 0 else l.cmd.blocks - (s.slot k).ended } else l)) ∧
      ∀ l, (s.slot k).wasDone = true → Clean s → (∀ e ∈ s.dies, e.2.evAcks = []) → s.owesGrid (fun c => c.launch == n && c.graph.isNone) = false →
        s.launches.find? (fun l => l.no == n) = some l → l.cancelled = false → Reaches (.shadowCommitComplete k) s (fun t =>
          (∀ m ∈ t.launches, m.no ≠ n) ∧ ∃ i ∈ (t.die 0).reg.issued, i.upd = { loc := l.cmd.loc, time := l.cmd.ltime, delta := -1 } ∧ i.owner = some (.launch n)))) ∧
  ∀ (s : State) (k : Nat), (s.slot k).state = .done → max (s.queue (s.slot k).queue).lastTake (s.slot k).doneAt + 2 ^ 22 < s.cycle →
    ∃ t, exec (.speculationTimeout k) s = .next t ∧ (t.slot k).state = .idle ∧ (t.queue (s.slot k).queue).lastCause = 8 ∧
      ∀ p ∈ t.shadow, p.slot ≠ k

/-! ### Tables and residency -/

/-- R378, R379, R381: a table command whose fields pass: HOTREAD answers the counts at once; WRITEDESC and WRITELEAF write the entry in every copy and end at once, or Lmax later where they withdraw what a cached entry might still grant, and an entry that would map a frame anew is refused with STATUS 3; MIGRATE clears W in every copy, waits Lmax, takes a frame, copies the page and maps it in every copy, or restores W; a frame returns zeroed, no copy of it left. WRITEDESC and WRITELEAF of entries with clear or reserved bits follow log 39. -/
def Obligations.TableCommands : Prop :=
  ∀ (s : State) (die : Nat),
    let obj := capObj (s.cmdPage die)
    let page := capOfs (s.cmdPage die) / 65536
    let old := s.leafWord die obj page
    let new := leafFor die die (s.cmdFld die 16 8)
    let mapped := s.eachLeaf obj page (fun c _ => leafFor die c new)
    let entry := fun (c w g : Nat) => s.leafP c (dLeafofs w) g
    let apart := fun (o g : Nat) => ∀ c w, c < 4 → s.readDesc c o = some w → ∀ p ∈ run (entry c w g) 8, ∀ d, d < 4 →
      p ∉ run (s.descP d o) 32 ∧ ∀ v, d ≠ c → s.readDesc d o = some v → p ∉ run (entry d v g) 8
    let inAll := fun (o g : Nat) (f : Nat → Nat → Nat) (t : State) =>
      apart o g → ∀ c w, c < 4 → s.readDesc c o = some w → t.num (entry c w g) 8 = f c (s.num (entry c w g) 8) % 2 ^ 64
    let elsewhere := fun (o g : Nat) (t : State) =>
      apart o g → ∀ a, pTag a ≠ 7 → (∀ c w, c < 4 → s.readDesc c o = some w → a ∉ run (entry c w g) 8) → t.byte a = s.byte a
    let takes := fun (op : Nat) => s.tableReady die = true ∧ s.cmdFld die 0 1 = op ∧ s.tableReserved die = false ∧ s.tableNoObj die = false
    let done := fun (seq st : Nat) (t : State) => (t.die die).twait = none ∧ t.cmdFld die 40 8 = seq % 2 ^ 64 ∧ t.cmdFld die 60 4 = st
    let ends := fun (slow : Bool) (t : State) => (slow = false → done (s.cmdFld die 32 8) 0 t) ∧
      (slow = true → (t.die die).twait = some { till := s.cycle + s.lmax, seq := s.cmdFld die 32 8, page := s.cmdPage die, status := some 0 })
    (∀ o n, leafSlow o n = true ↔ (natBits o 0 1 = 1 ∧ natBits n 0 1 = 0) ∨ (natBits o 4 1 = 1 ∧ natBits n 4 1 = 0) ∨ (natBits o 5 1 = 1 ∧ natBits n 5 1 = 0) ∨
      (natBits o 7 1 = 0 ∧ natBits n 7 1 = 1) ∨ natBits o 1 3 ≠ natBits n 1 3 ∨ natBits o 8 32 ≠ natBits n 8 32 ∨ natBits o 40 8 ≠ natBits n 40 8) ∧
    (∀ o n, descSlow o n = true ↔ natBits n 0 44 < natBits o 0 44 ∨ (∃ k, k < 5 ∧ natBits o (64 + k) 1 = 1 ∧ natBits n (64 + k) 1 = 0) ∨
      (natBits o 69 1 = 1 ∧ natBits n 69 1 = 0) ∨ natBits o 72 4 ≠ natBits n 72 4 ∨ natBits o 96 32 ≠ natBits n 96 32) ∧
    (takes 4 → Reaches (.hotread die) s (fun t => done (s.cmdFld die 32 8) 0 t ∧ t.cmdFld die 48 10 = s.hotCounts die obj page % 2 ^ 80)) ∧
    (takes 3 → s.descBad (s.cmdFld die 16 16) = false →
      Becomes (.writedesc die) s (((List.range 4).foldl (fun u c => u.putNum (u.descP c obj) 16 (s.cmdFld die 16 16)) s).tableEnd die 0
        (descSlow (s.num (s.descP die obj) 32) (s.cmdFld die 16 16))) ∧
      Reaches (.writedesc die) s (fun t => ends (descSlow (s.num (s.descP die obj) 32) (s.cmdFld die 16 16)) t ∧
        ((∀ c d, c < 4 → d < 4 → c ≠ d → ∀ p ∈ run (s.descP c obj) 16, p ∉ run (s.descP d obj) 16) →
          ∀ c, c < 4 → t.num (s.descP c obj) 16 = s.cmdFld die 16 16) ∧
        ∀ a, pTag a ≠ 7 → (∀ c, c < 4 → a ∉ run (s.descP c obj) 16) → t.byte a = s.byte a)) ∧
    (takes 1 → leafHeld die new = none →
      Becomes (.writeleaf die) s ((mapped.giveBack (leafHeld die old)).tableEnd die 0 (leafSlow old new)) ∧
      Reaches (.writeleaf die) s (fun t => ends (leafSlow old new) t ∧ inAll obj page (fun c _ => leafFor die c new) t ∧ elsewhere obj page t)) ∧
    (takes 1 → ∀ f, leafHeld die new = some f →
      let may := leafHeld die old = some f ∨ ((leafHeld die old).isNone = true ∧ s.frameHeld f = true)
      (may → Becomes (.writeleaf die) s (mapped.tableEnd die 0 (leafSlow old new)) ∧
        Reaches (.writeleaf die) s (fun t => ends (leafSlow old new) t ∧ inAll obj page (fun c _ => leafFor die c new) t ∧ elsewhere obj page t)) ∧
      (¬may → Reaches (.writeleaf die) s (fun t => done (s.cmdFld die 32 8) 3 t ∧ ∀ a, pTag a ≠ 7 → t.byte a = s.byte a))) ∧
    (takes 2 → Reaches (.migrate die) s (fun t => (t.die die).twait = some { till := s.cycle + s.lmax, seq := s.cmdFld die 32 8
                                                                             page := s.cmdPage die, old := BitVec.ofNat 64 old
                                                                             target := s.cmdFld die 16 1 % 4 } ∧
      inAll obj page (fun _ x => natSetBits x 4 1 0) t ∧ elsewhere obj page t)) ∧
    (∀ w, (s.die die).twait = some w →
      (w.till < s.cycle →
        (∀ st, w.status = some st → Reaches (.tableLeaseWaitExpiry die) s (done w.seq (st % 2 ^ 32))) ∧
        (w.status = none → w.frame = none → NoPins s → s.pageDrained (s.oldPage die w) = true →
          (∀ f, (s.die w.target).pools.lowest = some f → Reaches (.tableLeaseWaitExpiry die) s (fun t =>
            (t.die die).twait = some { w with frame := some f } ∧ f ∈ (t.die w.target).pools.used)) ∧
          ((s.die w.target).pools.lowest = none → Reaches (.tableLeaseWaitExpiry die) s (done w.seq 4)))) ∧
      (∀ f faulted bad data, w.status = none → w.frame = some f → s.migrateOutcome die w = some (bad, data) →
        let o := capObj w.page
        let g := capOfs w.page / 65536
        let frame := run (canopyP w.target (f * 65536)) 65536
        let word := natSetBits (natSetBits (natSetBits w.old.toNat 1 3 (if w.target = die then 0 else 1)) 8 32
          (if w.target = die then f else f + w.target * 2 ^ 21)) 5 1 0
        let clear := ∀ p ∈ frame, ∀ c, c < 4 → p ∉ run (s.descP c o) 32 ∧ ∀ v, s.readDesc c o = some v → p ∉ run (entry c v g) 8
        Reaches (.migrateCopyComplete die faulted) s (fun t => done w.seq (if bad || faulted then 5 else 0) t ∧
          ((bad || faulted) = true → f ∉ (t.die w.target).pools.used ∧
            inAll o g (fun _ x => natSetBits x 4 1 (natBits w.old.toNat 4 1)) t ∧ elsewhere o g t) ∧
          ((bad || faulted) = false → data.length = 65536 → clear → inAll o g (fun c _ => leafFor die c word) t ∧
            (apart o g → frame.map t.byte = data) ∧
            (apart o g → ∀ a, pTag a ≠ 7 → a ∉ frame → (∀ c v, c < 4 → s.readDesc c o = some v → a ∉ run (entry c v g) 8) → t.byte a = s.byte a)) ∧
          ((bad || faulted) = false → ∀ d g, leafHeld die w.old.toNat = some (d, g) → t.frameHeld (d, g) = false → (g, s.cycle + s.lmax) ∈ (t.die d).pools.back)))) ∧
    ∀ f till, (f, till) ∈ (s.die die).pools.back → till < s.cycle → s.pageIdle (canopyP die (f * 65536)) = true →
      Reaches (.frameReturn die f) s (fun t => f ∉ (t.die die).pools.used ∧ (∀ a, a < 65536 → t.byte (canopyP die (f * 65536 + a)) = 0) ∧
        (∀ e ∈ t.cores, ∀ x ∈ e.2.l1, inPage (canopyP die (f * 65536)) x.1 = false) ∧ ∀ e ∈ t.dies, ∀ x ∈ e.2.l2, inPage (canopyP die (f * 65536)) x.1 = false)

/-- R372, R373, R383, R385: a waited-for entry is read from the die's copy and its waits end; an entry whose lease has ended is dropped; a fill whose templates have completed leaves its entry resident, a faulted one leaves it empty with ERR and its frames on their way back; an eviction ends after its wait, and a refill starts if one is owed. An invalid entry is held as log 40 says. -/
def Obligations.CachedTables : Prop :=
  ∀ (s : State),
    (∀ k c w core obj, sGet s.ctxs k = some c → w ∈ c.waits → w.kind = .miss (.desc core obj) →
      Reaches (.translationFill (.desc core obj)) s (fun t =>
        (t.core core).desc obj = some (match s.readDesc (dieOf core) obj with
          | some v => { obj := obj, valid := true, extent := dExtent v, rights := dRights v, leafofs := dLeafofs v, till := s.leaseTill (dLease v) }
          | none => { obj := obj, valid := false, extent := 0, rights := 0, leafofs := 0, till := s.cycle + 1024 }) ∧
        ∃ c', sGet t.ctxs k = some c' ∧ c'.waits = c.waits.filter (fun x => !(c.waits.filter (fun y => y.isMiss (.desc core obj))).any (fun y => y.wid == x.wid)))) ∧
    (∀ k c w die obj page, sGet s.ctxs k = some c → w ∈ c.waits → w.kind = .miss (.leaf die obj page) →
      Reaches (.translationFill (.leaf die obj page)) s (fun t =>
        (t.die die).leaf obj page = some { obj := obj, page := page, word := BitVec.ofNat 64 (s.leafWord die obj page), till := s.leaseTill (lfLease (s.leafWord die obj page)) } ∧
        ∃ c', sGet t.ctxs k = some c' ∧ c'.waits = c.waits.filter (fun x => !(c.waits.filter (fun y => y.isMiss (.leaf die obj page))).any (fun y => y.wid == x.wid)))) ∧
    (∀ core obj, Becomes (.leaseExpiry (.desc core obj)) s (s.modCore core (fun x => { x with dcache := x.dcache.filter (fun d => d.obj != obj || decide (s.cycle ≤ d.till)) }))) ∧
    (∀ die obj page, Becomes (.leaseExpiry (.leaf die obj page)) s (s.modDie die (fun x => { x with lcache := x.lcache.filter (fun l => l.obj != obj || l.page != page || decide (s.cycle ≤ l.till)) }))) ∧
    ∀ e, let r := s.residOf e
      (r.state = 1 → r.mapped = true → r.bad = false → r.nt + 1 ≤ r.filled →
        Becomes (.expertFillComplete e) s { s with resid := sPut s.resid e { r with state := 2 } }) ∧
      (r.state = 1 → r.bad = true → Reaches (.expertFillFault e) s (fun t =>
        t.residOf e = { r with state := 0, err := true, frames := [], mapped := false } ∧
        (t.die r.wdie).pools.resBack = (s.die r.wdie).pools.resBack ++ r.frames.map (fun f => (f, s.cycle + s.lmax)))) ∧
      (r.state = 4 → r.evictAt < s.cycle → (s.resid.map (fun x => x.1)).Nodup → (∀ f ∈ r.frames, s.pageIdle (canopyP r.wdie (f * 65536)) = true) → Reaches (.evictionEnd e) s (fun t =>
        (t.residOf e).state = (if r.refill = true ∧ 0 < r.refs then 1 else 0) ∧ (t.residOf e).refs = r.refs))

/-! ### Batches and frontiers -/

/-- R335, R336, R338, R340, R342, R344-R347: a batch closes, takes the next sequence, reaches the views of this device and is sent to the others; one from another device reaches the views and is answered, with retry while the device hands its state over; STATUS 0 settles a destination, 4 and 5 have the batch sent there again 256 cycles later; an announced frontier never moves back; an update adds its amount to its pair's count and to no other. When frontiers are announced and how long batches are split follow log 15 and 63. -/
def Obligations.ProgressBatches : Prop :=
  (∀ (s : State) (die : Nat),
    let reaches := fun (src seq : Nat) (us : List Upd) (t : State) =>
      (∀ d, d < 4 → (s.reg d).nextOf src = seq ∧ (s.reg d).stopped = false ∧ (s.reg d).heldRoom = [] ∧ (s.reg d).reorder = [] ∧ (s.reg d).fits us = true ∧
        ∀ u ∈ us, overflows ((s.reg d).count u.loc u.time + u.delta) = false) → (us.map (fun u => (u.loc, u.time))).Nodup →
      ∀ d, d < 4 → (t.reg d).nextOf src = (seq + 1) % 2 ^ 32 ∧
        ∀ l x, (t.reg d).count l x = (s.reg d).count l x + ((us.find? (fun u => u.loc == l && u.time == x)).map (fun u => u.delta)).getD 0
    ((s.reg die).closes s.cycle = true → Becomes (.batchCloseTimeout die) s
      { s.modReg die (fun r => { r with issued := r.issued.drop r.head.length }) with
        submitted := s.submitted ++ [{ die := die, items := (s.reg die).head }] }) ∧
    (∀ b, s.nextBatch = some b → b.die = die → Reaches (.batchSequencing die) s (fun t => t.seq = (s.seq + 1) % 2 ^ 32 ∧
      t.submitted = s.submitted.erase b ∧ t.sendbuf.map (fun x => x.seq) = s.sendbuf.map (fun x => x.seq) ++ (if s.others = [] then [] else [s.seq]) ∧
      reaches s.mycoord s.seq (b.items.map (fun i => i.upd)) t)) ∧
    (∀ (b : Batch), b.bad = false → s.handingOver = false →
      let x := s.receiveAll die b [] 4
      Becomes (.batchArrival die b) s (x.2.respond die (.back (x.2.coordAt die) b.seq x.1 b.src false false false)) ∧
      Reaches (.batchArrival die b) s (reaches b.src b.seq b.upds) ∧
      ((∀ d, d < 4 → (s.reg d).reorder.length < 1024) → x.1 = 0)) ∧
    (∀ (b : Batch), b.bad = false → s.mgmt.evctl.state ∈ [.transfer, .drain, .safe, .abort] →
      Becomes (.batchArrival die b) s (s.respond die (.back (s.coordAt die) b.seq 5 b.src false false false))) ∧
    (∀ (b : Batch), b.bad = true → Reaches (.batchArrival die b) s (fun t =>
      (t.reg die).regerr = min 65535 ((s.reg die).regerr + 1) ∧ (t.reg die).view = (s.reg die).view ∧ (t.reg die).next = (s.reg die).next)) ∧
    (∀ src seq, Becomes (.batchAckArrival src seq 0) s { s with sendbuf := (s.sendbuf.map (fun b =>
      if b.seq = seq then { b with dests := b.dests.filter (fun x => x.1 != src) } else b)).filter (fun b => !b.dests.isEmpty) }) ∧
    (∀ src seq, (s.sendbuf.any (fun b => b.seq == seq && b.dests.any (fun x => x.1 == src))) = true →
      Reaches (.batchAckArrival src seq 4) s (fun t => (t.reg 0).unreach = min 65535 ((s.reg 0).unreach + 1) ∧
        ∀ b ∈ t.sendbuf, b.seq = seq → ∀ x ∈ b.dests, x.1 = src → x.2 = .retryAt (s.cycle + 256))) ∧
    (∀ src seq, Becomes (.batchAckArrival src seq 5) s { s with sendbuf := (s.sendbuf.map (fun b =>
      if b.seq = seq then { b with dests := b.dests.map (fun x => if x.1 = src then (src, .retryAt (s.cycle + 256)) else x) } else b)).filter (fun b => !b.dests.isEmpty) }) ∧
    (∀ b dst d, s.sendbuf.find? (fun x => x.seq == b.seq) = some b → b.dests.find? (fun x => x.1 == dst) = some (dst, d) →
      d = .fresh ∨ (∃ p k, d = .sent p k ∧ k + 2 ^ 20 < s.cycle) ∨ (∃ k, d = .retryAt k ∧ k ≤ s.cycle) →
      Becomes (.batchResendTimeout dst b.seq) s (s.sendBatch b.seq b.upds dst) ∧
      ∀ port e, s.route 0 (s.useBank 0 dst) dst = some (port, e) → ((s.destWord 0 (coordRank s.grid dst)).hold && s.unsent b.seq dst) = false →
        Reaches (.batchResendTimeout dst b.seq) s (fun t =>
          (t.link port).txq = (s.link port).txq ++ [.batch { src := s.mycoord, seq := b.seq, upds := b.upds } dst e (s.useBank 0 dst == 1) false] ∧
          ∀ x ∈ t.sendbuf, x.seq = b.seq → ∀ y ∈ x.dests, y.1 = dst → y.2 = .sent (some port) s.cycle)) ∧
    (∀ c, (s.reg die).announce = some c → c < s.cycle → (s.reg die).stopped = false → Reaches (.frontierAnnouncement die) s (fun t => (t.reg die).announce = none ∧
      ∀ l, l < s.nLoc → sGet (t.reg die).front l = some (newFront (sGet (s.reg die).front l) (s.frontier die l))))) ∧
  (∀ (o f : BitVec 64) (n : Nat), n < 2 ^ 64 → newFront (some (some o)) (some n) = some f → o.toNat ≤ f.toNat) ∧
  (∀ n, newFront (some none) n = none) ∧
  ∀ (s : State) (die : Nat) (u : Upd), (s.reg die).stopped = false → overflows ((s.reg die).count u.loc u.time + u.delta) = false →
    ∀ l t, ((s.applyUpd die (u, none)).reg die).count l t = (s.reg die).count l t + (if l = u.loc ∧ t = u.time then u.delta else 0)

/-! ### Packets and links -/

/-- R291-R293, R295, R297, R374, R420: packets of the next contribution go to its destination over the link of its rule, also when they are sent again; a request of one element that passes is performed once and answered; a peer's read is answered with its bytes; answers settle what they answer; relays and held responses go on over their routes. The order of contributions and repeated packets follow log 29, 30 and 31. -/
def Obligations.GridEvents : Prop :=
  ∀ (s : State) (die : Nat),
    (∀ c dst, dst ≠ s.coordAt die → ∀ port d, s.route die (s.useBank die dst) dst = some (port, d) →
      let goes := fun (i : Instr) => Reaches i s (fun t =>
        (t.link port).txq = (s.link port).txq ++ c.pkts.map (fun p => Msg.pkt { p with dstc := dst, detour := d, ver := s.useBank die dst == 1 }) ∧
        (t.die die).grid = { (s.die die).grid with contribs := (s.die die).grid.contribs.map (fun x =>
          if x.cseq = c.cseq then { x with dests := x.dests.map (fun y => if y.1 = dst then (dst, .sent (some port) s.cycle) else y) } else x) })
      ((s.die die).grid.staged = [] → s.nextSend die = some (c, dst) → goes (.crossbarExpansion die)) ∧
      (s.owedBefore die c.cseq dst = [] →
       (s.resendAt die c.cseq dst (fun d => match d with | .retryAt k => decide (k ≤ s.cycle) | _ => false) = some c → goes (.retryResend die c.cseq dst)) ∧
       (s.resendAt die c.cseq dst (fun d => match d with | .sent _ k => decide (k + 2 ^ 20 < s.cycle) | _ => false) = some c →
        goes (.contributionResendTimeout die c.cseq dst)))) ∧
    (∀ c, (s.die die).grid.staged = [] → s.nextSend die = some (c, s.coordAt die) → Becomes (.crossbarExpansion die) s { s.setDest die c.cseq (s.coordAt die) (.sent none s.cycle) with
      agenda := s.agenda ++ c.pkts.map (fun p => .requestPacketArrival die (.pkt { p with dstc := s.coordAt die })) }) ∧
    (∀ (p : Pkt) ps leaf, p.bad = false → p.dstc = s.coordAt die → p.srcc = s.coordAt die → s.waitsHere p = false → s.stalePkt die p = false → s.reasmOf p = none → p.npkt = 1 →
      p.rgv = false → p.ty ≤ 2 → p.nelem = 1 → p.poison = false → p.void = false → s.srcDelayed p = false → s.retriedOf die p = [] → s.pktPinned die p = false →
      let u := (s.gridHot die p).dropOwn die p
      u.elemSpot die p 0 = some (ps, leaf) → ps.Nodup → (p.data.take p.esize).length = ps.length → (∀ q ∈ ps, pTag q ≠ 7) →
      Reaches (.requestPacketArrival die (.pkt p)) s (fun t =>
        (∀ a, pTag a ≠ 7 → t.byte a = (sGet (ps.zip (p.data.take p.esize)) a).getD (s.byte a)) ∧
        (∀ d, d < 4 → sGet (t.die d).grid.high (s.srcKey p) = some p.cseq) ∧ t.agenda = s.agenda ++ [respEvent (answerTo p 0)])) ∧
    (∀ (r : PeerReq) ps, r.op = .read → s.unitRange die (mkCap r.obj r.ofs) r.n 1 false false = .ok ps → r.ofs < 2 ^ 44 →
      (∀ q ∈ ps, pTag q = 0 ∧ s.pinned 160 (lineOf q) = false ∧ s.poison.contains (place (pTag q) (pIdx q / 4 * 4)) = false) →
      Reaches (.requestPacketArrival die (.peer r)) s (fun t =>
        t.peerAns = s.peerAns ++ [{ dst := r.src, tag := r.tag, refused := false, data := ps.map s.byte }])) ∧
    (∀ (p : Pkt) c, (s.die die).grid.contribs.find? (fun c => c.cseq == p.cseq && c.dests.any (fun x => x.1 == p.srcc)) = some c →
      (p.status ≤ 4 → (c.pkts.headD {}).ty ≤ 3 →
        Becomes (.acknowledgementArrival die p) s (s.contribAnswer die c p.srcc p.status) ∧
        Reaches (.acknowledgementArrival die p) s (fun t => ∀ x ∈ (t.die die).grid.contribs, x.cseq = c.cseq → ∀ y ∈ x.dests, y.1 ≠ p.srcc)) ∧
      (p.status ≤ 4 → 3 < (c.pkts.headD {}).ty → Becomes (.gridReplyArrival die p) s (s.askAnswer die c p)) ∧
      (p.status = 5 → Becomes (.acknowledgementArrival die p) s (s.setDest die c.cseq p.srcc (.retryAt (s.cycle + 256))) ∧
        Becomes (.gridReplyArrival die p) s (s.setDest die c.cseq p.srcc (.retryAt (s.cycle + 256))))) ∧
    (∀ (p : Pkt) port, p.detour = true → p.relayed = false → s.route die (if p.ver then 1 else 0) p.dstc = some (port, false) →
      Becomes (.detourRelay die p) s (s.enlink port (.pkt { p with detour := false, relayed := true }))) ∧
    ∀ (p : Pkt) at_ port d, (s.die die).grid.held = [{ msg := .pkt p, at_ := at_ }] → at_ ≤ s.cycle → p.dstc ≠ s.coordAt die →
      s.route die (s.curBank die) p.dstc = some (port, d) →
      Reaches (.responseRelookup die) s (fun t => (t.die die).grid.held = [] ∧
        (t.link port).txq = (s.link port).txq ++ [.pkt { p with detour := d, ver := s.curBank die == 1, relayed := false }])

/-- R410-R412, R418, R421-R423: what a received flit, a transmission and the events of a link do to it: its state, its sequence, its replay, and which of its packets are to be sent again; a route switch whose destinations owe nothing ends at once. A DOWN link and LINK_RESET follow log 14. -/
def Obligations.LinkEvents : Prop :=
  ∀ (s : State) (l : Nat),
    let k := s.link l
    let goes := fun (i : Instr) (f : Link) => Becomes i s { s with links := sPut s.links l f }
    (k.state = .up → ∀ flit,
      (flitOk (seqSeed k.exp) flit = true →
        let r := k.accept (s.headBytes (l / 8)) (flit.take 60)
        r.1.exp = (k.exp + 1) % 4096 ∧ r.1.ackv = true ∧ r.1.nakv = false ∧
        (r.2 = none → goes (.flitReceive l flit) r.1) ∧
        ∀ m, r.2 = some m → Becomes (.flitReceive l flit) s (({ s with links := sPut s.links l r.1 } : State).incoming (l / 8) m)) ∧
      (flitOk (seqSeed k.exp) flit = false → flitOk 0 flit = true → (k.control flit s.cycle).2 = false →
        goes (.flitReceive l flit) (k.control flit s.cycle).1) ∧
      (flitOk (seqSeed k.exp) flit = false → flitOk 0 flit = false →
        goes (.flitReceive l flit) { k with crcerr := min 65535 (k.crcerr + 1), nakv := true }) ∧
      goes (.flitTransmit l) (k.transmit s.cycle) ∧
      (k.replay ≠ [] → k.ackAt + 4096 < s.cycle →
        (k.rounds < 16 → goes (.replayTimeout l) { k with
          resend := k.replay.map (fun x => x.1), rounds := k.rounds + 1, replays := min 255 (k.replays + 1), ackAt := s.cycle }) ∧
        (16 ≤ k.rounds → Reaches (.replayTimeout l) s (fun t => (t.link l).state = .failed))) ∧
      ∀ i st, (i, st) ∈ [(Instr.laneLockLoss l, LinkState.failed), (.linkReset l, .down)] → Reaches i s (fun t =>
        (t.link l).state = st ∧ (t.link l).since = s.cycle ∧ (t.link l).txq = [] ∧ (t.link l).replay = [] ∧
        (∀ d, (t.die d).grid.contribs = (s.die d).grid.contribs.map (fun c => { c with dests := c.dests.map (fun x => (x.1, x.2.lost l)) })) ∧
        t.sendbuf = s.sendbuf.map (fun b => { b with dests := b.dests.map (fun x => (x.1, x.2.lost l)) }) ∧
        (t.die (l / 8)).grid.held = (s.die (l / 8)).grid.held ++
          (k.txq.filter (fun m => m.chan == 1 || (match m with | .back _ _ _ _ _ _ r => !r | _ => false))).map (fun m => { msg := m, at_ := s.cycle }))) ∧
    (k.state = .train →
      goes (.flitTransmit l) { k with out := trainFlit (s.coordAt (l / 8)) l } ∧
      (∀ peer die, k.lexpChk = true → k.lexpPeer ≠ peer →
        goes (.laneLock l peer die) { k with state := .failed, since := s.cycle, miswire := true, peercoord := peer }) ∧
      (∀ peer die, (k.lexpChk = false ∨ k.lexpPeer = peer) → goes (.laneLock l peer die)
        { state := .up, since := s.cycle, peercoord := peer, peerdie := die, lexpPeer := k.lexpPeer, lexpChk := k.lexpChk, txq := k.txq, ackAt := s.cycle }) ∧
      (k.since + 2 ^ 24 < s.cycle → goes (.trainTimeout l) { k with state := .failed, since := s.cycle }) ∧
      goes (.linkReset l) { k with state := .down, since := s.cycle }) ∧
    (k.state = .failed ∨ k.state = .down →
      (k.since + 2 ^ 22 < s.cycle → goes (.failedRetryTimeout l) { k with state := .train, since := s.cycle }) ∧
      goes (.linkReset l) { k with state := if k.state = .down then .train else .down, since := s.cycle }) ∧
    ((s.die l).fabric.busy = true → (∀ r, r < 32 → s.pend l r = 0) → Reaches (.routeSwitch l) s (fun t =>
      (t.die l).fabric = { (s.die l).fabric with curver := !(s.die l).fabric.curver, busy := false, dests := [] } ∧
      ∀ d, d ≠ l → t.die d = s.die d))

/-! ### The host and the management controller -/

/-- R366, R381, R424-R429, R439: a queue pair's request that fails its checks is refused, one that passes writes, reads or changes the bytes that it names and is answered; a control word is written only with the control right; a job loads, starts when its checks pass, ends, and leaves every byte 0. Control words, RDMA atomics and the end of a job follow log 28, 71, 74, 75 and 76. -/
def Obligations.HostRequests : Prop :=
  ∀ (s : State),
    (∀ qp die tag (opt : QpOpts) base,
      (0x10 ≤ qp → qp ≤ 0x100F → die < 4 → tag < 4096 → opt.reliable = true → opt.mtu ∈ [1024, 2048, 4096] → s.mgmt.power = .main → s.mgmt.inReset = false →
        Becomes (.queuePairCreate qp die tag opt base) s { s with
          qps := sPut s.qps qp { die := die, tag := tag, control := opt.control, mtu := opt.mtu, base := base } }) ∧
      (opt.reliable = false ∨ opt.mtu ∉ [1024, 2048, 4096] ∨ s.mgmt.inReset = true → Becomes (.queuePairCreate qp die tag opt base) s s)) ∧
    (∀ qp, Becomes (.queuePairDestroy qp) s { s with qps := sDel s.qps qp }) ∧
    (∀ qp x code, sGet s.qps qp = some x → Becomes (.unsupportedRdmaOpcode qp code) s { s with hostOut := s.hostOut ++ [.nakInvalid qp] }) ∧
    (∀ (r : Rdma) (n : Nat) (data : List Byte) (cas : Bool) (v cmp : BitVec 64) (die : Nat) (ps : List Nat), s.qpDelayed r.qp = false →
      let calm := s.forHost r.qp = [] ∧ ∀ p ∈ ps, isRemote p = false ∧ s.pinned 160 (lineOf p) = false ∧
        s.poison.contains (place (pTag p) (pIdx p / 4 * 4)) = false
      let tells := fun (m : HostMsg) (t : State) => t.hostOut = s.hostOut ++ [m]
      (s.rdmaAt r data.length 2 true = .refused → Becomes (.rdmaWrite r data) s { s with hostOut := s.hostOut ++ [.nakAccess r.qp] }) ∧
      (∀ o, s.rdmaAt r data.length 2 true = .control o → Becomes (.rdmaWrite r data) s ((s.ctlBytes o data).tellHost (.ack r.qp))) ∧
      (∀ p, s.rdmaAt r data.length 2 true = .loader p → Reaches (.rdmaWrite r data) s (fun t => tells (.ack r.qp) t ∧
        ∀ a, t.byte a = (sGet ((run p data.length).zip data) a).getD (s.byte a))) ∧
      (s.rdmaAt r data.length 2 true = .places die ps → calm → s.pubOf ((ps.zip data).map (fun c => c.1)) = [] → ps.Nodup → (∀ p ∈ ps, pTag p ≠ 7) →
        Reaches (.rdmaWrite r data) s (fun t => tells (.ack r.qp) t ∧ ∀ a, t.byte a = (sGet (ps.zip data) a).getD (s.byte a))) ∧
      (s.rdmaAt r n 1 false = .refused → Becomes (.rdmaRead r n) s { s with hostOut := s.hostOut ++ [.nakAccess r.qp] }) ∧
      (s.rdmaAt r n 1 false = .places die ps → calm → Reaches (.rdmaRead r n) s (tells (.data r.qp (ps.map (s.unitByte die))))) ∧
      (s.rdmaAt r 8 8 true = .places die ps → calm → capOfs r.addr % 8 = 0 → (∀ p ∈ ps, pTag p = 0) → ps.Nodup →
        let old := bytesNat (ps.map s.byte)
        Reaches (.rdmaAtomic r cas v cmp) s (fun t => tells (.old r.qp (BitVec.ofNat 64 old)) t ∧
          ∀ a, t.byte a = (sGet (ps.zip (natBytes ps.length (if cas then (if old = cmp.toNat then v.toNat else old) else (old + v.toNat) % 2 ^ 64))) a).getD (s.byte a)))) ∧
    (∀ tag ok data, let u : State := { s with hostReqs := s.hostReqs.filter (fun r => r.tag != tag) }
      (∀ k, s.loadCtx tag = some k → Becomes (.hostResponse tag ok data) s (u.reply k tag (!ok) data 0x0B 4)) ∧
      (s.loadCtx tag = none → Becomes (.hostResponse tag ok data) s (u.engReply tag (!ok) data))) ∧
    (∀ qp x o v, sGet s.qps qp = some x → s.qpDelayed qp = false → o % 4 = 0 → wideReg o = false →
      Becomes (.registerWrite (.control qp o) v) s (if x.control then s.ctlSet o (v.toNat % 2 ^ 32) else s)) ∧
    (∀ v, Becomes (.registerWrite .seccfg v) s { s with mgmt := { s.mgmt with seccfg :=
      { resp := if s.mgmt.seccfg.lock then s.mgmt.seccfg.resp else min 2 (v.toNat % 4), lock := s.mgmt.seccfg.lock || v.toNat / 4 % 2 == 1 } } }) ∧
    (∀ m : JobImage, s.job.state = .idle → Becomes (.jobLoad m) s { s with
      job := { s.job with state := .loading }, grid := if gridOk m.grid then m.grid else s.grid
      resid := m.resid.foldl (fun m x => sPut m x.1 (Resid.load x.2)) s.resid }) ∧
    (s.job.state = .loading → s.goErr ≠ 0 → Becomes .jobGo s { s with job := { s.job with err := s.goErr } }) ∧
    (s.job.state = .loading → s.goErr = 0 → Reaches .jobGo s (fun t => t.job.state = .run ∧ t.job.err = 0 ∧ t.launchNo = 0 ∧ t.queues = [] ∧
      ∀ d, d < 4 → (t.reg d).view = [{ loc := 0, time := BitVec.ofNat 64 (mkTime (s.locDepth 0) []), n := (gridSize s.grid : Int) }] ∧
        (t.reg d).owners = if d = 0 ∧ coordOk s.grid s.mycoord = true then
          [{ owner := .job, loc := 0, time := BitVec.ofNat 64 (mkTime (s.locDepth 0) []), n := 1 }] else [])) ∧
    (s.job.state = .run → Becomes .jobEnd s (s.cancelJob 0).recount) ∧
    (s.endingOver = true → Reaches .jobEndingComplete s (fun t => t.job = {} ∧ t.ctxs = [] ∧ t.saved = [] ∧ t.launches = [] ∧ t.poison = [] ∧ ∀ a, t.byte a = 0))

/-- R431, R434, R436-R443: power and firmware, sensors, alarms, attestation and scrubbing, and the handshake that hands the device to a spare, as each event leaves the controller. Message types, images and the spare's side follow log 7, 19, 20, 78, 79 and 82. -/
def Obligations.ManagementEvents : Prop :=
  ∀ (s : State),
    let m := s.mgmt
    let ev := m.evctl
    let good := fun (i : Sys2Proof.Image) => Config.verified i && decide (Config.minVersion ≤ i.version)
    let pw := fun (i : Instr) (P : Mgmt → Prop) => Reaches i s (fun t => P t.mgmt)
    let stands := fun (st : EvState) (x : Mgmt) => x.evctl.state = st ∧ x.evctl.stateAt = s.cycle
    (m.power = .off → pw .standbyPower (fun x => x.power = (if good m.fw && !m.torn then .main else .recovery) ∧ x.inReset = (good m.fw && !m.torn) ∧ x.fw = m.fw)) ∧
    (∀ i, m.power = .recovery → pw (.recoveryImage i) (fun x => x.power = (if good i then .main else .recovery) ∧ x.fw = i)) ∧
    (∀ i, m.power = .main → s.job.state = .idle → Becomes (.firmwareUpdate i) s { s with
      free := s.free + 1, mgmt := { m with torn := true, writing := some (i, Config.writeCycles s.free) } }) ∧
    Reaches (.powerLoss true) s (fun t => t.mgmt = { fw := m.fw, torn := m.torn, keysErased := m.keysErased, log := m.log } ∧ t.ctxs = [] ∧ ∀ a, t.byte a = 0) ∧
    (m.power = .main → Reaches (.powerLoss false) s (fun t => t.mgmt.power = .standby ∧ t.mgmt.log = m.log ∧ t.ctxs = [] ∧ ∀ a, t.byte a = 0)) ∧
    (m.inReset = true → Reaches .dieResetEnd s (fun t => t.mgmt = { m with inReset := false } ∧
      ∀ l, l < 31 → t.link l = { s.link l with state := .train, since := s.cycle })) ∧
    (∀ r, let crit := Config.critical r || decide (r.millivolts < 48000) || decide (54000 < r.millivolts)
      pw (.sensorSample r) (fun x => x.sensors = r ∧ x.power = (if crit = true ∧ m.power = .main then .standby else m.power) ∧
        (crit = false → x.sampleAt = s.cycle) ∧
        x.clockSteps = m.clockSteps + (if crit = false ∧ ((∃ k ∈ r.dies, Config.dieLimit < k) ∨ (∃ k ∈ r.layers, Config.layerLimit < k) ∨ 2600 < r.watts) then 1 else 0))) ∧
    pw .securityAlarm (fun x => x.keysErased = (m.keysErased || m.seccfg.resp == 2) ∧ x.power = m.power ∧
      x.inReset = (m.inReset || (m.seccfg.resp != 0 && m.power == .main))) ∧
    (∀ nonce, pw (.attestation nonce) (fun x => x.attest = if m.keysErased then [] else Config.sign s.free
      (Config.sm3 m.fw.bytes ++ Config.sm3 (natBytes 4 Config.minVersion) ++ Config.sm3 s.loadedCode
        ++ [0, 1, 2, 3].flatMap (fun d => Config.sm3 (s.copyBytes d)) ++ nonce))) ∧
    (∀ die spot, let logged := fun (t : State) => ∃ e, t.mgmt.log.getLast? = some e ∧ e.source = die + 256 * 41 ∧ e.code = evSoft
      Becomes (.patrolScrub die spot .clean) s s ∧
      Reaches (.patrolScrub die spot .corrected) s (fun t =>
        t.mgmt.corrected = m.corrected + 1 ∧ logged t ∧ t.poison = s.poison ∧ ∀ a, t.byte a = s.byte a) ∧
      Reaches (.patrolScrub die spot .uncorrectable) s (fun t => (∀ a, t.byte a = s.byte a) ∧ logged t ∧
        (∀ p, spot = .word p → Machine.wordOf p ∈ t.poison) ∧ ∀ n i, spot = .line n → i < 32 → canopyP die (128 * n + 4 * i) ∈ t.poison)) ∧
    (∀ spare, ev.state = .run → m.power = .main → pw (.evictionRequest spare) (fun x => stands .evictReq x ∧ x.evctl.spare = spare ∧
      x.evctl.reqAt = s.cycle ∧ x.sent = m.sent ++ [(0x30, spare)])) ∧
    (ev.state = .evictReq → pw .spareReady (fun x => stands .quiesce x ∧ x.sent = m.sent)) ∧
    (ev.state = .quiesce → s.quiet = true → pw .quiesceComplete (fun x => stands .transfer x ∧ x.sent = m.sent ∧
      x.tx = transferMail s.mycoord ev.spare (cdiv s.transferBytes.length 40) 0 s.transferBytes)) ∧
    (ev.state = .transfer → pw .transferComplete (fun x => stands .drain x ∧
      x.sent = m.sent ++ (s.others.filter (fun c => c != ev.spare)).map (fun c => (tyReroute, c)))) ∧
    (ev.state = .drain ∨ ev.state = .abort → s.linksQuiet = true → Reaches .drainComplete s (fun t => stands .safe t.mgmt ∧
      t.mgmt.evctl.unlatch = true ∧ t.job.state = (if s.job.state = .run then .ending else s.job.state) ∧ t.mgmt.evctl.aborted = (ev.state == .abort) ∧ ∀ e ∈ s.links, (t.link e.1).state = .down)) ∧
    (ev.state = .safe → pw .drainComplete (fun x => x.evctl = { ev with unlatch := true })) ∧
    (s.overrun = true → ev.state = .abort → pw .evictionBudgetExpiry (fun x => stands .safe x ∧ x.evctl.aborted = true ∧ x.evctl.unlatch = false ∧ x.sent = m.sent)) ∧
    (s.overrun = true → ev.state ≠ .abort → pw .evictionBudgetExpiry (fun x => x.evctl.state = .abort ∧ x.tx = [] ∧
      x.sent = m.sent ++ ((s.others.filter (fun c => c != ev.spare)) ++ [ev.spare]).map (fun c => (tyAbort, c)))) ∧
    (∀ src, s.job.state = .idle → m.power = .main → pw (.evictNotice src) (fun x => x = { m with
      evictSrc := some src, rx := [], rxDone := false, rxGot := 0, rxEnd := none, tx := [], sent := m.sent ++ [(tyReady, src)] })) ∧
    (∀ src ofs data, m.evictSrc = some src → m.rxDone = false →
      let rx := mPuts m.rx (((List.range data.length).map (fun i => ofs + i)).zip data).reverse
      ∀ last, let x := { m with rx := rx, rxGot := m.rxGot + data.length, rxEnd := if last then some (ofs + data.length) else m.rxEnd }
        (x.rxEnd ≠ some x.rxGot → Becomes (.transferPacket ofs data last) s { s with mgmt := x }) ∧
        (x.rxEnd = some x.rxGot →
          let u : State := { s with mgmt := { x with rxDone := true } }
          Becomes (.transferPacket ofs data last) s ((u.mgmtSend tyTransferAck src).takeOver x src) ∧
          Reaches (.transferPacket ofs data last) s (fun t => t.job.state = .run ∧ t.mgmt.rxDone = true ∧ t.mgmt.sent = m.sent ++ [(tyTransferAck, src)] ∧
            ∀ d, d < 4 → t.coordAt d = src))) ∧
    (∀ d, (s.reg d).lateinc < 2 ^ 16 → (s.reg d).regerr < 2 ^ 16 → (s.reg d).unreach < 2 ^ 16 → (s.reg d).view.length < 2 ^ 18 →
      let w := (s.regWord d).toNat
      w % 2 ^ 16 = (s.reg d).lateinc ∧ w / 2 ^ 16 % 2 ^ 16 = (s.reg d).regerr ∧ w / 2 ^ 32 % 2 ^ 16 = (if d = 0 then (s.reg d).unreach else 0) ∧
      w / 2 ^ 48 = (s.reg d).view.length / 4) ∧
    (∀ spare evicted d, d < 4 → (s.die d).fabric.busy = false → Reaches (.peerRouteDrain spare evicted) s (fun t =>
      (t.die d).fabric.busy = true ∧ ∀ x ∈ s.spareRules d spare evicted, ((1 - s.curBank d) * 64 + x.1, x.2) ∈ (t.die d).fabric.rules)) ∧
    ∀ evicted, (m.evictSrc = some evicted → pw (.abortCancelNotice evicted) (fun x => x.evictSrc = none ∧ x.rx = [] ∧ x.rxDone = false)) ∧
      (s.job.state = .run → Reaches (.abortCancelNotice evicted) s (fun t => t.job.state = .ending))

/-! ### Encoding, the step, reset -/

/-- R73-R88, R91: the words of the spec's worked examples decode to the instructions that they stand for. -/
def Obligations.DecodesSpecWords : Prop :=
  decodeWords 0x05022301 0x08000800 0x00000011 = .ok (.iadd { guard := .ifP 3 } .s32 true (.v 4) (.v 5) (.imm 17)) ∧
  decodeWords 0x01010024 0x22800800 0x00000001 = .ok (.shfl {} .b32 .off 2 1 (.imm 1)) ∧
  decodeWords 0x080A0030 0x18000000 0x00001262 = .ok (.cvt {} .rn false false 3 0x62 0x12 (.v 20) (.v 8) none) ∧
  decodeWords 0x02044060 0x06000000 0x02000040 = .ok (.ld { guard := .ifNot 0, pol := 2 } .g .b128 .plain .wheel (.v 8) (.v 2) 64) ∧
  decodeWords 0x00000078 0x00000000 0x08FFFFFB = .ok (.bra { repack := true } 0xFFFFFB) ∧
  decodeWords 0x03010086 0x08000003 0x00000000 = .ok (.gwait {} true 2 3) ∧
  decodeWords 0x05022301 0x08000800 0x20000011 = .error (.cause 3)

/-- R73-R91: decoding and encoding agree, with every operand at every value that the encoding admits: a word decodes to an instruction exactly if the instruction is well formed and the word is its encoding. -/
def Obligations.DecodeEncode : Prop :=
  ∀ (w0 w1 w2 : Word) (i : Instr), decodeWords w0 w1 w2 = .ok i ↔ wf i = true ∧ encodeWords i = some (w0, w1, w2)

/-- R63, R74, R250-R253: in the turn of a quarter whose chosen candidate's fetched words decode to an instruction, and whose threads' windows hold its registers and no register holds uncorrectable data, the step is that instruction with the candidate's beat in issue; an event at the head of the agenda happens first. The order of the turns is the model's (log 1 and 2). -/
def Obligations.StepRunsDecodedInstruction : Prop :=
  (∀ (s : State) (e : Instr) (rest : List Instr), s.agenda = e :: rest → isEvent e = true → step s = exec e { s with agenda := rest }) ∧
  ∀ (s : State) (k : Nat) (g : Cand) (w : Word × Word × Word) (ps : List Nat) (pages : List (Nat × Nat × Nat)) (i : Instr),
    s.agenda = [] → s.nextQuarter = some k →
    let held := s.holdMisses (s.allGroups (k / 4) (k % 4))
    let ready : State := { held.stampAll (k / 4) (k % 4) (held.cands (k / 4) (k % 4)) with turns := k :: held.turns }
    ready.choose (k / 4) (k % 4) (held.cands (k / 4) (k % 4)) = some g → g.got = .words w ps pages → g.lanes ≠ [] →
    decodeWords w.1 w.2.1 w.2.2 = .ok i → ∀ o, Op.ofCode (w.1.toNat % 256) = some o →
    (∀ l ∈ g.lanes, windowBad o (Raw.ofWords w.1 w.2.1 w.2.2) l.w.window = false) → (∀ p ∈ ready.poison, pTag p ≠ 4) →
    let u := (ready.begin (k / 4) (k % 4) g).acqReads o (Raw.ofWords w.1 w.2.1 w.2.2)
    step s = exec i u ∧ u.beat = some (g.beat (k / 4) (k % 4)) ∧ u.mem = s.mem ∧
    ∃ c tids, (g.ctx, c) ∈ held.ctxs ∧ (∀ l ∈ g.lanes, l.t.tid ∈ tids) ∧ held.fetch (k / 4) c tids g.pc = .words w ps pages

/-- R421, R431, R432: after reset the memory is canonical with every byte 0, no context is on the device, the job is IDLE and die reset is about to end. What is not listed reads 0 as log 84 and 88 say. -/
def Obligations.ResetSound : Prop :=
  State.reset.Sound ∧ (∀ a, State.reset.byte a = 0) ∧ State.reset.ctxs = [] ∧ State.reset.job.state = .idle ∧
  State.reset.mgmt.inReset = true ∧ Reaches .dieResetEnd State.reset (fun t => ∀ l, l < 31 → (t.link l).state = .train)

/-- The model's canonical memory (log entries 87 and 88): from every sound state the step answers a sound state, as every instruction and event does. -/
def Obligations.StepKeepsSound : Prop :=
  ∀ (s : State), s.Sound → (∃ t, step s = .next t ∧ t.Sound) ∧ ∀ i, ∃ t, exec i s = .next t ∧ t.Sound
end

