-- ==== Sys2Proof/Laws/Maps.lean ====
section
/-! SUPPORT. Sparse maps: reading after setting and deleting a key. -/

namespace Sys2Proof.Machine

variable {α : Type}

/-- Reading the key that was set gives the value set. -/
@[simp] theorem sGet_sPut_self (m : Sparse α) (k : Nat) (v : α) : sGet (sPut m k v) k = some v := by
  induction m with
  | nil => simp [sPut, sGet]
  | cons e m ih =>
    obtain ⟨k', v'⟩ := e
    by_cases hk : k' = k
    · simp [sPut, sGet, hk]
    · simp [sPut, sGet, hk, ih]

/-- Reading another key is unchanged by a set. -/
theorem sGet_sPut_ne (m : Sparse α) {k j : Nat} (v : α) (h : j ≠ k) : sGet (sPut m k v) j = sGet m j := by
  induction m with
  | nil => simp [sPut, sGet, Ne.symm h]
  | cons e m ih =>
    obtain ⟨k', v'⟩ := e
    by_cases hk : k' = k
    · subst hk; simp [sPut, sGet, Ne.symm h]
    · simp only [sPut, hk, if_false, sGet, ih]

/-- Reading any key after a set. -/
theorem sGet_sPut (m : Sparse α) (k j : Nat) (v : α) : sGet (sPut m k v) j = if j = k then some v else sGet m j := by
  split
  · subst_vars; simp
  · exact sGet_sPut_ne m v ‹_›

/-- The second of two sets of one key counts. -/
@[simp] theorem sPut_sPut (m : Sparse α) (k : Nat) (v w : α) : sPut (sPut m k v) k w = sPut m k w := by
  induction m with
  | nil => simp [sPut]
  | cons e m ih =>
    obtain ⟨k', v'⟩ := e
    by_cases hk : k' = k
    · simp [sPut, hk]
    · simp [sPut, hk, ih]

/-- A deleted key reads none. -/
@[simp] theorem sGet_sDel_self (m : Sparse α) (k : Nat) : sGet (sDel m k) k = none := by
  induction m with
  | nil => rfl
  | cons e m ih =>
    obtain ⟨k', v'⟩ := e
    by_cases hk : k' = k
    · simpa [sDel, hk] using ih
    · simpa [sDel, sGet, hk] using ih

/-- Deleting a key leaves the others. -/
theorem sGet_sDel_ne (m : Sparse α) {k j : Nat} (h : j ≠ k) : sGet (sDel m k) j = sGet m j := by
  induction m with
  | nil => rfl
  | cons e m ih =>
    obtain ⟨k', v'⟩ := e
    by_cases hk : k' = k
    · subst hk; simpa [sDel, sGet, Ne.symm h] using ih
    · by_cases hj : k' = j
      · subst hj; simp [sDel, sGet, h]
      · simpa [sDel, sGet, hk, hj] using ih

/-! ### Registers -/

/-- A register after words are written from `d` on. -/
theorem regsPut_read (m : Sparse Word) (d : Nat) (ws : List Word) (n : Nat) :
    (sGet (regsPut m d ws) n).getD 0 = if d ≤ n ∧ n < d + ws.length then ws.getD (n - d) 0 else (sGet m n).getD 0 := by
  induction ws generalizing m d with
  | nil => simp only [regsPut, List.length_nil, Nat.add_zero]; rw [if_neg (by omega)]
  | cons w ws ih =>
    simp only [regsPut, ih, List.length_cons]
    by_cases h1 : d + 1 ≤ n ∧ n < d + 1 + ws.length
    · have : n - d = (n - (d + 1)) + 1 := by omega
      rw [if_pos h1, if_pos (by omega), this]; simp
    · rw [if_neg h1, sGet_sPut]
      by_cases h2 : n = d
      · subst h2; simp
      · rw [if_neg h2, if_neg (by omega)]

/-- Vector registers after `Thread.put`: base 255 discards (R46). -/
theorem Thread.put_v (t : Thread) (d : Nat) (ws : List Word) (p : List Pend) (n : Nat) :
    (t.put d ws p).v n = if d ≠ 255 ∧ d ≤ n ∧ n < d + ws.length then ws.getD (n - d) 0 else t.v n := by
  unfold Thread.put Thread.v
  by_cases h : d = 255
  · simp [h]
  · simp only [if_neg h, regsPut_read]; simp [h]

/-- Uniform registers after `Wheel.put`: base 255 discards (R48). -/
theorem Wheel.put_s (w : Wheel) (d : Nat) (ws : List Word) (p : List Pend) (n : Nat) :
    (w.put d ws p).s n = if d ≠ 255 ∧ d ≤ n ∧ n < d + ws.length then ws.getD (n - d) 0 else w.s n := by
  unfold Wheel.put Wheel.s
  by_cases h : d = 255
  · simp [h]
  · simp only [if_neg h, regsPut_read]; simp [h]

end Sys2Proof.Machine
end

