-- ==== Sys2Proof/Laws/State.lean ====
section
/-! SUPPORT. One lemma per field per update of the state, a context, a thread and a wheel: what each update leaves and what it sets. -/

namespace Sys2Proof.Machine

/-! ### setCtx -/

@[simp] theorem State.setCtx_cycle (s : State) (k : Nat) (c : Ctx) : (s.setCtx k c).cycle = s.cycle := rfl
@[simp] theorem State.setCtx_mem (s : State) (k : Nat) (c : Ctx) : (s.setCtx k c).mem = s.mem := rfl
@[simp] theorem State.setCtx_wr (s : State) (k : Nat) (c : Ctx) : (s.setCtx k c).wr = s.wr := rfl
@[simp] theorem State.setCtx_poison (s : State) (k : Nat) (c : Ctx) : (s.setCtx k c).poison = s.poison := rfl
@[simp] theorem State.setCtx_ctxs (s : State) (k : Nat) (c : Ctx) : (s.setCtx k c).ctxs = sPut s.ctxs k c := rfl
@[simp] theorem State.setCtx_saved (s : State) (k : Nat) (c : Ctx) : (s.setCtx k c).saved = s.saved := rfl
@[simp] theorem State.setCtx_nextCtx (s : State) (k : Nat) (c : Ctx) : (s.setCtx k c).nextCtx = s.nextCtx := rfl
@[simp] theorem State.setCtx_nextWid (s : State) (k : Nat) (c : Ctx) : (s.setCtx k c).nextWid = s.nextWid := rfl
@[simp] theorem State.setCtx_nextTag (s : State) (k : Nat) (c : Ctx) : (s.setCtx k c).nextTag = s.nextTag := rfl
@[simp] theorem State.setCtx_late (s : State) (k : Nat) (c : Ctx) : (s.setCtx k c).late = s.late := rfl
@[simp] theorem State.setCtx_cores (s : State) (k : Nat) (c : Ctx) : (s.setCtx k c).cores = s.cores := rfl
@[simp] theorem State.setCtx_quarters (s : State) (k : Nat) (c : Ctx) : (s.setCtx k c).quarters = s.quarters := rfl
@[simp] theorem State.setCtx_dies (s : State) (k : Nat) (c : Ctx) : (s.setCtx k c).dies = s.dies := rfl
@[simp] theorem State.setCtx_links (s : State) (k : Nat) (c : Ctx) : (s.setCtx k c).links = s.links := rfl
@[simp] theorem State.setCtx_queues (s : State) (k : Nat) (c : Ctx) : (s.setCtx k c).queues = s.queues := rfl
@[simp] theorem State.setCtx_prioPtr (s : State) (k : Nat) (c : Ctx) : (s.setCtx k c).prioPtr = s.prioPtr := rfl
@[simp] theorem State.setCtx_launches (s : State) (k : Nat) (c : Ctx) : (s.setCtx k c).launches = s.launches := rfl
@[simp] theorem State.setCtx_launchNo (s : State) (k : Nat) (c : Ctx) : (s.setCtx k c).launchNo = s.launchNo := rfl
@[simp] theorem State.setCtx_graphs (s : State) (k : Nat) (c : Ctx) : (s.setCtx k c).graphs = s.graphs := rfl
@[simp] theorem State.setCtx_insts (s : State) (k : Nat) (c : Ctx) : (s.setCtx k c).insts = s.insts := rfl
@[simp] theorem State.setCtx_distPtr (s : State) (k : Nat) (c : Ctx) : (s.setCtx k c).distPtr = s.distPtr := rfl
@[simp] theorem State.setCtx_newtag (s : State) (k : Nat) (c : Ctx) : (s.setCtx k c).newtag = s.newtag := rfl
@[simp] theorem State.setCtx_seq (s : State) (k : Nat) (c : Ctx) : (s.setCtx k c).seq = s.seq := rfl
@[simp] theorem State.setCtx_submitted (s : State) (k : Nat) (c : Ctx) : (s.setCtx k c).submitted = s.submitted := rfl
@[simp] theorem State.setCtx_sendbuf (s : State) (k : Nat) (c : Ctx) : (s.setCtx k c).sendbuf = s.sendbuf := rfl
@[simp] theorem State.setCtx_slots (s : State) (k : Nat) (c : Ctx) : (s.setCtx k c).slots = s.slots := rfl
@[simp] theorem State.setCtx_shadow (s : State) (k : Nat) (c : Ctx) : (s.setCtx k c).shadow = s.shadow := rfl
@[simp] theorem State.setCtx_pectl (s : State) (k : Nat) (c : Ctx) : (s.setCtx k c).pectl = s.pectl := rfl
@[simp] theorem State.setCtx_chains (s : State) (k : Nat) (c : Ctx) : (s.setCtx k c).chains = s.chains := rfl
@[simp] theorem State.setCtx_engReqs (s : State) (k : Nat) (c : Ctx) : (s.setCtx k c).engReqs = s.engReqs := rfl
@[simp] theorem State.setCtx_tookAt (s : State) (k : Nat) (c : Ctx) : (s.setCtx k c).tookAt = s.tookAt := rfl
@[simp] theorem State.setCtx_hotth (s : State) (k : Nat) (c : Ctx) : (s.setCtx k c).hotth = s.hotth := rfl
@[simp] theorem State.setCtx_resid (s : State) (k : Nat) (c : Ctx) : (s.setCtx k c).resid = s.resid := rfl
@[simp] theorem State.setCtx_fillNo (s : State) (k : Nat) (c : Ctx) : (s.setCtx k c).fillNo = s.fillNo := rfl
@[simp] theorem State.setCtx_leases (s : State) (k : Nat) (c : Ctx) : (s.setCtx k c).leases = s.leases := rfl
@[simp] theorem State.setCtx_job (s : State) (k : Nat) (c : Ctx) : (s.setCtx k c).job = s.job := rfl
@[simp] theorem State.setCtx_grid (s : State) (k : Nat) (c : Ctx) : (s.setCtx k c).grid = s.grid := rfl
@[simp] theorem State.setCtx_qps (s : State) (k : Nat) (c : Ctx) : (s.setCtx k c).qps = s.qps := rfl
@[simp] theorem State.setCtx_hostReqs (s : State) (k : Nat) (c : Ctx) : (s.setCtx k c).hostReqs = s.hostReqs := rfl
@[simp] theorem State.setCtx_hostOut (s : State) (k : Nat) (c : Ctx) : (s.setCtx k c).hostOut = s.hostOut := rfl
@[simp] theorem State.setCtx_delayed (s : State) (k : Nat) (c : Ctx) : (s.setCtx k c).delayed = s.delayed := rfl
@[simp] theorem State.setCtx_peerOut (s : State) (k : Nat) (c : Ctx) : (s.setCtx k c).peerOut = s.peerOut := rfl
@[simp] theorem State.setCtx_peerAns (s : State) (k : Nat) (c : Ctx) : (s.setCtx k c).peerAns = s.peerAns := rfl
@[simp] theorem State.setCtx_mgmt (s : State) (k : Nat) (c : Ctx) : (s.setCtx k c).mgmt = s.mgmt := rfl
@[simp] theorem State.setCtx_beat (s : State) (k : Nat) (c : Ctx) : (s.setCtx k c).beat = s.beat := rfl
@[simp] theorem State.setCtx_agenda (s : State) (k : Nat) (c : Ctx) : (s.setCtx k c).agenda = s.agenda := rfl
@[simp] theorem State.setCtx_turns (s : State) (k : Nat) (c : Ctx) : (s.setCtx k c).turns = s.turns := rfl
@[simp] theorem State.setCtx_free (s : State) (k : Nat) (c : Ctx) : (s.setCtx k c).free = s.free := rfl

/-! ### modCore -/

@[simp] theorem State.modCore_cycle (s : State) (k : Nat) (f : Core → Core) : (s.modCore k f).cycle = s.cycle := rfl
@[simp] theorem State.modCore_mem (s : State) (k : Nat) (f : Core → Core) : (s.modCore k f).mem = s.mem := rfl
@[simp] theorem State.modCore_wr (s : State) (k : Nat) (f : Core → Core) : (s.modCore k f).wr = s.wr := rfl
@[simp] theorem State.modCore_poison (s : State) (k : Nat) (f : Core → Core) : (s.modCore k f).poison = s.poison := rfl
@[simp] theorem State.modCore_ctxs (s : State) (k : Nat) (f : Core → Core) : (s.modCore k f).ctxs = s.ctxs := rfl
@[simp] theorem State.modCore_saved (s : State) (k : Nat) (f : Core → Core) : (s.modCore k f).saved = s.saved := rfl
@[simp] theorem State.modCore_nextCtx (s : State) (k : Nat) (f : Core → Core) : (s.modCore k f).nextCtx = s.nextCtx := rfl
@[simp] theorem State.modCore_nextWid (s : State) (k : Nat) (f : Core → Core) : (s.modCore k f).nextWid = s.nextWid := rfl
@[simp] theorem State.modCore_nextTag (s : State) (k : Nat) (f : Core → Core) : (s.modCore k f).nextTag = s.nextTag := rfl
@[simp] theorem State.modCore_late (s : State) (k : Nat) (f : Core → Core) : (s.modCore k f).late = s.late := rfl
@[simp] theorem State.modCore_cores (s : State) (k : Nat) (f : Core → Core) : (s.modCore k f).cores = sPut s.cores k (f (s.core k)) := rfl
@[simp] theorem State.modCore_quarters (s : State) (k : Nat) (f : Core → Core) : (s.modCore k f).quarters = s.quarters := rfl
@[simp] theorem State.modCore_dies (s : State) (k : Nat) (f : Core → Core) : (s.modCore k f).dies = s.dies := rfl
@[simp] theorem State.modCore_links (s : State) (k : Nat) (f : Core → Core) : (s.modCore k f).links = s.links := rfl
@[simp] theorem State.modCore_queues (s : State) (k : Nat) (f : Core → Core) : (s.modCore k f).queues = s.queues := rfl
@[simp] theorem State.modCore_prioPtr (s : State) (k : Nat) (f : Core → Core) : (s.modCore k f).prioPtr = s.prioPtr := rfl
@[simp] theorem State.modCore_launches (s : State) (k : Nat) (f : Core → Core) : (s.modCore k f).launches = s.launches := rfl
@[simp] theorem State.modCore_launchNo (s : State) (k : Nat) (f : Core → Core) : (s.modCore k f).launchNo = s.launchNo := rfl
@[simp] theorem State.modCore_graphs (s : State) (k : Nat) (f : Core → Core) : (s.modCore k f).graphs = s.graphs := rfl
@[simp] theorem State.modCore_insts (s : State) (k : Nat) (f : Core → Core) : (s.modCore k f).insts = s.insts := rfl
@[simp] theorem State.modCore_distPtr (s : State) (k : Nat) (f : Core → Core) : (s.modCore k f).distPtr = s.distPtr := rfl
@[simp] theorem State.modCore_newtag (s : State) (k : Nat) (f : Core → Core) : (s.modCore k f).newtag = s.newtag := rfl
@[simp] theorem State.modCore_seq (s : State) (k : Nat) (f : Core → Core) : (s.modCore k f).seq = s.seq := rfl
@[simp] theorem State.modCore_submitted (s : State) (k : Nat) (f : Core → Core) : (s.modCore k f).submitted = s.submitted := rfl
@[simp] theorem State.modCore_sendbuf (s : State) (k : Nat) (f : Core → Core) : (s.modCore k f).sendbuf = s.sendbuf := rfl
@[simp] theorem State.modCore_slots (s : State) (k : Nat) (f : Core → Core) : (s.modCore k f).slots = s.slots := rfl
@[simp] theorem State.modCore_shadow (s : State) (k : Nat) (f : Core → Core) : (s.modCore k f).shadow = s.shadow := rfl
@[simp] theorem State.modCore_pectl (s : State) (k : Nat) (f : Core → Core) : (s.modCore k f).pectl = s.pectl := rfl
@[simp] theorem State.modCore_chains (s : State) (k : Nat) (f : Core → Core) : (s.modCore k f).chains = s.chains := rfl
@[simp] theorem State.modCore_engReqs (s : State) (k : Nat) (f : Core → Core) : (s.modCore k f).engReqs = s.engReqs := rfl
@[simp] theorem State.modCore_tookAt (s : State) (k : Nat) (f : Core → Core) : (s.modCore k f).tookAt = s.tookAt := rfl
@[simp] theorem State.modCore_hotth (s : State) (k : Nat) (f : Core → Core) : (s.modCore k f).hotth = s.hotth := rfl
@[simp] theorem State.modCore_resid (s : State) (k : Nat) (f : Core → Core) : (s.modCore k f).resid = s.resid := rfl
@[simp] theorem State.modCore_fillNo (s : State) (k : Nat) (f : Core → Core) : (s.modCore k f).fillNo = s.fillNo := rfl
@[simp] theorem State.modCore_leases (s : State) (k : Nat) (f : Core → Core) : (s.modCore k f).leases = s.leases := rfl
@[simp] theorem State.modCore_job (s : State) (k : Nat) (f : Core → Core) : (s.modCore k f).job = s.job := rfl
@[simp] theorem State.modCore_grid (s : State) (k : Nat) (f : Core → Core) : (s.modCore k f).grid = s.grid := rfl
@[simp] theorem State.modCore_qps (s : State) (k : Nat) (f : Core → Core) : (s.modCore k f).qps = s.qps := rfl
@[simp] theorem State.modCore_hostReqs (s : State) (k : Nat) (f : Core → Core) : (s.modCore k f).hostReqs = s.hostReqs := rfl
@[simp] theorem State.modCore_hostOut (s : State) (k : Nat) (f : Core → Core) : (s.modCore k f).hostOut = s.hostOut := rfl
@[simp] theorem State.modCore_delayed (s : State) (k : Nat) (f : Core → Core) : (s.modCore k f).delayed = s.delayed := rfl
@[simp] theorem State.modCore_peerOut (s : State) (k : Nat) (f : Core → Core) : (s.modCore k f).peerOut = s.peerOut := rfl
@[simp] theorem State.modCore_peerAns (s : State) (k : Nat) (f : Core → Core) : (s.modCore k f).peerAns = s.peerAns := rfl
@[simp] theorem State.modCore_mgmt (s : State) (k : Nat) (f : Core → Core) : (s.modCore k f).mgmt = s.mgmt := rfl
@[simp] theorem State.modCore_beat (s : State) (k : Nat) (f : Core → Core) : (s.modCore k f).beat = s.beat := rfl
@[simp] theorem State.modCore_agenda (s : State) (k : Nat) (f : Core → Core) : (s.modCore k f).agenda = s.agenda := rfl
@[simp] theorem State.modCore_turns (s : State) (k : Nat) (f : Core → Core) : (s.modCore k f).turns = s.turns := rfl
@[simp] theorem State.modCore_free (s : State) (k : Nat) (f : Core → Core) : (s.modCore k f).free = s.free := rfl

/-! ### modQuarter -/

@[simp] theorem State.modQuarter_cycle (s : State) (k : Nat) (f : Quarter → Quarter) : (s.modQuarter k f).cycle = s.cycle := rfl
@[simp] theorem State.modQuarter_mem (s : State) (k : Nat) (f : Quarter → Quarter) : (s.modQuarter k f).mem = s.mem := rfl
@[simp] theorem State.modQuarter_wr (s : State) (k : Nat) (f : Quarter → Quarter) : (s.modQuarter k f).wr = s.wr := rfl
@[simp] theorem State.modQuarter_poison (s : State) (k : Nat) (f : Quarter → Quarter) : (s.modQuarter k f).poison = s.poison := rfl
@[simp] theorem State.modQuarter_ctxs (s : State) (k : Nat) (f : Quarter → Quarter) : (s.modQuarter k f).ctxs = s.ctxs := rfl
@[simp] theorem State.modQuarter_saved (s : State) (k : Nat) (f : Quarter → Quarter) : (s.modQuarter k f).saved = s.saved := rfl
@[simp] theorem State.modQuarter_nextCtx (s : State) (k : Nat) (f : Quarter → Quarter) : (s.modQuarter k f).nextCtx = s.nextCtx := rfl
@[simp] theorem State.modQuarter_nextWid (s : State) (k : Nat) (f : Quarter → Quarter) : (s.modQuarter k f).nextWid = s.nextWid := rfl
@[simp] theorem State.modQuarter_nextTag (s : State) (k : Nat) (f : Quarter → Quarter) : (s.modQuarter k f).nextTag = s.nextTag := rfl
@[simp] theorem State.modQuarter_late (s : State) (k : Nat) (f : Quarter → Quarter) : (s.modQuarter k f).late = s.late := rfl
@[simp] theorem State.modQuarter_cores (s : State) (k : Nat) (f : Quarter → Quarter) : (s.modQuarter k f).cores = s.cores := rfl
@[simp] theorem State.modQuarter_quarters (s : State) (k : Nat) (f : Quarter → Quarter) : (s.modQuarter k f).quarters = sPut s.quarters k (f (s.quarter k)) := rfl
@[simp] theorem State.modQuarter_dies (s : State) (k : Nat) (f : Quarter → Quarter) : (s.modQuarter k f).dies = s.dies := rfl
@[simp] theorem State.modQuarter_links (s : State) (k : Nat) (f : Quarter → Quarter) : (s.modQuarter k f).links = s.links := rfl
@[simp] theorem State.modQuarter_queues (s : State) (k : Nat) (f : Quarter → Quarter) : (s.modQuarter k f).queues = s.queues := rfl
@[simp] theorem State.modQuarter_prioPtr (s : State) (k : Nat) (f : Quarter → Quarter) : (s.modQuarter k f).prioPtr = s.prioPtr := rfl
@[simp] theorem State.modQuarter_launches (s : State) (k : Nat) (f : Quarter → Quarter) : (s.modQuarter k f).launches = s.launches := rfl
@[simp] theorem State.modQuarter_launchNo (s : State) (k : Nat) (f : Quarter → Quarter) : (s.modQuarter k f).launchNo = s.launchNo := rfl
@[simp] theorem State.modQuarter_graphs (s : State) (k : Nat) (f : Quarter → Quarter) : (s.modQuarter k f).graphs = s.graphs := rfl
@[simp] theorem State.modQuarter_insts (s : State) (k : Nat) (f : Quarter → Quarter) : (s.modQuarter k f).insts = s.insts := rfl
@[simp] theorem State.modQuarter_distPtr (s : State) (k : Nat) (f : Quarter → Quarter) : (s.modQuarter k f).distPtr = s.distPtr := rfl
@[simp] theorem State.modQuarter_newtag (s : State) (k : Nat) (f : Quarter → Quarter) : (s.modQuarter k f).newtag = s.newtag := rfl
@[simp] theorem State.modQuarter_seq (s : State) (k : Nat) (f : Quarter → Quarter) : (s.modQuarter k f).seq = s.seq := rfl
@[simp] theorem State.modQuarter_submitted (s : State) (k : Nat) (f : Quarter → Quarter) : (s.modQuarter k f).submitted = s.submitted := rfl
@[simp] theorem State.modQuarter_sendbuf (s : State) (k : Nat) (f : Quarter → Quarter) : (s.modQuarter k f).sendbuf = s.sendbuf := rfl
@[simp] theorem State.modQuarter_slots (s : State) (k : Nat) (f : Quarter → Quarter) : (s.modQuarter k f).slots = s.slots := rfl
@[simp] theorem State.modQuarter_shadow (s : State) (k : Nat) (f : Quarter → Quarter) : (s.modQuarter k f).shadow = s.shadow := rfl
@[simp] theorem State.modQuarter_pectl (s : State) (k : Nat) (f : Quarter → Quarter) : (s.modQuarter k f).pectl = s.pectl := rfl
@[simp] theorem State.modQuarter_chains (s : State) (k : Nat) (f : Quarter → Quarter) : (s.modQuarter k f).chains = s.chains := rfl
@[simp] theorem State.modQuarter_engReqs (s : State) (k : Nat) (f : Quarter → Quarter) : (s.modQuarter k f).engReqs = s.engReqs := rfl
@[simp] theorem State.modQuarter_tookAt (s : State) (k : Nat) (f : Quarter → Quarter) : (s.modQuarter k f).tookAt = s.tookAt := rfl
@[simp] theorem State.modQuarter_hotth (s : State) (k : Nat) (f : Quarter → Quarter) : (s.modQuarter k f).hotth = s.hotth := rfl
@[simp] theorem State.modQuarter_resid (s : State) (k : Nat) (f : Quarter → Quarter) : (s.modQuarter k f).resid = s.resid := rfl
@[simp] theorem State.modQuarter_fillNo (s : State) (k : Nat) (f : Quarter → Quarter) : (s.modQuarter k f).fillNo = s.fillNo := rfl
@[simp] theorem State.modQuarter_leases (s : State) (k : Nat) (f : Quarter → Quarter) : (s.modQuarter k f).leases = s.leases := rfl
@[simp] theorem State.modQuarter_job (s : State) (k : Nat) (f : Quarter → Quarter) : (s.modQuarter k f).job = s.job := rfl
@[simp] theorem State.modQuarter_grid (s : State) (k : Nat) (f : Quarter → Quarter) : (s.modQuarter k f).grid = s.grid := rfl
@[simp] theorem State.modQuarter_qps (s : State) (k : Nat) (f : Quarter → Quarter) : (s.modQuarter k f).qps = s.qps := rfl
@[simp] theorem State.modQuarter_hostReqs (s : State) (k : Nat) (f : Quarter → Quarter) : (s.modQuarter k f).hostReqs = s.hostReqs := rfl
@[simp] theorem State.modQuarter_hostOut (s : State) (k : Nat) (f : Quarter → Quarter) : (s.modQuarter k f).hostOut = s.hostOut := rfl
@[simp] theorem State.modQuarter_delayed (s : State) (k : Nat) (f : Quarter → Quarter) : (s.modQuarter k f).delayed = s.delayed := rfl
@[simp] theorem State.modQuarter_peerOut (s : State) (k : Nat) (f : Quarter → Quarter) : (s.modQuarter k f).peerOut = s.peerOut := rfl
@[simp] theorem State.modQuarter_peerAns (s : State) (k : Nat) (f : Quarter → Quarter) : (s.modQuarter k f).peerAns = s.peerAns := rfl
@[simp] theorem State.modQuarter_mgmt (s : State) (k : Nat) (f : Quarter → Quarter) : (s.modQuarter k f).mgmt = s.mgmt := rfl
@[simp] theorem State.modQuarter_beat (s : State) (k : Nat) (f : Quarter → Quarter) : (s.modQuarter k f).beat = s.beat := rfl
@[simp] theorem State.modQuarter_agenda (s : State) (k : Nat) (f : Quarter → Quarter) : (s.modQuarter k f).agenda = s.agenda := rfl
@[simp] theorem State.modQuarter_turns (s : State) (k : Nat) (f : Quarter → Quarter) : (s.modQuarter k f).turns = s.turns := rfl
@[simp] theorem State.modQuarter_free (s : State) (k : Nat) (f : Quarter → Quarter) : (s.modQuarter k f).free = s.free := rfl

/-! ### modDie -/

@[simp] theorem State.modDie_cycle (s : State) (k : Nat) (f : Die → Die) : (s.modDie k f).cycle = s.cycle := rfl
@[simp] theorem State.modDie_mem (s : State) (k : Nat) (f : Die → Die) : (s.modDie k f).mem = s.mem := rfl
@[simp] theorem State.modDie_wr (s : State) (k : Nat) (f : Die → Die) : (s.modDie k f).wr = s.wr := rfl
@[simp] theorem State.modDie_poison (s : State) (k : Nat) (f : Die → Die) : (s.modDie k f).poison = s.poison := rfl
@[simp] theorem State.modDie_ctxs (s : State) (k : Nat) (f : Die → Die) : (s.modDie k f).ctxs = s.ctxs := rfl
@[simp] theorem State.modDie_saved (s : State) (k : Nat) (f : Die → Die) : (s.modDie k f).saved = s.saved := rfl
@[simp] theorem State.modDie_nextCtx (s : State) (k : Nat) (f : Die → Die) : (s.modDie k f).nextCtx = s.nextCtx := rfl
@[simp] theorem State.modDie_nextWid (s : State) (k : Nat) (f : Die → Die) : (s.modDie k f).nextWid = s.nextWid := rfl
@[simp] theorem State.modDie_nextTag (s : State) (k : Nat) (f : Die → Die) : (s.modDie k f).nextTag = s.nextTag := rfl
@[simp] theorem State.modDie_late (s : State) (k : Nat) (f : Die → Die) : (s.modDie k f).late = s.late := rfl
@[simp] theorem State.modDie_cores (s : State) (k : Nat) (f : Die → Die) : (s.modDie k f).cores = s.cores := rfl
@[simp] theorem State.modDie_quarters (s : State) (k : Nat) (f : Die → Die) : (s.modDie k f).quarters = s.quarters := rfl
@[simp] theorem State.modDie_dies (s : State) (k : Nat) (f : Die → Die) : (s.modDie k f).dies = sPut s.dies k (f (s.die k)) := rfl
@[simp] theorem State.modDie_links (s : State) (k : Nat) (f : Die → Die) : (s.modDie k f).links = s.links := rfl
@[simp] theorem State.modDie_queues (s : State) (k : Nat) (f : Die → Die) : (s.modDie k f).queues = s.queues := rfl
@[simp] theorem State.modDie_prioPtr (s : State) (k : Nat) (f : Die → Die) : (s.modDie k f).prioPtr = s.prioPtr := rfl
@[simp] theorem State.modDie_launches (s : State) (k : Nat) (f : Die → Die) : (s.modDie k f).launches = s.launches := rfl
@[simp] theorem State.modDie_launchNo (s : State) (k : Nat) (f : Die → Die) : (s.modDie k f).launchNo = s.launchNo := rfl
@[simp] theorem State.modDie_graphs (s : State) (k : Nat) (f : Die → Die) : (s.modDie k f).graphs = s.graphs := rfl
@[simp] theorem State.modDie_insts (s : State) (k : Nat) (f : Die → Die) : (s.modDie k f).insts = s.insts := rfl
@[simp] theorem State.modDie_distPtr (s : State) (k : Nat) (f : Die → Die) : (s.modDie k f).distPtr = s.distPtr := rfl
@[simp] theorem State.modDie_newtag (s : State) (k : Nat) (f : Die → Die) : (s.modDie k f).newtag = s.newtag := rfl
@[simp] theorem State.modDie_seq (s : State) (k : Nat) (f : Die → Die) : (s.modDie k f).seq = s.seq := rfl
@[simp] theorem State.modDie_submitted (s : State) (k : Nat) (f : Die → Die) : (s.modDie k f).submitted = s.submitted := rfl
@[simp] theorem State.modDie_sendbuf (s : State) (k : Nat) (f : Die → Die) : (s.modDie k f).sendbuf = s.sendbuf := rfl
@[simp] theorem State.modDie_slots (s : State) (k : Nat) (f : Die → Die) : (s.modDie k f).slots = s.slots := rfl
@[simp] theorem State.modDie_shadow (s : State) (k : Nat) (f : Die → Die) : (s.modDie k f).shadow = s.shadow := rfl
@[simp] theorem State.modDie_pectl (s : State) (k : Nat) (f : Die → Die) : (s.modDie k f).pectl = s.pectl := rfl
@[simp] theorem State.modDie_chains (s : State) (k : Nat) (f : Die → Die) : (s.modDie k f).chains = s.chains := rfl
@[simp] theorem State.modDie_engReqs (s : State) (k : Nat) (f : Die → Die) : (s.modDie k f).engReqs = s.engReqs := rfl
@[simp] theorem State.modDie_tookAt (s : State) (k : Nat) (f : Die → Die) : (s.modDie k f).tookAt = s.tookAt := rfl
@[simp] theorem State.modDie_hotth (s : State) (k : Nat) (f : Die → Die) : (s.modDie k f).hotth = s.hotth := rfl
@[simp] theorem State.modDie_resid (s : State) (k : Nat) (f : Die → Die) : (s.modDie k f).resid = s.resid := rfl
@[simp] theorem State.modDie_fillNo (s : State) (k : Nat) (f : Die → Die) : (s.modDie k f).fillNo = s.fillNo := rfl
@[simp] theorem State.modDie_leases (s : State) (k : Nat) (f : Die → Die) : (s.modDie k f).leases = s.leases := rfl
@[simp] theorem State.modDie_job (s : State) (k : Nat) (f : Die → Die) : (s.modDie k f).job = s.job := rfl
@[simp] theorem State.modDie_grid (s : State) (k : Nat) (f : Die → Die) : (s.modDie k f).grid = s.grid := rfl
@[simp] theorem State.modDie_qps (s : State) (k : Nat) (f : Die → Die) : (s.modDie k f).qps = s.qps := rfl
@[simp] theorem State.modDie_hostReqs (s : State) (k : Nat) (f : Die → Die) : (s.modDie k f).hostReqs = s.hostReqs := rfl
@[simp] theorem State.modDie_hostOut (s : State) (k : Nat) (f : Die → Die) : (s.modDie k f).hostOut = s.hostOut := rfl
@[simp] theorem State.modDie_delayed (s : State) (k : Nat) (f : Die → Die) : (s.modDie k f).delayed = s.delayed := rfl
@[simp] theorem State.modDie_peerOut (s : State) (k : Nat) (f : Die → Die) : (s.modDie k f).peerOut = s.peerOut := rfl
@[simp] theorem State.modDie_peerAns (s : State) (k : Nat) (f : Die → Die) : (s.modDie k f).peerAns = s.peerAns := rfl
@[simp] theorem State.modDie_mgmt (s : State) (k : Nat) (f : Die → Die) : (s.modDie k f).mgmt = s.mgmt := rfl
@[simp] theorem State.modDie_beat (s : State) (k : Nat) (f : Die → Die) : (s.modDie k f).beat = s.beat := rfl
@[simp] theorem State.modDie_agenda (s : State) (k : Nat) (f : Die → Die) : (s.modDie k f).agenda = s.agenda := rfl
@[simp] theorem State.modDie_turns (s : State) (k : Nat) (f : Die → Die) : (s.modDie k f).turns = s.turns := rfl
@[simp] theorem State.modDie_free (s : State) (k : Nat) (f : Die → Die) : (s.modDie k f).free = s.free := rfl

/-! ### modLink -/

@[simp] theorem State.modLink_cycle (s : State) (k : Nat) (f : Link → Link) : (s.modLink k f).cycle = s.cycle := rfl
@[simp] theorem State.modLink_mem (s : State) (k : Nat) (f : Link → Link) : (s.modLink k f).mem = s.mem := rfl
@[simp] theorem State.modLink_wr (s : State) (k : Nat) (f : Link → Link) : (s.modLink k f).wr = s.wr := rfl
@[simp] theorem State.modLink_poison (s : State) (k : Nat) (f : Link → Link) : (s.modLink k f).poison = s.poison := rfl
@[simp] theorem State.modLink_ctxs (s : State) (k : Nat) (f : Link → Link) : (s.modLink k f).ctxs = s.ctxs := rfl
@[simp] theorem State.modLink_saved (s : State) (k : Nat) (f : Link → Link) : (s.modLink k f).saved = s.saved := rfl
@[simp] theorem State.modLink_nextCtx (s : State) (k : Nat) (f : Link → Link) : (s.modLink k f).nextCtx = s.nextCtx := rfl
@[simp] theorem State.modLink_nextWid (s : State) (k : Nat) (f : Link → Link) : (s.modLink k f).nextWid = s.nextWid := rfl
@[simp] theorem State.modLink_nextTag (s : State) (k : Nat) (f : Link → Link) : (s.modLink k f).nextTag = s.nextTag := rfl
@[simp] theorem State.modLink_late (s : State) (k : Nat) (f : Link → Link) : (s.modLink k f).late = s.late := rfl
@[simp] theorem State.modLink_cores (s : State) (k : Nat) (f : Link → Link) : (s.modLink k f).cores = s.cores := rfl
@[simp] theorem State.modLink_quarters (s : State) (k : Nat) (f : Link → Link) : (s.modLink k f).quarters = s.quarters := rfl
@[simp] theorem State.modLink_dies (s : State) (k : Nat) (f : Link → Link) : (s.modLink k f).dies = s.dies := rfl
@[simp] theorem State.modLink_links (s : State) (k : Nat) (f : Link → Link) : (s.modLink k f).links = sPut s.links k (f (s.link k)) := rfl
@[simp] theorem State.modLink_queues (s : State) (k : Nat) (f : Link → Link) : (s.modLink k f).queues = s.queues := rfl
@[simp] theorem State.modLink_prioPtr (s : State) (k : Nat) (f : Link → Link) : (s.modLink k f).prioPtr = s.prioPtr := rfl
@[simp] theorem State.modLink_launches (s : State) (k : Nat) (f : Link → Link) : (s.modLink k f).launches = s.launches := rfl
@[simp] theorem State.modLink_launchNo (s : State) (k : Nat) (f : Link → Link) : (s.modLink k f).launchNo = s.launchNo := rfl
@[simp] theorem State.modLink_graphs (s : State) (k : Nat) (f : Link → Link) : (s.modLink k f).graphs = s.graphs := rfl
@[simp] theorem State.modLink_insts (s : State) (k : Nat) (f : Link → Link) : (s.modLink k f).insts = s.insts := rfl
@[simp] theorem State.modLink_distPtr (s : State) (k : Nat) (f : Link → Link) : (s.modLink k f).distPtr = s.distPtr := rfl
@[simp] theorem State.modLink_newtag (s : State) (k : Nat) (f : Link → Link) : (s.modLink k f).newtag = s.newtag := rfl
@[simp] theorem State.modLink_seq (s : State) (k : Nat) (f : Link → Link) : (s.modLink k f).seq = s.seq := rfl
@[simp] theorem State.modLink_submitted (s : State) (k : Nat) (f : Link → Link) : (s.modLink k f).submitted = s.submitted := rfl
@[simp] theorem State.modLink_sendbuf (s : State) (k : Nat) (f : Link → Link) : (s.modLink k f).sendbuf = s.sendbuf := rfl
@[simp] theorem State.modLink_slots (s : State) (k : Nat) (f : Link → Link) : (s.modLink k f).slots = s.slots := rfl
@[simp] theorem State.modLink_shadow (s : State) (k : Nat) (f : Link → Link) : (s.modLink k f).shadow = s.shadow := rfl
@[simp] theorem State.modLink_pectl (s : State) (k : Nat) (f : Link → Link) : (s.modLink k f).pectl = s.pectl := rfl
@[simp] theorem State.modLink_chains (s : State) (k : Nat) (f : Link → Link) : (s.modLink k f).chains = s.chains := rfl
@[simp] theorem State.modLink_engReqs (s : State) (k : Nat) (f : Link → Link) : (s.modLink k f).engReqs = s.engReqs := rfl
@[simp] theorem State.modLink_tookAt (s : State) (k : Nat) (f : Link → Link) : (s.modLink k f).tookAt = s.tookAt := rfl
@[simp] theorem State.modLink_hotth (s : State) (k : Nat) (f : Link → Link) : (s.modLink k f).hotth = s.hotth := rfl
@[simp] theorem State.modLink_resid (s : State) (k : Nat) (f : Link → Link) : (s.modLink k f).resid = s.resid := rfl
@[simp] theorem State.modLink_fillNo (s : State) (k : Nat) (f : Link → Link) : (s.modLink k f).fillNo = s.fillNo := rfl
@[simp] theorem State.modLink_leases (s : State) (k : Nat) (f : Link → Link) : (s.modLink k f).leases = s.leases := rfl
@[simp] theorem State.modLink_job (s : State) (k : Nat) (f : Link → Link) : (s.modLink k f).job = s.job := rfl
@[simp] theorem State.modLink_grid (s : State) (k : Nat) (f : Link → Link) : (s.modLink k f).grid = s.grid := rfl
@[simp] theorem State.modLink_qps (s : State) (k : Nat) (f : Link → Link) : (s.modLink k f).qps = s.qps := rfl
@[simp] theorem State.modLink_hostReqs (s : State) (k : Nat) (f : Link → Link) : (s.modLink k f).hostReqs = s.hostReqs := rfl
@[simp] theorem State.modLink_hostOut (s : State) (k : Nat) (f : Link → Link) : (s.modLink k f).hostOut = s.hostOut := rfl
@[simp] theorem State.modLink_delayed (s : State) (k : Nat) (f : Link → Link) : (s.modLink k f).delayed = s.delayed := rfl
@[simp] theorem State.modLink_peerOut (s : State) (k : Nat) (f : Link → Link) : (s.modLink k f).peerOut = s.peerOut := rfl
@[simp] theorem State.modLink_peerAns (s : State) (k : Nat) (f : Link → Link) : (s.modLink k f).peerAns = s.peerAns := rfl
@[simp] theorem State.modLink_mgmt (s : State) (k : Nat) (f : Link → Link) : (s.modLink k f).mgmt = s.mgmt := rfl
@[simp] theorem State.modLink_beat (s : State) (k : Nat) (f : Link → Link) : (s.modLink k f).beat = s.beat := rfl
@[simp] theorem State.modLink_agenda (s : State) (k : Nat) (f : Link → Link) : (s.modLink k f).agenda = s.agenda := rfl
@[simp] theorem State.modLink_turns (s : State) (k : Nat) (f : Link → Link) : (s.modLink k f).turns = s.turns := rfl
@[simp] theorem State.modLink_free (s : State) (k : Nat) (f : Link → Link) : (s.modLink k f).free = s.free := rfl

/-! ### modQueue -/

@[simp] theorem State.modQueue_cycle (s : State) (k : Nat) (f : Queue → Queue) : (s.modQueue k f).cycle = s.cycle := rfl
@[simp] theorem State.modQueue_mem (s : State) (k : Nat) (f : Queue → Queue) : (s.modQueue k f).mem = s.mem := rfl
@[simp] theorem State.modQueue_wr (s : State) (k : Nat) (f : Queue → Queue) : (s.modQueue k f).wr = s.wr := rfl
@[simp] theorem State.modQueue_poison (s : State) (k : Nat) (f : Queue → Queue) : (s.modQueue k f).poison = s.poison := rfl
@[simp] theorem State.modQueue_ctxs (s : State) (k : Nat) (f : Queue → Queue) : (s.modQueue k f).ctxs = s.ctxs := rfl
@[simp] theorem State.modQueue_saved (s : State) (k : Nat) (f : Queue → Queue) : (s.modQueue k f).saved = s.saved := rfl
@[simp] theorem State.modQueue_nextCtx (s : State) (k : Nat) (f : Queue → Queue) : (s.modQueue k f).nextCtx = s.nextCtx := rfl
@[simp] theorem State.modQueue_nextWid (s : State) (k : Nat) (f : Queue → Queue) : (s.modQueue k f).nextWid = s.nextWid := rfl
@[simp] theorem State.modQueue_nextTag (s : State) (k : Nat) (f : Queue → Queue) : (s.modQueue k f).nextTag = s.nextTag := rfl
@[simp] theorem State.modQueue_late (s : State) (k : Nat) (f : Queue → Queue) : (s.modQueue k f).late = s.late := rfl
@[simp] theorem State.modQueue_cores (s : State) (k : Nat) (f : Queue → Queue) : (s.modQueue k f).cores = s.cores := rfl
@[simp] theorem State.modQueue_quarters (s : State) (k : Nat) (f : Queue → Queue) : (s.modQueue k f).quarters = s.quarters := rfl
@[simp] theorem State.modQueue_dies (s : State) (k : Nat) (f : Queue → Queue) : (s.modQueue k f).dies = s.dies := rfl
@[simp] theorem State.modQueue_links (s : State) (k : Nat) (f : Queue → Queue) : (s.modQueue k f).links = s.links := rfl
@[simp] theorem State.modQueue_queues (s : State) (k : Nat) (f : Queue → Queue) : (s.modQueue k f).queues = sPut s.queues k (f (s.queue k)) := rfl
@[simp] theorem State.modQueue_prioPtr (s : State) (k : Nat) (f : Queue → Queue) : (s.modQueue k f).prioPtr = s.prioPtr := rfl
@[simp] theorem State.modQueue_launches (s : State) (k : Nat) (f : Queue → Queue) : (s.modQueue k f).launches = s.launches := rfl
@[simp] theorem State.modQueue_launchNo (s : State) (k : Nat) (f : Queue → Queue) : (s.modQueue k f).launchNo = s.launchNo := rfl
@[simp] theorem State.modQueue_graphs (s : State) (k : Nat) (f : Queue → Queue) : (s.modQueue k f).graphs = s.graphs := rfl
@[simp] theorem State.modQueue_insts (s : State) (k : Nat) (f : Queue → Queue) : (s.modQueue k f).insts = s.insts := rfl
@[simp] theorem State.modQueue_distPtr (s : State) (k : Nat) (f : Queue → Queue) : (s.modQueue k f).distPtr = s.distPtr := rfl
@[simp] theorem State.modQueue_newtag (s : State) (k : Nat) (f : Queue → Queue) : (s.modQueue k f).newtag = s.newtag := rfl
@[simp] theorem State.modQueue_seq (s : State) (k : Nat) (f : Queue → Queue) : (s.modQueue k f).seq = s.seq := rfl
@[simp] theorem State.modQueue_submitted (s : State) (k : Nat) (f : Queue → Queue) : (s.modQueue k f).submitted = s.submitted := rfl
@[simp] theorem State.modQueue_sendbuf (s : State) (k : Nat) (f : Queue → Queue) : (s.modQueue k f).sendbuf = s.sendbuf := rfl
@[simp] theorem State.modQueue_slots (s : State) (k : Nat) (f : Queue → Queue) : (s.modQueue k f).slots = s.slots := rfl
@[simp] theorem State.modQueue_shadow (s : State) (k : Nat) (f : Queue → Queue) : (s.modQueue k f).shadow = s.shadow := rfl
@[simp] theorem State.modQueue_pectl (s : State) (k : Nat) (f : Queue → Queue) : (s.modQueue k f).pectl = s.pectl := rfl
@[simp] theorem State.modQueue_chains (s : State) (k : Nat) (f : Queue → Queue) : (s.modQueue k f).chains = s.chains := rfl
@[simp] theorem State.modQueue_engReqs (s : State) (k : Nat) (f : Queue → Queue) : (s.modQueue k f).engReqs = s.engReqs := rfl
@[simp] theorem State.modQueue_tookAt (s : State) (k : Nat) (f : Queue → Queue) : (s.modQueue k f).tookAt = s.tookAt := rfl
@[simp] theorem State.modQueue_hotth (s : State) (k : Nat) (f : Queue → Queue) : (s.modQueue k f).hotth = s.hotth := rfl
@[simp] theorem State.modQueue_resid (s : State) (k : Nat) (f : Queue → Queue) : (s.modQueue k f).resid = s.resid := rfl
@[simp] theorem State.modQueue_fillNo (s : State) (k : Nat) (f : Queue → Queue) : (s.modQueue k f).fillNo = s.fillNo := rfl
@[simp] theorem State.modQueue_leases (s : State) (k : Nat) (f : Queue → Queue) : (s.modQueue k f).leases = s.leases := rfl
@[simp] theorem State.modQueue_job (s : State) (k : Nat) (f : Queue → Queue) : (s.modQueue k f).job = s.job := rfl
@[simp] theorem State.modQueue_grid (s : State) (k : Nat) (f : Queue → Queue) : (s.modQueue k f).grid = s.grid := rfl
@[simp] theorem State.modQueue_qps (s : State) (k : Nat) (f : Queue → Queue) : (s.modQueue k f).qps = s.qps := rfl
@[simp] theorem State.modQueue_hostReqs (s : State) (k : Nat) (f : Queue → Queue) : (s.modQueue k f).hostReqs = s.hostReqs := rfl
@[simp] theorem State.modQueue_hostOut (s : State) (k : Nat) (f : Queue → Queue) : (s.modQueue k f).hostOut = s.hostOut := rfl
@[simp] theorem State.modQueue_delayed (s : State) (k : Nat) (f : Queue → Queue) : (s.modQueue k f).delayed = s.delayed := rfl
@[simp] theorem State.modQueue_peerOut (s : State) (k : Nat) (f : Queue → Queue) : (s.modQueue k f).peerOut = s.peerOut := rfl
@[simp] theorem State.modQueue_peerAns (s : State) (k : Nat) (f : Queue → Queue) : (s.modQueue k f).peerAns = s.peerAns := rfl
@[simp] theorem State.modQueue_mgmt (s : State) (k : Nat) (f : Queue → Queue) : (s.modQueue k f).mgmt = s.mgmt := rfl
@[simp] theorem State.modQueue_beat (s : State) (k : Nat) (f : Queue → Queue) : (s.modQueue k f).beat = s.beat := rfl
@[simp] theorem State.modQueue_agenda (s : State) (k : Nat) (f : Queue → Queue) : (s.modQueue k f).agenda = s.agenda := rfl
@[simp] theorem State.modQueue_turns (s : State) (k : Nat) (f : Queue → Queue) : (s.modQueue k f).turns = s.turns := rfl
@[simp] theorem State.modQueue_free (s : State) (k : Nat) (f : Queue → Queue) : (s.modQueue k f).free = s.free := rfl

/-! ### modSlot -/

@[simp] theorem State.modSlot_cycle (s : State) (k : Nat) (f : Slot → Slot) : (s.modSlot k f).cycle = s.cycle := rfl
@[simp] theorem State.modSlot_mem (s : State) (k : Nat) (f : Slot → Slot) : (s.modSlot k f).mem = s.mem := rfl
@[simp] theorem State.modSlot_wr (s : State) (k : Nat) (f : Slot → Slot) : (s.modSlot k f).wr = s.wr := rfl
@[simp] theorem State.modSlot_poison (s : State) (k : Nat) (f : Slot → Slot) : (s.modSlot k f).poison = s.poison := rfl
@[simp] theorem State.modSlot_ctxs (s : State) (k : Nat) (f : Slot → Slot) : (s.modSlot k f).ctxs = s.ctxs := rfl
@[simp] theorem State.modSlot_saved (s : State) (k : Nat) (f : Slot → Slot) : (s.modSlot k f).saved = s.saved := rfl
@[simp] theorem State.modSlot_nextCtx (s : State) (k : Nat) (f : Slot → Slot) : (s.modSlot k f).nextCtx = s.nextCtx := rfl
@[simp] theorem State.modSlot_nextWid (s : State) (k : Nat) (f : Slot → Slot) : (s.modSlot k f).nextWid = s.nextWid := rfl
@[simp] theorem State.modSlot_nextTag (s : State) (k : Nat) (f : Slot → Slot) : (s.modSlot k f).nextTag = s.nextTag := rfl
@[simp] theorem State.modSlot_late (s : State) (k : Nat) (f : Slot → Slot) : (s.modSlot k f).late = s.late := rfl
@[simp] theorem State.modSlot_cores (s : State) (k : Nat) (f : Slot → Slot) : (s.modSlot k f).cores = s.cores := rfl
@[simp] theorem State.modSlot_quarters (s : State) (k : Nat) (f : Slot → Slot) : (s.modSlot k f).quarters = s.quarters := rfl
@[simp] theorem State.modSlot_dies (s : State) (k : Nat) (f : Slot → Slot) : (s.modSlot k f).dies = s.dies := rfl
@[simp] theorem State.modSlot_links (s : State) (k : Nat) (f : Slot → Slot) : (s.modSlot k f).links = s.links := rfl
@[simp] theorem State.modSlot_queues (s : State) (k : Nat) (f : Slot → Slot) : (s.modSlot k f).queues = s.queues := rfl
@[simp] theorem State.modSlot_prioPtr (s : State) (k : Nat) (f : Slot → Slot) : (s.modSlot k f).prioPtr = s.prioPtr := rfl
@[simp] theorem State.modSlot_launches (s : State) (k : Nat) (f : Slot → Slot) : (s.modSlot k f).launches = s.launches := rfl
@[simp] theorem State.modSlot_launchNo (s : State) (k : Nat) (f : Slot → Slot) : (s.modSlot k f).launchNo = s.launchNo := rfl
@[simp] theorem State.modSlot_graphs (s : State) (k : Nat) (f : Slot → Slot) : (s.modSlot k f).graphs = s.graphs := rfl
@[simp] theorem State.modSlot_insts (s : State) (k : Nat) (f : Slot → Slot) : (s.modSlot k f).insts = s.insts := rfl
@[simp] theorem State.modSlot_distPtr (s : State) (k : Nat) (f : Slot → Slot) : (s.modSlot k f).distPtr = s.distPtr := rfl
@[simp] theorem State.modSlot_newtag (s : State) (k : Nat) (f : Slot → Slot) : (s.modSlot k f).newtag = s.newtag := rfl
@[simp] theorem State.modSlot_seq (s : State) (k : Nat) (f : Slot → Slot) : (s.modSlot k f).seq = s.seq := rfl
@[simp] theorem State.modSlot_submitted (s : State) (k : Nat) (f : Slot → Slot) : (s.modSlot k f).submitted = s.submitted := rfl
@[simp] theorem State.modSlot_sendbuf (s : State) (k : Nat) (f : Slot → Slot) : (s.modSlot k f).sendbuf = s.sendbuf := rfl
@[simp] theorem State.modSlot_slots (s : State) (k : Nat) (f : Slot → Slot) : (s.modSlot k f).slots = sPut s.slots k (f (s.slot k)) := rfl
@[simp] theorem State.modSlot_shadow (s : State) (k : Nat) (f : Slot → Slot) : (s.modSlot k f).shadow = s.shadow := rfl
@[simp] theorem State.modSlot_pectl (s : State) (k : Nat) (f : Slot → Slot) : (s.modSlot k f).pectl = s.pectl := rfl
@[simp] theorem State.modSlot_chains (s : State) (k : Nat) (f : Slot → Slot) : (s.modSlot k f).chains = s.chains := rfl
@[simp] theorem State.modSlot_engReqs (s : State) (k : Nat) (f : Slot → Slot) : (s.modSlot k f).engReqs = s.engReqs := rfl
@[simp] theorem State.modSlot_tookAt (s : State) (k : Nat) (f : Slot → Slot) : (s.modSlot k f).tookAt = s.tookAt := rfl
@[simp] theorem State.modSlot_hotth (s : State) (k : Nat) (f : Slot → Slot) : (s.modSlot k f).hotth = s.hotth := rfl
@[simp] theorem State.modSlot_resid (s : State) (k : Nat) (f : Slot → Slot) : (s.modSlot k f).resid = s.resid := rfl
@[simp] theorem State.modSlot_fillNo (s : State) (k : Nat) (f : Slot → Slot) : (s.modSlot k f).fillNo = s.fillNo := rfl
@[simp] theorem State.modSlot_leases (s : State) (k : Nat) (f : Slot → Slot) : (s.modSlot k f).leases = s.leases := rfl
@[simp] theorem State.modSlot_job (s : State) (k : Nat) (f : Slot → Slot) : (s.modSlot k f).job = s.job := rfl
@[simp] theorem State.modSlot_grid (s : State) (k : Nat) (f : Slot → Slot) : (s.modSlot k f).grid = s.grid := rfl
@[simp] theorem State.modSlot_qps (s : State) (k : Nat) (f : Slot → Slot) : (s.modSlot k f).qps = s.qps := rfl
@[simp] theorem State.modSlot_hostReqs (s : State) (k : Nat) (f : Slot → Slot) : (s.modSlot k f).hostReqs = s.hostReqs := rfl
@[simp] theorem State.modSlot_hostOut (s : State) (k : Nat) (f : Slot → Slot) : (s.modSlot k f).hostOut = s.hostOut := rfl
@[simp] theorem State.modSlot_delayed (s : State) (k : Nat) (f : Slot → Slot) : (s.modSlot k f).delayed = s.delayed := rfl
@[simp] theorem State.modSlot_peerOut (s : State) (k : Nat) (f : Slot → Slot) : (s.modSlot k f).peerOut = s.peerOut := rfl
@[simp] theorem State.modSlot_peerAns (s : State) (k : Nat) (f : Slot → Slot) : (s.modSlot k f).peerAns = s.peerAns := rfl
@[simp] theorem State.modSlot_mgmt (s : State) (k : Nat) (f : Slot → Slot) : (s.modSlot k f).mgmt = s.mgmt := rfl
@[simp] theorem State.modSlot_beat (s : State) (k : Nat) (f : Slot → Slot) : (s.modSlot k f).beat = s.beat := rfl
@[simp] theorem State.modSlot_agenda (s : State) (k : Nat) (f : Slot → Slot) : (s.modSlot k f).agenda = s.agenda := rfl
@[simp] theorem State.modSlot_turns (s : State) (k : Nat) (f : Slot → Slot) : (s.modSlot k f).turns = s.turns := rfl
@[simp] theorem State.modSlot_free (s : State) (k : Nat) (f : Slot → Slot) : (s.modSlot k f).free = s.free := rfl

/-! ### putByte -/

@[simp] theorem State.putByte_cycle (s : State) (p : Nat) (b : Byte) : (s.putByte p b).cycle = s.cycle := rfl
@[simp] theorem State.putByte_mem (s : State) (p : Nat) (b : Byte) : (s.putByte p b).mem = s.mem := rfl
@[simp] theorem State.putByte_wr (s : State) (p : Nat) (b : Byte) : (s.putByte p b).wr = (p, b) :: s.wr := rfl
@[simp] theorem State.putByte_poison (s : State) (p : Nat) (b : Byte) : (s.putByte p b).poison = s.poison := rfl
@[simp] theorem State.putByte_ctxs (s : State) (p : Nat) (b : Byte) : (s.putByte p b).ctxs = s.ctxs := rfl
@[simp] theorem State.putByte_saved (s : State) (p : Nat) (b : Byte) : (s.putByte p b).saved = s.saved := rfl
@[simp] theorem State.putByte_nextCtx (s : State) (p : Nat) (b : Byte) : (s.putByte p b).nextCtx = s.nextCtx := rfl
@[simp] theorem State.putByte_nextWid (s : State) (p : Nat) (b : Byte) : (s.putByte p b).nextWid = s.nextWid := rfl
@[simp] theorem State.putByte_nextTag (s : State) (p : Nat) (b : Byte) : (s.putByte p b).nextTag = s.nextTag := rfl
@[simp] theorem State.putByte_late (s : State) (p : Nat) (b : Byte) : (s.putByte p b).late = s.late := rfl
@[simp] theorem State.putByte_cores (s : State) (p : Nat) (b : Byte) : (s.putByte p b).cores = s.cores := rfl
@[simp] theorem State.putByte_quarters (s : State) (p : Nat) (b : Byte) : (s.putByte p b).quarters = s.quarters := rfl
@[simp] theorem State.putByte_dies (s : State) (p : Nat) (b : Byte) : (s.putByte p b).dies = s.dies := rfl
@[simp] theorem State.putByte_links (s : State) (p : Nat) (b : Byte) : (s.putByte p b).links = s.links := rfl
@[simp] theorem State.putByte_queues (s : State) (p : Nat) (b : Byte) : (s.putByte p b).queues = s.queues := rfl
@[simp] theorem State.putByte_prioPtr (s : State) (p : Nat) (b : Byte) : (s.putByte p b).prioPtr = s.prioPtr := rfl
@[simp] theorem State.putByte_launches (s : State) (p : Nat) (b : Byte) : (s.putByte p b).launches = s.launches := rfl
@[simp] theorem State.putByte_launchNo (s : State) (p : Nat) (b : Byte) : (s.putByte p b).launchNo = s.launchNo := rfl
@[simp] theorem State.putByte_graphs (s : State) (p : Nat) (b : Byte) : (s.putByte p b).graphs = s.graphs := rfl
@[simp] theorem State.putByte_insts (s : State) (p : Nat) (b : Byte) : (s.putByte p b).insts = s.insts := rfl
@[simp] theorem State.putByte_distPtr (s : State) (p : Nat) (b : Byte) : (s.putByte p b).distPtr = s.distPtr := rfl
@[simp] theorem State.putByte_newtag (s : State) (p : Nat) (b : Byte) : (s.putByte p b).newtag = s.newtag := rfl
@[simp] theorem State.putByte_seq (s : State) (p : Nat) (b : Byte) : (s.putByte p b).seq = s.seq := rfl
@[simp] theorem State.putByte_submitted (s : State) (p : Nat) (b : Byte) : (s.putByte p b).submitted = s.submitted := rfl
@[simp] theorem State.putByte_sendbuf (s : State) (p : Nat) (b : Byte) : (s.putByte p b).sendbuf = s.sendbuf := rfl
@[simp] theorem State.putByte_slots (s : State) (p : Nat) (b : Byte) : (s.putByte p b).slots = s.slots := rfl
@[simp] theorem State.putByte_shadow (s : State) (p : Nat) (b : Byte) : (s.putByte p b).shadow = s.shadow := rfl
@[simp] theorem State.putByte_pectl (s : State) (p : Nat) (b : Byte) : (s.putByte p b).pectl = s.pectl := rfl
@[simp] theorem State.putByte_chains (s : State) (p : Nat) (b : Byte) : (s.putByte p b).chains = s.chains := rfl
@[simp] theorem State.putByte_engReqs (s : State) (p : Nat) (b : Byte) : (s.putByte p b).engReqs = s.engReqs := rfl
@[simp] theorem State.putByte_tookAt (s : State) (p : Nat) (b : Byte) : (s.putByte p b).tookAt = s.tookAt := rfl
@[simp] theorem State.putByte_hotth (s : State) (p : Nat) (b : Byte) : (s.putByte p b).hotth = s.hotth := rfl
@[simp] theorem State.putByte_resid (s : State) (p : Nat) (b : Byte) : (s.putByte p b).resid = s.resid := rfl
@[simp] theorem State.putByte_fillNo (s : State) (p : Nat) (b : Byte) : (s.putByte p b).fillNo = s.fillNo := rfl
@[simp] theorem State.putByte_leases (s : State) (p : Nat) (b : Byte) : (s.putByte p b).leases = s.leases := rfl
@[simp] theorem State.putByte_job (s : State) (p : Nat) (b : Byte) : (s.putByte p b).job = s.job := rfl
@[simp] theorem State.putByte_grid (s : State) (p : Nat) (b : Byte) : (s.putByte p b).grid = s.grid := rfl
@[simp] theorem State.putByte_qps (s : State) (p : Nat) (b : Byte) : (s.putByte p b).qps = s.qps := rfl
@[simp] theorem State.putByte_hostReqs (s : State) (p : Nat) (b : Byte) : (s.putByte p b).hostReqs = s.hostReqs := rfl
@[simp] theorem State.putByte_hostOut (s : State) (p : Nat) (b : Byte) : (s.putByte p b).hostOut = s.hostOut := rfl
@[simp] theorem State.putByte_delayed (s : State) (p : Nat) (b : Byte) : (s.putByte p b).delayed = s.delayed := rfl
@[simp] theorem State.putByte_peerOut (s : State) (p : Nat) (b : Byte) : (s.putByte p b).peerOut = s.peerOut := rfl
@[simp] theorem State.putByte_peerAns (s : State) (p : Nat) (b : Byte) : (s.putByte p b).peerAns = s.peerAns := rfl
@[simp] theorem State.putByte_mgmt (s : State) (p : Nat) (b : Byte) : (s.putByte p b).mgmt = s.mgmt := rfl
@[simp] theorem State.putByte_beat (s : State) (p : Nat) (b : Byte) : (s.putByte p b).beat = s.beat := rfl
@[simp] theorem State.putByte_agenda (s : State) (p : Nat) (b : Byte) : (s.putByte p b).agenda = s.agenda := rfl
@[simp] theorem State.putByte_turns (s : State) (p : Nat) (b : Byte) : (s.putByte p b).turns = s.turns := rfl
@[simp] theorem State.putByte_free (s : State) (p : Nat) (b : Byte) : (s.putByte p b).free = s.free := rfl

/-! ### seal -/

@[simp] theorem State.seal_cycle (s : State) (m : List Host.Cell) : (s.seal m).cycle = s.cycle := rfl
@[simp] theorem State.seal_mem (s : State) (m : List Host.Cell) : (s.seal m).mem = mPuts m s.wr := rfl
@[simp] theorem State.seal_wr (s : State) (m : List Host.Cell) : (s.seal m).wr = [] := rfl
@[simp] theorem State.seal_poison (s : State) (m : List Host.Cell) : (s.seal m).poison = s.poison := rfl
@[simp] theorem State.seal_ctxs (s : State) (m : List Host.Cell) : (s.seal m).ctxs = s.ctxs := rfl
@[simp] theorem State.seal_saved (s : State) (m : List Host.Cell) : (s.seal m).saved = s.saved := rfl
@[simp] theorem State.seal_nextCtx (s : State) (m : List Host.Cell) : (s.seal m).nextCtx = s.nextCtx := rfl
@[simp] theorem State.seal_nextWid (s : State) (m : List Host.Cell) : (s.seal m).nextWid = s.nextWid := rfl
@[simp] theorem State.seal_nextTag (s : State) (m : List Host.Cell) : (s.seal m).nextTag = s.nextTag := rfl
@[simp] theorem State.seal_late (s : State) (m : List Host.Cell) : (s.seal m).late = s.late := rfl
@[simp] theorem State.seal_cores (s : State) (m : List Host.Cell) : (s.seal m).cores = s.cores := rfl
@[simp] theorem State.seal_quarters (s : State) (m : List Host.Cell) : (s.seal m).quarters = s.quarters := rfl
@[simp] theorem State.seal_dies (s : State) (m : List Host.Cell) : (s.seal m).dies = s.dies := rfl
@[simp] theorem State.seal_links (s : State) (m : List Host.Cell) : (s.seal m).links = s.links := rfl
@[simp] theorem State.seal_queues (s : State) (m : List Host.Cell) : (s.seal m).queues = s.queues := rfl
@[simp] theorem State.seal_prioPtr (s : State) (m : List Host.Cell) : (s.seal m).prioPtr = s.prioPtr := rfl
@[simp] theorem State.seal_launches (s : State) (m : List Host.Cell) : (s.seal m).launches = s.launches := rfl
@[simp] theorem State.seal_launchNo (s : State) (m : List Host.Cell) : (s.seal m).launchNo = s.launchNo := rfl
@[simp] theorem State.seal_graphs (s : State) (m : List Host.Cell) : (s.seal m).graphs = s.graphs := rfl
@[simp] theorem State.seal_insts (s : State) (m : List Host.Cell) : (s.seal m).insts = s.insts := rfl
@[simp] theorem State.seal_distPtr (s : State) (m : List Host.Cell) : (s.seal m).distPtr = s.distPtr := rfl
@[simp] theorem State.seal_newtag (s : State) (m : List Host.Cell) : (s.seal m).newtag = s.newtag := rfl
@[simp] theorem State.seal_seq (s : State) (m : List Host.Cell) : (s.seal m).seq = s.seq := rfl
@[simp] theorem State.seal_submitted (s : State) (m : List Host.Cell) : (s.seal m).submitted = s.submitted := rfl
@[simp] theorem State.seal_sendbuf (s : State) (m : List Host.Cell) : (s.seal m).sendbuf = s.sendbuf := rfl
@[simp] theorem State.seal_slots (s : State) (m : List Host.Cell) : (s.seal m).slots = s.slots := rfl
@[simp] theorem State.seal_shadow (s : State) (m : List Host.Cell) : (s.seal m).shadow = s.shadow := rfl
@[simp] theorem State.seal_pectl (s : State) (m : List Host.Cell) : (s.seal m).pectl = s.pectl := rfl
@[simp] theorem State.seal_chains (s : State) (m : List Host.Cell) : (s.seal m).chains = s.chains := rfl
@[simp] theorem State.seal_engReqs (s : State) (m : List Host.Cell) : (s.seal m).engReqs = s.engReqs := rfl
@[simp] theorem State.seal_tookAt (s : State) (m : List Host.Cell) : (s.seal m).tookAt = s.tookAt := rfl
@[simp] theorem State.seal_hotth (s : State) (m : List Host.Cell) : (s.seal m).hotth = s.hotth := rfl
@[simp] theorem State.seal_resid (s : State) (m : List Host.Cell) : (s.seal m).resid = s.resid := rfl
@[simp] theorem State.seal_fillNo (s : State) (m : List Host.Cell) : (s.seal m).fillNo = s.fillNo := rfl
@[simp] theorem State.seal_leases (s : State) (m : List Host.Cell) : (s.seal m).leases = s.leases := rfl
@[simp] theorem State.seal_job (s : State) (m : List Host.Cell) : (s.seal m).job = s.job := rfl
@[simp] theorem State.seal_grid (s : State) (m : List Host.Cell) : (s.seal m).grid = s.grid := rfl
@[simp] theorem State.seal_qps (s : State) (m : List Host.Cell) : (s.seal m).qps = s.qps := rfl
@[simp] theorem State.seal_hostReqs (s : State) (m : List Host.Cell) : (s.seal m).hostReqs = s.hostReqs := rfl
@[simp] theorem State.seal_hostOut (s : State) (m : List Host.Cell) : (s.seal m).hostOut = s.hostOut := rfl
@[simp] theorem State.seal_delayed (s : State) (m : List Host.Cell) : (s.seal m).delayed = s.delayed := rfl
@[simp] theorem State.seal_peerOut (s : State) (m : List Host.Cell) : (s.seal m).peerOut = s.peerOut := rfl
@[simp] theorem State.seal_peerAns (s : State) (m : List Host.Cell) : (s.seal m).peerAns = s.peerAns := rfl
@[simp] theorem State.seal_mgmt (s : State) (m : List Host.Cell) : (s.seal m).mgmt = s.mgmt := rfl
@[simp] theorem State.seal_beat (s : State) (m : List Host.Cell) : (s.seal m).beat = s.beat := rfl
@[simp] theorem State.seal_agenda (s : State) (m : List Host.Cell) : (s.seal m).agenda = s.agenda := rfl
@[simp] theorem State.seal_turns (s : State) (m : List Host.Cell) : (s.seal m).turns = s.turns := rfl
@[simp] theorem State.seal_free (s : State) (m : List Host.Cell) : (s.seal m).free = s.free := rfl

/-! ### fresh -/

@[simp] theorem State.fresh_cycle (s : State) : (s.fresh.2).cycle = s.cycle := rfl
@[simp] theorem State.fresh_mem (s : State) : (s.fresh.2).mem = s.mem := rfl
@[simp] theorem State.fresh_wr (s : State) : (s.fresh.2).wr = s.wr := rfl
@[simp] theorem State.fresh_poison (s : State) : (s.fresh.2).poison = s.poison := rfl
@[simp] theorem State.fresh_ctxs (s : State) : (s.fresh.2).ctxs = s.ctxs := rfl
@[simp] theorem State.fresh_saved (s : State) : (s.fresh.2).saved = s.saved := rfl
@[simp] theorem State.fresh_nextCtx (s : State) : (s.fresh.2).nextCtx = s.nextCtx := rfl
@[simp] theorem State.fresh_nextWid (s : State) : (s.fresh.2).nextWid = s.nextWid := rfl
@[simp] theorem State.fresh_nextTag (s : State) : (s.fresh.2).nextTag = s.nextTag := rfl
@[simp] theorem State.fresh_late (s : State) : (s.fresh.2).late = s.late := rfl
@[simp] theorem State.fresh_cores (s : State) : (s.fresh.2).cores = s.cores := rfl
@[simp] theorem State.fresh_quarters (s : State) : (s.fresh.2).quarters = s.quarters := rfl
@[simp] theorem State.fresh_dies (s : State) : (s.fresh.2).dies = s.dies := rfl
@[simp] theorem State.fresh_links (s : State) : (s.fresh.2).links = s.links := rfl
@[simp] theorem State.fresh_queues (s : State) : (s.fresh.2).queues = s.queues := rfl
@[simp] theorem State.fresh_prioPtr (s : State) : (s.fresh.2).prioPtr = s.prioPtr := rfl
@[simp] theorem State.fresh_launches (s : State) : (s.fresh.2).launches = s.launches := rfl
@[simp] theorem State.fresh_launchNo (s : State) : (s.fresh.2).launchNo = s.launchNo := rfl
@[simp] theorem State.fresh_graphs (s : State) : (s.fresh.2).graphs = s.graphs := rfl
@[simp] theorem State.fresh_insts (s : State) : (s.fresh.2).insts = s.insts := rfl
@[simp] theorem State.fresh_distPtr (s : State) : (s.fresh.2).distPtr = s.distPtr := rfl
@[simp] theorem State.fresh_newtag (s : State) : (s.fresh.2).newtag = s.newtag := rfl
@[simp] theorem State.fresh_seq (s : State) : (s.fresh.2).seq = s.seq := rfl
@[simp] theorem State.fresh_submitted (s : State) : (s.fresh.2).submitted = s.submitted := rfl
@[simp] theorem State.fresh_sendbuf (s : State) : (s.fresh.2).sendbuf = s.sendbuf := rfl
@[simp] theorem State.fresh_slots (s : State) : (s.fresh.2).slots = s.slots := rfl
@[simp] theorem State.fresh_shadow (s : State) : (s.fresh.2).shadow = s.shadow := rfl
@[simp] theorem State.fresh_pectl (s : State) : (s.fresh.2).pectl = s.pectl := rfl
@[simp] theorem State.fresh_chains (s : State) : (s.fresh.2).chains = s.chains := rfl
@[simp] theorem State.fresh_engReqs (s : State) : (s.fresh.2).engReqs = s.engReqs := rfl
@[simp] theorem State.fresh_tookAt (s : State) : (s.fresh.2).tookAt = s.tookAt := rfl
@[simp] theorem State.fresh_hotth (s : State) : (s.fresh.2).hotth = s.hotth := rfl
@[simp] theorem State.fresh_resid (s : State) : (s.fresh.2).resid = s.resid := rfl
@[simp] theorem State.fresh_fillNo (s : State) : (s.fresh.2).fillNo = s.fillNo := rfl
@[simp] theorem State.fresh_leases (s : State) : (s.fresh.2).leases = s.leases := rfl
@[simp] theorem State.fresh_job (s : State) : (s.fresh.2).job = s.job := rfl
@[simp] theorem State.fresh_grid (s : State) : (s.fresh.2).grid = s.grid := rfl
@[simp] theorem State.fresh_qps (s : State) : (s.fresh.2).qps = s.qps := rfl
@[simp] theorem State.fresh_hostReqs (s : State) : (s.fresh.2).hostReqs = s.hostReqs := rfl
@[simp] theorem State.fresh_hostOut (s : State) : (s.fresh.2).hostOut = s.hostOut := rfl
@[simp] theorem State.fresh_delayed (s : State) : (s.fresh.2).delayed = s.delayed := rfl
@[simp] theorem State.fresh_peerOut (s : State) : (s.fresh.2).peerOut = s.peerOut := rfl
@[simp] theorem State.fresh_peerAns (s : State) : (s.fresh.2).peerAns = s.peerAns := rfl
@[simp] theorem State.fresh_mgmt (s : State) : (s.fresh.2).mgmt = s.mgmt := rfl
@[simp] theorem State.fresh_beat (s : State) : (s.fresh.2).beat = s.beat := rfl
@[simp] theorem State.fresh_agenda (s : State) : (s.fresh.2).agenda = s.agenda := rfl
@[simp] theorem State.fresh_turns (s : State) : (s.fresh.2).turns = s.turns := rfl
@[simp] theorem State.fresh_free (s : State) : (s.fresh.2).free = s.free + 1 := rfl

/-! ### Ctx.modT -/

@[simp] theorem Ctx.modT_launch (c : Ctx) (p : Thread → Bool) (f : Thread → Thread) : (c.modT p f).launch = c.launch := rfl
@[simp] theorem Ctx.modT_block (c : Ctx) (p : Thread → Bool) (f : Thread → Thread) : (c.modT p f).block = c.block := rfl
@[simp] theorem Ctx.modT_dim (c : Ctx) (p : Thread → Bool) (f : Thread → Thread) : (c.modT p f).dim = c.dim := rfl
@[simp] theorem Ctx.modT_ltime (c : Ctx) (p : Thread → Bool) (f : Thread → Thread) : (c.modT p f).ltime = c.ltime := rfl
@[simp] theorem Ctx.modT_loc (c : Ctx) (p : Thread → Bool) (f : Thread → Thread) : (c.modT p f).loc = c.loc := rfl
@[simp] theorem Ctx.modT_task (c : Ctx) (p : Thread → Bool) (f : Thread → Thread) : (c.modT p f).task = c.task := rfl
@[simp] theorem Ctx.modT_graph (c : Ctx) (p : Thread → Bool) (f : Thread → Thread) : (c.modT p f).graph = c.graph := rfl
@[simp] theorem Ctx.modT_trec (c : Ctx) (p : Thread → Bool) (f : Thread → Thread) : (c.modT p f).trec = c.trec := rfl
@[simp] theorem Ctx.modT_phase (c : Ctx) (p : Thread → Bool) (f : Thread → Thread) : (c.modT p f).phase = c.phase := rfl
@[simp] theorem Ctx.modT_gtag (c : Ctx) (p : Thread → Bool) (f : Thread → Thread) : (c.modT p f).gtag = c.gtag := rfl
@[simp] theorem Ctx.modT_prio (c : Ctx) (p : Thread → Bool) (f : Thread → Thread) : (c.modT p f).prio = c.prio := rfl
@[simp] theorem Ctx.modT_arg (c : Ctx) (p : Thread → Bool) (f : Thread → Thread) : (c.modT p f).arg = c.arg := rfl
@[simp] theorem Ctx.modT_handler (c : Ctx) (p : Thread → Bool) (f : Thread → Thread) : (c.modT p f).handler = c.handler := rfl
@[simp] theorem Ctx.modT_stopped (c : Ctx) (p : Thread → Bool) (f : Thread → Thread) : (c.modT p f).stopped = c.stopped := rfl
@[simp] theorem Ctx.modT_saving (c : Ctx) (p : Thread → Bool) (f : Thread → Thread) : (c.modT p f).saving = c.saving := rfl
@[simp] theorem Ctx.modT_cancelled (c : Ctx) (p : Thread → Bool) (f : Thread → Thread) : (c.modT p f).cancelled = c.cancelled := rfl
@[simp] theorem Ctx.modT_paused (c : Ctx) (p : Thread → Bool) (f : Thread → Thread) : (c.modT p f).paused = c.paused := rfl
@[simp] theorem Ctx.modT_placed (c : Ctx) (p : Thread → Bool) (f : Thread → Thread) : (c.modT p f).placed = c.placed := rfl
@[simp] theorem Ctx.modT_area (c : Ctx) (p : Thread → Bool) (f : Thread → Thread) : (c.modT p f).area = c.area := rfl
@[simp] theorem Ctx.modT_areaAt (c : Ctx) (p : Thread → Bool) (f : Thread → Thread) : (c.modT p f).areaAt = c.areaAt := rfl
@[simp] theorem Ctx.modT_spec (c : Ctx) (p : Thread → Bool) (f : Thread → Thread) : (c.modT p f).spec = c.spec := rfl
@[simp] theorem Ctx.modT_specBit (c : Ctx) (p : Thread → Bool) (f : Thread → Thread) : (c.modT p f).specBit = c.specBit := rfl
@[simp] theorem Ctx.modT_die (c : Ctx) (p : Thread → Bool) (f : Thread → Thread) : (c.modT p f).die = c.die := rfl
@[simp] theorem Ctx.modT_cores (c : Ctx) (p : Thread → Bool) (f : Thread → Thread) : (c.modT p f).cores = c.cores := rfl
@[simp] theorem Ctx.modT_slice (c : Ctx) (p : Thread → Bool) (f : Thread → Thread) : (c.modT p f).slice = c.slice := rfl
@[simp] theorem Ctx.modT_kernel (c : Ctx) (p : Thread → Bool) (f : Thread → Thread) : (c.modT p f).kernel = c.kernel := rfl
@[simp] theorem Ctx.modT_threads (c : Ctx) (p : Thread → Bool) (f : Thread → Thread) : (c.modT p f).threads = c.threads.map (fun t => if p t then f t else t) := rfl
@[simp] theorem Ctx.modT_wheels (c : Ctx) (p : Thread → Bool) (f : Thread → Thread) : (c.modT p f).wheels = c.wheels := rfl
@[simp] theorem Ctx.modT_tregs (c : Ctx) (p : Thread → Bool) (f : Thread → Thread) : (c.modT p f).tregs = c.tregs := rfl
@[simp] theorem Ctx.modT_twrites (c : Ctx) (p : Thread → Bool) (f : Thread → Thread) : (c.modT p f).twrites = c.twrites := rfl
@[simp] theorem Ctx.modT_cregs (c : Ctx) (p : Thread → Bool) (f : Thread → Thread) : (c.modT p f).cregs = c.cregs := rfl
@[simp] theorem Ctx.modT_gslots (c : Ctx) (p : Thread → Bool) (f : Thread → Thread) : (c.modT p f).gslots = c.gslots := rfl
@[simp] theorem Ctx.modT_absent (c : Ctx) (p : Thread → Bool) (f : Thread → Thread) : (c.modT p f).absent = c.absent := rfl
@[simp] theorem Ctx.modT_waits (c : Ctx) (p : Thread → Bool) (f : Thread → Thread) : (c.modT p f).waits = c.waits := rfl
@[simp] theorem Ctx.modT_regrouped (c : Ctx) (p : Thread → Bool) (f : Thread → Thread) : (c.modT p f).regrouped = c.regrouped := rfl
@[simp] theorem Ctx.modT_held (c : Ctx) (p : Thread → Bool) (f : Thread → Thread) : (c.modT p f).held = c.held := rfl
@[simp] theorem Ctx.modT_loads (c : Ctx) (p : Thread → Bool) (f : Thread → Thread) : (c.modT p f).loads = c.loads := rfl
@[simp] theorem Ctx.modT_remotes (c : Ctx) (p : Thread → Bool) (f : Thread → Thread) : (c.modT p f).remotes = c.remotes := rfl
@[simp] theorem Ctx.modT_posted (c : Ctx) (p : Thread → Bool) (f : Thread → Thread) : (c.modT p f).posted = c.posted := rfl
@[simp] theorem Ctx.modT_withdrawn (c : Ctx) (p : Thread → Bool) (f : Thread → Thread) : (c.modT p f).withdrawn = c.withdrawn := rfl
@[simp] theorem Ctx.modT_locks (c : Ctx) (p : Thread → Bool) (f : Thread → Thread) : (c.modT p f).locks = c.locks := rfl

/-! ### Ctx.modW -/

@[simp] theorem Ctx.modW_launch (c : Ctx) (w : Nat) (f : Wheel → Wheel) : (c.modW w f).launch = c.launch := rfl
@[simp] theorem Ctx.modW_block (c : Ctx) (w : Nat) (f : Wheel → Wheel) : (c.modW w f).block = c.block := rfl
@[simp] theorem Ctx.modW_dim (c : Ctx) (w : Nat) (f : Wheel → Wheel) : (c.modW w f).dim = c.dim := rfl
@[simp] theorem Ctx.modW_ltime (c : Ctx) (w : Nat) (f : Wheel → Wheel) : (c.modW w f).ltime = c.ltime := rfl
@[simp] theorem Ctx.modW_loc (c : Ctx) (w : Nat) (f : Wheel → Wheel) : (c.modW w f).loc = c.loc := rfl
@[simp] theorem Ctx.modW_task (c : Ctx) (w : Nat) (f : Wheel → Wheel) : (c.modW w f).task = c.task := rfl
@[simp] theorem Ctx.modW_graph (c : Ctx) (w : Nat) (f : Wheel → Wheel) : (c.modW w f).graph = c.graph := rfl
@[simp] theorem Ctx.modW_trec (c : Ctx) (w : Nat) (f : Wheel → Wheel) : (c.modW w f).trec = c.trec := rfl
@[simp] theorem Ctx.modW_phase (c : Ctx) (w : Nat) (f : Wheel → Wheel) : (c.modW w f).phase = c.phase := rfl
@[simp] theorem Ctx.modW_gtag (c : Ctx) (w : Nat) (f : Wheel → Wheel) : (c.modW w f).gtag = c.gtag := rfl
@[simp] theorem Ctx.modW_prio (c : Ctx) (w : Nat) (f : Wheel → Wheel) : (c.modW w f).prio = c.prio := rfl
@[simp] theorem Ctx.modW_arg (c : Ctx) (w : Nat) (f : Wheel → Wheel) : (c.modW w f).arg = c.arg := rfl
@[simp] theorem Ctx.modW_handler (c : Ctx) (w : Nat) (f : Wheel → Wheel) : (c.modW w f).handler = c.handler := rfl
@[simp] theorem Ctx.modW_stopped (c : Ctx) (w : Nat) (f : Wheel → Wheel) : (c.modW w f).stopped = c.stopped := rfl
@[simp] theorem Ctx.modW_saving (c : Ctx) (w : Nat) (f : Wheel → Wheel) : (c.modW w f).saving = c.saving := rfl
@[simp] theorem Ctx.modW_cancelled (c : Ctx) (w : Nat) (f : Wheel → Wheel) : (c.modW w f).cancelled = c.cancelled := rfl
@[simp] theorem Ctx.modW_paused (c : Ctx) (w : Nat) (f : Wheel → Wheel) : (c.modW w f).paused = c.paused := rfl
@[simp] theorem Ctx.modW_placed (c : Ctx) (w : Nat) (f : Wheel → Wheel) : (c.modW w f).placed = c.placed := rfl
@[simp] theorem Ctx.modW_area (c : Ctx) (w : Nat) (f : Wheel → Wheel) : (c.modW w f).area = c.area := rfl
@[simp] theorem Ctx.modW_areaAt (c : Ctx) (w : Nat) (f : Wheel → Wheel) : (c.modW w f).areaAt = c.areaAt := rfl
@[simp] theorem Ctx.modW_spec (c : Ctx) (w : Nat) (f : Wheel → Wheel) : (c.modW w f).spec = c.spec := rfl
@[simp] theorem Ctx.modW_specBit (c : Ctx) (w : Nat) (f : Wheel → Wheel) : (c.modW w f).specBit = c.specBit := rfl
@[simp] theorem Ctx.modW_die (c : Ctx) (w : Nat) (f : Wheel → Wheel) : (c.modW w f).die = c.die := rfl
@[simp] theorem Ctx.modW_cores (c : Ctx) (w : Nat) (f : Wheel → Wheel) : (c.modW w f).cores = c.cores := rfl
@[simp] theorem Ctx.modW_slice (c : Ctx) (w : Nat) (f : Wheel → Wheel) : (c.modW w f).slice = c.slice := rfl
@[simp] theorem Ctx.modW_kernel (c : Ctx) (w : Nat) (f : Wheel → Wheel) : (c.modW w f).kernel = c.kernel := rfl
@[simp] theorem Ctx.modW_threads (c : Ctx) (w : Nat) (f : Wheel → Wheel) : (c.modW w f).threads = c.threads := rfl
@[simp] theorem Ctx.modW_wheels (c : Ctx) (w : Nat) (f : Wheel → Wheel) : (c.modW w f).wheels = c.wheels.map (fun x => if x.idx = w then f x else x) := rfl
@[simp] theorem Ctx.modW_tregs (c : Ctx) (w : Nat) (f : Wheel → Wheel) : (c.modW w f).tregs = c.tregs := rfl
@[simp] theorem Ctx.modW_twrites (c : Ctx) (w : Nat) (f : Wheel → Wheel) : (c.modW w f).twrites = c.twrites := rfl
@[simp] theorem Ctx.modW_cregs (c : Ctx) (w : Nat) (f : Wheel → Wheel) : (c.modW w f).cregs = c.cregs := rfl
@[simp] theorem Ctx.modW_gslots (c : Ctx) (w : Nat) (f : Wheel → Wheel) : (c.modW w f).gslots = c.gslots := rfl
@[simp] theorem Ctx.modW_absent (c : Ctx) (w : Nat) (f : Wheel → Wheel) : (c.modW w f).absent = c.absent := rfl
@[simp] theorem Ctx.modW_waits (c : Ctx) (w : Nat) (f : Wheel → Wheel) : (c.modW w f).waits = c.waits := rfl
@[simp] theorem Ctx.modW_regrouped (c : Ctx) (w : Nat) (f : Wheel → Wheel) : (c.modW w f).regrouped = c.regrouped := rfl
@[simp] theorem Ctx.modW_held (c : Ctx) (w : Nat) (f : Wheel → Wheel) : (c.modW w f).held = c.held := rfl
@[simp] theorem Ctx.modW_loads (c : Ctx) (w : Nat) (f : Wheel → Wheel) : (c.modW w f).loads = c.loads := rfl
@[simp] theorem Ctx.modW_remotes (c : Ctx) (w : Nat) (f : Wheel → Wheel) : (c.modW w f).remotes = c.remotes := rfl
@[simp] theorem Ctx.modW_posted (c : Ctx) (w : Nat) (f : Wheel → Wheel) : (c.modW w f).posted = c.posted := rfl
@[simp] theorem Ctx.modW_withdrawn (c : Ctx) (w : Nat) (f : Wheel → Wheel) : (c.modW w f).withdrawn = c.withdrawn := rfl
@[simp] theorem Ctx.modW_locks (c : Ctx) (w : Nat) (f : Wheel → Wheel) : (c.modW w f).locks = c.locks := rfl

/-! ### Ctx.modConv -/

@[simp] theorem Ctx.modConv_launch (c : Ctx) (k : Nat) (f : Conv → Conv) : (c.modConv k f).launch = c.launch := rfl
@[simp] theorem Ctx.modConv_block (c : Ctx) (k : Nat) (f : Conv → Conv) : (c.modConv k f).block = c.block := rfl
@[simp] theorem Ctx.modConv_dim (c : Ctx) (k : Nat) (f : Conv → Conv) : (c.modConv k f).dim = c.dim := rfl
@[simp] theorem Ctx.modConv_ltime (c : Ctx) (k : Nat) (f : Conv → Conv) : (c.modConv k f).ltime = c.ltime := rfl
@[simp] theorem Ctx.modConv_loc (c : Ctx) (k : Nat) (f : Conv → Conv) : (c.modConv k f).loc = c.loc := rfl
@[simp] theorem Ctx.modConv_task (c : Ctx) (k : Nat) (f : Conv → Conv) : (c.modConv k f).task = c.task := rfl
@[simp] theorem Ctx.modConv_graph (c : Ctx) (k : Nat) (f : Conv → Conv) : (c.modConv k f).graph = c.graph := rfl
@[simp] theorem Ctx.modConv_trec (c : Ctx) (k : Nat) (f : Conv → Conv) : (c.modConv k f).trec = c.trec := rfl
@[simp] theorem Ctx.modConv_phase (c : Ctx) (k : Nat) (f : Conv → Conv) : (c.modConv k f).phase = c.phase := rfl
@[simp] theorem Ctx.modConv_gtag (c : Ctx) (k : Nat) (f : Conv → Conv) : (c.modConv k f).gtag = c.gtag := rfl
@[simp] theorem Ctx.modConv_prio (c : Ctx) (k : Nat) (f : Conv → Conv) : (c.modConv k f).prio = c.prio := rfl
@[simp] theorem Ctx.modConv_arg (c : Ctx) (k : Nat) (f : Conv → Conv) : (c.modConv k f).arg = c.arg := rfl
@[simp] theorem Ctx.modConv_handler (c : Ctx) (k : Nat) (f : Conv → Conv) : (c.modConv k f).handler = c.handler := rfl
@[simp] theorem Ctx.modConv_stopped (c : Ctx) (k : Nat) (f : Conv → Conv) : (c.modConv k f).stopped = c.stopped := rfl
@[simp] theorem Ctx.modConv_saving (c : Ctx) (k : Nat) (f : Conv → Conv) : (c.modConv k f).saving = c.saving := rfl
@[simp] theorem Ctx.modConv_cancelled (c : Ctx) (k : Nat) (f : Conv → Conv) : (c.modConv k f).cancelled = c.cancelled := rfl
@[simp] theorem Ctx.modConv_paused (c : Ctx) (k : Nat) (f : Conv → Conv) : (c.modConv k f).paused = c.paused := rfl
@[simp] theorem Ctx.modConv_placed (c : Ctx) (k : Nat) (f : Conv → Conv) : (c.modConv k f).placed = c.placed := rfl
@[simp] theorem Ctx.modConv_area (c : Ctx) (k : Nat) (f : Conv → Conv) : (c.modConv k f).area = c.area := rfl
@[simp] theorem Ctx.modConv_areaAt (c : Ctx) (k : Nat) (f : Conv → Conv) : (c.modConv k f).areaAt = c.areaAt := rfl
@[simp] theorem Ctx.modConv_spec (c : Ctx) (k : Nat) (f : Conv → Conv) : (c.modConv k f).spec = c.spec := rfl
@[simp] theorem Ctx.modConv_specBit (c : Ctx) (k : Nat) (f : Conv → Conv) : (c.modConv k f).specBit = c.specBit := rfl
@[simp] theorem Ctx.modConv_die (c : Ctx) (k : Nat) (f : Conv → Conv) : (c.modConv k f).die = c.die := rfl
@[simp] theorem Ctx.modConv_cores (c : Ctx) (k : Nat) (f : Conv → Conv) : (c.modConv k f).cores = c.cores := rfl
@[simp] theorem Ctx.modConv_slice (c : Ctx) (k : Nat) (f : Conv → Conv) : (c.modConv k f).slice = c.slice := rfl
@[simp] theorem Ctx.modConv_kernel (c : Ctx) (k : Nat) (f : Conv → Conv) : (c.modConv k f).kernel = c.kernel := rfl
@[simp] theorem Ctx.modConv_threads (c : Ctx) (k : Nat) (f : Conv → Conv) : (c.modConv k f).threads = c.threads := rfl
@[simp] theorem Ctx.modConv_wheels (c : Ctx) (k : Nat) (f : Conv → Conv) : (c.modConv k f).wheels = c.wheels := rfl
@[simp] theorem Ctx.modConv_tregs (c : Ctx) (k : Nat) (f : Conv → Conv) : (c.modConv k f).tregs = c.tregs := rfl
@[simp] theorem Ctx.modConv_twrites (c : Ctx) (k : Nat) (f : Conv → Conv) : (c.modConv k f).twrites = c.twrites := rfl
@[simp] theorem Ctx.modConv_cregs (c : Ctx) (k : Nat) (f : Conv → Conv) : (c.modConv k f).cregs = sPut c.cregs k (f ((sGet c.cregs k).getD {})) := rfl
@[simp] theorem Ctx.modConv_gslots (c : Ctx) (k : Nat) (f : Conv → Conv) : (c.modConv k f).gslots = c.gslots := rfl
@[simp] theorem Ctx.modConv_absent (c : Ctx) (k : Nat) (f : Conv → Conv) : (c.modConv k f).absent = c.absent := rfl
@[simp] theorem Ctx.modConv_waits (c : Ctx) (k : Nat) (f : Conv → Conv) : (c.modConv k f).waits = c.waits := rfl
@[simp] theorem Ctx.modConv_regrouped (c : Ctx) (k : Nat) (f : Conv → Conv) : (c.modConv k f).regrouped = c.regrouped := rfl
@[simp] theorem Ctx.modConv_held (c : Ctx) (k : Nat) (f : Conv → Conv) : (c.modConv k f).held = c.held := rfl
@[simp] theorem Ctx.modConv_loads (c : Ctx) (k : Nat) (f : Conv → Conv) : (c.modConv k f).loads = c.loads := rfl
@[simp] theorem Ctx.modConv_remotes (c : Ctx) (k : Nat) (f : Conv → Conv) : (c.modConv k f).remotes = c.remotes := rfl
@[simp] theorem Ctx.modConv_posted (c : Ctx) (k : Nat) (f : Conv → Conv) : (c.modConv k f).posted = c.posted := rfl
@[simp] theorem Ctx.modConv_withdrawn (c : Ctx) (k : Nat) (f : Conv → Conv) : (c.modConv k f).withdrawn = c.withdrawn := rfl
@[simp] theorem Ctx.modConv_locks (c : Ctx) (k : Nat) (f : Conv → Conv) : (c.modConv k f).locks = c.locks := rfl

/-! ### Ctx.advance -/

@[simp] theorem Ctx.advance_launch (c : Ctx) (b : Beat) (y : Bool) : (c.advance b y).launch = c.launch := rfl
@[simp] theorem Ctx.advance_block (c : Ctx) (b : Beat) (y : Bool) : (c.advance b y).block = c.block := rfl
@[simp] theorem Ctx.advance_dim (c : Ctx) (b : Beat) (y : Bool) : (c.advance b y).dim = c.dim := rfl
@[simp] theorem Ctx.advance_ltime (c : Ctx) (b : Beat) (y : Bool) : (c.advance b y).ltime = c.ltime := rfl
@[simp] theorem Ctx.advance_loc (c : Ctx) (b : Beat) (y : Bool) : (c.advance b y).loc = c.loc := rfl
@[simp] theorem Ctx.advance_task (c : Ctx) (b : Beat) (y : Bool) : (c.advance b y).task = c.task := rfl
@[simp] theorem Ctx.advance_graph (c : Ctx) (b : Beat) (y : Bool) : (c.advance b y).graph = c.graph := rfl
@[simp] theorem Ctx.advance_trec (c : Ctx) (b : Beat) (y : Bool) : (c.advance b y).trec = c.trec := rfl
@[simp] theorem Ctx.advance_phase (c : Ctx) (b : Beat) (y : Bool) : (c.advance b y).phase = c.phase := rfl
@[simp] theorem Ctx.advance_gtag (c : Ctx) (b : Beat) (y : Bool) : (c.advance b y).gtag = c.gtag := rfl
@[simp] theorem Ctx.advance_prio (c : Ctx) (b : Beat) (y : Bool) : (c.advance b y).prio = c.prio := rfl
@[simp] theorem Ctx.advance_arg (c : Ctx) (b : Beat) (y : Bool) : (c.advance b y).arg = c.arg := rfl
@[simp] theorem Ctx.advance_handler (c : Ctx) (b : Beat) (y : Bool) : (c.advance b y).handler = c.handler := rfl
@[simp] theorem Ctx.advance_stopped (c : Ctx) (b : Beat) (y : Bool) : (c.advance b y).stopped = c.stopped := rfl
@[simp] theorem Ctx.advance_saving (c : Ctx) (b : Beat) (y : Bool) : (c.advance b y).saving = c.saving := rfl
@[simp] theorem Ctx.advance_cancelled (c : Ctx) (b : Beat) (y : Bool) : (c.advance b y).cancelled = c.cancelled := rfl
@[simp] theorem Ctx.advance_paused (c : Ctx) (b : Beat) (y : Bool) : (c.advance b y).paused = c.paused := rfl
@[simp] theorem Ctx.advance_placed (c : Ctx) (b : Beat) (y : Bool) : (c.advance b y).placed = c.placed := rfl
@[simp] theorem Ctx.advance_area (c : Ctx) (b : Beat) (y : Bool) : (c.advance b y).area = c.area := rfl
@[simp] theorem Ctx.advance_areaAt (c : Ctx) (b : Beat) (y : Bool) : (c.advance b y).areaAt = c.areaAt := rfl
@[simp] theorem Ctx.advance_spec (c : Ctx) (b : Beat) (y : Bool) : (c.advance b y).spec = c.spec := rfl
@[simp] theorem Ctx.advance_specBit (c : Ctx) (b : Beat) (y : Bool) : (c.advance b y).specBit = c.specBit := rfl
@[simp] theorem Ctx.advance_die (c : Ctx) (b : Beat) (y : Bool) : (c.advance b y).die = c.die := rfl
@[simp] theorem Ctx.advance_cores (c : Ctx) (b : Beat) (y : Bool) : (c.advance b y).cores = c.cores := rfl
@[simp] theorem Ctx.advance_slice (c : Ctx) (b : Beat) (y : Bool) : (c.advance b y).slice = c.slice := rfl
@[simp] theorem Ctx.advance_kernel (c : Ctx) (b : Beat) (y : Bool) : (c.advance b y).kernel = c.kernel := rfl
@[simp] theorem Ctx.advance_threads (c : Ctx) (b : Beat) (y : Bool) : (c.advance b y).threads = c.threads.map (fun t => if b.tids.contains t.tid then { t with pc := nextPc b.pc, stamp := none, yielded := y } else t) := rfl
@[simp] theorem Ctx.advance_wheels (c : Ctx) (b : Beat) (y : Bool) : (c.advance b y).wheels = c.wheels := rfl
@[simp] theorem Ctx.advance_tregs (c : Ctx) (b : Beat) (y : Bool) : (c.advance b y).tregs = c.tregs := rfl
@[simp] theorem Ctx.advance_twrites (c : Ctx) (b : Beat) (y : Bool) : (c.advance b y).twrites = c.twrites := rfl
@[simp] theorem Ctx.advance_cregs (c : Ctx) (b : Beat) (y : Bool) : (c.advance b y).cregs = c.cregs := rfl
@[simp] theorem Ctx.advance_gslots (c : Ctx) (b : Beat) (y : Bool) : (c.advance b y).gslots = c.gslots := rfl
@[simp] theorem Ctx.advance_absent (c : Ctx) (b : Beat) (y : Bool) : (c.advance b y).absent = c.absent := rfl
@[simp] theorem Ctx.advance_waits (c : Ctx) (b : Beat) (y : Bool) : (c.advance b y).waits = c.waits := rfl
@[simp] theorem Ctx.advance_regrouped (c : Ctx) (b : Beat) (y : Bool) : (c.advance b y).regrouped = c.regrouped := rfl
@[simp] theorem Ctx.advance_held (c : Ctx) (b : Beat) (y : Bool) : (c.advance b y).held = c.held := rfl
@[simp] theorem Ctx.advance_loads (c : Ctx) (b : Beat) (y : Bool) : (c.advance b y).loads = c.loads := rfl
@[simp] theorem Ctx.advance_remotes (c : Ctx) (b : Beat) (y : Bool) : (c.advance b y).remotes = c.remotes := rfl
@[simp] theorem Ctx.advance_posted (c : Ctx) (b : Beat) (y : Bool) : (c.advance b y).posted = c.posted := rfl
@[simp] theorem Ctx.advance_withdrawn (c : Ctx) (b : Beat) (y : Bool) : (c.advance b y).withdrawn = c.withdrawn := rfl
@[simp] theorem Ctx.advance_locks (c : Ctx) (b : Beat) (y : Bool) : (c.advance b y).locks = c.locks := rfl

/-! ### Ctx.eachLane -/

@[simp] theorem Ctx.eachLane_launch (c : Ctx) (ls : List Lane) (f : Lane → Thread → Thread) : (c.eachLane ls f).launch = c.launch := rfl
@[simp] theorem Ctx.eachLane_block (c : Ctx) (ls : List Lane) (f : Lane → Thread → Thread) : (c.eachLane ls f).block = c.block := rfl
@[simp] theorem Ctx.eachLane_dim (c : Ctx) (ls : List Lane) (f : Lane → Thread → Thread) : (c.eachLane ls f).dim = c.dim := rfl
@[simp] theorem Ctx.eachLane_ltime (c : Ctx) (ls : List Lane) (f : Lane → Thread → Thread) : (c.eachLane ls f).ltime = c.ltime := rfl
@[simp] theorem Ctx.eachLane_loc (c : Ctx) (ls : List Lane) (f : Lane → Thread → Thread) : (c.eachLane ls f).loc = c.loc := rfl
@[simp] theorem Ctx.eachLane_task (c : Ctx) (ls : List Lane) (f : Lane → Thread → Thread) : (c.eachLane ls f).task = c.task := rfl
@[simp] theorem Ctx.eachLane_graph (c : Ctx) (ls : List Lane) (f : Lane → Thread → Thread) : (c.eachLane ls f).graph = c.graph := rfl
@[simp] theorem Ctx.eachLane_trec (c : Ctx) (ls : List Lane) (f : Lane → Thread → Thread) : (c.eachLane ls f).trec = c.trec := rfl
@[simp] theorem Ctx.eachLane_phase (c : Ctx) (ls : List Lane) (f : Lane → Thread → Thread) : (c.eachLane ls f).phase = c.phase := rfl
@[simp] theorem Ctx.eachLane_gtag (c : Ctx) (ls : List Lane) (f : Lane → Thread → Thread) : (c.eachLane ls f).gtag = c.gtag := rfl
@[simp] theorem Ctx.eachLane_prio (c : Ctx) (ls : List Lane) (f : Lane → Thread → Thread) : (c.eachLane ls f).prio = c.prio := rfl
@[simp] theorem Ctx.eachLane_arg (c : Ctx) (ls : List Lane) (f : Lane → Thread → Thread) : (c.eachLane ls f).arg = c.arg := rfl
@[simp] theorem Ctx.eachLane_handler (c : Ctx) (ls : List Lane) (f : Lane → Thread → Thread) : (c.eachLane ls f).handler = c.handler := rfl
@[simp] theorem Ctx.eachLane_stopped (c : Ctx) (ls : List Lane) (f : Lane → Thread → Thread) : (c.eachLane ls f).stopped = c.stopped := rfl
@[simp] theorem Ctx.eachLane_saving (c : Ctx) (ls : List Lane) (f : Lane → Thread → Thread) : (c.eachLane ls f).saving = c.saving := rfl
@[simp] theorem Ctx.eachLane_cancelled (c : Ctx) (ls : List Lane) (f : Lane → Thread → Thread) : (c.eachLane ls f).cancelled = c.cancelled := rfl
@[simp] theorem Ctx.eachLane_paused (c : Ctx) (ls : List Lane) (f : Lane → Thread → Thread) : (c.eachLane ls f).paused = c.paused := rfl
@[simp] theorem Ctx.eachLane_placed (c : Ctx) (ls : List Lane) (f : Lane → Thread → Thread) : (c.eachLane ls f).placed = c.placed := rfl
@[simp] theorem Ctx.eachLane_area (c : Ctx) (ls : List Lane) (f : Lane → Thread → Thread) : (c.eachLane ls f).area = c.area := rfl
@[simp] theorem Ctx.eachLane_areaAt (c : Ctx) (ls : List Lane) (f : Lane → Thread → Thread) : (c.eachLane ls f).areaAt = c.areaAt := rfl
@[simp] theorem Ctx.eachLane_spec (c : Ctx) (ls : List Lane) (f : Lane → Thread → Thread) : (c.eachLane ls f).spec = c.spec := rfl
@[simp] theorem Ctx.eachLane_specBit (c : Ctx) (ls : List Lane) (f : Lane → Thread → Thread) : (c.eachLane ls f).specBit = c.specBit := rfl
@[simp] theorem Ctx.eachLane_die (c : Ctx) (ls : List Lane) (f : Lane → Thread → Thread) : (c.eachLane ls f).die = c.die := rfl
@[simp] theorem Ctx.eachLane_cores (c : Ctx) (ls : List Lane) (f : Lane → Thread → Thread) : (c.eachLane ls f).cores = c.cores := rfl
@[simp] theorem Ctx.eachLane_slice (c : Ctx) (ls : List Lane) (f : Lane → Thread → Thread) : (c.eachLane ls f).slice = c.slice := rfl
@[simp] theorem Ctx.eachLane_kernel (c : Ctx) (ls : List Lane) (f : Lane → Thread → Thread) : (c.eachLane ls f).kernel = c.kernel := rfl
@[simp] theorem Ctx.eachLane_threads (c : Ctx) (ls : List Lane) (f : Lane → Thread → Thread) : (c.eachLane ls f).threads = c.threads.map (fun t => match ls.find? (fun l => l.t.tid == t.tid) with | some l => f l t | none => t) := rfl
@[simp] theorem Ctx.eachLane_wheels (c : Ctx) (ls : List Lane) (f : Lane → Thread → Thread) : (c.eachLane ls f).wheels = c.wheels := rfl
@[simp] theorem Ctx.eachLane_tregs (c : Ctx) (ls : List Lane) (f : Lane → Thread → Thread) : (c.eachLane ls f).tregs = c.tregs := rfl
@[simp] theorem Ctx.eachLane_twrites (c : Ctx) (ls : List Lane) (f : Lane → Thread → Thread) : (c.eachLane ls f).twrites = c.twrites := rfl
@[simp] theorem Ctx.eachLane_cregs (c : Ctx) (ls : List Lane) (f : Lane → Thread → Thread) : (c.eachLane ls f).cregs = c.cregs := rfl
@[simp] theorem Ctx.eachLane_gslots (c : Ctx) (ls : List Lane) (f : Lane → Thread → Thread) : (c.eachLane ls f).gslots = c.gslots := rfl
@[simp] theorem Ctx.eachLane_absent (c : Ctx) (ls : List Lane) (f : Lane → Thread → Thread) : (c.eachLane ls f).absent = c.absent := rfl
@[simp] theorem Ctx.eachLane_waits (c : Ctx) (ls : List Lane) (f : Lane → Thread → Thread) : (c.eachLane ls f).waits = c.waits := rfl
@[simp] theorem Ctx.eachLane_regrouped (c : Ctx) (ls : List Lane) (f : Lane → Thread → Thread) : (c.eachLane ls f).regrouped = c.regrouped := rfl
@[simp] theorem Ctx.eachLane_held (c : Ctx) (ls : List Lane) (f : Lane → Thread → Thread) : (c.eachLane ls f).held = c.held := rfl
@[simp] theorem Ctx.eachLane_loads (c : Ctx) (ls : List Lane) (f : Lane → Thread → Thread) : (c.eachLane ls f).loads = c.loads := rfl
@[simp] theorem Ctx.eachLane_remotes (c : Ctx) (ls : List Lane) (f : Lane → Thread → Thread) : (c.eachLane ls f).remotes = c.remotes := rfl
@[simp] theorem Ctx.eachLane_posted (c : Ctx) (ls : List Lane) (f : Lane → Thread → Thread) : (c.eachLane ls f).posted = c.posted := rfl
@[simp] theorem Ctx.eachLane_withdrawn (c : Ctx) (ls : List Lane) (f : Lane → Thread → Thread) : (c.eachLane ls f).withdrawn = c.withdrawn := rfl
@[simp] theorem Ctx.eachLane_locks (c : Ctx) (ls : List Lane) (f : Lane → Thread → Thread) : (c.eachLane ls f).locks = c.locks := rfl

/-! ### Ctx.eachWheel -/

@[simp] theorem Ctx.eachWheel_launch (c : Ctx) (ls : List Lane) (f : Lane → Wheel → Wheel) : (c.eachWheel ls f).launch = c.launch := rfl
@[simp] theorem Ctx.eachWheel_block (c : Ctx) (ls : List Lane) (f : Lane → Wheel → Wheel) : (c.eachWheel ls f).block = c.block := rfl
@[simp] theorem Ctx.eachWheel_dim (c : Ctx) (ls : List Lane) (f : Lane → Wheel → Wheel) : (c.eachWheel ls f).dim = c.dim := rfl
@[simp] theorem Ctx.eachWheel_ltime (c : Ctx) (ls : List Lane) (f : Lane → Wheel → Wheel) : (c.eachWheel ls f).ltime = c.ltime := rfl
@[simp] theorem Ctx.eachWheel_loc (c : Ctx) (ls : List Lane) (f : Lane → Wheel → Wheel) : (c.eachWheel ls f).loc = c.loc := rfl
@[simp] theorem Ctx.eachWheel_task (c : Ctx) (ls : List Lane) (f : Lane → Wheel → Wheel) : (c.eachWheel ls f).task = c.task := rfl
@[simp] theorem Ctx.eachWheel_graph (c : Ctx) (ls : List Lane) (f : Lane → Wheel → Wheel) : (c.eachWheel ls f).graph = c.graph := rfl
@[simp] theorem Ctx.eachWheel_trec (c : Ctx) (ls : List Lane) (f : Lane → Wheel → Wheel) : (c.eachWheel ls f).trec = c.trec := rfl
@[simp] theorem Ctx.eachWheel_phase (c : Ctx) (ls : List Lane) (f : Lane → Wheel → Wheel) : (c.eachWheel ls f).phase = c.phase := rfl
@[simp] theorem Ctx.eachWheel_gtag (c : Ctx) (ls : List Lane) (f : Lane → Wheel → Wheel) : (c.eachWheel ls f).gtag = c.gtag := rfl
@[simp] theorem Ctx.eachWheel_prio (c : Ctx) (ls : List Lane) (f : Lane → Wheel → Wheel) : (c.eachWheel ls f).prio = c.prio := rfl
@[simp] theorem Ctx.eachWheel_arg (c : Ctx) (ls : List Lane) (f : Lane → Wheel → Wheel) : (c.eachWheel ls f).arg = c.arg := rfl
@[simp] theorem Ctx.eachWheel_handler (c : Ctx) (ls : List Lane) (f : Lane → Wheel → Wheel) : (c.eachWheel ls f).handler = c.handler := rfl
@[simp] theorem Ctx.eachWheel_stopped (c : Ctx) (ls : List Lane) (f : Lane → Wheel → Wheel) : (c.eachWheel ls f).stopped = c.stopped := rfl
@[simp] theorem Ctx.eachWheel_saving (c : Ctx) (ls : List Lane) (f : Lane → Wheel → Wheel) : (c.eachWheel ls f).saving = c.saving := rfl
@[simp] theorem Ctx.eachWheel_cancelled (c : Ctx) (ls : List Lane) (f : Lane → Wheel → Wheel) : (c.eachWheel ls f).cancelled = c.cancelled := rfl
@[simp] theorem Ctx.eachWheel_paused (c : Ctx) (ls : List Lane) (f : Lane → Wheel → Wheel) : (c.eachWheel ls f).paused = c.paused := rfl
@[simp] theorem Ctx.eachWheel_placed (c : Ctx) (ls : List Lane) (f : Lane → Wheel → Wheel) : (c.eachWheel ls f).placed = c.placed := rfl
@[simp] theorem Ctx.eachWheel_area (c : Ctx) (ls : List Lane) (f : Lane → Wheel → Wheel) : (c.eachWheel ls f).area = c.area := rfl
@[simp] theorem Ctx.eachWheel_areaAt (c : Ctx) (ls : List Lane) (f : Lane → Wheel → Wheel) : (c.eachWheel ls f).areaAt = c.areaAt := rfl
@[simp] theorem Ctx.eachWheel_spec (c : Ctx) (ls : List Lane) (f : Lane → Wheel → Wheel) : (c.eachWheel ls f).spec = c.spec := rfl
@[simp] theorem Ctx.eachWheel_specBit (c : Ctx) (ls : List Lane) (f : Lane → Wheel → Wheel) : (c.eachWheel ls f).specBit = c.specBit := rfl
@[simp] theorem Ctx.eachWheel_die (c : Ctx) (ls : List Lane) (f : Lane → Wheel → Wheel) : (c.eachWheel ls f).die = c.die := rfl
@[simp] theorem Ctx.eachWheel_cores (c : Ctx) (ls : List Lane) (f : Lane → Wheel → Wheel) : (c.eachWheel ls f).cores = c.cores := rfl
@[simp] theorem Ctx.eachWheel_slice (c : Ctx) (ls : List Lane) (f : Lane → Wheel → Wheel) : (c.eachWheel ls f).slice = c.slice := rfl
@[simp] theorem Ctx.eachWheel_kernel (c : Ctx) (ls : List Lane) (f : Lane → Wheel → Wheel) : (c.eachWheel ls f).kernel = c.kernel := rfl
@[simp] theorem Ctx.eachWheel_threads (c : Ctx) (ls : List Lane) (f : Lane → Wheel → Wheel) : (c.eachWheel ls f).threads = c.threads := rfl
@[simp] theorem Ctx.eachWheel_wheels (c : Ctx) (ls : List Lane) (f : Lane → Wheel → Wheel) : (c.eachWheel ls f).wheels = c.wheels.map (fun w => match ls.find? (fun l => l.w.idx == w.idx) with | some l => f l w | none => w) := rfl
@[simp] theorem Ctx.eachWheel_tregs (c : Ctx) (ls : List Lane) (f : Lane → Wheel → Wheel) : (c.eachWheel ls f).tregs = c.tregs := rfl
@[simp] theorem Ctx.eachWheel_twrites (c : Ctx) (ls : List Lane) (f : Lane → Wheel → Wheel) : (c.eachWheel ls f).twrites = c.twrites := rfl
@[simp] theorem Ctx.eachWheel_cregs (c : Ctx) (ls : List Lane) (f : Lane → Wheel → Wheel) : (c.eachWheel ls f).cregs = c.cregs := rfl
@[simp] theorem Ctx.eachWheel_gslots (c : Ctx) (ls : List Lane) (f : Lane → Wheel → Wheel) : (c.eachWheel ls f).gslots = c.gslots := rfl
@[simp] theorem Ctx.eachWheel_absent (c : Ctx) (ls : List Lane) (f : Lane → Wheel → Wheel) : (c.eachWheel ls f).absent = c.absent := rfl
@[simp] theorem Ctx.eachWheel_waits (c : Ctx) (ls : List Lane) (f : Lane → Wheel → Wheel) : (c.eachWheel ls f).waits = c.waits := rfl
@[simp] theorem Ctx.eachWheel_regrouped (c : Ctx) (ls : List Lane) (f : Lane → Wheel → Wheel) : (c.eachWheel ls f).regrouped = c.regrouped := rfl
@[simp] theorem Ctx.eachWheel_held (c : Ctx) (ls : List Lane) (f : Lane → Wheel → Wheel) : (c.eachWheel ls f).held = c.held := rfl
@[simp] theorem Ctx.eachWheel_loads (c : Ctx) (ls : List Lane) (f : Lane → Wheel → Wheel) : (c.eachWheel ls f).loads = c.loads := rfl
@[simp] theorem Ctx.eachWheel_remotes (c : Ctx) (ls : List Lane) (f : Lane → Wheel → Wheel) : (c.eachWheel ls f).remotes = c.remotes := rfl
@[simp] theorem Ctx.eachWheel_posted (c : Ctx) (ls : List Lane) (f : Lane → Wheel → Wheel) : (c.eachWheel ls f).posted = c.posted := rfl
@[simp] theorem Ctx.eachWheel_withdrawn (c : Ctx) (ls : List Lane) (f : Lane → Wheel → Wheel) : (c.eachWheel ls f).withdrawn = c.withdrawn := rfl
@[simp] theorem Ctx.eachWheel_locks (c : Ctx) (ls : List Lane) (f : Lane → Wheel → Wheel) : (c.eachWheel ls f).locks = c.locks := rfl

/-! ### Ctx.wake -/

@[simp] theorem Ctx.wake_launch (c : Ctx) (w : Nat) : (c.wake w).launch = c.launch := rfl
@[simp] theorem Ctx.wake_block (c : Ctx) (w : Nat) : (c.wake w).block = c.block := rfl
@[simp] theorem Ctx.wake_dim (c : Ctx) (w : Nat) : (c.wake w).dim = c.dim := rfl
@[simp] theorem Ctx.wake_ltime (c : Ctx) (w : Nat) : (c.wake w).ltime = c.ltime := rfl
@[simp] theorem Ctx.wake_loc (c : Ctx) (w : Nat) : (c.wake w).loc = c.loc := rfl
@[simp] theorem Ctx.wake_task (c : Ctx) (w : Nat) : (c.wake w).task = c.task := rfl
@[simp] theorem Ctx.wake_graph (c : Ctx) (w : Nat) : (c.wake w).graph = c.graph := rfl
@[simp] theorem Ctx.wake_trec (c : Ctx) (w : Nat) : (c.wake w).trec = c.trec := rfl
@[simp] theorem Ctx.wake_phase (c : Ctx) (w : Nat) : (c.wake w).phase = c.phase := rfl
@[simp] theorem Ctx.wake_gtag (c : Ctx) (w : Nat) : (c.wake w).gtag = c.gtag := rfl
@[simp] theorem Ctx.wake_prio (c : Ctx) (w : Nat) : (c.wake w).prio = c.prio := rfl
@[simp] theorem Ctx.wake_arg (c : Ctx) (w : Nat) : (c.wake w).arg = c.arg := rfl
@[simp] theorem Ctx.wake_handler (c : Ctx) (w : Nat) : (c.wake w).handler = c.handler := rfl
@[simp] theorem Ctx.wake_stopped (c : Ctx) (w : Nat) : (c.wake w).stopped = c.stopped := rfl
@[simp] theorem Ctx.wake_saving (c : Ctx) (w : Nat) : (c.wake w).saving = c.saving := rfl
@[simp] theorem Ctx.wake_cancelled (c : Ctx) (w : Nat) : (c.wake w).cancelled = c.cancelled := rfl
@[simp] theorem Ctx.wake_paused (c : Ctx) (w : Nat) : (c.wake w).paused = c.paused := rfl
@[simp] theorem Ctx.wake_placed (c : Ctx) (w : Nat) : (c.wake w).placed = c.placed := rfl
@[simp] theorem Ctx.wake_area (c : Ctx) (w : Nat) : (c.wake w).area = c.area := rfl
@[simp] theorem Ctx.wake_areaAt (c : Ctx) (w : Nat) : (c.wake w).areaAt = c.areaAt := rfl
@[simp] theorem Ctx.wake_spec (c : Ctx) (w : Nat) : (c.wake w).spec = c.spec := rfl
@[simp] theorem Ctx.wake_specBit (c : Ctx) (w : Nat) : (c.wake w).specBit = c.specBit := rfl
@[simp] theorem Ctx.wake_die (c : Ctx) (w : Nat) : (c.wake w).die = c.die := rfl
@[simp] theorem Ctx.wake_cores (c : Ctx) (w : Nat) : (c.wake w).cores = c.cores := rfl
@[simp] theorem Ctx.wake_slice (c : Ctx) (w : Nat) : (c.wake w).slice = c.slice := rfl
@[simp] theorem Ctx.wake_kernel (c : Ctx) (w : Nat) : (c.wake w).kernel = c.kernel := rfl
@[simp] theorem Ctx.wake_threads (c : Ctx) (w : Nat) : (c.wake w).threads = c.threads.map (fun t => if t.st == .suspended w then { t with st := .ready, stamp := none } else t) := rfl
@[simp] theorem Ctx.wake_wheels (c : Ctx) (w : Nat) : (c.wake w).wheels = c.wheels := rfl
@[simp] theorem Ctx.wake_tregs (c : Ctx) (w : Nat) : (c.wake w).tregs = c.tregs := rfl
@[simp] theorem Ctx.wake_twrites (c : Ctx) (w : Nat) : (c.wake w).twrites = c.twrites := rfl
@[simp] theorem Ctx.wake_cregs (c : Ctx) (w : Nat) : (c.wake w).cregs = c.cregs := rfl
@[simp] theorem Ctx.wake_gslots (c : Ctx) (w : Nat) : (c.wake w).gslots = c.gslots := rfl
@[simp] theorem Ctx.wake_absent (c : Ctx) (w : Nat) : (c.wake w).absent = c.absent := rfl
@[simp] theorem Ctx.wake_waits (c : Ctx) (w : Nat) : (c.wake w).waits = c.waits.filter (fun x => x.wid != w) := rfl
@[simp] theorem Ctx.wake_regrouped (c : Ctx) (w : Nat) : (c.wake w).regrouped = c.regrouped := rfl
@[simp] theorem Ctx.wake_held (c : Ctx) (w : Nat) : (c.wake w).held = c.held := rfl
@[simp] theorem Ctx.wake_loads (c : Ctx) (w : Nat) : (c.wake w).loads = c.loads := rfl
@[simp] theorem Ctx.wake_remotes (c : Ctx) (w : Nat) : (c.wake w).remotes = c.remotes := rfl
@[simp] theorem Ctx.wake_posted (c : Ctx) (w : Nat) : (c.wake w).posted = c.posted := rfl
@[simp] theorem Ctx.wake_withdrawn (c : Ctx) (w : Nat) : (c.wake w).withdrawn = c.withdrawn := rfl
@[simp] theorem Ctx.wake_locks (c : Ctx) (w : Nat) : (c.wake w).locks = c.locks := rfl

/-! ### Threads and wheels -/

@[simp] theorem Thread.park_tid (t : Thread) (pc : Cap) : (t.park pc).tid = t.tid := rfl
@[simp] theorem Thread.park_wheel (t : Thread) (pc : Cap) : (t.park pc).wheel = t.wheel := rfl
@[simp] theorem Thread.park_lane (t : Thread) (pc : Cap) : (t.park pc).lane = t.lane := rfl
@[simp] theorem Thread.park_pwheel (t : Thread) (pc : Cap) : (t.park pc).pwheel = t.pwheel := rfl
@[simp] theorem Thread.park_plane (t : Thread) (pc : Cap) : (t.park pc).plane = t.plane := rfl
@[simp] theorem Thread.park_pc (t : Thread) (pc : Cap) : (t.park pc).pc = pc := rfl
@[simp] theorem Thread.park_preds (t : Thread) (pc : Cap) : (t.park pc).preds = t.preds := rfl
@[simp] theorem Thread.park_vregs (t : Thread) (pc : Cap) : (t.park pc).vregs = t.vregs := rfl
@[simp] theorem Thread.park_fofs (t : Thread) (pc : Cap) : (t.park pc).fofs = t.fofs := rfl
@[simp] theorem Thread.park_st (t : Thread) (pc : Cap) : (t.park pc).st = .parked := rfl
@[simp] theorem Thread.park_reformed (t : Thread) (pc : Cap) : (t.park pc).reformed = none := rfl
@[simp] theorem Thread.park_pend (t : Thread) (pc : Cap) : (t.park pc).pend = t.pend := rfl
@[simp] theorem Thread.park_stamp (t : Thread) (pc : Cap) : (t.park pc).stamp = none := rfl
@[simp] theorem Thread.park_rank (t : Thread) (pc : Cap) : (t.park pc).rank = t.rank := rfl
@[simp] theorem Thread.park_yielded (t : Thread) (pc : Cap) : (t.park pc).yielded = false := rfl
@[simp] theorem Thread.park_target (t : Thread) (pc : Cap) : (t.park pc).target = t.target := rfl
@[simp] theorem Thread.park_latched (t : Thread) (pc : Cap) : (t.park pc).latched = t.latched := rfl
@[simp] theorem Thread.park_acqs (t : Thread) (pc : Cap) : (t.park pc).acqs = t.acqs := rfl
@[simp] theorem Thread.put_tid (t : Thread) (d : Nat) (ws : List Word) (p : List Pend) : (t.put d ws p).tid = t.tid := by unfold Thread.put; split <;> rfl
@[simp] theorem Thread.put_wheel (t : Thread) (d : Nat) (ws : List Word) (p : List Pend) : (t.put d ws p).wheel = t.wheel := by unfold Thread.put; split <;> rfl
@[simp] theorem Thread.put_lane (t : Thread) (d : Nat) (ws : List Word) (p : List Pend) : (t.put d ws p).lane = t.lane := by unfold Thread.put; split <;> rfl
@[simp] theorem Thread.put_pwheel (t : Thread) (d : Nat) (ws : List Word) (p : List Pend) : (t.put d ws p).pwheel = t.pwheel := by unfold Thread.put; split <;> rfl
@[simp] theorem Thread.put_plane (t : Thread) (d : Nat) (ws : List Word) (p : List Pend) : (t.put d ws p).plane = t.plane := by unfold Thread.put; split <;> rfl
@[simp] theorem Thread.put_pc (t : Thread) (d : Nat) (ws : List Word) (p : List Pend) : (t.put d ws p).pc = t.pc := by unfold Thread.put; split <;> rfl
@[simp] theorem Thread.put_preds (t : Thread) (d : Nat) (ws : List Word) (p : List Pend) : (t.put d ws p).preds = t.preds := by unfold Thread.put; split <;> rfl
@[simp] theorem Thread.put_fofs (t : Thread) (d : Nat) (ws : List Word) (p : List Pend) : (t.put d ws p).fofs = t.fofs := by unfold Thread.put; split <;> rfl
@[simp] theorem Thread.put_st (t : Thread) (d : Nat) (ws : List Word) (p : List Pend) : (t.put d ws p).st = t.st := by unfold Thread.put; split <;> rfl
@[simp] theorem Thread.put_reformed (t : Thread) (d : Nat) (ws : List Word) (p : List Pend) : (t.put d ws p).reformed = t.reformed := by unfold Thread.put; split <;> rfl
@[simp] theorem Thread.put_stamp (t : Thread) (d : Nat) (ws : List Word) (p : List Pend) : (t.put d ws p).stamp = t.stamp := by unfold Thread.put; split <;> rfl
@[simp] theorem Thread.put_rank (t : Thread) (d : Nat) (ws : List Word) (p : List Pend) : (t.put d ws p).rank = t.rank := by unfold Thread.put; split <;> rfl
@[simp] theorem Thread.put_yielded (t : Thread) (d : Nat) (ws : List Word) (p : List Pend) : (t.put d ws p).yielded = t.yielded := by unfold Thread.put; split <;> rfl
@[simp] theorem Thread.put_target (t : Thread) (d : Nat) (ws : List Word) (p : List Pend) : (t.put d ws p).target = t.target := by unfold Thread.put; split <;> rfl
@[simp] theorem Wheel.put_idx (w : Wheel) (d : Nat) (ws : List Word) (p : List Pend) : (w.put d ws p).idx = w.idx := by unfold Wheel.put; split <;> rfl
@[simp] theorem Wheel.put_core (w : Wheel) (d : Nat) (ws : List Word) (p : List Pend) : (w.put d ws p).core = w.core := by unfold Wheel.put; split <;> rfl
@[simp] theorem Wheel.put_quarter (w : Wheel) (d : Nat) (ws : List Word) (p : List Pend) : (w.put d ws p).quarter = w.quarter := by unfold Wheel.put; split <;> rfl
@[simp] theorem Wheel.put_slot (w : Wheel) (d : Nat) (ws : List Word) (p : List Pend) : (w.put d ws p).slot = w.slot := by unfold Wheel.put; split <;> rfl
@[simp] theorem Wheel.put_role (w : Wheel) (d : Nat) (ws : List Word) (p : List Pend) : (w.put d ws p).role = w.role := by unfold Wheel.put; split <;> rfl
@[simp] theorem Wheel.put_window (w : Wheel) (d : Nat) (ws : List Word) (p : List Pend) : (w.put d ws p).window = w.window := by unfold Wheel.put; split <;> rfl
@[simp] theorem Wheel.put_fstat (w : Wheel) (d : Nat) (ws : List Word) (p : List Pend) : (w.put d ws p).fstat = w.fstat := by unfold Wheel.put; split <;> rfl
@[simp] theorem Wheel.put_retire (w : Wheel) (d : Nat) (ws : List Word) (p : List Pend) : (w.put d ws p).retire = w.retire := by unfold Wheel.put; split <;> rfl
@[simp] theorem Wheel.put_stores (w : Wheel) (d : Nat) (ws : List Word) (p : List Pend) : (w.put d ws p).stores = w.stores := by unfold Wheel.put; split <;> rfl
@[simp] theorem Wheel.put_unaccepted (w : Wheel) (d : Nat) (ws : List Word) (p : List Pend) : (w.put d ws p).unaccepted = w.unaccepted := by unfold Wheel.put; split <;> rfl
@[simp] theorem Wheel.put_frame (w : Wheel) (d : Nat) (ws : List Word) (p : List Pend) : (w.put d ws p).frame = w.frame := by unfold Wheel.put; split <;> rfl

/-! ### modCtx -/

@[simp] theorem State.modCtx_cycle (s : State) (k : Nat) (f : Ctx → Ctx) : (s.modCtx k f).cycle = s.cycle := by unfold State.modCtx; split <;> rfl
@[simp] theorem State.modCtx_mem (s : State) (k : Nat) (f : Ctx → Ctx) : (s.modCtx k f).mem = s.mem := by unfold State.modCtx; split <;> rfl
@[simp] theorem State.modCtx_wr (s : State) (k : Nat) (f : Ctx → Ctx) : (s.modCtx k f).wr = s.wr := by unfold State.modCtx; split <;> rfl
@[simp] theorem State.modCtx_poison (s : State) (k : Nat) (f : Ctx → Ctx) : (s.modCtx k f).poison = s.poison := by unfold State.modCtx; split <;> rfl
@[simp] theorem State.modCtx_saved (s : State) (k : Nat) (f : Ctx → Ctx) : (s.modCtx k f).saved = s.saved := by unfold State.modCtx; split <;> rfl
@[simp] theorem State.modCtx_nextCtx (s : State) (k : Nat) (f : Ctx → Ctx) : (s.modCtx k f).nextCtx = s.nextCtx := by unfold State.modCtx; split <;> rfl
@[simp] theorem State.modCtx_nextWid (s : State) (k : Nat) (f : Ctx → Ctx) : (s.modCtx k f).nextWid = s.nextWid := by unfold State.modCtx; split <;> rfl
@[simp] theorem State.modCtx_nextTag (s : State) (k : Nat) (f : Ctx → Ctx) : (s.modCtx k f).nextTag = s.nextTag := by unfold State.modCtx; split <;> rfl
@[simp] theorem State.modCtx_late (s : State) (k : Nat) (f : Ctx → Ctx) : (s.modCtx k f).late = s.late := by unfold State.modCtx; split <;> rfl
@[simp] theorem State.modCtx_cores (s : State) (k : Nat) (f : Ctx → Ctx) : (s.modCtx k f).cores = s.cores := by unfold State.modCtx; split <;> rfl
@[simp] theorem State.modCtx_quarters (s : State) (k : Nat) (f : Ctx → Ctx) : (s.modCtx k f).quarters = s.quarters := by unfold State.modCtx; split <;> rfl
@[simp] theorem State.modCtx_dies (s : State) (k : Nat) (f : Ctx → Ctx) : (s.modCtx k f).dies = s.dies := by unfold State.modCtx; split <;> rfl
@[simp] theorem State.modCtx_links (s : State) (k : Nat) (f : Ctx → Ctx) : (s.modCtx k f).links = s.links := by unfold State.modCtx; split <;> rfl
@[simp] theorem State.modCtx_queues (s : State) (k : Nat) (f : Ctx → Ctx) : (s.modCtx k f).queues = s.queues := by unfold State.modCtx; split <;> rfl
@[simp] theorem State.modCtx_prioPtr (s : State) (k : Nat) (f : Ctx → Ctx) : (s.modCtx k f).prioPtr = s.prioPtr := by unfold State.modCtx; split <;> rfl
@[simp] theorem State.modCtx_launches (s : State) (k : Nat) (f : Ctx → Ctx) : (s.modCtx k f).launches = s.launches := by unfold State.modCtx; split <;> rfl
@[simp] theorem State.modCtx_launchNo (s : State) (k : Nat) (f : Ctx → Ctx) : (s.modCtx k f).launchNo = s.launchNo := by unfold State.modCtx; split <;> rfl
@[simp] theorem State.modCtx_graphs (s : State) (k : Nat) (f : Ctx → Ctx) : (s.modCtx k f).graphs = s.graphs := by unfold State.modCtx; split <;> rfl
@[simp] theorem State.modCtx_insts (s : State) (k : Nat) (f : Ctx → Ctx) : (s.modCtx k f).insts = s.insts := by unfold State.modCtx; split <;> rfl
@[simp] theorem State.modCtx_distPtr (s : State) (k : Nat) (f : Ctx → Ctx) : (s.modCtx k f).distPtr = s.distPtr := by unfold State.modCtx; split <;> rfl
@[simp] theorem State.modCtx_newtag (s : State) (k : Nat) (f : Ctx → Ctx) : (s.modCtx k f).newtag = s.newtag := by unfold State.modCtx; split <;> rfl
@[simp] theorem State.modCtx_seq (s : State) (k : Nat) (f : Ctx → Ctx) : (s.modCtx k f).seq = s.seq := by unfold State.modCtx; split <;> rfl
@[simp] theorem State.modCtx_submitted (s : State) (k : Nat) (f : Ctx → Ctx) : (s.modCtx k f).submitted = s.submitted := by unfold State.modCtx; split <;> rfl
@[simp] theorem State.modCtx_sendbuf (s : State) (k : Nat) (f : Ctx → Ctx) : (s.modCtx k f).sendbuf = s.sendbuf := by unfold State.modCtx; split <;> rfl
@[simp] theorem State.modCtx_slots (s : State) (k : Nat) (f : Ctx → Ctx) : (s.modCtx k f).slots = s.slots := by unfold State.modCtx; split <;> rfl
@[simp] theorem State.modCtx_shadow (s : State) (k : Nat) (f : Ctx → Ctx) : (s.modCtx k f).shadow = s.shadow := by unfold State.modCtx; split <;> rfl
@[simp] theorem State.modCtx_pectl (s : State) (k : Nat) (f : Ctx → Ctx) : (s.modCtx k f).pectl = s.pectl := by unfold State.modCtx; split <;> rfl
@[simp] theorem State.modCtx_chains (s : State) (k : Nat) (f : Ctx → Ctx) : (s.modCtx k f).chains = s.chains := by unfold State.modCtx; split <;> rfl
@[simp] theorem State.modCtx_engReqs (s : State) (k : Nat) (f : Ctx → Ctx) : (s.modCtx k f).engReqs = s.engReqs := by unfold State.modCtx; split <;> rfl
@[simp] theorem State.modCtx_tookAt (s : State) (k : Nat) (f : Ctx → Ctx) : (s.modCtx k f).tookAt = s.tookAt := by unfold State.modCtx; split <;> rfl
@[simp] theorem State.modCtx_hotth (s : State) (k : Nat) (f : Ctx → Ctx) : (s.modCtx k f).hotth = s.hotth := by unfold State.modCtx; split <;> rfl
@[simp] theorem State.modCtx_resid (s : State) (k : Nat) (f : Ctx → Ctx) : (s.modCtx k f).resid = s.resid := by unfold State.modCtx; split <;> rfl
@[simp] theorem State.modCtx_fillNo (s : State) (k : Nat) (f : Ctx → Ctx) : (s.modCtx k f).fillNo = s.fillNo := by unfold State.modCtx; split <;> rfl
@[simp] theorem State.modCtx_leases (s : State) (k : Nat) (f : Ctx → Ctx) : (s.modCtx k f).leases = s.leases := by unfold State.modCtx; split <;> rfl
@[simp] theorem State.modCtx_job (s : State) (k : Nat) (f : Ctx → Ctx) : (s.modCtx k f).job = s.job := by unfold State.modCtx; split <;> rfl
@[simp] theorem State.modCtx_grid (s : State) (k : Nat) (f : Ctx → Ctx) : (s.modCtx k f).grid = s.grid := by unfold State.modCtx; split <;> rfl
@[simp] theorem State.modCtx_qps (s : State) (k : Nat) (f : Ctx → Ctx) : (s.modCtx k f).qps = s.qps := by unfold State.modCtx; split <;> rfl
@[simp] theorem State.modCtx_hostReqs (s : State) (k : Nat) (f : Ctx → Ctx) : (s.modCtx k f).hostReqs = s.hostReqs := by unfold State.modCtx; split <;> rfl
@[simp] theorem State.modCtx_hostOut (s : State) (k : Nat) (f : Ctx → Ctx) : (s.modCtx k f).hostOut = s.hostOut := by unfold State.modCtx; split <;> rfl
@[simp] theorem State.modCtx_delayed (s : State) (k : Nat) (f : Ctx → Ctx) : (s.modCtx k f).delayed = s.delayed := by unfold State.modCtx; split <;> rfl
@[simp] theorem State.modCtx_peerOut (s : State) (k : Nat) (f : Ctx → Ctx) : (s.modCtx k f).peerOut = s.peerOut := by unfold State.modCtx; split <;> rfl
@[simp] theorem State.modCtx_peerAns (s : State) (k : Nat) (f : Ctx → Ctx) : (s.modCtx k f).peerAns = s.peerAns := by unfold State.modCtx; split <;> rfl
@[simp] theorem State.modCtx_mgmt (s : State) (k : Nat) (f : Ctx → Ctx) : (s.modCtx k f).mgmt = s.mgmt := by unfold State.modCtx; split <;> rfl
@[simp] theorem State.modCtx_beat (s : State) (k : Nat) (f : Ctx → Ctx) : (s.modCtx k f).beat = s.beat := by unfold State.modCtx; split <;> rfl
@[simp] theorem State.modCtx_agenda (s : State) (k : Nat) (f : Ctx → Ctx) : (s.modCtx k f).agenda = s.agenda := by unfold State.modCtx; split <;> rfl
@[simp] theorem State.modCtx_turns (s : State) (k : Nat) (f : Ctx → Ctx) : (s.modCtx k f).turns = s.turns := by unfold State.modCtx; split <;> rfl
@[simp] theorem State.modCtx_free (s : State) (k : Nat) (f : Ctx → Ctx) : (s.modCtx k f).free = s.free := by unfold State.modCtx; split <;> rfl

end Sys2Proof.Machine
end

