-- ==== Sys2Proof/Laws/Memory.lean ====
section
/-! SUPPORT. Memory: reading after writing, and the canonical form that every write keeps. -/

namespace Sys2Proof.Machine

/-- A dropped place reads 0, the others are as before. -/
theorem mGet_mDrop (m : List Host.Cell) (p q : Nat) : mGet (mDrop m p) q = if q = p then 0 else mGet m q := by
  induction m with
  | nil => simp [mDrop, mGet]
  | cons c m ih =>
    obtain ⟨a, b⟩ := c
    by_cases ha : a = p
    · subst ha
      simp only [mDrop, if_pos, ih, mGet]
      by_cases hq : q = a
      · simp [hq]
      · simp [hq, Ne.symm hq]
    · simp only [mDrop, if_neg ha, mGet]
      by_cases hq : a = q
      · subst hq; simp [ha]
      · simp [hq, ih]

/-- An inserted place reads its byte. -/
theorem mGet_mIns (m : List Host.Cell) (p : Nat) (v : Byte) (q : Nat) (h : ∀ c ∈ m, c.1 ≠ p) :
    mGet (mIns m p v) q = if q = p then v else mGet m q := by
  induction m with
  | nil => simp [mIns, mGet, eq_comm]
  | cons c m ih =>
    obtain ⟨a, b⟩ := c
    have ha : a ≠ p := h (a, b) (by simp)
    have hm : ∀ c ∈ m, c.1 ≠ p := fun c hc => h c (by simp [hc])
    by_cases hp : p < a
    · simp [mIns, hp, mGet, eq_comm]
    · simp only [mIns, if_neg hp, mGet, ih hm]
      by_cases hq : a = q
      · subst hq; simp [ha]
      · simp [hq]

/-- A dropped place is not listed. -/
theorem not_mem_mDrop (m : List Host.Cell) (p : Nat) : ∀ c ∈ mDrop m p, c.1 ≠ p := by
  induction m with
  | nil => simp [mDrop]
  | cons c m ih =>
    obtain ⟨a, b⟩ := c
    by_cases ha : a = p
    · simpa [mDrop, ha] using ih
    · intro c hc
      simp only [mDrop, if_neg ha, List.mem_cons] at hc
      rcases hc with rfl | hc
      · exact ha
      · exact ih c hc

/-- Reading after writing one byte. -/
theorem mGet_mPut (m : List Host.Cell) (p : Nat) (v : Byte) (q : Nat) :
    mGet (mPut m p v) q = if q = p then v else mGet m q := by
  unfold mPut
  by_cases hv : v = 0
  · simp [hv, mGet_mDrop]
  · simp only [if_neg hv, mGet_mIns _ _ _ _ (not_mem_mDrop m p), mGet_mDrop]
    by_cases hq : q = p <;> simp [hq]

/-- Reading after a list of writes: the newest write of a place counts. -/
theorem mGet_mPuts (m w : List Host.Cell) (q : Nat) : mGet (mPuts m w) q = (sGet w q).getD (mGet m q) := by
  induction w with
  | nil => rfl
  | cons c w ih =>
    obtain ⟨p, v⟩ := c
    simp only [mPuts, mGet_mPut, sGet, ih]
    by_cases h : p = q
    · simp [h]
    · simp [h, Ne.symm h]

/-- A byte after the writes of the step are performed is the byte before. -/
@[simp] theorem State.byte_seal (s : State) (p : Nat) : (s.seal s.mem).byte p = s.byte p := by
  simp only [State.byte, State.seal_wr, State.seal_mem, sGet, mGet_mPuts]
  cases sGet s.wr p <;> rfl

/-- The canonical form with every listed place above a bound. -/
def Memory.From (lo : Nat) (m : List Host.Cell) : Prop := Memory.wf m = true ∧ ∀ c ∈ m, lo ≤ c.1

/-- A canonical list is a head that is not zero before a canonical list of higher places. -/
theorem Memory.wf_cons (a : Nat) (b : Byte) (m : List Host.Cell) :
    Memory.wf ((a, b) :: m) = true ↔ b ≠ 0 ∧ Memory.From (a + 1) m := by
  induction m generalizing a b with
  | nil => simp [Memory.wf, Memory.From]
  | cons c m ih =>
    obtain ⟨a', b'⟩ := c
    have := ih a' b'
    simp only [Memory.wf, Bool.and_eq_true, bne_iff_ne, ne_eq, decide_eq_true_eq, Memory.From, this, List.mem_cons]
    constructor
    · rintro ⟨⟨hb, ha⟩, hb', hm⟩
      refine ⟨hb, ⟨hb', hm⟩, ?_⟩
      rintro c (rfl | hc)
      · exact ha
      · exact le_trans ha (le_trans (by omega) (hm.2 c hc))
    · rintro ⟨hb, ⟨hb', hm⟩, h⟩
      exact ⟨⟨hb, h _ (Or.inl rfl)⟩, hb', hm⟩

/-- Dropping a place keeps the canonical form. -/
theorem Memory.from_mDrop (m : List Host.Cell) (p lo : Nat) (h : Memory.From lo m) : Memory.From lo (mDrop m p) := by
  induction m generalizing lo with
  | nil => simpa [mDrop] using h
  | cons c m ih =>
    obtain ⟨a, b⟩ := c
    obtain ⟨hw, hl⟩ := h
    have hc := (Memory.wf_cons a b m).1 hw
    have ha : lo ≤ a := hl (a, b) (by simp)
    by_cases hp : a = p
    · simp only [mDrop, if_pos hp]
      exact ih lo ⟨hc.2.1, fun c hc' => le_trans ha (le_trans (by omega) (hc.2.2 c hc'))⟩
    · simp only [mDrop, if_neg hp]
      have := ih (a + 1) hc.2
      refine ⟨(Memory.wf_cons a b _).2 ⟨hc.1, this⟩, ?_⟩
      intro c hc'
      rcases List.mem_cons.1 hc' with rfl | hc'
      · exact ha
      · exact le_trans (by omega) (this.2 c hc')

/-- Inserting a byte that is not zero at a place not listed keeps the canonical form. -/
theorem Memory.from_mIns (m : List Host.Cell) (p : Nat) (v : Byte) (lo : Nat) (h : Memory.From lo m) (hp : lo ≤ p)
    (hv : v ≠ 0) (hm : ∀ c ∈ m, c.1 ≠ p) : Memory.From lo (mIns m p v) := by
  induction m generalizing lo with
  | nil => exact ⟨by simpa [mIns, Memory.wf] using hv, by simpa [mIns] using hp⟩
  | cons c m ih =>
    obtain ⟨a, b⟩ := c
    obtain ⟨hw, hl⟩ := h
    have hc := (Memory.wf_cons a b m).1 hw
    have ha : lo ≤ a := hl (a, b) (by simp)
    have hne : a ≠ p := hm (a, b) (by simp)
    by_cases hlt : p < a
    · simp only [mIns, if_pos hlt]
      refine ⟨(Memory.wf_cons p v _).2 ⟨hv, hw, ?_⟩, ?_⟩
      · intro c hc'
        rcases List.mem_cons.1 hc' with rfl | hc'
        · exact hlt
        · exact le_trans hlt (le_trans (by omega) (hc.2.2 c hc'))
      · intro c hc'
        rcases List.mem_cons.1 hc' with rfl | hc'
        · exact hp
        · exact hl c hc'
    · simp only [mIns, if_neg hlt]
      have := ih (a + 1) hc.2 (by omega) (fun c hc' => hm c (by simp [hc']))
      refine ⟨(Memory.wf_cons a b _).2 ⟨hc.1, this⟩, ?_⟩
      intro c hc'
      rcases List.mem_cons.1 hc' with rfl | hc'
      · exact ha
      · exact le_trans (by omega) (this.2 c hc')

/-- A write keeps the canonical form. -/
theorem Memory.wf_mPut (m : List Host.Cell) (p : Nat) (v : Byte) (h : Memory.wf m = true) : Memory.wf (mPut m p v) = true := by
  have h0 : Memory.From 0 m := ⟨h, fun _ _ => Nat.zero_le _⟩
  unfold mPut
  split
  · exact (Memory.from_mDrop m p 0 h0).1
  · exact (Memory.from_mIns _ p v 0 (Memory.from_mDrop m p 0 h0) (Nat.zero_le _) ‹_› (not_mem_mDrop m p)).1

/-- Writes keep the canonical form. -/
theorem Memory.wf_mPuts (m w : List Host.Cell) (h : Memory.wf m = true) : Memory.wf (mPuts m w) = true := by
  induction w with
  | nil => exact h
  | cons c w ih => exact Memory.wf_mPut _ _ _ ih

/-- A step whose effect is `f` answers a state whose memory is canonical if the memory was, with no write left over. -/
theorem act_sound (f : State → State) (s t : State) (h : Memory.wf s.mem = true) (ht : act f s = .next t) :
    Memory.wf t.mem = true ∧ t.wr = [] := by
  simp only [act, Host.Outcome.next.injEq] at ht
  subst ht
  exact ⟨Memory.wf_mPuts _ _ h, rfl⟩

end Sys2Proof.Machine
end

