-- ==== Sys2Proof/Laws/Beat.lean ====
section
/-! SUPPORT. What a beat does: the lanes it acts in, and for each shape of register instruction the one lemma that says its whole effect and frame. -/

namespace Sys2Proof.Machine

open Sys2Proof.Claims

/-! ### Looking threads and wheels up -/

/-- The thread found under a number has that number. -/
theorem Ctx.thread_tid {c : Ctx} {i : Nat} {x : Thread} (h : c.thread i = some x) : x.tid = i := by
  simpa using List.find?_some h

/-- The wheel found under an index has that index. -/
theorem Ctx.wheel_idx {c : Ctx} {i : Nat} {w : Wheel} (h : c.wheel i = some w) : w.idx = i := by
  simpa using List.find?_some h

/-- Looking up after a map that keeps the key. -/
theorem find?_map_key {α : Type} (l : List α) (key : α → Nat) (f : α → α) (hf : ∀ x, key (f x) = key x) (k : Nat) :
    (l.map f).find? (fun x => key x == k) = (l.find? (fun x => key x == k)).map f := by
  induction l with
  | nil => rfl
  | cons x l ih =>
    simp only [List.map_cons, List.find?_cons, hf]
    cases key x == k <;> simp [ih]

/-- The lanes of threads, sought by the number of a thread of the context. -/
theorem Ctx.lanes_find (c : Ctx) (g : Guard) (x : Thread) (hx : c.thread x.tid = some x) (ts : List Nat) :
    ((c.lanes ts).filter (fun l => guardOn g l.t)).find? (fun l => l.t.tid == x.tid) =
      if x.tid ∈ ts ∧ guardOn g x then (c.wheel x.wheel).map (fun w => { t := x, w := w }) else none := by
  induction ts with
  | nil => simp [Ctx.lanes]
  | cons i ts ih =>
    unfold Ctx.lanes at ih ⊢
    by_cases hi : i = x.tid
    · subst hi
      cases hw : c.wheel x.wheel with
      | none =>
        simp only [List.filterMap_cons, hx, hw, Option.map_none]
        rw [ih, hw]; simp
      | some w =>
        simp only [List.filterMap_cons, hx, hw, Option.map_some]
        by_cases hg : guardOn g x
        · simp [hg]
        · rw [List.filter_cons_of_neg (by simpa using hg), ih]; simp [hg]
    · have hi' : x.tid ≠ i := fun e => hi e.symm
      cases hc : c.thread i with
      | none => simp only [List.filterMap_cons, hc]; rw [ih]; simp [hi']
      | some t =>
        have ht : t.tid = i := Ctx.thread_tid hc
        cases hw : c.wheel t.wheel with
        | none => simp only [List.filterMap_cons, hc, hw, Option.map_none]; rw [ih]; simp [hi']
        | some w =>
          simp only [List.filterMap_cons, hc, hw, Option.map_some]
          by_cases hg : guardOn g t
          · rw [List.filter_cons_of_pos (by simpa using hg), List.find?_cons_of_neg (by simpa [ht] using hi), ih]; simp [hi']
          · rw [List.filter_cons_of_neg (by simpa using hg), ih]; simp [hi']

/-- The acting lane of a thread. -/
theorem acting_find (b : Beat) (c : Ctx) (h : Head) (x : Thread) (hx : c.thread x.tid = some x) :
    (acting b c h).find? (fun l => l.t.tid == x.tid) = actingLane b c h x :=
  c.lanes_find h.guard x hx b.tids

/-- The acting lane of a thread is that thread. -/
theorem actingLane_t {b : Beat} {c : Ctx} {h : Head} {x : Thread} {l : Lane} (hl : actingLane b c h x = some l) : l.t = x := by
  unfold actingLane at hl
  split at hl
  · cases hw : c.wheel x.wheel with
    | none => simp [hw] at hl
    | some w => simp [hw] at hl; rw [← hl]
  · simp at hl

/-! ### The context of the beat -/

/-- A change of a context that was just set. -/
@[simp] theorem State.modCtx_setCtx (s : State) (k : Nat) (c : Ctx) (f : Ctx → Ctx) :
    (s.setCtx k c).modCtx k f = s.setCtx k (f c) := by
  simp [State.modCtx, State.setCtx]

/-- The effect of an instruction in the beat in issue. -/
theorem onBeat_eq {s : State} {b : Beat} {c : Ctx} (hi : InIssue s b c) (h : Head) (f : Site → State → State) :
    onBeat h f s = f (siteOf b c h) (s.setCtx b.ctx (c.advance b h.yld)) := by
  simp [onBeat, hi.1, hi.2, siteOf, acting]

/-- No beat in issue, no effect. -/
theorem onBeat_none {s : State} (hb : s.beat = none) (h : Head) (f : Site → State → State) : onBeat h f s = s := by
  simp [onBeat, hb]

/-- A step with its whole effect, from a description of the threads and wheels it leaves. -/
theorem ran_of_maps {s u : State} {b : Beat} {c : Ctx} {h : Head} {E : Effect} (F : Thread → Thread) (G : Wheel → Wheel)
    (Q : Sparse Quarter) (hc' : E.ctx c = c)
    (hu : u = { s with ctxs := sPut s.ctxs b.ctx { c with threads := c.threads.map F, wheels := c.wheels.map G }
                       quarters := Q })
    (hq : ∀ k, u.quarter k = if E.hold ≠ 0 ∧ k = 4 * b.core + b.quarter then { s.quarter k with free := s.cycle + E.hold } else s.quarter k)
    (hF : ∀ x, (F x).tid = x.tid) (hG : ∀ w, (G w).idx = w.idx)
    (hT : ∀ x, c.thread x.tid = some x → ThreadRan b c h E x (F x))
    (hW : ∀ w, c.wheel w.idx = some w → WheelRan s.cycle b c h E w (G w)) :
    Ran s b c h E (u.seal s.mem) := by
  have hc : u.ctxs = sPut s.ctxs b.ctx { c with threads := c.threads.map F, wheels := c.wheels.map G } := by rw [hu]
  have hm : u.mem = s.mem := by rw [hu]
  have hwr : u.wr = s.wr := by rw [hu]
  refine ⟨⟨{ c with threads := c.threads.map F, wheels := c.wheels.map G }, ?_, by rw [hc'], ?_, ?_, ?_, ?_⟩, ?_, ?_, ?_, ?_⟩
  · simp [hc]
  · simp [Function.comp_def, hF]
  · simp [Function.comp_def, hG]
  · intro i x hx
    have := Ctx.thread_tid hx
    subst this
    refine ⟨F x, ?_, hT x hx⟩
    simp only [Ctx.thread] at hx ⊢
    rw [find?_map_key _ _ F hF, hx]; rfl
  · intro k w hw
    have := Ctx.wheel_idx hw
    subst this
    refine ⟨G w, ?_, hW w hw⟩
    simp only [Ctx.wheel] at hw ⊢
    rw [find?_map_key _ _ G hG, hw]; rfl
  · intro k hk; rw [State.seal_ctxs, hc]; exact sGet_sPut_ne _ _ hk
  · intro a; rw [← hm, State.byte_seal]; simp [State.byte, hm, hwr]
  · exact hq
  · subst hu; rfl

/-! ### Threads and wheels that an instruction touches -/

/-- The thread that moves on with the beat, and then takes a lane's change. -/
def ranT (b : Beat) (h : Head) (ls : List Lane) (f : Lane → Thread → Thread) (x : Thread) : Thread :=
  let y := if b.tids.contains x.tid then { x with pc := nextPc b.pc, stamp := none, yielded := h.yld } else x
  match ls.find? (fun l => l.t.tid == y.tid) with
  | some l => f l y
  | none => y

/-- The wheel that takes the change of its first lane. -/
def ranW (ls : List Lane) (f : Lane → Wheel → Wheel) (w : Wheel) : Wheel :=
  match ls.find? (fun l => l.w.idx == w.idx) with
  | some l => f l w
  | none => w

/-- Writes of no register leave every range and every status word. -/
theorem filter_untouched_nil {α : Type} (xs : List α) (d n : α → Nat) : xs.filter (fun a => untouched [] (d a) (n a)) = xs := by
  simp [untouched]

/-- A range misses one write just when the written registers do not reach it. -/
theorem untouched_one (k d n : Nat) (ws : List Word) :
    untouched [(k, ws)] d n = (k == 255 || !(decide (k < d + n) && decide (d < k + ws.length))) := by
  simp [untouched]

/-- A thread that only moves on with the beat. -/
theorem threadRan_move (b : Beat) (c : Ctx) (h : Head) (E : Effect) (x : Thread) (hv : ∀ l, E.vec l = []) (hp : ∀ l, E.preds l = l.t.preds)
    (hth : ∀ l t, E.thread l t = t) (hpc : ∀ l, E.pc l = none) :
    ThreadRan b c h E x (ranT b h [] (fun _ t => t) x) := by
  have he : (((actingLane b c h x).map E.vec).getD []) = [] := by cases actingLane b c h x <;> simp [hv]
  have hq : ((actingLane b c h x).map E.preds).getD x.preds = x.preds := by
    cases hl : actingLane b c h x with
    | none => rfl
    | some l => simp [hp, actingLane_t hl]
  have hz : ((actingLane b c h x).map (fun l => E.thread l x)).getD x = x := by cases actingLane b c h x <;> simp [hth]
  have hn : (actingLane b c h x).bind E.pc = none := by cases actingLane b c h x <;> simp [hpc]
  refine ⟨?_, ?_, ?_, ?_, ?_, ?_⟩ <;> simp only [ranT, List.find?_nil, he, hq, hz, hn, after, filter_untouched_nil] <;> split <;> simp_all [Thread.v]

/-- A thread that takes a lane's change. -/
theorem threadRan_lane (b : Beat) (c : Ctx) (h : Head) (E : Effect) (f : Lane → Thread → Thread) (x : Thread)
    (hx : c.thread x.tid = some x) (hth : ∀ l t, E.thread l t = t) (hpc : ∀ l, E.pc l = none)
    (hf : ∀ l t, f l t = { t with vregs := (f l t).vregs, preds := (f l t).preds, pend := (f l t).pend, latched := (f l t).latched, acqs := (f l t).acqs })
    (hv : ∀ l t n, (f l t).v n = after t.v (E.vec l) n)
    (hp : ∀ l t, l.t.preds = t.preds → (f l t).preds = E.preds l)
    (hl : ∀ l t, (f l t).latched = t.latched.filter (fun r => untouched (E.vec l) r.2.1 r.2.2))
    (ha : ∀ l t, (f l t).acqs = t.acqs.filter (fun a => untouched (E.vec l) a.1 1)) :
    ThreadRan b c h E x (ranT b h (acting b c h) f x) := by
  have hy : (if b.tids.contains x.tid then { x with pc := nextPc b.pc, stamp := none, yielded := h.yld } else x : Thread).tid = x.tid := by
    split <;> rfl
  cases hal : actingLane b c h x with
  | none =>
    have : (acting b c h).find? (fun l => l.t.tid == x.tid) = none := by rw [acting_find b c h x hx, hal]
    clear hf hv hp hl ha hth hpc
    refine ⟨?_, ?_, ?_, ?_, ?_, ?_⟩ <;>
      simp only [ranT, hy, this, hal, Option.map_none, Option.bind_none, Option.getD_none, after, filter_untouched_nil] <;> split <;>
      simp_all [Thread.v]
  | some l =>
    have h1 : (acting b c h).find? (fun l => l.t.tid == x.tid) = some l := by rw [acting_find b c h x hx, hal]
    have ht := actingLane_t hal
    refine ⟨?_, ?_, ?_, ?_, ?_, ?_⟩ <;> simp only [ranT, hy, h1, hal, hth, hpc, Option.map_some, Option.bind_some, Option.getD_some, Option.getD_none]
    · rw [hf]; split <;> rfl
    · refine (congrArg Thread.pc (hf l _)).trans ?_
      by_cases hb : x.tid ∈ b.tids
      · rw [if_pos (List.contains_iff_mem.2 hb), if_pos hb]
      · rw [if_neg (fun e => hb (List.contains_iff_mem.1 e)), if_neg hb]
    · intro n; rw [hv]; split <;> rfl
    · apply hp; rw [ht]; split <;> rfl
    · rw [hl]; split <;> rfl
    · rw [ha]; split <;> rfl

/-- A wheel that takes nothing. -/
theorem wheelRan_none (cy : Nat) (b : Beat) (c : Ctx) (h : Head) (E : Effect) (w : Wheel) (hu : ∀ l, E.uni l = []) (hf : ∀ ls, E.flags ls = 0)
    (hs : ∀ ls, E.stores ls = []) :
    WheelRan cy b c h E w w := by
  refine ⟨rfl, by simp [hs], ?_, by simp [hf]⟩
  intro n
  cases (acting b c h).find? (fun l => l.w.idx == w.idx) <;> simp [after, hu]

/-- Flags on their way to a wheel. -/
def flagW (cy lat : Nat) (fl : Word) (w : Wheel) : Wheel :=
  if fl = 0 then w else { w with retire := w.retire ++ [{ due := cy + lat, flags := fl }] }

/-- A wheel that takes flags alone. -/
theorem wheelRan_flags (cy : Nat) (b : Beat) (c : Ctx) (h : Head) (E : Effect) (w : Wheel) (hu : ∀ l, E.uni l = [])
    (hs : ∀ ls, E.stores ls = []) :
    WheelRan cy b c h E w (flagW cy E.lat (E.flags ((acting b c h).filter (fun l => l.w.idx == w.idx))) w) := by
  refine ⟨?_, ?_, ?_, ?_⟩
  · unfold flagW; split <;> rfl
  · rw [hs]; unfold flagW; split <;> simp
  · intro n
    have : after w.s ((((acting b c h).find? (fun l => l.w.idx == w.idx)).map E.uni).getD []) n = w.s n := by
      cases (acting b c h).find? (fun l => l.w.idx == w.idx) <;> simp [after, hu]
    rw [this]; unfold flagW; split <;> rfl
  · unfold flagW; split <;> simp_all

/-- A wheel that takes a lane's registers. -/
theorem wheelRan_lane (cy : Nat) (b : Beat) (c : Ctx) (h : Head) (E : Effect) (f : Lane → Wheel → Wheel) (w : Wheel)
    (hf : ∀ l w, f l w = { w with sregs := (f l w).sregs, pend := (f l w).pend })
    (hs : ∀ l w n, (f l w).s n = after w.s (E.uni l) n) (hfl : ∀ ls, E.flags ls = 0) (hst : ∀ ls, E.stores ls = []) :
    WheelRan cy b c h E w (ranW (acting b c h) f w) := by
  cases hl : (acting b c h).find? (fun l => l.w.idx == w.idx) with
  | none => clear hf; refine ⟨?_, ?_, ?_, ?_⟩ <;> simp [ranW, hl, after, hfl, hst]
  | some l =>
    refine ⟨?_, ?_, ?_, ?_⟩ <;> simp only [ranW, hl, Option.map_some, Option.getD_some, hfl, hst, if_true, List.append_nil]
    · rw [hf]
    · rw [hf]
    · exact hs l w
    · rw [hf]

/-! ### The shapes of register instructions -/

/-- The registers a lane's list of writes leaves. -/
theorem Thread.put_after (t : Thread) (d : Nat) (ws : List Word) (p : List Pend) (n : Nat) : (t.put d ws p).v n = after t.v [(d, ws)] n :=
  t.put_v d ws p n

/-- The registers a wheel's list of writes leaves. -/
theorem Wheel.put_after (w : Wheel) (d : Nat) (ws : List Word) (p : List Pend) (n : Nat) : (w.put d ws p).s n = after w.s [(d, ws)] n :=
  w.put_s d ws p n

/-- The quarters of a state whose quarters are unchanged. -/
theorem path_same {s u : State} {b : Beat} {n : Nat} (h : u.quarters = s.quarters) (hn : n = 0) (k : Nat) :
    u.quarter k = if n ≠ 0 ∧ k = 4 * b.core + b.quarter then { s.quarter k with free := s.cycle + n } else s.quarter k := by
  simp [State.quarter, h, hn]

/-- The threads after the beat has moved on and the lanes have changed. -/
theorem advance_eachLane (c : Ctx) (b : Beat) (h : Head) (ls : List Lane) (f : Lane → Thread → Thread) :
    (c.advance b h.yld).eachLane ls f = { c with threads := c.threads.map (ranT b h ls f), wheels := c.wheels.map id } := by
  simp only [Ctx.eachLane, Ctx.advance, Ctx.modT, List.map_map, List.map_id]
  rfl

/-- The threads and wheels after the beat has moved on and the wheels have changed. -/
theorem advance_eachWheel (c : Ctx) (b : Beat) (h : Head) (ls : List Lane) (f : Lane → Wheel → Wheel) :
    (c.advance b h.yld).eachWheel ls f =
      { c with threads := c.threads.map (ranT b h [] (fun _ t => t)), wheels := c.wheels.map (ranW ls f) } := by
  simp only [Ctx.eachWheel, Ctx.advance, Ctx.modT, Ctx.mk.injEq, true_and, and_true]
  refine ⟨?_, rfl⟩
  apply List.map_congr_left
  intro x _
  simp only [ranT, List.find?_nil]

/-- A step that does `f` on the beat in issue. -/
theorem act_onBeat {s : State} {b : Beat} {c : Ctx} (hi : InIssue s b c) (h : Head) (f : Site → State → State) :
    act (onBeat h f) s = .next ((f (siteOf b c h) (s.setCtx b.ctx (c.advance b h.yld))).seal s.mem) := by
  simp [act, onBeat_eq hi]

/-- An instruction that only moves its threads on. -/
theorem move_ran {s : State} {b : Beat} {c : Ctx} (hi : InIssue s b c) (h : Head) :
    ∃ t, act (onBeat h (fun _ s => s)) s = .next t ∧ Ran s b c h {} t := by
  refine ⟨_, act_onBeat hi h _, ran_of_maps (ranT b h [] (fun _ t => t)) id s.quarters rfl ?_ (path_same rfl rfl) ?_ (fun _ => rfl) ?_ ?_⟩
  · have : c.advance b h.yld = { c with threads := c.threads.map (ranT b h [] (fun _ t => t)), wheels := c.wheels.map id } := by
      rw [← advance_eachLane]
      simp only [Ctx.eachLane, List.find?_nil, List.map_id']
    rw [this]; rfl
  · intro x; simp only [ranT, List.find?_nil]; split <;> rfl
  · intro x _; exact threadRan_move b c h {} x (fun _ => rfl) (fun _ => rfl) (fun _ _ => rfl) (fun _ => rfl)
  · intro w _; exact wheelRan_none _ b c h {} w (fun _ => rfl) (fun _ => rfl) (fun _ => rfl)

/-- The state in which the instruction's effect begins: its threads have moved on. -/
def started (s : State) (b : Beat) (c : Ctx) (h : Head) : State := s.setCtx b.ctx (c.advance b h.yld)

/-- A change of lanes and of wheels, as a whole effect. -/
theorem lanes_wheels_ran {s : State} {b : Beat} {c : Ctx} {h : Head} {E : Effect} (f : Lane → Thread → Thread) (G : Wheel → Wheel)
    (hE : E.hold = 0) (hc' : E.ctx c = c) (hth : ∀ l t, E.thread l t = t) (hpc : ∀ l, E.pc l = none)
    (hf : ∀ l t, f l t = { t with vregs := (f l t).vregs, preds := (f l t).preds, pend := (f l t).pend, latched := (f l t).latched, acqs := (f l t).acqs })
    (hv : ∀ l t n, (f l t).v n = after t.v (E.vec l) n)
    (hp : ∀ l t, l.t.preds = t.preds → (f l t).preds = E.preds l)
    (hl : ∀ l t, (f l t).latched = t.latched.filter (fun r => untouched (E.vec l) r.2.1 r.2.2))
    (ha : ∀ l t, (f l t).acqs = t.acqs.filter (fun a => untouched (E.vec l) a.1 1))
    (hG : ∀ w, (G w).idx = w.idx) (hW : ∀ w, c.wheel w.idx = some w → WheelRan s.cycle b c h E w (G w)) :
    Ran s b c h E ((s.setCtx b.ctx { c with threads := c.threads.map (ranT b h (acting b c h) f), wheels := c.wheels.map G }).seal s.mem) := by
  refine ran_of_maps _ G s.quarters hc' rfl (path_same rfl hE) ?_ hG (fun x hx => threadRan_lane b c h E f x hx hth hpc hf hv hp hl ha) hW
  intro x
  have ht : ∀ l t, (f l t).tid = t.tid := fun l t => (congrArg Thread.tid (hf l t) :)
  unfold ranT
  dsimp only
  split
  · rw [ht]; split <;> rfl
  · split <;> rfl

/-- `put` changes registers, the scoreboard and what the written registers released. -/
theorem Thread.put_rest (t : Thread) (d : Nat) (ws : List Word) (p : List Pend) :
    t.put d ws p = { t with
      vregs := (t.put d ws p).vregs
      preds := (t.put d ws p).preds
      pend := (t.put d ws p).pend
      latched := (t.put d ws p).latched
      acqs := (t.put d ws p).acqs } := by
  unfold Thread.put; split <;> rfl

/-- A write releases the latched ranges that it reaches (R163). -/
theorem Thread.put_latched (t : Thread) (d : Nat) (ws : List Word) (p : List Pend) :
    (t.put d ws p).latched = t.latched.filter (fun r => untouched [(d, ws)] r.2.1 r.2.2) := by
  unfold Thread.put; split
  · simp_all [untouched_one]
  · simp only [untouched_one, beq_eq_false_iff_ne.2 ‹_›, Bool.false_or]

/-- A write drops the status words still to be read that it reaches (R274). -/
theorem Thread.put_acqs (t : Thread) (d : Nat) (ws : List Word) (p : List Pend) :
    (t.put d ws p).acqs = t.acqs.filter (fun a => untouched [(d, ws)] a.1 1) := by
  unfold Thread.put; split
  · simp_all [untouched_one]
  · simp only [untouched_one]
    apply List.filter_congr
    intro a _
    rw [beq_eq_false_iff_ne.2 ‹_›, Bool.false_or, decide_eq_decide.2 (Nat.lt_add_one_iff)]

/-- `put` changes registers alone. -/
theorem Wheel.put_rest (w : Wheel) (d : Nat) (ws : List Word) (p : List Pend) :
    w.put d ws p = { w with sregs := (w.put d ws p).sregs, pend := (w.put d ws p).pend } := by
  unfold Wheel.put; split <;> rfl

/-- Vector registers written in each acting lane. -/
theorem writeV_ran (s : State) (b : Beat) (c : Ctx) (h : Head) (d lat : Nat) (f : Lane → List Word) :
    Ran s b c h { vec := fun l => [(d, f l)] } (((started s b c h).writeV (siteOf b c h) d lat f).seal s.mem) := by
  unfold started State.writeV
  rw [show (siteOf b c h).b.ctx = b.ctx from rfl, State.modCtx_setCtx, advance_eachLane]
  exact lanes_wheels_ran _ id rfl rfl (fun _ _ => rfl) (fun _ => rfl) (fun l t => t.put_rest ..) (fun l t n => t.put_after ..) (fun l t hp => by simp [hp])
    (fun l t => t.put_latched ..) (fun l t => t.put_acqs ..) (fun _ => rfl)
    (fun w _ => wheelRan_none _ b c h _ w (fun _ => rfl) (fun _ => rfl) (fun _ => rfl))

/-- A predicate written in each acting lane. -/
theorem writeP_ran (s : State) (b : Beat) (c : Ctx) (h : Head) (k : BitVec 5) (lat : Nat) (f : Lane → Bool) :
    Ran s b c h (intoP k f) (((started s b c h).writeP (siteOf b c h) k.toNat lat f).seal s.mem) := by
  unfold started State.writeP
  rw [show (siteOf b c h).b.ctx = b.ctx from rfl, State.modCtx_setCtx, advance_eachLane]
  exact lanes_wheels_ran _ id rfl rfl (fun _ _ => rfl) (fun _ => rfl) (fun l t => rfl) (fun l t n => rfl) (fun l t hp => by simp [intoP, hp])
    (fun l t => (filter_untouched_nil ..).symm) (fun l t => (filter_untouched_nil ..).symm) (fun _ => rfl)
    (fun w _ => wheelRan_none _ b c h _ w (fun _ => rfl) (fun _ => rfl) (fun _ => rfl))

/-- Uniform registers written in each home wheel. -/
theorem writeS_ran (s : State) (b : Beat) (c : Ctx) (h : Head) (d lat : Nat) (f : Lane → List Word) :
    Ran s b c h { uni := fun l => [(d, f l)] } (((started s b c h).writeS (siteOf b c h) d lat f).seal s.mem) := by
  unfold started State.writeS
  rw [show (siteOf b c h).b.ctx = b.ctx from rfl, State.modCtx_setCtx, advance_eachWheel]
  refine ran_of_maps _ (ranW _ _) s.quarters rfl rfl (path_same rfl rfl) ?_ ?_ ?_ ?_
  · intro x; simp only [ranT, List.find?_nil]; split <;> rfl
  · intro w; unfold ranW; split <;> simp
  · intro x _; exact threadRan_move b c h _ x (fun _ => rfl) (fun _ => rfl) (fun _ _ => rfl) (fun _ => rfl)
  · intro w _
    exact wheelRan_lane _ b c h _ _ w (fun l w => w.put_rest ..) (fun l w n => w.put_after ..) (fun _ => rfl) (fun _ => rfl)

/-- An instruction that writes D and raises no flag: its whole effect. -/
theorem regOp_ran {s : State} {b : Beat} {c : Ctx} (hi : InIssue s b c) (h : Head) (d : Dst) (lat : Nat) (f : Lane → List Word) :
    ∃ t, act (regOp h d lat f) s = .next t ∧ Ran s b c h (into d f) t := by
  refine ⟨_, act_onBeat hi h _, ?_⟩
  cases d with
  | v r => exact writeV_ran s b c h r.toNat lat f
  | s r => exact writeS_ran s b c h r.toNat lat f

/-- An instruction that writes a predicate and raises no flag: its whole effect. -/
theorem predOp_ran {s : State} {b : Beat} {c : Ctx} (hi : InIssue s b c) (h : Head) (pd : BitVec 5) (lat : Nat) (f : Lane → Bool) :
    ∃ t, act (predOp h pd lat f) s = .next t ∧ Ran s b c h (intoP pd f) t :=
  ⟨_, act_onBeat hi h _, writeP_ran s b c h pd lat f⟩

/-! ### Flags -/

/-- The flags of lanes on their way. -/
theorem raise_ctx (s : State) (k : Nat) (c : Ctx) (e : Site) (he : e.b.ctx = k) (lat : Nat) (f : Lane → Word) :
    (s.setCtx k c).raise e lat f = s.setCtx k { c with wheels := c.wheels.map (fun w =>
      flagW s.cycle lat ((e.lanes.filter (fun l => l.w.idx == w.idx)).foldl (fun a l => a ||| f l) 0) w) } := by
  subst he
  unfold State.raise
  rw [State.modCtx_setCtx]
  rfl

/-- The flags of a uniform form on their way. -/
theorem raiseS_ctx (s : State) (k : Nat) (c : Ctx) (e : Site) (he : e.b.ctx = k) (lat : Nat) (f : Lane → Word) :
    (s.setCtx k c).raiseS e lat f = s.setCtx k { c with wheels := c.wheels.map (ranW e.lanes (fun l w => flagW s.cycle lat (f l) w)) } := by
  subst he
  unfold State.raiseS
  rw [State.modCtx_setCtx]
  rfl

/-- A wheel that takes a lane's registers and flags. -/
theorem wheelRan_both (cy : Nat) (b : Beat) (c : Ctx) (h : Head) (E : Effect) (f : Lane → Wheel → Wheel) (g : Lane → Word) (w : Wheel)
    (hf : ∀ l w, f l w = { w with sregs := (f l w).sregs, pend := (f l w).pend })
    (hs : ∀ l w n, (f l w).s n = after w.s (E.uni l) n)
    (hfl : ∀ ls : List Lane, E.flags ls = (ls.head?.map g).getD 0) (hst : ∀ ls, E.stores ls = []) :
    WheelRan cy b c h E w (ranW (acting b c h) (fun l w => flagW cy E.lat (g l) w) (ranW (acting b c h) f w)) := by
  have hi : (ranW (acting b c h) f w).idx = w.idx := by
    unfold ranW; split
    · exact (congrArg Wheel.idx (hf _ _) :)
    · rfl
  cases hl : (acting b c h).find? (fun l => l.w.idx == w.idx) with
  | none =>
    have hfil : (acting b c h).filter (fun l => l.w.idx == w.idx) = [] := by
      rw [List.filter_eq_nil_iff]; simpa using List.find?_eq_none.1 hl
    clear hf
    refine ⟨?_, ?_, ?_, ?_⟩ <;> simp [ranW, hl, after, hfl, hfil, hst]
  | some l =>
    have hh : ((acting b c h).filter (fun l => l.w.idx == w.idx)).head? = some l := by rw [List.head?_filter, hl]
    have h2 : ranW (acting b c h) (fun l w => flagW cy E.lat (g l) w) (ranW (acting b c h) f w) = flagW cy E.lat (g l) (f l w) := by
      have h3 : ranW (acting b c h) f w = f l w := by unfold ranW; rw [hl]
      rw [h3] at hi ⊢
      unfold ranW; rw [hi, hl]
    rw [h2]
    refine ⟨?_, ?_, ?_, ?_⟩
    · unfold flagW; split <;> rw [hf]
    · have hr : (f l w).stores = w.stores := (congrArg Wheel.stores (hf l w) :)
      rw [hst]; unfold flagW; split <;> simp [hr]
    · intro n
      rw [hl, Option.map_some, Option.getD_some, ← hs]; unfold flagW; split <;> rfl
    · have hr : (f l w).retire = w.retire := (congrArg Wheel.retire (hf l w) :)
      rw [hfl, hh, Option.map_some, Option.getD_some]
      unfold flagW
      by_cases hg : g l = 0
      · rw [if_pos hg, if_pos hg, hr, List.append_nil]
      · rw [if_neg hg, if_neg hg, ← hr]

/-- A vector form that raises flags. -/
theorem writeV_raise_ran (s : State) (b : Beat) (c : Ctx) (h : Head) (d lat : Nat) (f : Lane → List Word) (g : Lane → Word) :
    Ran s b c h { vec := fun l => [(d, f l)], flags := fun ls => ls.foldl (fun a l => a ||| g l) 0, lat := lat }
      ((((started s b c h).writeV (siteOf b c h) d lat f).raise (siteOf b c h) lat g).seal s.mem) := by
  unfold started State.writeV
  rw [show (siteOf b c h).b.ctx = b.ctx from rfl, State.modCtx_setCtx, advance_eachLane, raise_ctx s b.ctx _ (siteOf b c h) rfl, List.map_map]
  refine lanes_wheels_ran _ _ rfl rfl (fun _ _ => rfl) (fun _ => rfl) (fun l t => t.put_rest ..) (fun l t n => t.put_after ..) (fun l t hp => by simp [hp])
    (fun l t => t.put_latched ..) (fun l t => t.put_acqs ..) ?_
    (fun w _ => wheelRan_flags _ b c h _ w (fun _ => rfl) (fun _ => rfl))
  intro w; simp only [Function.comp_apply, id, flagW]; split <;> rfl

/-- A predicate form that raises flags. -/
theorem writeP_raise_ran (s : State) (b : Beat) (c : Ctx) (h : Head) (k : BitVec 5) (lat : Nat) (f : Lane → Bool) (g : Lane → Word) :
    Ran s b c h { intoP k f with flags := fun ls => ls.foldl (fun a l => a ||| g l) 0, lat := lat }
      ((((started s b c h).writeP (siteOf b c h) k.toNat lat f).raise (siteOf b c h) lat g).seal s.mem) := by
  unfold started State.writeP
  rw [show (siteOf b c h).b.ctx = b.ctx from rfl, State.modCtx_setCtx, advance_eachLane, raise_ctx s b.ctx _ (siteOf b c h) rfl, List.map_map]
  refine lanes_wheels_ran _ _ rfl rfl (fun _ _ => rfl) (fun _ => rfl) (fun l t => rfl) (fun l t n => rfl) (fun l t hp => by simp [intoP, hp])
    (fun l t => (filter_untouched_nil ..).symm) (fun l t => (filter_untouched_nil ..).symm) ?_
    (fun w _ => wheelRan_flags _ b c h _ w (fun _ => rfl) (fun _ => rfl))
  intro w; simp only [Function.comp_apply, id, flagW]; split <;> rfl

/-- A uniform form that raises flags. -/
theorem writeS_raiseS_ran (s : State) (b : Beat) (c : Ctx) (h : Head) (d lat : Nat) (f : Lane → List Word) (g : Lane → Word) :
    Ran s b c h { uni := fun l => [(d, f l)], flags := fun ls => (ls.head?.map g).getD 0, lat := lat }
      ((((started s b c h).writeS (siteOf b c h) d lat f).raiseS (siteOf b c h) lat g).seal s.mem) := by
  unfold started State.writeS
  rw [show (siteOf b c h).b.ctx = b.ctx from rfl, State.modCtx_setCtx, advance_eachWheel, raiseS_ctx s b.ctx _ (siteOf b c h) rfl, List.map_map]
  refine ran_of_maps _ _ s.quarters rfl rfl (path_same rfl rfl) ?_ ?_ ?_ ?_
  · intro x; simp only [ranT, List.find?_nil]; split <;> rfl
  · intro w; simp only [Function.comp_apply, ranW, flagW]; split <;> split <;> (try split) <;> simp
  · intro x _; exact threadRan_move b c h _ x (fun _ => rfl) (fun _ => rfl) (fun _ _ => rfl) (fun _ => rfl)
  · intro w _
    exact wheelRan_both _ b c h _ _ g w (fun l w => w.put_rest ..) (fun l w n => w.put_after ..) (fun _ => rfl) (fun _ => rfl)

/-- An instruction that writes D and raises flags: its whole effect. -/
theorem aluOp_ran {s : State} {b : Beat} {c : Ctx} (hi : InIssue s b c) (h : Head) (d : Dst) (lat : Nat) (f : Lane → List Word × Word) :
    ∃ t, act (aluOp h d lat f) s = .next t ∧ Ran s b c h (intoFl d lat f) t := by
  refine ⟨_, act_onBeat hi h _, ?_⟩
  cases d with
  | v r => exact writeV_raise_ran s b c h r.toNat lat (fun l => (f l).1) (fun l => (f l).2)
  | s r => exact writeS_raiseS_ran s b c h r.toNat lat (fun l => (f l).1) (fun l => (f l).2)

/-! ### The vector datapath and QBLK -/

/-- Holding the datapath after an effect on registers. -/
theorem hold_ran {s u : State} {b : Beat} {c : Ctx} {h : Head} {E : Effect} (n : Nat) (hn : n ≠ 0) (hE : E.hold = 0)
    (hR : Ran s b c h E (u.seal s.mem)) :
    Ran s b c h { E with hold := n }
      ((u.modQuarter (4 * b.core + b.quarter) (fun q => { q with free := u.cycle + n })).seal s.mem) := by
  obtain ⟨⟨c', h1, h2, h3, h4, h5, h6⟩, ho, hm, hp, hr⟩ := hR
  have hcy : u.cycle = s.cycle := (congrArg State.cycle hr :)
  refine ⟨⟨c', h1, h2, h3, h4, ?_, ?_⟩, ho, hm, ?_, ?_⟩
  · intro i x hx
    obtain ⟨y, hy, ⟨a1, a2, a3, a4, a5, a6⟩⟩ := h5 i x hx
    exact ⟨y, hy, ⟨a1, a2, a3, a4, a5, a6⟩⟩
  · intro k w hw
    obtain ⟨v, hv, ⟨a1, a2, a3, a4⟩⟩ := h6 k w hw
    exact ⟨v, hv, ⟨a1, a2, a3, a4⟩⟩
  · intro k
    have hk := hp k
    simp only [hE, ne_eq, not_true_eq_false, false_and, if_false] at hk
    simp only [State.quarter, State.seal_quarters, State.modQuarter_quarters, sGet_sPut] at hk ⊢
    by_cases hkk : k = 4 * b.core + b.quarter
    · subst hkk; simp only [if_true, Option.getD_some, hn, ne_eq, not_false_eq_true, true_and, hk, hcy]
    · simp [hkk, hk]
  · have : ∀ q, { u.seal s.mem with quarters := q } = { s with ctxs := u.ctxs, quarters := q, mem := (u.seal s.mem).mem, wr := [] } := by
      intro q
      exact congrArg (fun x : State => { x with quarters := q }) hr
    exact this _

/-- An arithmetic instruction whose vector form holds the datapath. -/
theorem heldOp_ran {s : State} {b : Beat} {c : Ctx} (hi : InIssue s b c) (h : Head) (d : Dst) (lat n : Nat) (hn : n ≠ 0)
    (f : Lane → List Word × Word) :
    ∃ t, act (fun s => holdPath d n (aluOp h d lat f s)) s = .next t ∧
      Ran s b c h { intoFl d lat f with hold := match d with | .v _ => n | .s _ => 0 } t := by
  cases d with
  | s r =>
    have hu := writeS_raiseS_ran s b c h r.toNat lat (fun l => (f l).1) (fun l => (f l).2)
    refine ⟨_, rfl, ?_⟩
    dsimp only
    rw [show aluOp h (.s r) lat f s = _ from onBeat_eq hi h _]
    exact hu
  | v r =>
    have hu := writeV_raise_ran s b c h r.toNat lat (fun l => (f l).1) (fun l => (f l).2)
    refine ⟨_, rfl, ?_⟩
    dsimp only
    rw [show aluOp h (.v r) lat f s = _ from onBeat_eq hi h _]
    have hb := congrArg State.beat hu.rest
    have hb' : ((started s b c h).writeV (siteOf b c h) r.toNat lat (fun l => (f l).1) |>.raise (siteOf b c h) lat (fun l => (f l).2)).beat = some b :=
      (hb : _).trans hi.1
    have := hold_ran n hn rfl hu
    unfold holdPath
    dsimp only
    rw [show (State.raise (State.writeV (s.setCtx b.ctx (c.advance b h.yld)) (siteOf b c h) r.toNat lat fun l => (f l).1) (siteOf b c h) lat fun l => (f l).2).beat = some b from hb']
    exact this

/-- Two vector ranges written by one instruction that raises flags (QBLK). -/
theorem writeV2_raise_ran (s : State) (b : Beat) (c : Ctx) (h : Head) (d k lat : Nat) (f f' : Lane → List Word) (g : Lane → Word) :
    Ran s b c h { vec := fun l => [(d, f l), (k, f' l)], flags := fun ls => ls.foldl (fun a l => a ||| g l) 0, lat := lat }
      (((((started s b c h).writeV (siteOf b c h) d lat f).writeV (siteOf b c h) k lat f').raise (siteOf b c h) lat g).seal s.mem) := by
  have hcomp : ∀ (ls : List Lane) (f1 f2 : Lane → Thread → Thread) (hf : ∀ l t, (f1 l t).tid = t.tid) (c : Ctx),
      (c.eachLane ls f1).eachLane ls f2 = c.eachLane ls (fun l t => f2 l (f1 l t)) := by
    intro ls f1 f2 hf c
    simp only [Ctx.eachLane, List.map_map, Ctx.mk.injEq, true_and, and_true]
    apply List.map_congr_left
    intro t _
    simp only [Function.comp_apply]
    cases hl : ls.find? (fun l => l.t.tid == t.tid) with
    | none => simp [hl]
    | some l => simp [hf, hl]
  unfold started State.writeV
  rw [show (siteOf b c h).b.ctx = b.ctx from rfl, State.modCtx_setCtx, State.modCtx_setCtx, hcomp _ _ _ (fun l t => by simp),
    advance_eachLane, raise_ctx s b.ctx _ (siteOf b c h) rfl, List.map_map]
  refine lanes_wheels_ran _ _ rfl rfl (fun _ _ => rfl) (fun _ => rfl) ?_ ?_ (fun l t hp => by simp [hp]) ?_ ?_ ?_ (fun w _ => wheelRan_flags _ b c h _ w (fun _ => rfl) (fun _ => rfl))
  · intro l t
    rw [Thread.put_rest (t.put ..), Thread.put_rest t]
  · intro l t n
    rw [Thread.put_after]
    simp only [after]
    congr 1
    exact Thread.put_v ..
  · intro l t; rw [Thread.put_latched, Thread.put_latched, List.filter_filter]; simp [untouched, Bool.and_comm]
  · intro l t; rw [Thread.put_acqs, Thread.put_acqs, List.filter_filter]; simp [untouched, Bool.and_comm]
  · intro w; simp only [Function.comp_apply, id, flagW]; split <;> rfl

/-- Two uniform ranges written by one instruction that raises flags (QBLK). -/
theorem writeS2_raiseS_ran (s : State) (b : Beat) (c : Ctx) (h : Head) (d k lat : Nat) (f f' : Lane → List Word) (g : Lane → Word) :
    Ran s b c h { uni := fun l => [(d, f l), (k, f' l)], flags := fun ls => (ls.head?.map g).getD 0, lat := lat }
      (((((started s b c h).writeS (siteOf b c h) d lat f).writeS (siteOf b c h) k lat f').raiseS (siteOf b c h) lat g).seal s.mem) := by
  have hcomp : ∀ (ls : List Lane) (f1 f2 : Lane → Wheel → Wheel) (hf : ∀ l w, (f1 l w).idx = w.idx) (c : Ctx),
      (c.eachWheel ls f1).eachWheel ls f2 = c.eachWheel ls (fun l w => f2 l (f1 l w)) := by
    intro ls f1 f2 hf c
    simp only [Ctx.eachWheel, List.map_map, Ctx.mk.injEq, true_and, and_true]
    apply List.map_congr_left
    intro w _
    simp only [Function.comp_apply]
    cases hl : ls.find? (fun l => l.w.idx == w.idx) with
    | none => simp [hl]
    | some l => simp [hf, hl]
  unfold started State.writeS
  rw [show (siteOf b c h).b.ctx = b.ctx from rfl, State.modCtx_setCtx, State.modCtx_setCtx, hcomp _ _ _ (fun l t => by simp),
    advance_eachWheel, raiseS_ctx s b.ctx _ (siteOf b c h) rfl, List.map_map]
  refine ran_of_maps _ _ s.quarters rfl rfl (path_same rfl rfl) ?_ ?_ ?_ ?_
  · intro x; simp only [ranT, List.find?_nil]; split <;> rfl
  · intro w; simp only [Function.comp_apply, ranW, flagW]; split <;> split <;> (try split) <;> simp
  · intro x _; exact threadRan_move b c h _ x (fun _ => rfl) (fun _ => rfl) (fun _ _ => rfl) (fun _ => rfl)
  · intro w _
    refine wheelRan_both _ b c h _ _ g w ?_ ?_ (fun _ => rfl) (fun _ => rfl)
    · intro l w
      rw [Wheel.put_rest (w.put ..), Wheel.put_rest w]
    · intro l w n
      rw [Wheel.put_after]
      simp only [after]
      congr 1
      exact Wheel.put_s ..

/-! ### Effects that agree -/

/-- The acting lane of a thread of the context is among the acting lanes. -/
theorem actingLane_mem {b : Beat} {c : Ctx} {h : Head} {i : Nat} {x : Thread} (hx : c.thread i = some x) {l : Lane}
    (hl : actingLane b c h x = some l) : l ∈ acting b c h := by
  have := Ctx.thread_tid hx
  subst this
  rw [← acting_find b c h x hx] at hl
  exact List.mem_of_find?_eq_some hl

/-- Two effects that leave the same registers, predicates and flags in the acting lanes are one. -/
theorem ran_congr {s t : State} {b : Beat} {c : Ctx} {h : Head} {E F : Effect} (hR : Ran s b c h E t)
    (hv : ∀ l ∈ acting b c h, E.vec l = F.vec l)
    (hp : ∀ l ∈ acting b c h, E.preds l = F.preds l)
    (hu : ∀ l ∈ acting b c h, ∀ (w : Wheel) n, after w.s (E.uni l) n = after w.s (F.uni l) n)
    (hfl : E.flags = F.flags) (hlat : E.lat = F.lat) (hh : E.hold = F.hold)
    (hst : E.stores = F.stores := by rfl) (hth : E.thread = F.thread := by rfl) (hc' : E.ctx = F.ctx := by rfl)
    (hpc : E.pc = F.pc := by rfl) : Ran s b c h F t := by
  obtain ⟨⟨c', h1, h2, h3, h4, h5, h6⟩, ho, hm, hq, hr⟩ := hR
  have hvec : ∀ i x, c.thread i = some x → ((actingLane b c h x).map E.vec).getD [] = ((actingLane b c h x).map F.vec).getD [] := by
    intro i x hx
    cases hl : actingLane b c h x with
    | none => rfl
    | some l => exact hv l (actingLane_mem hx hl)
  refine ⟨⟨c', h1, by rw [← hc']; exact h2, h3, h4, ?_, ?_⟩, ho, hm, ?_, hr⟩
  · intro i x hx
    obtain ⟨y, hy, ⟨a1, a2, a3, a4, a5, a6⟩⟩ := h5 i x hx
    rw [hvec i x hx] at a3 a5 a6
    refine ⟨y, hy, ⟨by rw [← hth]; exact a1, by rw [← hpc]; exact a2, a3, ?_, a5, a6⟩⟩
    rw [a4]
    cases hl : actingLane b c h x with
    | none => rfl
    | some l => simp [hp l (actingLane_mem hx hl)]
  · intro k w hw
    obtain ⟨v, hv', ⟨a1, a4, a2, a3⟩⟩ := h6 k w hw
    refine ⟨v, hv', ⟨a1, by rw [a4, hst], ?_, ?_⟩⟩
    · intro n
      rw [a2 n]
      cases hl : (acting b c h).find? (fun l => l.w.idx == w.idx) with
      | none => rfl
      | some l => simpa using hu l (List.mem_of_find?_eq_some hl) w n
    · rw [a3, hfl, hlat]
  · intro k; rw [hq k, hh]

/-- Results that agree in the acting lanes are one result. -/
theorem ran_into_congr {s t : State} {b : Beat} {c : Ctx} {h : Head} {d : Dst} {f g : Lane → List Word} (hR : Ran s b c h (into d f) t)
    (hfg : ∀ l ∈ acting b c h, f l = g l) : Ran s b c h (into d g) t := by
  cases d with
  | v r => exact ran_congr hR (fun l hl => by simp [into, hfg l hl]) (fun _ _ => rfl) (fun _ _ _ _ => rfl) rfl rfl rfl
  | s r => exact ran_congr hR (fun _ _ => rfl) (fun _ _ => rfl) (fun l hl w n => by simp [into, hfg l hl]) rfl rfl rfl

end Sys2Proof.Machine
end

