-- ==== Sys2Proof/Laws/Access.lean ====
section
/-! SUPPORT. What the shared operations of the memory instructions do when every access of the beat passes. -/

namespace Sys2Proof.Machine

open Sys2Proof.Claims

/-- The places of an access that passes. -/
def Res.places : Res → List Nat
  | .ok ps _ => ps
  | _ => []

/-- When every access passes and no earlier peer or host access of the threads is outstanding, the effect is done on every lane, its lines are counted unless the effect holds the beat, and nothing faults, waits or ends a run. -/
theorem gate_ok (s : State) (e : Site) (uni read : Bool) (accs : List Acc) (f : List (Lane × List Nat) → State → State)
    (h : ∀ a ∈ accs, ∃ ps pages, a.r = .ok ps pages ∧ refusedFill e.c a.r = a.r)
    (ho : ∀ tids, e.c.behind tids = []) :
    s.gate e uni read accs f =
      (let t := f (accs.map (fun a => (a.l, a.r.places))) (if read then accs.foldl (fun s a => s.noteAccess e.c a) s else s)
       if t.isHeld e.b || e.c.run.isSome then t else t.countBeat s e.b.ctx accs read) := by
  have hmap : accs.map (fun a => { a with r := refusedFill e.c a.r : Acc }) = accs := by
    conv_rhs => rw [← List.map_id accs]
    apply List.map_congr_left
    intro a ha
    obtain ⟨ps, pages, _, hr⟩ := h a ha
    simp [hr]
  have hends : accs.findSome? (fun a => a.r.endsRun) = none := by
    rw [List.findSome?_eq_none_iff]
    intro a ha
    obtain ⟨ps, pages, hr, _⟩ := h a ha
    simp [hr, Res.endsRun]
  have hwaits : accs.findSome? (fun a => a.r.waits) = none := by
    rw [List.findSome?_eq_none_iff]
    intro a ha
    obtain ⟨ps, pages, hr, _⟩ := h a ha
    simp [hr, Res.waits]
  have hbad : accs.filter (fun a => a.r.isBad) = [] := by
    rw [List.filter_eq_nil_iff]
    intro a ha
    obtain ⟨ps, pages, hr, _⟩ := h a ha
    simp [hr, Res.isBad]
  have hoks : accs.filterMap (fun a => match a.r with | .ok ps _ => some (a.l, ps) | _ => none) = accs.map (fun a => (a.l, a.r.places)) := by
    rw [← List.filterMap_eq_map]
    apply List.filterMap_congr
    intro a ha
    obtain ⟨ps, pages, hr, _⟩ := h a ha
    simp [hr, Res.places]
  unfold State.gate
  rw [← hoks]
  simp only [hmap, hends, hwaits, hbad, State.inOrder, ho]
  simp only [State.beatFault, State.faultLanes, List.flatMap_nil, List.foldl_nil, List.isEmpty_nil, if_true]
  cases e.c.run <;> rfl

end Sys2Proof.Machine
end

