-- ==== Sys2Proof/Laws/Engines.lean ====
section
/-! SUPPORT. What home writes, page counts and the counts of an engine's entry leave alone. -/

namespace Sys2Proof.Machine

/-- Home writes touch memory, poison marks, the runs' monitors and the queues' history alone: every die is as before. -/
theorem homeWrites_dies (s : State) (cells : List (Nat × Byte)) : (s.homeWrites cells).dies = s.dies := by
  have h : ∀ (l : List (Nat × Byte)) (s : State), (l.foldl (fun s c => (s.putByte c.1 c.2).noteWrite c.1) s).dies = s.dies := by
    intro l
    induction l with
    | nil => intro s; rfl
    | cons c l ih => intro s; rw [List.foldl_cons, ih, State.noteWrite]; split <;> rfl
  exact h cells s

/-- A change to a die that keeps its engines keeps those of every die. -/
theorem modDie_engines (s : State) (d a : Nat) (f : Die → Die) (h : ∀ x, (f x).engines = x.engines) :
    ((s.modDie d f).die a).engines = (s.die a).engines := by
  simp only [State.die, State.modDie, sGet_sPut]; split
  · rename_i e; subst e; simp [h]
  · rfl

/-- A counted request leaves the engines alone. -/
theorem countHot_engines (s : State) (d o g r : Nat) (hot : Bool) (a : Nat) :
    ((s.countHot d o g r hot).die a).engines = (s.die a).engines := by
  have e : ∀ (s : State) p n v, ((s.putNum p n v).die a).engines = (s.die a).engines := fun s p n v => by
    simp only [State.die, State.putNum, homeWrites_dies]
  simp only [State.countHot]
  (repeat' split) <;> (repeat' first | rw [modDie_engines] | rw [e]) <;> (try intro _) <;> rfl

/-- The counts of an entry leave the engines alone. -/
theorem countPlan_engine (s : State) (die : Nat) (p : Plan) (a b : Nat) : (s.countPlan die p).engine a b = s.engine a b := by
  have h : ∀ (l : List (Nat × Nat)) (s : State), ((l.foldl (fun s x => s.countLine die x) s).die a).engines = (s.die a).engines := by
    intro l
    induction l with
    | nil => intro s; rfl
    | cons c l ih =>
      intro s
      rw [List.foldl_cons, ih, State.countLine, State.touch]
      (repeat' split) <;> first | exact countHot_engines .. | rfl
  simp only [State.engine, State.countPlan, h]

end Sys2Proof.Machine
end

