-- ==== Sys2Proof/Laws/PerInstr.lean ====
section
/-! SUPPORT. The law of lengths, one lemma per instruction: the encoding of an instruction word is twelve bytes (R73), and a step of the hardware or the outside world has none. -/

namespace Sys2Proof.Laws.Length

/-- An instruction with words is encoded in twelve bytes, an event in none. -/
def Statement (i : Instr) : Prop := (encode i).length = if (encodeWords i).isSome then 12 else 0

theorem nop (h : Head) : Statement (.nop h) := rfl
theorem iadd (h : Head) (ty : Ty) (sat : Bool) (d : Dst) (a b : Src) : Statement (.iadd h ty sat d a b) := rfl
theorem isub (h : Head) (ty : Ty) (sat : Bool) (d : Dst) (a b : Src) : Statement (.isub h ty sat d a b) := rfl
theorem imul (h : Head) (ty : Ty) (sat : Bool) (d : Dst) (a b : Src) : Statement (.imul h ty sat d a b) := rfl
theorem imulh (h : Head) (ty : Ty) (d : Dst) (a b : Src) : Statement (.imulh h ty d a b) := rfl
theorem imad (h : Head) (ty : Ty) (sat : Bool) (d : Dst) (a b c : Src) : Statement (.imad h ty sat d a b c) := rfl
theorem imadw (h : Head) (ty : Ty) (sat : Bool) (d : Dst) (a b c : Src) : Statement (.imadw h ty sat d a b c) := rfl
theorem imin (h : Head) (ty : Ty) (d : Dst) (a b : Src) : Statement (.imin h ty d a b) := rfl
theorem imax (h : Head) (ty : Ty) (d : Dst) (a b : Src) : Statement (.imax h ty d a b) := rfl
theorem iabs (h : Head) (ty : Ty) (sat : Bool) (d : Dst) (a : Src) : Statement (.iabs h ty sat d a) := rfl
theorem ineg (h : Head) (ty : Ty) (sat : Bool) (d : Dst) (a : Src) : Statement (.ineg h ty sat d a) := rfl
theorem icmp (h : Head) (ty : Ty) (cc : Cc) (and : Bool) (pd : BitVec 5) (a b : Src) : Statement (.icmp h ty cc and pd a b) := rfl
theorem sel (h : Head) (ty : Ty) (d : BitVec 8) (a b : Src) (pc : BitVec 5) : Statement (.sel h ty d a b pc) := rfl
theorem idp4 (h : Head) (sat sa sb : Bool) (d : Dst) (a b c : Src) : Statement (.idp4 h sat sa sb d a b c) := rfl
theorem idp8 (h : Head) (sat sa sb : Bool) (d : Dst) (a b c : Src) : Statement (.idp8 h sat sa sb d a b c) := rfl
theorem andB (h : Head) (ty : Ty) (d : Dst) (a b : Src) : Statement (.andB h ty d a b) := rfl
theorem orB (h : Head) (ty : Ty) (d : Dst) (a b : Src) : Statement (.orB h ty d a b) := rfl
theorem xorB (h : Head) (ty : Ty) (d : Dst) (a b : Src) : Statement (.xorB h ty d a b) := rfl
theorem notB (h : Head) (ty : Ty) (d : Dst) (a : Src) : Statement (.notB h ty d a) := rfl
theorem lut3 (h : Head) (ty : Ty) (d : Dst) (a b c : Src) (tbl : BitVec 8) : Statement (.lut3 h ty d a b c tbl) := rfl
theorem shl (h : Head) (ty : Ty) (d : Dst) (a b : Src) : Statement (.shl h ty d a b) := rfl
theorem shr (h : Head) (ty : Ty) (d : Dst) (a b : Src) : Statement (.shr h ty d a b) := rfl
theorem sar (h : Head) (ty : Ty) (d : Dst) (a b : Src) : Statement (.sar h ty d a b) := rfl
theorem fsh (h : Head) (right : Bool) (d : Dst) (a b c : Src) : Statement (.fsh h right d a b c) := rfl
theorem pcnt (h : Head) (ty : Ty) (d : Dst) (a : Src) : Statement (.pcnt h ty d a) := rfl
theorem clz (h : Head) (ty : Ty) (d : Dst) (a : Src) : Statement (.clz h ty d a) := rfl
theorem brev (h : Head) (ty : Ty) (d : Dst) (a : Src) : Statement (.brev h ty d a) := rfl
theorem bfx (h : Head) (ty : Ty) (d : Dst) (a b : Src) : Statement (.bfx h ty d a b) := rfl
theorem bfi (h : Head) (ty : Ty) (d : Dst) (a b c : Src) : Statement (.bfi h ty d a b c) := rfl
theorem bperm (h : Head) (d : Dst) (a b c : Src) : Statement (.bperm h d a b c) := rfl
theorem mov (h : Head) (ty : Ty) (d : Dst) (a : Src) : Statement (.mov h ty d a) := rfl
theorem movi (h : Head) (d : Dst) (k : Word) : Statement (.movi h d k) := rfl
theorem movs (h : Head) (clr : Bool) (d : Dst) (num : BitVec 8) : Statement (.movs h clr d num) := rfl
theorem vtos (h : Head) (ty : Ty) (d a : BitVec 8) (lane : Option Src) : Statement (.vtos h ty d a lane) := rfl
theorem shfl (h : Head) (ty : Ty) (mode : ShflMode) (d a : BitVec 8) (b : Src) : Statement (.shfl h ty mode d a b) := rfl
theorem vote (h : Head) (op : VoteOp) (pa : BitVec 5) : Statement (.vote h op pa) := rfl
theorem matchL (h : Head) (ty : Ty) (d a : BitVec 8) : Statement (.matchL h ty d a) := rfl
theorem redux (h : Head) (ty : Ty) (sat : Bool) (op : ReduxOp) (d : Dst) (a : BitVec 8) : Statement (.redux h ty sat op d a) := rfl
theorem padd (h : Head) (wide sat : Bool) (d : Dst) (a b : Src) : Statement (.padd h wide sat d a b) := rfl
theorem pdiff (h : Head) (d : Dst) (a b : Src) : Statement (.pdiff h d a b) := rfl
theorem pchk (h : Head) (pd : BitVec 5) (a : Src) (rights : BitVec 5) (size : BitVec 16) : Statement (.pchk h pd a rights size) := rfl
theorem prstr (h : Head) (d : Dst) (a b : Src) : Statement (.prstr h d a b) := rfl
theorem plop (h : Head) (pd pa pb pc : BitVec 5) (tbl : BitVec 8) : Statement (.plop h pd pa pb pc tbl) := rfl
theorem ptov (h : Head) (d : BitVec 8) : Statement (.ptov h d) := rfl
theorem vtop (h : Head) (a b : Src) : Statement (.vtop h a b) := rfl
theorem cvt (h : Head) (rnd : Rnd) (sat ftz : Bool) (ln : BitVec 2) (sfmt dfmt : BitVec 8) (d : Dst) (a : Src) (c : Option Src) : Statement (.cvt h rnd sat ftz ln sfmt dfmt d a c) := rfl
theorem qblk (h : Head) (rnd : Rnd) (sc32 : Bool) (sd : BitVec 8) (byte : BitVec 2) (efmt : BitVec 8) (d : Dst) (a : Src) : Statement (.qblk h rnd sc32 sd byte efmt d a) := rfl
theorem dqblk (h : Head) (rnd : Rnd) (sc32 : Bool) (dfmt : BitVec 2) (sat ftz : Bool) (byte : BitVec 2) (efmt : BitVec 8) (d : Dst) (a b : Src) : Statement (.dqblk h rnd sc32 dfmt sat ftz byte efmt d a b) := rfl
theorem fadd (h : Head) (sat : Bool) (rnd : Rnd) (ftz : Bool) (d : Dst) (a b : Src) : Statement (.fadd h sat rnd ftz d a b) := rfl
theorem fmul (h : Head) (sat : Bool) (rnd : Rnd) (ftz : Bool) (d : Dst) (a b : Src) : Statement (.fmul h sat rnd ftz d a b) := rfl
theorem ffma (h : Head) (sat : Bool) (rnd : Rnd) (ftz : Bool) (d : Dst) (a b c : Src) : Statement (.ffma h sat rnd ftz d a b c) := rfl
theorem fmin (h : Head) (ftz : Bool) (d : Dst) (a b : Src) : Statement (.fmin h ftz d a b) := rfl
theorem fmax (h : Head) (ftz : Bool) (d : Dst) (a b : Src) : Statement (.fmax h ftz d a b) := rfl
theorem fcmp (h : Head) (ty : Ty) (ftz : Bool) (rel : Rel) (un and : Bool) (pd : BitVec 5) (a b : Src) : Statement (.fcmp h ty ftz rel un and pd a b) := rfl
theorem ffn (h : Head) (ftz : Bool) (fn : Fn) (d : Dst) (a : Src) : Statement (.ffn h ftz fn d a) := rfl
theorem ftest (h : Head) (ty : Ty) (cls : BitVec 10) (hi : Bool) (pd : BitVec 5) (a : Src) : Statement (.ftest h ty cls hi pd a) := rfl
theorem hadd2 (h : Head) (ty : Ty) (sat : Bool) (rnd : Rnd) (ftz : Bool) (d : Dst) (a b : Src) : Statement (.hadd2 h ty sat rnd ftz d a b) := rfl
theorem hmul2 (h : Head) (ty : Ty) (sat : Bool) (rnd : Rnd) (ftz : Bool) (d : Dst) (a b : Src) : Statement (.hmul2 h ty sat rnd ftz d a b) := rfl
theorem hfma2 (h : Head) (ty : Ty) (sat : Bool) (rnd : Rnd) (ftz : Bool) (d : Dst) (a b c : Src) : Statement (.hfma2 h ty sat rnd ftz d a b c) := rfl
theorem hmnx2 (h : Head) (ty : Ty) (ftz max : Bool) (d : Dst) (a b : Src) : Statement (.hmnx2 h ty ftz max d a b) := rfl
theorem dadd (h : Head) (sat : Bool) (rnd : Rnd) (ftz : Bool) (d : Dst) (a b : Src) : Statement (.dadd h sat rnd ftz d a b) := rfl
theorem dmul (h : Head) (sat : Bool) (rnd : Rnd) (ftz : Bool) (d : Dst) (a b : Src) : Statement (.dmul h sat rnd ftz d a b) := rfl
theorem dfma (h : Head) (sat : Bool) (rnd : Rnd) (ftz : Bool) (d : Dst) (a b c : Src) : Statement (.dfma h sat rnd ftz d a b c) := rfl
theorem mmbf (h : Head) (m : MmArgs) : Statement (.mmbf h m) := rfl
theorem mmhf (h : Head) (m : MmArgs) : Statement (.mmhf h m) := rfl
theorem mm8p (h : Head) (m : MmArgs) : Statement (.mm8p h m) := rfl
theorem mmi8 (h : Head) (m : MmArgs) : Statement (.mmi8 h m) := rfl
theorem mmi4 (h : Head) (m : MmArgs) : Statement (.mmi4 h m) := rfl
theorem mmf6a (h : Head) (m : MmArgs) : Statement (.mmf6a h m) := rfl
theorem mmf6b (h : Head) (m : MmArgs) : Statement (.mmf6b h m) := rfl
theorem mmf4 (h : Head) (m : MmArgs) : Statement (.mmf4 h m) := rfl
theorem mms8p (h : Head) (m : MmArgs) : Statement (.mms8p h m) := rfl
theorem mmsf6a (h : Head) (m : MmArgs) : Statement (.mmsf6a h m) := rfl
theorem mmsf6b (h : Head) (m : MmArgs) : Statement (.mmsf6b h m) := rfl
theorem mmsf4 (h : Head) (m : MmArgs) : Statement (.mmsf4 h m) := rfl
theorem ldmx (h : Head) (m128 : Bool) (frag : Frag) (w6 : Bool) (d : BitVec 8) (a : Src) (t : BitVec 4) (ofs : BitVec 24) : Statement (.ldmx h m128 frag w6 d a t ofs) := rfl
theorem stmx (h : Head) (m128 : Bool) (frag : Frag) (w6 : Bool) (a : Src) (t : BitVec 4) (ofs : BitVec 24) (c : BitVec 8) : Statement (.stmx h m128 frag w6 a t ofs c) := rfl
theorem ld (h : Head) (sp : Space) (sz : Size) (ord : Ordr) (sc : Scope) (d : Dst) (a : Src) (ofs : BitVec 24) : Statement (.ld h sp sz ord sc d a ofs) := rfl
theorem st (h : Head) (sp : Space) (sz : Size) (ord : Ordr) (sc : Scope) (a : Src) (ofs : BitVec 24) (b : Src) : Statement (.st h sp sz ord sc a ofs b) := rfl
theorem atom (h : Head) (sp : Space) (op : AmoOp) (ty : Ty) (ord : Ordr) (sc : Scope) (d : Dst) (a b : Src) (c : Option Src) : Statement (.atom h sp op ty ord sc d a b c) := rfl
theorem red (h : Head) (sp : Space) (op : AmoOp) (ty : Ty) (ord : Ordr) (sc : Scope) (a b : Src) : Statement (.red h sp op ty ord sc a b) := rfl
theorem fence (h : Head) (sem : Sem) (sc : Scope) : Statement (.fence h sem sc) := rfl
theorem pref (h : Head) (sp : Space) (l2 : Bool) (a : Src) (ofs : BitVec 24) : Statement (.pref h sp l2 a ofs) := rfl
theorem spadj (h : Head) (d : BitVec 8) (a : Src) : Statement (.spadj h d a) := rfl
theorem cpy (h : Head) (dsp ssp : Space) (sz : CSize) (sc : Scope) (d : BitVec 8) (a b : Src) (dofs sofs : BitVec 12) : Statement (.cpy h dsp ssp sz sc d a b dofs sofs) := rfl
theorem chapp (h : Head) (d : Dst) (a b : Src) : Statement (.chapp h d a b) := rfl
theorem chadv (h : Head) (a b : Src) : Statement (.chadv h a b) := rfl
theorem tryw (h : Head) (sp : Space) (wide acq : Bool) (sc : Scope) (pd : BitVec 5) (a : Src) (ofs : BitVec 24) (b : Src) : Statement (.tryw h sp wide acq sc pd a ofs b) := rfl
theorem ldsh (h : Head) (sp : Space) (t : BitVec 4) (a : BitVec 8) (ofs : BitVec 24) : Statement (.ldsh h sp t a ofs) := rfl
theorem setsh (h : Head) (field : BitVec 5) (t : BitVec 4) (b : Src) : Statement (.setsh h field t b) := rfl
theorem stsh (h : Head) (sp : Space) (t : BitVec 4) (a : BitVec 8) (ofs : BitVec 24) : Statement (.stsh h sp t a ofs) := rfl
theorem pbinit (h : Head) (a b : Src) : Statement (.pbinit h a b) := rfl
theorem pbarr (h : Head) (rel : Bool) (sc : Scope) (d : BitVec 8) (a b : Src) : Statement (.pbarr h rel sc d a b) := rfl
theorem pbwait (h : Head) (acq : Bool) (sc : Scope) (d : BitVec 8) (pd : BitVec 5) (a b : Src) : Statement (.pbwait h acq sc d pd a b) := rfl
theorem pbinv (h : Head) (a : Src) : Statement (.pbinv h a) := rfl
theorem cvset (h : Head) (m128 : Bool) (c : BitVec 4) : Statement (.cvset h m128 c) := rfl
theorem cvsign (h : Head) (c : BitVec 4) : Statement (.cvsign h c) := rfl
theorem rcv (h : Head) (pd : Option (BitVec 5)) (bound : BitVec 16) : Statement (.rcv h pd bound) := rfl
theorem bra (h : Head) (ofs : BitVec 24) : Statement (.bra h ofs) := rfl
theorem brx (h : Head) (a : Src) (tag : BitVec 16) : Statement (.brx h a tag) := rfl
theorem call (h : Head) (d : BitVec 8) (ofs : BitVec 24) : Statement (.call h d ofs) := rfl
theorem callx (h : Head) (d : BitVec 8) (a : Src) (tag : BitVec 16) : Statement (.callx h d a tag) := rfl
theorem ret (h : Head) (a : Src) : Statement (.ret h a) := rfl
theorem land (h : Head) (tag : BitVec 16) : Statement (.land h tag) := rfl
theorem exit (h : Head) : Statement (.exit h) := rfl
theorem yield (h : Head) (count : BitVec 16) : Statement (.yield h count) := rfl
theorem gst (h : Head) (sz : CSize) (rel : Bool) (sc : Scope) (a : Src) (b : BitVec 8) (su : BitVec 8) (x : GridX) : Statement (.gst h sz rel sc a b su x) := rfl
theorem gld (h : Head) (sz : CSize) (acq : Bool) (sc : Scope) (d : BitVec 8) (a : Src) (ofs : BitVec 24) (c : Src) : Statement (.gld h sz acq sc d a ofs c) := rfl
theorem gatom (h : Head) (op : AmoOp) (ty : Ty) (ord : Ordr) (sc : Scope) (d : BitVec 8) (a b c : Src) : Statement (.gatom h op ty ord sc d a b c) := rfl
theorem gred (h : Head) (op : AmoOp) (ty : Ty) (n : BitVec 2) (ssp : Space) (a b : Src) (su : BitVec 8) (x : GridX) (conv : BitVec 10) : Statement (.gred h op ty n ssp a b su x conv) := rfl
theorem gcpy (h : Head) (ssp : Space) (sz : CSize) (rel : Bool) (sc : Scope) (d : BitVec 8) (a b : Src) (su : BitVec 8) (x : GridX) : Statement (.gcpy h ssp sz rel sc d a b su x) := rfl
theorem garm (h : Head) (pat : Bool) (g : BitVec 6) (b : Src) : Statement (.garm h pat g b) := rfl
theorem gwait (h : Head) (acq : Bool) (pd : BitVec 5) (g : BitVec 6) : Statement (.gwait h acq pd g) := rfl
theorem gstat (h : Head) (d : Dst) (g : BitVec 6) : Statement (.gstat h d g) := rfl
theorem tminc (h : Head) (a b c : Src) : Statement (.tminc h a b c) := rfl
theorem tmdec (h : Head) (a b c : Src) : Statement (.tmdec h a b c) := rfl
theorem fwait (h : Head) (acq : Bool) (d : BitVec 8) (pd : BitVec 5) (a b : Src) : Statement (.fwait h acq d pd a b) := rfl
theorem fread (h : Head) (d : Dst) (a : Src) : Statement (.fread h d a) := rfl
theorem tadv (h : Head) (d : Dst) (a b : Src) : Statement (.tadv h d a b) := rfl
theorem tcmp (h : Head) (cc : Cc) (and : Bool) (pd : BitVec 5) (a b : Src) : Statement (.tcmp h cc and pd a b) := rfl
theorem tspawn (h : Head) (a : Src) : Statement (.tspawn h a) := rfl
theorem grun (h : Head) (d : Dst) (a b : Src) : Statement (.grun h d a b) := rfl
theorem cancel (h : Head) (level : Level) : Statement (.cancel h level) := rfl
theorem rfgive (h : Head) (count : BitVec 9) : Statement (.rfgive h count) := rfl
theorem rfclaim (h : Head) (pd : Option (BitVec 5)) (count : BitVec 9) : Statement (.rfclaim h pd count) := rfl
theorem regroup (h : Head) (a base n1 : BitVec 8) : Statement (.regroup h a base n1) := rfl
theorem ungroup (h : Head) (base n1 : BitVec 8) : Statement (.ungroup h base n1) := rfl
theorem exacq (h : Head) (nw : Bool) (d : BitVec 8) (a : Src) : Statement (.exacq h nw d a) := rfl
theorem exrel (h : Head) (a : Src) : Statement (.exrel h a) := rfl
theorem expin (h : Head) (unpin : Bool) (a : Src) : Statement (.expin h unpin a) := rfl
theorem trap (h : Head) (code : BitVec 16) : Statement (.trap h code) := rfl
theorem bkpt (h : Head) (code : BitVec 16) : Statement (.bkpt h code) := rfl
theorem eret (h : Head) (act : EretAct) (level : Level) (d a b c : BitVec 8) : Statement (.eret h act level d a b c) := rfl
theorem sysr (h : Head) (d : Dst) (num : BitVec 12) : Statement (.sysr h d num) := rfl
theorem sysw (h : Head) (num : BitVec 12) (a : BitVec 8) : Statement (.sysw h num a) := rfl
theorem ill (w0 w1 w2 : Word) : Statement (.ill w0 w1 w2) := rfl
theorem reservedOpcode (w0 w1 w2 : Word) : Statement (.reservedOpcode w0 w1 w2) := rfl
theorem faultRecordWrite (die : Nat) : Statement (.faultRecordWrite die) := rfl
theorem resultWriteback (ctx : Nat) : Statement (.resultWriteback ctx) := rfl
theorem memoryReply (ctx ltag : Nat) (refused : Bool) (data : List Byte) : Statement (.memoryReply ctx ltag refused data) := rfl
theorem candidateStarving (core quarter : Nat) : Statement (.candidateStarving core quarter) := rfl
theorem waitIntervalExpiry (ctx wid : Nat) : Statement (.waitIntervalExpiry ctx wid) := rfl
theorem trywConditionMet (ctx wid : Nat) : Statement (.trywConditionMet ctx wid) := rfl
theorem pbwaitRelease (ctx wid : Nat) : Statement (.pbwaitRelease ctx wid) := rfl
theorem gwaitComplete (ctx wid : Nat) : Statement (.gwaitComplete ctx wid) := rfl
theorem fwaitComplete (ctx wid : Nat) : Statement (.fwaitComplete ctx wid) := rfl
theorem exacqEntryReady (ctx wid : Nat) : Statement (.exacqEntryReady ctx wid) := rfl
theorem rcvDeadlineExpiry (ctx wid : Nat) : Statement (.rcvDeadlineExpiry ctx wid) := rfl
theorem repackGatherTimeout (ctx gid : Nat) : Statement (.repackGatherTimeout ctx gid) := rfl
theorem yieldExpiry (ctx wid : Nat) : Statement (.yieldExpiry ctx wid) := rfl
theorem claimGrant (core quarter : Nat) : Statement (.claimGrant core quarter) := rfl
theorem presenceHoldRelease (ctx wid : Nat) : Statement (.presenceHoldRelease ctx wid) := rfl
theorem heldTmdecRelease (ctx wid : Nat) : Statement (.heldTmdecRelease ctx wid) := rfl
theorem matrixOpStart (core : Nat) : Statement (.matrixOpStart core) := rfl
theorem matrixOpComplete (core : Nat) : Statement (.matrixOpComplete core) := rfl
theorem cpyComplete (ctx ltag : Nat) : Statement (.cpyComplete ctx ltag) := rfl
theorem linearCopy (die eng : Nat) : Statement (.linearCopy die eng) := rfl
theorem tileCopy (die eng : Nat) : Statement (.tileCopy die eng) := rfl
theorem windowCopy (die eng : Nat) : Statement (.windowCopy die eng) := rfl
theorem fill (die eng : Nat) : Statement (.fill die eng) := rfl
theorem barrierArrivalOnly (die eng : Nat) : Statement (.barrierArrivalOnly die eng) := rfl
theorem endOfStream (die eng : Nat) : Statement (.endOfStream die eng) := rfl
theorem engineEntryComplete (die eng : Nat) : Statement (.engineEntryComplete die eng) := rfl
theorem engineEntryFault (die eng : Nat) : Statement (.engineEntryFault die eng) := rfl
theorem blockEnd (ctx : Nat) : Statement (.blockEnd ctx) := rfl
theorem launch (q : Nat) : Statement (.launch q) := rfl
theorem runGraphInstance (q : Nat) : Statement (.runGraphInstance q) := rfl
theorem waitForFrontier (q : Nat) : Statement (.waitForFrontier q) := rfl
theorem frontierWaitComplete (q : Nat) : Statement (.frontierWaitComplete q) := rfl
theorem signal (q : Nat) : Statement (.signal q) := rfl
theorem cancelCommand (q : Nat) : Statement (.cancelCommand q) := rfl
theorem placementAttempt : Statement (.placementAttempt) := rfl
theorem contextSave (ctx : Nat) : Statement (.contextSave ctx) := rfl
theorem contextRestore (ctx : Nat) : Statement (.contextRestore ctx) := rfl
theorem speculationStart (q : Nat) : Statement (.speculationStart q) := rfl
theorem claimCheck (slot : Nat) : Statement (.claimCheck slot) := rfl
theorem shadowCommitComplete (slot : Nat) : Statement (.shadowCommitComplete slot) := rfl
theorem speculationTimeout (slot : Nat) : Statement (.speculationTimeout slot) := rfl
theorem writeleaf (die : Nat) : Statement (.writeleaf die) := rfl
theorem migrate (die : Nat) : Statement (.migrate die) := rfl
theorem writedesc (die : Nat) : Statement (.writedesc die) := rfl
theorem hotread (die : Nat) : Statement (.hotread die) := rfl
theorem tableLeaseWaitExpiry (die : Nat) : Statement (.tableLeaseWaitExpiry die) := rfl
theorem migrateCopyComplete (die : Nat) (faulted : Bool) : Statement (.migrateCopyComplete die faulted) := rfl
theorem frameReturn (die frame : Nat) : Statement (.frameReturn die frame) := rfl
theorem leaseExpiry (e : LeaseAt) : Statement (.leaseExpiry e) := rfl
theorem translationFill (e : LeaseAt) : Statement (.translationFill e) := rfl
theorem expertFillComplete (e : Nat) : Statement (.expertFillComplete e) := rfl
theorem expertFillFault (e : Nat) : Statement (.expertFillFault e) := rfl
theorem evictionEnd (e : Nat) : Statement (.evictionEnd e) := rfl
theorem batchCloseTimeout (die : Nat) : Statement (.batchCloseTimeout die) := rfl
theorem batchSequencing (die : Nat) : Statement (.batchSequencing die) := rfl
theorem batchArrival (die : Nat) (b : Batch) : Statement (.batchArrival die b) := rfl
theorem batchAckArrival (src seq status : Nat) : Statement (.batchAckArrival src seq status) := rfl
theorem batchResendTimeout (dst seq : Nat) : Statement (.batchResendTimeout dst seq) := rfl
theorem frontierAnnouncement (die : Nat) : Statement (.frontierAnnouncement die) := rfl
theorem crossbarExpansion (die : Nat) : Statement (.crossbarExpansion die) := rfl
theorem requestPacketArrival (die : Nat) (r : Request) : Statement (.requestPacketArrival die r) := rfl
theorem detourRelay (die : Nat) (p : Pkt) : Statement (.detourRelay die p) := rfl
theorem acknowledgementArrival (die : Nat) (p : Pkt) : Statement (.acknowledgementArrival die p) := rfl
theorem gridReplyArrival (die : Nat) (p : Pkt) : Statement (.gridReplyArrival die p) := rfl
theorem retryResend (die cseq dst : Nat) : Statement (.retryResend die cseq dst) := rfl
theorem responseRelookup (die : Nat) : Statement (.responseRelookup die) := rfl
theorem contributionResendTimeout (die cseq dst : Nat) : Statement (.contributionResendTimeout die cseq dst) := rfl
theorem flitReceive (link : Nat) (flit : List Byte) : Statement (.flitReceive link flit) := rfl
theorem replayTimeout (link : Nat) : Statement (.replayTimeout link) := rfl
theorem laneLock (link peerCoord peerDie : Nat) : Statement (.laneLock link peerCoord peerDie) := rfl
theorem trainTimeout (link : Nat) : Statement (.trainTimeout link) := rfl
theorem laneLockLoss (link : Nat) : Statement (.laneLockLoss link) := rfl
theorem failedRetryTimeout (link : Nat) : Statement (.failedRetryTimeout link) := rfl
theorem linkReset (link : Nat) : Statement (.linkReset link) := rfl
theorem routeSwitch (die : Nat) : Statement (.routeSwitch die) := rfl
theorem registerWrite (r : CtlReg) (v : BitVec 64) : Statement (.registerWrite r v) := rfl
theorem rdmaWrite (r : Rdma) (data : List Byte) : Statement (.rdmaWrite r data) := rfl
theorem rdmaRead (r : Rdma) (n : Nat) : Statement (.rdmaRead r n) := rfl
theorem rdmaAtomic (r : Rdma) (cas : Bool) (v cmp : BitVec 64) : Statement (.rdmaAtomic r cas v cmp) := rfl
theorem unsupportedRdmaOpcode (qp opcode : Nat) : Statement (.unsupportedRdmaOpcode qp opcode) := rfl
theorem hostResponse (tag : Nat) (ok : Bool) (data : List Byte) : Statement (.hostResponse tag ok data) := rfl
theorem queuePairCreate (qp die tag : Nat) (opt : QpOpts) (base : Nat) : Statement (.queuePairCreate qp die tag opt base) := rfl
theorem queuePairDestroy (qp : Nat) : Statement (.queuePairDestroy qp) := rfl
theorem jobLoad (image : JobImage) : Statement (.jobLoad image) := rfl
theorem jobGo : Statement (.jobGo) := rfl
theorem jobEnd : Statement (.jobEnd) := rfl
theorem jobEndingComplete : Statement (.jobEndingComplete) := rfl
theorem standbyPower : Statement (.standbyPower) := rfl
theorem recoveryImage (img : Image) : Statement (.recoveryImage img) := rfl
theorem firmwareUpdate (img : Image) : Statement (.firmwareUpdate img) := rfl
theorem powerLoss (standby : Bool) : Statement (.powerLoss standby) := rfl
theorem sensorSample (r : Sensors) : Statement (.sensorSample r) := rfl
theorem securityAlarm : Statement (.securityAlarm) := rfl
theorem attestation (nonce : List Byte) : Statement (.attestation nonce) := rfl
theorem patrolScrub (die : Nat) (at_ : EccAt) (found : EccFound) : Statement (.patrolScrub die at_ found) := rfl
theorem evictionRequest (spare : Nat) : Statement (.evictionRequest spare) := rfl
theorem evictNotice (src : Nat) : Statement (.evictNotice src) := rfl
theorem spareReady : Statement (.spareReady) := rfl
theorem quiesceComplete : Statement (.quiesceComplete) := rfl
theorem transferPacket (ofs : Nat) (data : List Byte) (last : Bool) : Statement (.transferPacket ofs data last) := rfl
theorem transferComplete : Statement (.transferComplete) := rfl
theorem drainComplete : Statement (.drainComplete) := rfl
theorem evictionBudgetExpiry : Statement (.evictionBudgetExpiry) := rfl
theorem flitTransmit (link : Nat) : Statement (.flitTransmit link) := rfl
theorem storeQueueDrain (ctx wheel : Nat) : Statement (.storeQueueDrain ctx wheel) := rfl
theorem cacheEviction (at_ : CacheAt) (line : Nat) : Statement (.cacheEviction at_ line) := rfl
theorem dieResetEnd : Statement (.dieResetEnd) := rfl
theorem peerRouteDrain (spare evicted : Nat) : Statement (.peerRouteDrain spare evicted) := rfl
theorem abortCancelNotice (evicted : Nat) : Statement (.abortCancelNotice evicted) := rfl

end Sys2Proof.Laws.Length
end

