-- ==== Sys2Proof/Laws/Units.lean ====
section
/-! SUPPORT. Reads of the units beside the cores that stay on this device, and what forgetting the answers of others leaves. -/

namespace Sys2Proof.Machine

/-- Places on this device make no run that leaves it. -/
theorem runs_local {ps : List Nat} (hl : ∀ p ∈ ps, isRemote p = false) : runsOf ((ps.filter isRemote).map (fun p => (p, 0))) = [] := by
  rw [List.filter_eq_nil_iff.mpr (fun p hp => by simp [hl p hp])]
  rfl

/-- A unit's read of places on this device is there at once. -/
theorem farRead_local {s : State} {d n : Nat} {c : Cap} {ps : List Nat} (h : s.unitRange d c n 1 false false = .ok ps)
    (hl : ∀ p ∈ ps, isRemote p = false) : s.farRead d c n = .here (ps.map (s.unitByte d)) := by
  simp only [State.farRead, h, runs_local hl]
  simp +contextual [hl]

/-- Such a read waits for nothing. -/
theorem farWaits_local {s : State} {d n : Nat} {c : Cap} {ps : List Nat} (h : s.unitRange d c n 1 false false = .ok ps)
    (hl : ∀ p ∈ ps, isRemote p = false) : s.farWaits d c n = false := by
  simp only [State.farWaits, farRead_local h hl]

/-- Nothing of such a read is forgotten. -/
theorem dropFar_local {s : State} {d n : Nat} {c : Cap} {ps : List Nat} (h : s.unitRange d c n 1 false false = .ok ps)
    (hl : ∀ p ∈ ps, isRemote p = false) : s.dropFar d c n = s := by
  simp only [State.dropFar, h, runs_local hl]
  rfl

/-- The graph engine's read of sound places on this device. -/
theorem graphBytes_local {s : State} {d n : Nat} {c : Cap} {ps : List Nat} (h : s.unitSrc d c n = .ok ps)
    (hl : ∀ p ∈ ps, isRemote p = false) : s.graphBytes d c n = .ok (ps.map (s.unitByte d)) := by
  have hr : s.unitRange d c n 1 false false = .ok ps := by
    simp only [State.unitSrc] at h
    split at h
    · cases h
    · split at h <;> cases h; assumption
  simp only [State.graphBytes, h, State.farBytes, farRead_local hr hl]

/-- Forgetting the answers of reads touches no other field. -/
theorem dropFar_frame (s : State) (d n : Nat) (c : Cap) : ∃ l, s.dropFar d c n = { s with engReqs := l } := by
  unfold State.dropFar
  split
  · exact ⟨s.engReqs, rfl⟩
  · dsimp only
    split
    · exact ⟨s.engReqs, rfl⟩
    · exact ⟨_, rfl⟩

/-- So does forgetting those of a list of reads. -/
theorem dropReads_frame (d : Nat) : ∀ (rs : List (Cap × Nat)) (s : State), ∃ l, s.dropReads d rs = { s with engReqs := l }
  | [], s => ⟨s.engReqs, rfl⟩
  | r :: rs, s => by
    obtain ⟨l, h⟩ := dropFar_frame s d r.2 r.1
    obtain ⟨m, h'⟩ := dropReads_frame d rs (s.dropFar d r.1 r.2)
    exact ⟨m, by rw [State.dropReads, List.foldl_cons, ← State.dropReads, h', h]⟩

end Sys2Proof.Machine
end

