-- ==== Sys2Proof/Tests/Slice0.lean ====
section
/-! SUPPORT. Tests: words of the spec's worked encodings, ill-formed terms that the checks refuse, worked values of the spec, and states that meet the hypotheses of the statements. -/

set_option Elab.async false

namespace Sys2Proof.Tests

open Sys2Proof.Machine Sys2Proof.Claims

/-! ### Decoding: each word is written out in spec/ -/

/-- The words of the worked encoding after R91. -/
theorem test_decodes_iadd : decodeWords 0x05022301 0x08000800 0x00000011 = .ok (.iadd { guard := .ifP 3 } .s32 true (.v 4) (.v 5) (.imm 17)) := by decide

/-- The words of the example after R129. -/
theorem test_decodes_shfl : decodeWords 0x01010024 0x22800800 0x00000001 = .ok (.shfl {} .b32 .off 2 1 (.imm 1)) := by decide

/-- The words of the example after R129. -/
theorem test_decodes_redux : decodeWords 0x01028027 0x80000000 0x00000000 = .ok (.redux {} .s32 false .add (.s 5) 1) := by decide

/-- The words of the example after R145. -/
theorem test_decodes_cvt : decodeWords 0x080A0030 0x18000000 0x00001262 = .ok (.cvt {} .rn false false 3 0x62 0x12 (.v 20) (.v 8) none) := by decide

/-- The words of the example after R169. -/
theorem test_decodes_mmbf : decodeWords 0x00100050 0x20301C08 0x0003FC00 = .ok (.mmbf {} { set128 := false, breg := false, sgnA := false, sgnB := false, extA := false, extB := false, sat := false, zacc := true, d := 32, a := 0, b := 2, c := 1, sv := 0, byte := 0, ub := 255, pa := 0, pb := 0 }) := by decide

/-- The words of the example after R147. -/
theorem test_decodes_cvset : decodeWords 0x01000074 0x00000003 0x00000000 = .ok (.cvset {} false 1) := by decide

/-- The words of the example after R175. -/
theorem test_decodes_ld : decodeWords 0x02044060 0x06000000 0x02000040 = .ok (.ld { guard := .ifNot 0, pol := 2 } .g .b128 .plain .wheel (.v 8) (.v 2) 64) := by decide

/-- The words of the example after R283. -/
theorem test_decodes_fence : decodeWords 0x00000064 0x38000000 0x00000000 = .ok (.fence {} .sc .blk) := by decide

/-- The words of the example after R198. -/
theorem test_decodes_rcv : decodeWords 0x00008076 0x00400000 0x00000040 = .ok (.rcv {} (some 1) 64) := by decide

/-- The words of the example after R198. -/
theorem test_decodes_bra : decodeWords 0x00000078 0x00000000 0x08FFFFFB = .ok (.bra { repack := true } 0xFFFFFB) := by decide

/-- The words of the example after R237. -/
theorem test_decodes_gwait : decodeWords 0x03010086 0x08000003 0x00000000 = .ok (.gwait {} true 2 3) := by decide

/-- The words of the example after R299. -/
theorem test_decodes_gst : decodeWords 0x02000080 0x00508010 0x00002145 = .ok (.gst {} .b64 false .wheel (.v 2) 4 8 { ag := 5, agv := true, rg := 2, rgv := true }) := by decide

/-- The words of the example after R246. -/
theorem test_decodes_gred : decodeWords 0x04000083 0x2810A009 0x000421C4 = .ok (.gred {} .add .f32 2 .g (.s 4) (.v 2) 10 { ag := 4, agv := true, rg := 3, rgv := true } 0x10) := by decide

/-- The bytes of the worked encoding after R91, from the instruction's address upward. -/
theorem test_bytes_of_iadd :
    encode (.iadd { guard := .ifP 3 } .s32 true (.v 4) (.v 5) (.imm 17)) = [0x01, 0x23, 0x02, 0x05, 0x00, 0x08, 0x00, 0x08, 0x11, 0x00, 0x00, 0x00] := by decide

/-- The same with a reserved hint: cause 3 (R89). -/
theorem test_reserved_hint : decodeWords 0x05022301 0x08000800 0x20000011 = .error (.cause 3) := by decide

/-- The same with DK set: a vector source of a uniform form, cause 10 (R89). -/
theorem test_uniform_reads_vector : decodeWords 0x05822301 0x08000800 0x00000011 = .error (.cause 10) := by decide

/-- GMODE 11 is cause 1, and an unused GPRED cause 2 (R76, R89). -/
theorem test_guard_mode_three : decodeWords 0x05026301 0x08000800 0x00000011 = .error (.cause 1) := by decide
theorem test_unused_guard : decodeWords 0x05020301 0x08000800 0x00000011 = .error (.cause 2) := by decide

/-- REDUX with UD and DK: cause 6 before cause 10 (the example after R129). -/
theorem test_redux_dk : decodeWords 0x01828027 0x80000000 0 = .error (.cause 6) := by decide

/-- CVT with a C field and no .rs: cause 7, and with one format twice: cause 4 (the example after R145). -/
theorem test_cvt_c_without_rs : decodeWords 0x080A0030 0x18000009 0x00001262 = .error (.cause 7) := by decide
theorem test_cvt_same_formats : decodeWords 0x080A0030 0x18000000 0x00006262 = .error (.cause 4) := by decide

/-- Opcode 0xFF is ILL whatever the other fields hold (R91). -/
theorem test_ill : decodeWords 0xFFFFFFFF 0xFFFFFFFF 0xFFFFFFFF = .ok (.ill 0xFFFFFFFF 0xFFFFFFFF 0xFFFFFFFF) := by decide

/-! ### Ill-formed terms -/

/-- A uniform destination with a vector source. -/
theorem test_wf_uniform_form : wf (.iadd {} .s32 false (.s 4) (.v 5) (.imm 17)) = false := by decide
/-- Two immediates. -/
theorem test_wf_two_immediates : wf (.iadd {} .s32 false (.v 4) (.imm 5) (.imm 17)) = false := by decide
/-- A pair at an odd register. -/
theorem test_wf_odd_pair : wf (.iadd {} .s64 false (.v 5) (.v 6) (.v 8)) = false := by decide
/-- A uniform register above S191. -/
theorem test_wf_reserved_uniform : wf (.mov {} .b32 (.v 4) (.s 200)) = false := by decide
/-- A type that the opcode does not take. -/
theorem test_wf_type : wf (.iadd {} .f32 false (.v 4) (.v 5) (.v 6)) = false := by decide
/-- A hint that the opcode does not take. -/
theorem test_wf_hint : wf (.iadd { pol := 1 } .s32 false (.v 4) (.v 5) (.v 6)) = false := by decide
/-- CVT with .rs and no C, and ATOM of CAS and no C. -/
theorem test_wf_cvt_operands : wf (.cvt {} .rs false false 3 0x62 0x12 (.v 20) (.v 8) none) = false := by decide
theorem test_wf_cas_operands : wf (.atom {} .g .cas .b32 .plain .dev (.v 4) (.v 2) (.v 6) none) = false := by decide
/-- GRED of PKMAX. -/
theorem test_wf_gred : wf (.gred {} .pkmax .f32 0 .g (.s 4) (.v 2) 10 { ag := 0, agv := false, rg := 0, rgv := false } 0) = false := by decide
/-- Events of agents that do not exist. -/
theorem test_wf_die : wf (.faultRecordWrite 4) = false := by decide
theorem test_wf_core : wf (.matrixOpStart 160) = false := by decide
theorem test_wf_quarter : wf (.claimGrant 0 4) = false := by decide
theorem test_wf_engine : wf (.fill 0 8) = false := by decide
theorem test_wf_queue : wf (.launch 256) = false := by decide
theorem test_wf_slot : wf (.claimCheck 4) = false := by decide
theorem test_wf_entry : wf (.evictionEnd 4096) = false := by decide
theorem test_wf_link : wf (.linkReset 31) = false := by decide
theorem test_wf_flit : wf (.flitReceive 0 []) = false := by decide
theorem test_wf_grid : wf (.jobLoad { grid := [2, 33] }) = false := by decide
theorem test_wf_reserved : wf (.reservedOpcode 1 0 0) = false ∧ wf (.ill 1 0 0) = false := by decide

/-! ### States that meet the hypotheses of the statements -/

/-- A wheel on core 0, threads of it, a context of two threads with shared and private memory, and a beat of its first thread. -/
def demoWheel : Wheel := { idx := 0, window := 32 }
def demoThread (i : Nat) : Thread := { tid := i, wheel := 0, lane := i, pc := mkCap 5 24 }
def demoCtx : Ctx := { threads := [demoThread 0, demoThread 1], wheels := [demoWheel], cores := [0], kernel := { shared := 1024, priv := 64 } }
def demoBeat : Beat := { ctx := 1, core := 0, quarter := 0, pc := mkCap 5 24, tids := [0], words := (1, 2, 3) }
/-- The machine with a context and its beat in issue; object 5 is known to core 0. -/
def demo (c : Ctx) : State :=
  { State.reset with beat := some demoBeat, ctxs := [(1, c)], cores := [(0, { dcache := [{ obj := 5, valid := true, extent := 120, rights := 31, leafofs := 0, till := 9 }] })] }
def demoLane : Lane := { t := demoThread 0, w := demoWheel }
def demoSite : Site := siteOf demoBeat demoCtx {}

/-- The context with a shape of one row of 16 binary16 elements in T0. -/
def demoShaped : Ctx := { demoCtx with tregs := [(0, BitVec.ofNat 512 (0x52 + 2 * 2 ^ 8 + 16 * 2 ^ 32 + 2 ^ 64 + 2 ^ 352 + 2 ^ 368))] }

theorem demo_inIssue (c : Ctx) : InIssue (demo c) demoBeat c := ⟨rfl, rfl⟩
theorem demo_noStores : NoStores demoCtx := by unfold NoStores; decide
theorem demo_alone : Alone demoCtx := by unfold Alone; decide
theorem demo_acting : acting demoBeat demoCtx {} = [demoLane] := by decide
theorem demo_wheels : wheelsOf (acting demoBeat demoCtx {}) = [demoLane] := by decide

/-- What holds of the one element of a list holds of all. -/
theorem forall_one {α : Type} {P : α → Prop} {ls : List α} {x : α} (h : ls = [x]) (p : P x) : ∀ l ∈ ls, P l := by
  subst h; intro l m; cases List.mem_singleton.mp m; exact p

/-- An access resolves to places. -/
def resolves (r : Res) : Bool := match r with | .ok _ _ => true | _ => false

/-- IntegerResults, BitResults, MoveResults, LaneResults, FloatResults, ConversionResults, WordArithmetic, PointerFields and ZeroRegisters ask for a beat in issue alone. -/
theorem witness_register_instructions : InIssue (demo demoCtx) demoBeat demoCtx := demo_inIssue _

/-- MOVS %launch in the run of slot 2. -/
def specCtx : Ctx := { demoCtx with spec := some 2 }
theorem witness_MoveResults :
    let s : State := { demo specCtx with slots := [(2, { state := .running })] }
    InIssue s demoBeat specCtx ∧ specCtx.spec = some 2 ∧ acting demoBeat specCtx {} ≠ [] ∧ (s.slot 2).state ≠ .idle :=
  ⟨⟨rfl, rfl⟩, rfl, by decide, by decide⟩

/-- A count of the width and one below it, over 32 and 64 bits. -/
theorem witness_ShiftPastWidth : ∀ l ∈ acting demoBeat demoCtx {},
    tyW .s32 ≤ readSrc l 1 (.imm 32) ∧ readSrc l 1 (.imm 31) < tyW .s32 ∧ tyW .b64 ≤ readSrc l 1 (.imm 64) ∧ readSrc l 1 (.imm 63) < tyW .b64 := by decide

/-- Object 0 needs no entry, and object 5 has one. -/
theorem witness_PointerResults :
    ∀ l ∈ acting demoBeat demoCtx {}, ((demo demoCtx).pchk l.w.core (readSrc l 2 (.v 2)) 1 4).isSome ∧ ((demo demoCtx).pchk l.w.core (5 * 2 ^ 44) 1 4).isSome := by decide

/-- The last word of shared memory, and the fragment of a row at its end. -/
theorem witness_LoadResults :
    let s := demo demoCtx
    let e := siteOf demoBeat demoShaped {}
    Alone demoCtx ∧ Alone demoShaped ∧
    (∀ l ∈ demoSite.lanes, Passes s l.w.core (s.access demoSite l { sp := .s, n := 4, align := 4, need := 1, lock := false } (.imm 1020) 0) (run (sharedP 1 1020) 4)) ∧
    (∀ l ∈ demoSite.lanes, Holds (filled s 0 demoSite.lanes (fun _ => run (sharedP 1 1020) 4)) l.w.core (run (sharedP 1 1020) 4)) ∧
    ∀ l ∈ e.lanes, Passes (demo demoShaped) l.w.core ((demo demoShaped).fragAccess e l false false .fa false (.imm 992) 0 0) (run (sharedP 1 992) 32) ∧
      Holds (demo demoShaped) l.w.core (run (sharedP 1 992) 32) :=
  ⟨demo_alone, by unfold Alone; decide, forall_one demo_acting ⟨[], by decide, by decide⟩, by unfold Holds; decide +kernel,
    forall_one (x := demoLane) (by decide) ⟨⟨[], by decide +kernel, by decide +kernel⟩, by unfold Holds; decide +kernel⟩⟩

theorem witness_StoreResults :
    let s := demo demoCtx
    let ok := fun (r : Res) => resolves r = true
    let e := siteOf demoBeat demoShaped {}
    (∀ l ∈ demoSite.lanes, ok (s.access demoSite l { sp := .s, n := 8, align := 8, need := 2, write := true } (.imm 1016) 0)) ∧
    (∀ l ∈ e.lanes, ok ((demo demoShaped).fragAccess e l true false .fa false (.imm 992) 0 0)) ∧
    ∀ l ∈ demoSite.actors true, ok (s.access demoSite l (shWant .s true) (.s 2) 960) := by decide +kernel

/-- A state with at most the descriptors and leaf entries of the tests in its caches is clean. -/
theorem demo_clean (s : State) (h : s.cores = [] ∨ ∃ d, s.cores = [(0, { dcache := d })]) (k : s.dies = [] ∨ ∃ l, s.dies = [(0, { lcache := l })]) : Clean s := by
  unfold Clean
  rcases h with h | ⟨d, h⟩ <;> rcases k with k | ⟨l, k⟩ <;> simp [h, k]

theorem witness_AtomicResults :
    let s := demo demoCtx
    let acc := s.access demoSite demoLane (amoWant .s .add .n32) (.imm 1020) 0
    Clean s ∧ acc = .ok (run (sharedP 1 1020) 4) [] ∧ s.pinCheck 0 true acc = acc ∧
    (run (sharedP 1 1020) 4).Nodup ∧ (∀ p ∈ run (sharedP 1 1020) 4, pTag p < 5) ∧ s.relWaits 1 demoCtx [0] .sys = ([], []) := by
  refine ⟨?_, by decide, by decide, by decide, by decide, by decide⟩
  simp [Clean, demo, State.reset]

/-- SPADJ to the end of private memory. -/
theorem witness_FenceAndFrameResults :
    (demo demoCtx).relWaits 1 demoCtx [0] .sys = ([], []) ∧
    ∀ l ∈ acting demoBeat demoCtx {}, let new := (l.t.fofs : Int) + sgnVal true 32 (readSrc l 1 (.imm 64)); new % 4 = 0 ∧ 0 ≤ new ∧ new ≤ demoCtx.kernel.priv := by decide

theorem witness_ShapeRegisterResults :
    let s := demo demoCtx
    let acc := s.access demoSite demoLane (shWant .s false) (.s 2) 960
    wheelsOf (acting demoBeat demoCtx {}) = [demoLane] ∧ Passes s 0 acc (run (sharedP 1 960) 64) ∧ Holds s 0 (run (sharedP 1 960) 64) ∧
    demoCtx.twrites = [] ∧ 1 < [0, 1].length :=
  ⟨demo_wheels, ⟨[], by decide, by decide⟩, by unfold Holds; decide +kernel, rfl, by decide⟩

/-- The last barrier word of shared memory, with one arrival outstanding of 65,535, and one of a completed phase. -/
def demoBarrier (w : Nat) : State := { demo demoCtx with mem := mPuts [] ((run (sharedP 1 1016) 8).zip (natBytes 8 w)) }
theorem witness_BarrierResults :
    let s := demoBarrier (pbWord { pending := 1, expected := 65535, phase := 0, gen := 3 })
    InIssue s demoBeat demoCtx ∧ acting demoBeat demoCtx {} = [demoLane] ∧
    s.pbAccess demoSite demoLane (.imm 1016) = .ok (run (sharedP 1 1016) 8) [] ∧
    s.access demoSite demoLane { sp := .s, n := 8, align := 8, need := 1 } (.imm 1016) 0 = .ok (run (sharedP 1 1016) 8) [] ∧
    readSrc demoLane 1 (.imm 1) = 1 ∧ (pbOf (s.num (sharedP 1 1016) 8)).pending = 1 ∧ (pbOf (s.num (sharedP 1 1016) 8)).expected = 65535 ∧
    s.pbStatus (0, sharedP 1 1016, 7, none) = some 0 ∧ s.pbStatus (0, sharedP 1 1016, 4, none) = some 2 ∧
    Clean s ∧ NoPins s ∧ s.relWaits 1 demoCtx [0] .sys = ([], []) :=
  ⟨⟨rfl, rfl⟩, demo_acting, by decide, by decide, by decide, by decide, by decide, by decide, by decide,
    demo_clean _ (.inr ⟨_, rfl⟩) (.inl rfl), by simp [NoPins, demoBarrier, demo], by decide⟩

/-- TRYW of a word that has reached its target, and threads whose wait number is new. -/
theorem witness_Suspension :
    let s := demo demoCtx
    let acc := fun l => s.access demoSite l { sp := .s, n := 4, align := 4, need := 1, lock := false } (.imm 0) 0
    (∀ l ∈ demoSite.lanes, Passes s l.w.core (acc l) (run (sharedP 1 0) 4)) ∧
    (∀ l ∈ demoSite.lanes, s.trywMet demoCtx (l.t.tid, run (sharedP 1 0) 4, readSrc l 1 (.v 9))) ∧
    sGet s.ctxs 1 = some demoCtx ∧ (∀ x ∈ demoCtx.threads, x.st ≠ .suspended s.nextWid) ∧ ∀ w ∈ demoCtx.waits, w.wid ≠ s.nextWid :=
  ⟨forall_one demo_acting ⟨[], by decide, by decide⟩, by decide, rfl, by decide, by decide⟩

/-- A copy of 16 bytes within shared memory. -/
theorem witness_CopyStarts :
    let s := demo demoCtx
    let from_ := fun l => s.access demoSite l { sp := .s, n := 16, align := 16, need := 1, lock := false } (.imm 0) 0
    let to_ := fun l => s.access demoSite l { sp := .s, n := 16, align := 16, need := 2, write := true } (.imm 1008) 0
    demoSite.lanes ≠ [] ∧
    ∀ l ∈ demoSite.lanes, Passes s l.w.core (from_ l) (run (sharedP 1 0) 16) ∧ (∃ q, to_ l = .ok (run (sharedP 1 1008) 16) q) ∧
      s.passBars l.w.core 0 (run (sharedP 1 1008) 16) = false ∧ (run (sharedP 1 0) 16).length = 16 ∧ Holds s l.w.core (run (sharedP 1 0) 16) :=
  ⟨by decide, forall_one demo_acting ⟨⟨[], by decide, by decide⟩, ⟨[], by decide⟩, by decide, by decide, by unfold Holds; decide +kernel⟩⟩

/-- A state that differs in the one context. -/
def withCtx (c : Ctx) : State := { State.reset with ctxs := [(1, c)] }

/-- A load of two registers, and a copy of 16 bytes, outstanding. -/
def demoLoads : Ctx :=
  { demoCtx with loads := [{ ltag := 7, tids := [0], wheel := 0, dreg := 4, nreg := 2, nbytes := 8 },
      { ltag := 8, tids := [0], wheel := 0, dreg := 6, nreg := 1, rel := some .dev, cpy := [(0, run (sharedP 1 0) 16, run (sharedP 1 1008) 16)] }] }
theorem witness_RepliesLand :
    let s := withCtx demoLoads
    (∃ o, demoLoads.loads.filter (fun x => x.ltag == 7 && x.cpy.isEmpty && !x.arrived && !x.refused && !x.pinned) = [o] ∧ o.nreg ≠ 0 ∧ o.pref = false ∧ o.uni = false) ∧
    (∀ e ∈ s.ctxs ++ s.saved, sGet e.2.posted 7 = none) ∧
    (∃ o, demoLoads.loads.find? (fun x => x.ltag == 8 && !x.cpy.isEmpty) = some o ∧ o.cpy = [(0, run (sharedP 1 0) 16, run (sharedP 1 1008) 16)] ∧ o.tids = [0] ∧
      o.uni = false ∧ o.moved = false ∧ o.rel = some .dev ∧ ∀ b ∈ o.known, b = none) ∧
    demoLoads.lanes [0] = [demoLane] ∧ Clean s ∧ NoPins s ∧ s.relWaits 1 demoLoads [0] .dev = ([], []) ∧
    (run (sharedP 1 0) 16).length = (run (sharedP 1 1008) 16).length ∧ (run (sharedP 1 1008) 16).Nodup ∧
    (∀ p ∈ run (sharedP 1 1008) 16, pTag p = 2 ∨ pTag p = 3) ∧ Holds (filled s 0 [demoLane] (fun _ => run (sharedP 1 0) 16)) 0 (run (sharedP 1 0) 16) :=
  ⟨⟨_, rfl, by decide, rfl, rfl⟩, by decide, ⟨_, rfl, rfl, rfl, rfl, rfl, rfl, List.forall_mem_nil _⟩, by decide, by simp [Clean, withCtx, State.reset], by simp [NoPins, withCtx, State.reset],
    by decide +kernel, by decide +kernel, by decide, by decide, by unfold Holds; decide +kernel⟩

/-- Queued stores of two lanes: of one line access, or of none; and a dirty line. -/
def demoStore (p : Nat) (line : Option (Nat × Nat)) : Ctx :=
  { demoCtx with wheels := [{ demoWheel with stores := [{ tids := [0], line := line, bytes := [(p, 9)] }, { tids := [1], line := line, bytes := [(p + 8, 9)] }] }] }
def demoDirty : State := { State.reset with cores := [(0, { l1 := [(canopyP 0 128, 5, true)] })] }
theorem witness_StoresReachMemory :
    (∀ x ∈ [(sharedP 1 1022, none), (privP 0 0, some (4, privP 0 0))], ∃ w q rest, (demoStore x.1 x.2).wheel 0 = some w ∧ w.stores = q :: rest ∧
      let behind := rest.takeWhile (fun e => q.line.isSome && e.line == q.line)
      let bytes := (q :: behind).flatMap (fun e => e.bytes)
      behind.length = (if x.2 = none then 0 else 1) ∧ (∀ e ∈ q :: behind, e.pol ≠ 3) ∧ (bytes.map (fun x => x.1)).Nodup ∧
      ((∀ x ∈ bytes, pTag x.1 = 2 ∨ pTag x.1 = 3) ∨ ∀ x ∈ bytes, pTag x.1 ∈ [0, 1, 5, 6])) ∧
    demoDirty.pinned 0 (canopyP 0 128) = false ∧ (∀ e ∈ (demoDirty.core 0).l1, lineOf e.1 = canopyP 0 128 → homeHere 0 e.1 = true) ∧
    ((demoDirty.core 0).l1.map (fun e => e.1)).Nodup := by
  refine ⟨?_, by decide, by decide, by decide⟩
  intro x m
  simp only [List.mem_cons, List.not_mem_nil, or_false] at m
  obtain rfl | rfl := m <;> exact ⟨_, _, _, rfl, rfl, by decide, by decide, by decide, by decide⟩

/-- A block of 32 threads whose set C1 is declared: thread 0 signs a first bit, and a last one. -/
def demoSet (sgn : BitVec 128) (signers : List Signer) : Ctx := { demoCtx with cregs := [(cvKey 0 1, { exp := 0xFFFFFFFF, sgn := sgn, group := some 0, signers := signers })] }
theorem witness_Convergence :
    (∀ l ∈ demoSite.lanes, signBad (demoSet 0 []) ((demoSet 0 []).conv 0 1) l.t.tid (some false) = none ∧ signBad (demoSet 0 []) ((demoSet 0 []).conv 0 1) l.t.tid none = none) ∧
    (let v := (demoSet 0 []).conv 0 1
     v.held = [] ∧ v.sgn = 0 ∧ v.sgn ||| BitVec.ofNat 128 (2 ^ (0 % v.size)) ≠ v.exp) ∧
    (let v := (demoSet 0xFFFFFFFE [{ tid := 1, void := false }]).conv 0 1
     v.held = [] ∧ v.group = some (0 / v.size) ∧ v.sgn &&& BitVec.ofNat 128 (2 ^ (0 % v.size)) = 0 ∧ v.sgn ||| BitVec.ofNat 128 (2 ^ (0 % v.size)) = v.exp ∧
       ∀ x ∈ v.signers, x.void ∨ signedBits x.words = signedBits (0, 0, 0)) ∧
    acting demoBeat demoCtx {} ≠ [] ∧ ∀ core ∈ demoCtx.cores, (demoCtx.conv core 1).sgn = 0 ∧ (demoCtx.conv core 1).held = [] := by decide +kernel

/-- A queued operation of MMBF.breg, by the word after R304, and results that are due. -/
def demoOp : MOp := { ctx := 1, creg := 1, group := 0, signers := [{ tid := 0, void := false, words := (0x10180050, 0x00B01080, 0x0003FC00) }] }
def demoDone : MDone := { op := demoOp, due := 0, d := 48, outs := [(0, [1])] }
def demoUnit : State := { withCtx demoCtx with cycle := 1, cores := [(0, { mqueue := [demoOp], mdone := [demoDone] })] }
theorem witness_MatrixOperation :
    demoUnit.mmNext 0 = some demoOp ∧ (demoOp.args.map (fun x => x.m.breg)) = some true ∧ NoStores demoCtx ∧ demoUnit.mmDone 0 = some demoDone ∧ sGet demoUnit.ctxs 1 = some demoCtx ∧
    ∀ p ∈ demoUnit.poison, pTag p ≠ 4 :=
  ⟨by decide, by decide, demo_noStores, by decide, rfl, List.forall_mem_nil _⟩

/-- Targets at the first and the last instruction of object 5; one past the end, one before it, one off the grid of 12 bytes; a landing pad at its start. -/
def demoPad : State :=
  { demo demoCtx with mem := mPuts [] ((run (canopyP 0 0) 12).zip (natBytes 12 (0x7D + 7 * 2 ^ 64))),
                      dies := [(0, { lcache := [{ obj := 5, page := 0, word := 1, till := 9 }] })] }
theorem witness_BranchResults :
    let s := demo demoCtx
    (∀ l ∈ acting demoBeat demoCtx {}, s.target l.w.core 5 0 = .ok [] [] ∧ s.target l.w.core 5 108 = .ok [] []) ∧
    (∃ d, (s.core 0).desc 5 = some d ∧ d.valid = true ∧ d.rights &&& 4 = 4 ∧ d.extent = 120) ∧
    (121 : Int) % 12 ≠ 0 ∧ (120 : Int) < 120 + 12 ∧ (-12 : Int) < 0 ∧
    (∀ l ∈ acting demoBeat demoCtx {}, demoPad.padTarget l.w.core demoCtx 5 0 = .ok (run (canopyP 0 0) 12) [(5, 0, 1), (5, 0, 1), (5, 0, 1)]) ∧
    ∀ l ∈ acting demoBeat demoCtx {}, Holds demoPad l.w.core (run (canopyP 0 0) 12) ∧ demoPad.padBad demoSite l (run (canopyP 0 0) 12) 7 = none :=
  ⟨by decide, ⟨_, rfl, rfl, rfl, rfl⟩, by decide, by decide, by decide, by decide, by unfold Holds; decide +kernel⟩

/-- The beat of one thread of two, and of the only one; a deadline that has just passed. -/
def soloCtx : Ctx := { demoCtx with threads := [demoThread 0] }
def rcvWait : Wait := { wid := 3, tids := [0], kind := .rcv 0 (mkCap 5 24) (some 1), deadline := some 0 }
theorem witness_Reconvergence :
    NoStores demoCtx ∧ NoPins (demo demoCtx) ∧ Alone demoCtx ∧
    wheelsOf (acting demoBeat demoCtx {}) = [demoLane] ∧ (∀ x ∈ demoCtx.threads, x.st ≠ .suspended (demo demoCtx).nextWid) ∧
    wheelsOf (acting demoBeat soloCtx {}) = [demoLane] ∧ (∀ x ∈ soloCtx.threads, ∃ y ∈ acting demoBeat soloCtx {}, y.t.tid = x.tid) ∧
    (∃ x ∈ demoCtx.threads, x.live = true ∧ ∀ y ∈ acting demoBeat demoCtx {}, y.t.tid ≠ x.tid) ∧
    ({ demoCtx with waits := [rcvWait] } : Ctx).waitOf 3 = some rcvWait ∧ 0 < ({ State.reset with cycle := 1 } : State).cycle := by
  unfold NoStores NoPins Alone; decide

/-- A block whose threads have ended, for real and in slot 2. -/
def endedCtx (slot : Option Nat) : Ctx := { demoCtx with threads := [{ demoThread 0 with st := .ended }], spec := slot }
theorem witness_ThreadsEnd :
    (∀ core n, (demoCtx.conv core n).sgn = 0) ∧ demoCtx.waits = [] ∧ demoCtx.regrouped = [] ∧
    (∀ slot, NoStores (endedCtx slot) ∧ NoPins (withCtx (endedCtx slot))) ∧
    (withCtx (endedCtx none)).mayEnd 1 (endedCtx none) = true ∧ (withCtx (endedCtx (some 2))).mayEnd 1 (endedCtx (some 2)) = true ∧
    (endedCtx none).trec = none ∧ (endedCtx none).held = [] ∧ ∀ l ∈ (withCtx (endedCtx none)).launches, l.no = (endedCtx none).launch → 1 < l.units :=
  ⟨fun _ _ => rfl, rfl, rfl, fun _ => ⟨demo_noStores, by simp [NoPins, withCtx, State.reset]⟩, by decide, by decide, rfl, rfl, by decide⟩

/-- The last block of a launch, whose command is number 3 of queue 5. -/
def lastState : State :=
  { withCtx (endedCtx none) with
    launches := [{ no := 0, kernel := {}, cmd := {}, units := 1, queue := 5, seq := 3 }]
    queues := [(5, { taken := 3, pend := [{ seq := 3, op := 0x20, entry := mkCap 5 128 }] })] }
theorem witness_ThreadsEnd_last :
    sGet lastState.ctxs 1 = some (endedCtx none) ∧ NoStores (endedCtx none) ∧ NoPins lastState ∧ lastState.mayEnd 1 (endedCtx none) = true ∧
    (endedCtx none).held = [] ∧ (endedCtx none).posted = [] ∧ Clean lastState ∧ (∀ d ∈ lastState.dies, d.2.evAcks = []) ∧
    (∃ l, lastState.launches.find? (fun l => l.no == (endedCtx none).launch) = some l ∧ l.units = 1 ∧ l.cancelled = false ∧ l.queue = 5 ∧ l.seq = 3) ∧
    lastState.owesGrid (fun g => g.launch == (endedCtx none).launch && g.graph.isNone) = false ∧
    ∃ p, (lastState.queue 5).pend.find? (fun p => p.seq == 3 && !p.done) = some p ∧ p.fin = none ∧ p.crec = none :=
  ⟨rfl, demo_noStores, by simp [NoPins, lastState, withCtx, State.reset], by decide, rfl, rfl, demo_clean _ (.inl rfl) (.inl rfl), List.forall_mem_nil _,
    ⟨_, rfl, rfl, rfl, rfl, rfl⟩, by decide, _, rfl, rfl, rfl⟩

def yieldWait : Wait := { wid := 3, tids := [0], kind := .yield, deadline := some 0 }
theorem witness_Yielding : acting demoBeat demoCtx {} ≠ [] ∧ ({ demoCtx with waits := [yieldWait] } : Ctx).waitOf 3 = some yieldWait ∧ 0 < ({ State.reset with cycle := 1 } : State).cycle := by decide

/-- A gather that thread 1 has not joined, and one whose time is over. -/
def gatherWait : Wait := { wid := 3, tids := [0], deadline := some 0, kind := .gather 0 0 (mkCap 5 24) (1, 2, 3) [{ tid := 0, pc := mkCap 5 0 }] }
theorem witness_RepackGathers :
    (∀ i ∈ demoBeat.tids, (demoCtx.lanes [i]).length = 1) ∧ (∀ l ∈ acting demoBeat demoCtx { repack := true }, (demo demoCtx).target l.w.core 5 36 = .ok [] []) ∧
    (∃ x w, demoCtx.thread 1 = some x ∧ 1 ∉ demoBeat.tids ∧ x.live = true ∧ x.st ≠ .suspended (demo demoCtx).nextWid ∧ demoCtx.wheel x.wheel = some w ∧ w.core = demoBeat.core ∧ w.quarter = demoBeat.quarter) ∧
    ({ demoCtx with waits := [gatherWait] } : Ctx).waitOf 3 = some gatherWait ∧ (({ demoCtx with waits := [gatherWait] } : Ctx).lanes [0]).length = 1 ∧
    ∃ l m : Lane, l.t.tid ≠ m.t.tid ∧ l.t.lane = m.t.lane ∧ l.w.idx < m.w.idx :=
  ⟨by decide, by decide, ⟨_, _, rfl, by decide, by decide, by decide, rfl, rfl, rfl⟩, by decide, by decide,
    ⟨demoLane, { t := { demoThread 32 with lane := 0, wheel := 1 }, w := { demoWheel with idx := 1 } }, by decide⟩⟩

/-- The most that a window of 32 gives, and the most that it takes; a claim that waits at the head. -/
def claimWait : Wait := { wid := 3, tids := [0], kind := .claim 0 0 0 8 }
theorem witness_RegisterPool :
    acting demoBeat demoCtx {} = [demoLane] ∧ (∀ x ∈ acting demoBeat demoCtx {}, x.t.reformed = none ∧ x.w.idx = 0) ∧
    24 + 8 ≤ demoLane.w.window ∧ demoLane.w.window + 224 ≤ 256 ∧ (∀ x ∈ demoCtx.threads, x.wheel = 0 → x.pend = [] ∧ x.st ≠ .blocked ∧ ∀ v ∈ demoCtx.waits, x.st ≠ .suspended v.wid) ∧
    (withCtx { demoCtx with waits := [claimWait] }).claims 0 0 = [(1, 3, 0, 8)] ∧ 8 / 8 ≤ (withCtx { demoCtx with waits := [claimWait] }).freeUnits 0 0 := by decide

def regroupedCtx : Ctx := { soloCtx with regrouped := [(0, { base := 4, n := 2, old := [(0, 0, 5)] })] }
theorem witness_Regrouping : NoPins (demo demoCtx) ∧ demoWheel.gone = false ∧ demoWheel.retire = [] ∧ demoWheel.pend = [] ∧ ∀ c ∈ [soloCtx, regroupedCtx],
    NoStores c ∧ Alone c ∧ c.waits = [] ∧ (c.threads.map (fun x => x.tid)).Nodup ∧ c.wheels.filter (fun x => x.core == demoBeat.core) = [demoWheel] ∧ demoBeat.tids.length ≤ 32 ∧ demoBeat.tids ≠ [] ∧
    (∀ x ∈ c.threads, x.live = true → x.wheel = demoWheel.idx → x.tid ∈ demoBeat.tids) ∧
    (∀ i ∈ demoBeat.tids, ((c.thread i).map (fun x => (x.wheel, x.reformed, x.pend))) = some (0, none, [])) ∧ c.wheel demoWheel.idx = some demoWheel := by
  unfold NoStores NoPins Alone; decide
theorem witness_Ungroup : sGet soloCtx.regrouped 0 = none ∧ (sGet regroupedCtx.regrouped 0).map (fun o => (o.base, o.n)) = some (4, 2) := by decide

/-- With BKPT enabled, as after reset, and disabled. -/
theorem witness_TrapResults :
    demoCtx.spec = none ∧ demoCtx.handler = false ∧ wheelsOf (acting demoBeat demoCtx {}) = [demoLane] ∧ wheelsOf (demoCtx.lanes demoBeat.tids) = [demoLane] ∧
    (∀ i ∈ demoBeat.tids, (demoCtx.lanes [i]).length = 1) ∧ ((demo demoCtx).die 0).bkpten = true ∧
    (({ demo demoCtx with dies := [(0, { bkpten := false })] } : State).die 0).bkpten = false := by decide

def handlerCtx : Ctx := { demoCtx with handler := true }
theorem witness_SystemRegisters :
    wheelsOf (acting demoBeat demoCtx {}) = [demoLane] ∧ demoCtx.handler = false ∧ wheelsOf (acting demoBeat handlerCtx {}) = [demoLane] ∧ handlerCtx.handler = true ∧ handlerCtx.spec = none := by decide

/-! #### States whose die 0 holds object 5: one page, mapped to frame 3 -/

/-- A byte of the page. -/
def pageP (o : Nat) : Nat := canopyP 0 (196608 + o)
/-- Numbers of the page: offset, size, value. -/
def tableMem (extent : Nat) (data : List (Nat × Nat × Nat)) : List Host.Cell :=
  mPuts [] (((run (canopyP 0 65696) 32).zip (natBytes 32 (extent + 31 * 2 ^ 64 + 2 ^ 69))) ++
    ((run (canopyP 0 131072) 8).zip (natBytes 8 (1 + 16 + 3 * 256))) ++
    data.flatMap (fun x => (run (pageP x.1) x.2.1).zip (natBytes x.2.1 x.2.2)))
def tableJob : Job := { state := .run, otbl := [(0, { dirframe := 1, nobj := 16, leafframe := 2 })] }
def tableState (data : List (Nat × Nat × Nat)) : State := { State.reset with mem := tableMem 65536 data, job := tableJob }

/-- A handler's context names record 7, which parks thread 0 of context 2; its C register holds a code address. -/
def eretRec : FaultRec := { cls := 1, cause := 3, ctx := 2, tids := [0], words := (0x05022301, 0x08000800, 0x00000011) }
def eretCtx : Ctx := { handlerCtx with wheels := [{ demoWheel with sregs := [(10, 100), (11, 20480), (13, 20480)] }] }
def eretState : State :=
  { tableState [(120, 4, 7)] with
    beat := some demoBeat
    dies := [(0, { openRecs := [(7, eretRec)] })]
    ctxs := [(1, eretCtx), (2, { demoCtx with threads := [{ demoThread 0 with st := .parked }] })] }
theorem witness_ReturnsFromFault :
    InIssue eretState demoBeat eretCtx ∧ eretCtx.spec = none ∧ eretCtx.handler = true ∧
    ∃ l, wheelsOf (acting demoBeat eretCtx {}) = [l] ∧
      (eretState.unitGet 0 (capAdd (BitVec.ofNat 64 (readS l.w 2 10)) 20) 4).bind (fun n => (eretState.die 0).openRecs.find? (fun x => x.1 == n)) = some (7, eretRec) ∧
      (eretState.unitGet 0 (capAdd (BitVec.ofNat 64 (readS l.w 2 12)) 20) 4).bind (fun n => (eretState.die 0).openRecs.find? (fun x => x.1 == n)) = none ∧
      eretState.exitOk 0 (BitVec.ofNat 64 (readS l.w 2 12)) = true := by
  refine ⟨⟨rfl, rfl⟩, rfl, rfl, _, rfl, ?_⟩
  decide +kernel
theorem witness_ReturnsFromFault_skip :
    (sGet eretState.ctxs 2).isSome ∧ eretRec.chain = false ∧ eretRec.ctx ≠ demoBeat.ctx ∧
    let w := Raw.ofWords eretRec.words.1 eretRec.words.2.1 eretRec.words.2.2
    (Op.ofCode (eretRec.words.1.toNat % 256)).map (fun o => ((dstRange (form o w) w).map (fun g => g.vec), decide ((form o w).d ≠ .pred), (form o w).xpd)) = some (some true, true, none) := by decide

/-- C names no code address; a record of a launch whose context is gone, one of a unit that is gone, and a chain's record with its stopped chain. -/
def eretMore (r : FaultRec) : State :=
  { eretState with dies := [(0, { openRecs := [(7, r)] })], chains := [{ ccb := mkCap 5 0, die := 0, eng := 0, faulted := true }] }
def chainRec : FaultRec := { cls := 0x14, cause := 2, chain := true, addr := mkCap 5 0, info := 1 }
theorem witness_ReturnsFromFault_rest :
    eretState.exitOk 0 (BitVec.ofNat 64 (readS { demoWheel with sregs := [(10, 100), (11, 20480), (13, 20480)] } 2 10)) = false ∧
    (∀ x ∈ ({ demoCtx with threads := [{ demoThread 0 with st := .parked }] } : Ctx).threads, x.tid ∈ eretRec.tids → x.st = .parked → 5 + 2 ≤ demoWheel.window) ∧
    (∀ r ∈ [eretRec, chainRec, { eretRec with ctx := 9, launch := 3 }, { eretRec with ctx := 9 }], InIssue (eretMore r) demoBeat eretCtx ∧
      ((eretMore r).unitGet 0 (mkCap 5 120) 4).bind (fun n => ((eretMore r).die 0).openRecs.find? (fun x => x.1 == n)) = some (7, r)) ∧
    (let u := fun (r : FaultRec) => (eretMore r).setCtx demoBeat.ctx (eretCtx.advance demoBeat false)
     ((u eretRec).recCancel eretRec .graph).isSome = true ∧ ((u { eretRec with ctx := 9, launch := 3 }).recCancel { eretRec with ctx := 9, launch := 3 } .launch).isSome = true ∧
     ((u { eretRec with ctx := 9 }).recCancel { eretRec with ctx := 9 } .launch).isNone = true ∧
     chainRec.chain = true ∧ (u chainRec).recQueue chainRec = none ∧
     ((u chainRec).chains.find? (fun x => x.ccb == chainRec.addr && !x.fill)).map (fun x => x.faulted) = some true) := by
  refine ⟨by decide +kernel, by decide, ?_, by decide +kernel, by decide +kernel, by decide +kernel, rfl, ?_, by decide +kernel⟩
  · intro r m
    simp only [List.mem_cons, List.not_mem_nil, or_false] at m
    obtain rfl | rfl | rfl | rfl := m <;> exact ⟨⟨rfl, rfl⟩, by decide +kernel⟩
  · simp [State.recQueue, eretMore, eretState, tableState, State.setCtx, State.reset, State.queue, sGet]

/-- A fault queue at byte 512 with room for one more of 4 records. -/
def recState : State :=
  { tableState [(8, 8, 5 * 2 ^ 44 + 512), (512, 8, 3), (520, 8, 6), (528, 4, 4)] with
    job := { tableJob with handler := [(0, { args := mkCap 5 0 })] }
    dies := [(0, { recs := [eretRec] })] }
theorem witness_FaultRecords :
    (recState.die 0).recs = [eretRec] ∧ recState.recRoom 0 = some (mkCap 5 512, 6, 4) ∧ NoPins recState ∧
    (recState.unitRange 0 (mkCap 5 (512 + 64 + 64 * 2)) 64 2 true false).toOption = some (run (pageP 704) 64) ∧
    ((recState.unitWrite 0 (mkCap 5 704) (recState.recBytes eretRec 1)).unitRange 0 (mkCap 5 520) 8 2 true false).toOption = some (run (pageP 520) 8) ∧
    (∀ p ∈ run (pageP 704) 64 ++ run (pageP 520) 8, isRemote p = false ∧ pTag p ≠ 7) ∧ (run (pageP 704) 64).Nodup ∧ (run (pageP 520) 8).Nodup := by
  unfold NoPins; decide +kernel

/-- Flags and a read of %fstat that retired in one cycle. -/
def retireCtx : Ctx := { demoCtx with wheels := [{ demoWheel with retire := [{ due := 4, read := some { clr := true, uni := true, d := 9, tids := [0] } }, { due := 4, flags := 2 }] }] }
theorem witness_FlagsRetire :
    sGet (withCtx retireCtx).ctxs 1 = some retireCtx ∧ retireCtx.waits = [] ∧ (retireCtx.wheels.map (fun w => w.idx)).Nodup ∧
    (∃ w r fl, retireCtx.wheel 0 = some w ∧ w.retire = [{ due := 4, read := some r }, { due := 4, flags := fl }] ∧ r.uni = true) ∧
    ∃ w, ({ demoCtx with wheels := [{ demoWheel with retire := [{ due := 4, flags := 2 }] }] } : Ctx).wheel 0 = some w ∧ ∀ r ∈ w.retire, r.due = 4 ∧ r.read = none :=
  ⟨rfl, rfl, by decide, ⟨_, _, _, rfl, rfl, rfl⟩, ⟨_, rfl, by decide⟩⟩

/-- Waits that are met, with deadlines that have just passed: a word at its target, a barrier whose phase is over, a complete slot, an empty frontier. -/
def waitOf3 (k : WaitKind) : Wait := { wid := 3, tids := [0], kind := k, deadline := some 0 }
def metCtx (k : WaitKind) : Ctx := { demoCtx with waits := [waitOf3 k], gslots := [(63, { complete := true })] }
def metState (k : WaitKind) : State :=
  { withCtx (metCtx k) with
    cycle := 1
    dies := [(0, { reg := { front := [(0, none)] } })]
    mem := mPuts [] ((run (sharedP 1 1016) 8).zip (natBytes 8 (pbWord { pending := 1, expected := 65535, phase := 0, gen := 3 }))) }
theorem witness_WaitsEnd :
    (∀ k ∈ [WaitKind.tryw 4 none [(0, run (sharedP 1 0) 4, 0)], .pbwait 8 4 none [(0, sharedP 1 1016, 7, none)], .gwait 4 63 false, .fwait 8 4 false [(0, 0, 5)]],
      (metCtx k).waitOf (waitOf3 k).wid = some (waitOf3 k) ∧ (waitOf3 k).deadline = some 0 ∧ 0 < (metState k).cycle) ∧
    (let k := WaitKind.tryw 4 none [(0, run (sharedP 1 0) 4, 0)]
     [(0, run (sharedP 1 0) 4, 0)].all ((metState k).trywMet (metCtx k)) = true) ∧
    (let k := WaitKind.pbwait 8 4 none [(0, sharedP 1 1016, 7, none)]
     [(0, sharedP 1 1016, 7, none)].all (fun x => ((metState k).pbStatus x).isSome) = true) ∧
    ((metCtx (.gwait 4 63 false)).slotOf 63).complete = true ∧
    (let k := WaitKind.fwait 8 4 false [(0, 0, 5)]
     (metState k).fwaitMet (metCtx k) [(0, 0, 5)] = true) := by decide +kernel

/-- A hold whose lines are present, and a TMDEC whose wheel owes nothing. -/
theorem witness_HoldsRelease :
    let k := WaitKind.presence [0]
    (metCtx k).waitOf 3 = some (waitOf3 k) ∧ (metState k).holdOver (metCtx k) k = true ∧
    (metCtx (.tmdec 0)).waitOf 3 = some (waitOf3 (.tmdec 0)) ∧ ∃ v, (metCtx (.tmdec 0)).wheel 0 = some v ∧ v.unaccepted = 0 :=
  ⟨by decide, by decide, by decide, _, rfl, rfl⟩

/-- A resident entry 4095 with one place left for a reference, held and not; an empty one; a wait for it. -/
def residCtx (held : List Nat) : Ctx := { soloCtx with held := held, wheels := [{ demoWheel with sregs := [(9, 4095)] }] }
def residState (c : Ctx) (r : Resid) : State := { demo c with resid := [(4095, r)] }
def exacqCtx : Ctx := { demoCtx with threads := [{ demoThread 0 with st := .suspended 3 }], waits := [{ wid := 3, tids := [0], kind := .exacq 4095 8 true false }] }
theorem witness_ResidencyResults :
    (∀ held ∈ [[], [4095]], InIssue (demo (residCtx held)) demoBeat (residCtx held) ∧ (residCtx held).spec = none ∧
      (wheelsOf (acting demoBeat (residCtx held) {})).map (fun l => readSrc l 1 (.s 9)) = [4095] ∧ (residCtx held).held.length < 64) ∧
    ((residState (residCtx []) { state := 2, refs := 65534 }).residOf 4095).ready = true ∧ ((residState (residCtx []) { state := 2, refs := 65534 }).residOf 4095).refs < 65535 ∧
    ((residState (residCtx []) {}).residOf 4095).state = 0 ∧
    (∀ st ∈ [0, 1, 4], ((residState (residCtx []) { state := st, refs := 65534 }).residOf 4095).ready = false) ∧
    exacqCtx.waitOf 3 = some { wid := 3, tids := [0], kind := .exacq 4095 8 true false } ∧ exacqCtx.lanes [0] ≠ [] ∧ ((residState exacqCtx { state := 3 }).residOf 4095).ready = true := by
  unfold InIssue; decide

/-- Times of depth 1 at location 0, whose frontier is empty. -/
theorem witness_TimeResults :
    let s : State := { demo demoCtx with dies := [(0, { reg := { front := [(0, none)] } })] }
    InIssue s demoBeat demoCtx ∧ demoCtx.spec = none ∧ demoSite.lanes.head? = some demoLane ∧
    (∀ l ∈ demoSite.actors false, tadvCause (readSrc l 1 (.imm 0xFFFFFFFF)) (readSrc l 2 (.v 8)) = none ∧ tadvCause (readSrc l 1 (.imm 0)) (readSrc l 2 (.v 8)) = none) ∧
    (∀ l ∈ demoSite.lanes, tBad (readSrc l 2 (.v 8)) = false ∧ tBad (readSrc l 2 (.v 10)) = false ∧ tDepth (readSrc l 2 (.v 8)) = tDepth (readSrc l 2 (.v 10))) ∧
    (∀ l ∈ demoSite.actors true, readSrc l 1 (.imm 0) < s.nLoc) ∧
    ∀ l ∈ demoSite.lanes, s.timeCause (readSrc l 1 (.imm 0)) (readSrc l 2 (.v 8)) = none ∧ (s.timeStatus 0 (readSrc l 1 (.imm 0)) (readSrc l 2 (.v 8))).isSome :=
  ⟨⟨rfl, rfl⟩, rfl, by decide, by decide, by decide, by decide, by decide⟩

/-- The largest time of depth 4; a summary that is applied at the largest counter, and one whose increment passes it. -/
theorem witness_TimeArithmetic :
    let t := mkTime 4 [0, 0, 0, 32766]
    t < 2 ^ 64 ∧ tBad t = false ∧ (0x0C010000 : Nat) < 2 ^ 32 ∧ tCtr t 3 + 0x0C010000 / 2 ^ 16 % 2 ^ 10 = 32767 ∧ tCtr t 3 + 0x0C020000 / 2 ^ 16 % 2 ^ 10 = 32768 ∧
    mkTime 4 [0, 0, 0, 32766] < mkTime 4 [0, 0, 0, 32767] := by decide

/-- The example after R72, whose first step takes (3, 0, 7) to (4, 0). -/
theorem test_summaries : applySum 0x40010000 (mkTime 3 [3, 0, 7]) = .at_ (mkTime 2 [4, 0]) ∧ applySum 0x18000000 (mkTime 3 [3, 0, 7]) = .at_ (mkTime 4 [3, 0, 7, 0]) := by decide

/-- Counts of 65535 at location 0 and time 0; a task record at the start of object 5, whose entry is the object's first instruction. -/
def spawnLane : Lane := { demoLane with t := { demoThread 0 with vregs := [(9, 0x5000)] } }
def spawnCtx : Ctx := { demoCtx with threads := [spawnLane.t, demoThread 1] }
def spawnState : State :=
  { demo spawnCtx with
    mem := mPuts [] ((run (canopyP 0 0) 64).zip (natBytes 64 (5 * 2 ^ 44)))
    dies := [(0, { lcache := [{ obj := 5, page := 0, word := 1, till := 9 }] })] }
theorem witness_CountsAndTasks :
    (wheelsOf (acting demoBeat demoCtx {}) = [demoLane] ∧ (demo demoCtx).countCause (readSrc demoLane 1 (.imm 0)) (readSrc demoLane 2 (.v 8)) (readSrc demoLane 1 (.imm 65535)) = none) ∧
    demoLane.w.unaccepted = 0 ∧ (demo demoCtx).relWaits 1 demoCtx [0] .dom = ([], []) ∧
    acting demoBeat spawnCtx {} = [spawnLane] ∧
    Passes spawnState 0 (spawnState.access (siteOf demoBeat spawnCtx {}) spawnLane { sp := .g, n := 64, align := 64, need := 1, lock := false } (.v 8) 0)
      (run (canopyP 0 0) 64) ∧
    (let u := filled spawnState 0 [spawnLane] (fun _ => run (canopyP 0 0) 64)
     Holds spawnState 0 (run (canopyP 0 0) 64) ∧ u.taskRes 0 (bytesAt u 0 (run (canopyP 0 0) 64)) = .ok [] []) ∧ (spawnState.die 0).tasks.length < 65536 := by
  refine ⟨⟨by decide, by decide⟩, by decide, by decide, by decide, ⟨[(5, 0, 1)], by decide +kernel, by decide +kernel⟩, ⟨by unfold Holds; decide +kernel, by decide +kernel⟩, by decide⟩

/-- A .repack branch to the landing pad with tag 7, which thread 1 has not joined. -/
theorem witness_RepackGathers_brx :
    let s : State := { demoPad with ctxs := [(1, spawnCtx)] }
    let h : Head := { repack := true }
    InIssue s demoBeat spawnCtx ∧ Alone spawnCtx ∧ (∀ i ∈ demoBeat.tids, (spawnCtx.lanes [i]).length = 1) ∧
    (∃ x w, spawnCtx.thread 1 = some x ∧ 1 ∉ demoBeat.tids ∧ x.live = true ∧ x.st ≠ .suspended s.nextWid ∧ spawnCtx.wheel x.wheel = some w ∧ w.core = demoBeat.core ∧ w.quarter = demoBeat.quarter) ∧
    ∀ l ∈ acting demoBeat spawnCtx h, let far : Cap := BitVec.ofNat 64 (readSrc l 2 (.v 8))
      (∃ pages, s.padTarget l.w.core spawnCtx (capObj far) (capOfs far) = .ok (run (canopyP 0 0) 12) pages) ∧
      Holds s l.w.core (run (canopyP 0 0) 12) ∧ s.padBad (siteOf demoBeat spawnCtx h) l (run (canopyP 0 0) 12) 7 = none :=
  ⟨⟨rfl, rfl⟩, by unfold Alone; decide, by decide, ⟨_, _, rfl, by decide, by decide, by decide, rfl, rfl, rfl⟩,
    forall_one (x := spawnLane) (by decide) ⟨⟨[(5, 0, 1), (5, 0, 1), (5, 0, 1)], by decide +kernel⟩, by unfold Holds; decide +kernel, by decide +kernel⟩⟩

/-! #### A beat over object 5 on die 0 -/

/-- V8:V9 names the start of the page, V10:V11 its byte 512, S8:S9 and S10:S11 the same. -/
def pageRegs : Sparse Word := [(9, 0x5000), (10, 512), (11, 0x5000)]
def pageCtx : Ctx := { soloCtx with threads := [{ demoThread 0 with vregs := pageRegs }], wheels := [{ demoWheel with sregs := pageRegs }] }
def pageLane : Lane := { t := { demoThread 0 with vregs := pageRegs }, w := { demoWheel with sregs := pageRegs } }
def pageState (data : List (Nat × Nat × Nat)) : State :=
  { tableState data with
    beat := some demoBeat
    ctxs := [(1, pageCtx)]
    cores := [(0, { dcache := [{ obj := 5, valid := true, extent := 65536, rights := 31, leafofs := 0, till := 9 }] })]
    dies := [(0, { lcache := [{ obj := 5, page := 0, word := 785, till := 9 }] })] }
def pageSite : Site := siteOf demoBeat pageCtx {}
/-- A store that releases, of the last words of shared memory and of the page, at every kind of scope. -/
theorem witness_StoreResults_rel :
    let s := demo demoCtx
    let p := pageState []
    let want := fun (sp : Space) => ({ sp := sp, n := 8, align := 8, need := 2, write := true } : Want)
    (Clean s ∧ NoPins s ∧ NoStores demoCtx ∧ Alone demoCtx ∧ acting demoBeat demoCtx {} = [demoLane] ∧ s.relWaits 1 demoCtx [0] .sys = ([], []) ∧
      s.access demoSite demoLane (want .s) (.imm 1016) 0 = .ok (run (sharedP 1 1016) 8) [] ∧ (run (sharedP 1 1016) 8).Nodup ∧ ∀ q ∈ run (sharedP 1 1016) 8, pTag q = 3) ∧
    Clean p ∧ NoPins p ∧ NoStores pageCtx ∧ Alone pageCtx ∧ acting demoBeat pageCtx {} = [pageLane] ∧
    (∀ sc ∈ [Scope.wheel, .blk, .die, .dev, .dom, .sys], p.relWaits 1 pageCtx [0] sc = ([], [])) ∧
    p.access pageSite pageLane (want .g) (.v 8) 65528 = .ok (run (pageP 65528) 8) [(5, 0, 785)] ∧ (run (pageP 65528) 8).Nodup ∧
    (∀ q ∈ run (pageP 65528) 8, pTag q = 0 ∧ homeHere 0 q = true) ∧ scopeRank pageCtx .blk = 0 ∧ scopeRank pageCtx .die ≠ 0 ∧
    (((p.core 0).l1.map (fun e => lineOf e.1)).dedup).length + 8 ≤ l1Lines :=
  ⟨⟨demo_clean _ (.inr ⟨_, rfl⟩) (.inl rfl), by simp [NoPins, demo], demo_noStores, demo_alone, demo_acting, by decide, by decide, by decide, by decide⟩,
    demo_clean _ (.inr ⟨_, rfl⟩) (.inr ⟨_, rfl⟩), by simp [NoPins, pageState], by unfold NoStores; decide, by unfold Alone; decide, by decide, by decide,
    by decide +kernel, by decide +kernel, by decide +kernel, by decide, by decide, by decide⟩

/-- An empty chain whose block is at 0 and its entry at 512; one that holds two appended entries, one published. -/
theorem witness_ChainResults :
    (let s := pageState []
     let acc := (s.ccbAccess pageSite pageLane (.v 8)).join
       (s.access pageSite pageLane { sp := .g, n := 128, align := 128, need := 3, write := true } (.v 10) 0)
     NoPins s ∧ isRemote (pageP 512) = false ∧ s.tailNext 0 (pageP 0) = none ∧ InIssue s demoBeat pageCtx ∧ acting demoBeat pageCtx {} = [pageLane] ∧
     acc = .ok (run (pageP 0) 64 ++ run (pageP 512) 128) [(5, 0, 785), (5, 0, 785)] ∧ s.num (pageP 8) 8 = 0) ∧
    (let s := pageState [(16, 8, 2), (24, 8, 1)]
     s.ccbAccess pageSite pageLane (.v 8) = .ok (run (pageP 0) 64) [(5, 0, 785)] ∧
     s.relWaits 1 pageCtx [0] .dev = ([], []) ∧ readSrc pageLane 2 (.imm 2) ≤ s.num (pageP 16) 8 ∧
     (s.putNum (pageP 24) 8 2).queueOf (mkCap 5 0) = none ∧ ∀ x ∈ s.chains, x.ccb ≠ mkCap 5 0) ∧
    ∀ p ∈ run (pageP 0) 64, p ∉ run (pageP 512) 128 := by
  unfold InIssue NoPins; decide +kernel

/-- Grid sends of one lane, from shared memory, to the one device of the grid. -/
theorem witness_GridSends :
    let s := demo demoCtx
    let size := cszBytes .b128
    let src := fun l => s.pinCheck l.w.core false (s.access demoSite l { sp := .s, n := size, align := size, need := 1, lock := false } (.imm 1008) 0)
    let red := fun l => s.gredSrc demoSite l .s 1 4 (.v 8) (.imm 1020)
    let q : Ask := { l := demoLane, coord := 0, addr := 0, obj := 5, ops := [] }
    demoCtx.cancelled = false ∧ sGet s.saved 1 = none ∧ demoCtx.waitOf s.nextWid = none ∧ (s.die 0).grid.staged = [] ∧
    wheelsOf (acting demoBeat demoCtx {}) = [demoLane] ∧ patOk s.grid (patOf 255 demoLane) = true ∧ patDests s.grid s.mycoord (patOf 255 demoLane) ≠ [] ∧
    (s.die 0).grid.used + 1 ≤ 4096 ∧ s.relWaits 1 demoCtx [0] .dev = ([], []) ∧
    src demoLane = .ok (run (sharedP 1 1008) 16) [] ∧ (run (sharedP 1 1008) 16).length = size ∧ Holds s 0 (run (sharedP 1 1008) 16) ∧
    gredBad s 0 (patOf 255 demoLane) = none ∧ red demoLane = .ok (run (sharedP 1 1020) 4) [] ∧ Holds s 0 (run (sharedP 1 1020) 4) ∧
    acting demoBeat demoCtx {} = [demoLane] ∧ s.askBad 16 q = none ∧ s.askBad 4 q = none := by
  unfold Holds; decide +kernel

/-- Arming with the largest count and with a pattern's, and an arrival that completes a slot and one after it. -/
theorem witness_GatherSlots :
    (demo demoCtx).garmCount false demoLane (.imm 65535) = .ok 65535 ∧ readSrc demoLane 1 (.imm 65535) ≤ 65535 ∧
    patOk (demo demoCtx).grid (BitVec.ofNat 64 (readSrc demoLane 2 (.v 8))) = true ∧ acting demoBeat demoCtx {} ≠ [] ∧
    ({ demoCtx with gslots := [(63, { complete := true })] } : Ctx).slotOf 63 = { complete := true } ∧ (demoCtx.slotOf 63).complete = false ∧
    (({ expected := 1 } : GSlot).count false false false none 0).complete = true := by decide


/-- A queue whose one published command is the given one; a kernel record at 2048, a graph instance at 0. The object ends behind the descriptor of queue 0. -/
def queueState (x : Queue) (cmd : List (Nat × Nat × Nat)) : State :=
  { State.reset with
    mem := tableMem 4128 ([(4096, 8, 5 * 2 ^ 44 + 512), (4105, 1, 1), (512, 8, 5 * 2 ^ 44 + 128), (528, 8, 1), (536, 8, 1),
      (2052, 2, 8), (2055, 1, 1), (0, 8, 5 * 2 ^ 44 + 1024), (1024, 2, 1), (1040, 8, 5 * 2 ^ 44)] ++ cmd)
    job := { tableJob with qtbl := mkCap 5 4096 }
    queues := [(0, x)] }
def launchBytes : List (Nat × Nat × Nat) := [(128, 1, 0x20), (136, 8, 5 * 2 ^ 44 + 2048), (144, 8, 5 * 2 ^ 44), (160, 4, 1), (164, 4, 32)]
def graphBytes : List (Nat × Nat × Nat) := [(128, 1, 0x21), (136, 8, 5 * 2 ^ 44)]
def signalBytes : List (Nat × Nat × Nat) := [(128, 1, 0x23), (136, 8, 5 * 2 ^ 44 + 3072)]
def cancelBytes : List (Nat × Nat × Nat) := [(128, 1, 0x24), (136, 1, 4)]

theorem queue_cap (n : Nat) (h : n < 2 ^ 40) : capObj (mkCap 5 n) = 5 ∧ capOfs (mkCap 5 n) = n := by
  simp [mkCap, capObj, capOfs]
  omega

theorem queue_bound (w n : Nat) (he : dExtent w = 4128) (h : 4096 < n) : r63 (some w) 5 (n : Int) 32 1 ≠ none := by
  unfold r63
  simp only [he]
  split
  · simp
  · split
    · simp
    · split
      · simp
      · simp
        omega

theorem queue_place (s : State) (w n : Nat) (hw : s.readDesc 0 5 = some w) (he : dExtent w = 4128) (h : 4096 < n) (h1 : n < 2 ^ 40) :
    ∃ k, s.unitPlace 0 (mkCap 5 n) 32 1 false false = .error k := by
  unfold State.unitPlace
  simp only [(queue_cap n h1).1, (queue_cap n h1).2, hw]
  cases hr2 : r63 (some w) 5 (n : Int) 32 1 with
  | none => exact absurd hr2 (queue_bound w n he h)
  | some k => exact ⟨_, rfl⟩

theorem queue_range (s : State) (w n : Nat) (hw : s.readDesc 0 5 = some w) (he : dExtent w = 4128) (h : 4096 < n) (h1 : n < 60000) :
    ∃ k, s.unitRange 0 (mkCap 5 n) 32 1 false false = .error k := by
  obtain ⟨k, hk⟩ := queue_place s w n hw he h (by omega)
  have hp : ((n % 65536 + 32) / 65536 + if (n % 65536 + 32) % 65536 = 0 then 0 else 1) = 1 := by split <;> omega
  refine ⟨k, ?_⟩
  have hc := queue_cap n (by omega)
  unfold State.unitRange
  rw [hc.1, hc.2]
  dsimp only
  rw [hp, List.range_one, List.foldl_cons, List.foldl_nil, if_pos rfl, if_pos rfl, hk]

/-- The object holds no other queue's descriptor. -/
theorem queue_absent (s : State) (w q : Nat) (hw : s.readDesc 0 5 = some w) (he : dExtent w = 4128) (hj : s.job.qtbl = mkCap 5 4096) (h0 : 0 < q) (h1 : q < 256) :
    s.qdesc q = none := by
  obtain ⟨k, hk⟩ := queue_range s w (4096 + 32 * q) hw he (by omega) (by omega)
  have hc : s.qdescCap q = mkCap 5 (4096 + 32 * q) := by
    unfold State.qdescCap capAdd
    rw [hj, (queue_cap 4096 (by norm_num)).1, (queue_cap 4096 (by norm_num)).2]
  have hr : s.unitRead 0 (s.qdescCap q) 32 = none := by
    unfold State.unitRead State.unitSrc
    rw [hc, hk]
  unfold State.qdesc
  rw [hr]
  split
  · rfl
  · rfl

theorem queue_next (s : State) (w : Nat) (hw : s.readDesc 0 5 = some w) (he : dExtent w = 4128) (hj : s.job.qtbl = mkCap 5 4096)
    (hs : s.serving = true) (hp : s.prioPtr = []) (ht : s.tookAt = none) (h2 : s.qState 0 = 2) : s.nextCmd = s.qNext 0 := by
  have ha : ∀ q, 0 < q → q < 256 → s.qState q = 0 := by
    intro q h0 h1
    unfold State.qState
    rw [queue_absent s w q hw he hj h0 h1]
  have hf : (List.range 256).filter (fun q => s.qState q == 2) = [0] := by
    rw [List.range_succ_eq_map (n := 255), List.filter_cons]
    simp only [h2, beq_self_eq_true, if_true, List.cons.injEq, true_and, List.filter_eq_nil_iff, List.mem_map, List.mem_range]
    rintro _ ⟨q, hq, rfl⟩
    rw [ha (q + 1) (by omega) (by omega)]
    decide
  have hq : ¬s.job.qtbl = 0#64 := by rw [hj]; decide
  unfold State.nextCmd State.chooseQueue
  rw [if_neg (by simp [hq, hs, ht])]
  simp only [hf, List.map_cons, List.map_nil, List.foldl_cons, List.foldl_nil]
  simp [hp, sGet]

/-- The next command of queue 0 is the one written, and passes its checks. -/
def commandOk (s : State) (op : Nat) (more : State → Cmd → Bool) : Bool :=
  (s.readDesc 0 5).map dExtent == some 4128 && s.qState 0 == 2 && match s.qNext 0 with
  | some c => c.q == 0 && c.op == op && !(s.queue 0).ended && !cmdReserved c && s.crecOk c && more s c
  | none => false

theorem command_of (s : State) (op : Nat) (more : State → Cmd → Bool) (hj : s.job.qtbl = mkCap 5 4096) (hs : s.serving = true) (hp : s.prioPtr = [])
    (ht : s.tookAt = none) (h : commandOk s op more = true) :
    ∃ c, s.myCmd 0 op = some c ∧ (s.queue 0).ended = false ∧ cmdReserved c = false ∧ s.crecOk c = true ∧ more s c = true := by
  simp only [commandOk, Bool.and_eq_true, beq_iff_eq] at h
  obtain ⟨⟨h1, h2⟩, h3⟩ := h
  obtain ⟨w, hw, he⟩ := Option.map_eq_some_iff.mp h1
  cases hn : s.qNext 0 with
  | none => simp [hn] at h3
  | some c =>
    simp only [hn, Bool.and_eq_true, beq_iff_eq, Bool.not_eq_true'] at h3
    obtain ⟨⟨⟨⟨⟨h4, h5⟩, h6⟩, h7⟩, h8⟩, h9⟩ := h3
    exact ⟨c, by simp [State.myCmd, queue_next s w hw he hj hs hp ht h2, hn, h4, h5], h6, h7, h8, h9⟩

theorem queueState_is (x : Queue) (cmd : List (Nat × Nat × Nat)) :
    let s := queueState x cmd
    s.job.qtbl = mkCap 5 4096 ∧ s.serving = true ∧ s.prioPtr = [] ∧ s.tookAt = none ∧ NoPins s :=
  ⟨rfl, rfl, rfl, rfl, by simp [NoPins, queueState, State.reset]⟩

theorem witness_QueueCommands_launch :
    commandOk (queueState {} launchBytes) 0x20 (fun s c => (match s.launchCheck (launchOf c.e) with | .ok _ => true | .error _ => false) &&
      (s.launchLacks (launchOf c.e)).isEmpty && (s.runOf 0 [.running, .done]).isNone) = true := by decide +kernel
/-- A launch of no block; one that the run in slot 1 predicted, and one that it did not; the scopes of a cancel. -/
def badLaunch : List (Nat × Nat × Nat) := [(128, 1, 0x20), (136, 8, 5 * 2 ^ 44 + 2048), (144, 8, 5 * 2 ^ 44), (164, 4, 32)]
def runState (blocks : Nat) : State :=
  { queueState {} launchBytes with slots := [(1, { state := .running, pred := { cmd := { krec := mkCap 5 2048, code := mkCap 5 0, blocks := blocks, blockdim := 32 } } })] }
theorem witness_QueueCommands_claim :
    commandOk (queueState {} badLaunch) 0x20 (fun s c => (match s.launchCheck (launchOf c.e) with | .ok _ => false | .error _ => true) &&
      (s.launchLacks (launchOf c.e)).isEmpty && (s.runOf 0 [.running, .done]).isNone) = true ∧
    ∀ x ∈ [(1, true), (2, false)], commandOk (runState x.1) 0x20 (fun s c =>
      let l := launchOf c.e
      let k := match s.record l with
        | some r => kernelOf r l.code
        | none => {}
      (match s.launchCheck l with | .ok _ => true | .error _ => false) && (s.launchLacks l).isEmpty && s.runOf 0 [.running, .done] == some 1 &&
        (s.slot 1).queue == 0 && (s.slot 1).state == .running && matchesRun k { cmd := l, kernel := k } (s.slot 1).pred == x.2 && k.narg == 0) = true := by decide +kernel
theorem witness_QueueCommands_cancelAll :
    (∀ (k : Nat) (c d : Ctx), (doomedUnit 1).ctx k c = (doomedUnit 1).ctx k d ∧ (State.reset.doomedLaunch 1).ctx k c = (State.reset.doomedLaunch 1).ctx k d) ∧
    Level.launch ≠ .job ∧ sGet (withCtx demoCtx).ctxs 1 = some demoCtx ∧ (doomedUnit 1).ctx 1 demoCtx = true ∧
    (1, demoCtx) ∈ (withCtx demoCtx).ctxs ++ (withCtx demoCtx).saved ∧ demoCtx.handler = false ∧ demoCtx.spec = none ∧ demoCtx.graph = none ∧
    (let s := lastState
     (s.launches.map (fun l => l.no)).Nodup ∧ (s.launches.map (fun l => (l.queue, l.seq))).Nodup ∧
     ∀ l ∈ s.launches, (s.doomedLaunch 0).launch l = true ∧ ∀ p ∈ (s.queue l.queue).pend, p.seq = l.seq → p.fin = none ∧ p.done = false) :=
  ⟨fun _ _ _ => ⟨rfl, rfl⟩, by decide, rfl, rfl, List.mem_singleton.mpr rfl, rfl, rfl, rfl, by decide⟩
theorem witness_QueueCommands_graph :
    commandOk (queueState {} graphBytes) 0x21 (fun s c => s.capOk (fldCap c.e 8) 32 3 8192 && s.graphs.isEmpty &&
      !s.readsWait 0 (s.graphReads 0 (fldCap c.e 8)) && (match s.instNodes 0 (fldCap c.e 8) with
        | .ok ns => (s.graphCause ns (fld c.e 48 8)).isNone && !(startNodes ns).isEmpty
        | .error _ => false)) = true := by decide +kernel
theorem witness_QueueCommands_others :
    commandOk (queueState {} [(128, 1, 0x22)]) 0x22 (fun s c => (s.timeCause (fld c.e 42 2) (fld c.e 48 8)).isNone) = true ∧
    commandOk (queueState {} signalBytes) 0x23 (fun s c => s.capOk (fldCap c.e 8) 8 2 8 && decide (fld c.e 2 2 / 4 % 8 < 4)) = true ∧
    commandOk (queueState {} cancelBytes) 0x24 (fun s c => (s.cancelTarget (fld c.e 8 1) (fld c.e 16 8)).isSome) = true := by decide +kernel

/-- GRUN of an instance at the start of the page, whose graph has one node. -/
theorem witness_QueueCommands_grun :
    let s := pageState [(0, 8, 5 * 2 ^ 44 + 1024), (1024, 2, 1), (1040, 8, 5 * 2 ^ 44)]
    let i := accessCap pageLane .g (.v 8) 0
    NoStores pageCtx ∧ Alone pageCtx ∧ wheelsOf (acting demoBeat pageCtx {}) = [pageLane] ∧
    s.pinCheck 0 true (s.access pageSite pageLane { sp := .g, n := 32, align := 8192, need := 3, write := true } (.v 8) 0) =
      .ok (run (pageP 0) 32) [(5, 0, 785)] ∧
    s.readsWait 0 (s.graphReads 0 i) = false ∧
    (match s.instNodes 0 i with
      | .ok ns => (s.startCause 0 ns (readSrc pageLane 2 (.imm 0))).isNone && decide (s.graphs.length + 1 ≤ 256) &&
          decide ((s.die 0).tasks.length + (startNodes ns).length ≤ 65536)
      | .error _ => false) = true := by
  unfold NoStores Alone; decide +kernel

/-- Chain 5:0 with a linear copy to take, and engine 0 of die 0 at work on an end-of-stream entry, faulted or not. -/
def engState : State :=
  { pageState [(0, 8, 5 * 2 ^ 44 + 512), (16, 8, 1), (24, 8, 1), (512, 1, 1)] with chains := [{ ccb := mkCap 5 0, die := 0, eng := 0, pubs := [(1, 1, 0)] }] }
def engineState (fault : Option Nat) : State :=
  { State.reset with
    dies := [(0, { engines := [(0, { run := some { ccb := mkCap 5 0, seq := 1, entry := mkCap 5 512, ent := natBytes 128 15, fault := fault } })] })]
    chains := [{ ccb := mkCap 5 0, die := 0, eng := 0, pubs := [(1, 1, 0)] }] }
theorem witness_EngineEvents :
    (let s := engState
     NoPins s ∧ s.nextCmd = none ∧
     (match s.engNext 0 0 with
      | some (ch, n, e) => !e.isEmpty && fld e 0 1 == 1 && !ch.ended && decide ((s.core (ch.publisher n.seq).2).locks.length + 2 ≤ 64) &&
          (ch.queue.isSome || ch.fill || (match s.ccbPlace 0 ch.ccb with | some blk => s.ccbClean 0 blk | none => true))
      | none => false) = true) ∧
    (match (engineState none).engineOutcome 0 0 with | some (_, cells, _, none) => cells.all (fun x => !isRemote x.1) | _ => false) = true ∧
    (match (engineState (some 4)).engineOutcome 0 0 with | some (_, cells, _, some _) => cells.all (fun x => !isRemote x.1) | _ => false) = true ∧
    (engineState (some 4)).badCmd 0 0 = none ∧ ∀ fault, NoPins (engineState fault) := by
  refine ⟨⟨by simp [NoPins, engState, pageState], by decide +kernel, by decide +kernel⟩, by decide +kernel, by decide +kernel, by decide +kernel, fun _ => ?_⟩
  simp [NoPins, engineState, State.reset]

/-- An entry of chain 5:0 at byte 512: a linear copy of 64 bytes from 5:1024 to 5:2048, a fill of 64 bytes there, and an arrival at the last barrier word of the block. -/
def pageRun (ent : Nat) : Running := { ccb := mkCap 5 0, seq := 1, entry := mkCap 5 512, ctx := 1, ent := natBytes 128 ent }
def copyRun : Running := pageRun (1 + (5 * 2 ^ 44 + 1024) * 2 ^ 64 + (5 * 2 ^ 44 + 2048) * 2 ^ 128 + 64 * 2 ^ 256)
def fillRun : Running := pageRun (4 + (5 * 2 ^ 44 + 2048) * 2 ^ 128 + 64 * 2 ^ 256)
def arriveRun (gen : Nat) : Running := pageRun (5 + 2 ^ 16 + gen * 2 ^ 32 + 1016 * 2 ^ 192)
def runningState (r : Running) : State :=
  { pageState [(0, 8, 5 * 2 ^ 44 + 512), (16, 8, 1), (24, 8, 1)] with
    dies := [(0, { engines := [(0, { run := some r })], lcache := [{ obj := 5, page := 0, word := 785, till := 9 }] })]
    chains := [{ ccb := mkCap 5 0, die := 0, eng := 0, pubs := [(1, 1, 0)] }] }
theorem witness_EngineEvents_data :
    ∀ r ∈ [copyRun, fillRun], let s := runningState r
      let e := r.ent
      ((s.engine 0 0).run = some r ∧ r.fault = none ∧ r.moved = false ∧ r.dropped = false ∧ r.reads = [] ∧ r.writes = []) ∧
      s.side 0 r.ctx (entD e) (fld e 16 8) (fld e 32 8) (dstNeed (s.wobjOf r.owner) (fld e 16 8 / 2 ^ 44)) = (run (pageP 2048) 64, none) ∧
      (fld e 0 1 = 1 → s.side 0 r.ctx (entS e) (fld e 8 8) (fld e 32 8) 1 = (run (pageP 1024) 64, none)) ∧
      (∀ p ∈ run (pageP 1024) 64, s.poisonedAt p = false) ∧ fld copyRun.ent 0 1 = 1 ∧ fld fillRun.ent 0 1 = 4 := by decide +kernel
theorem witness_EngineEvents_ends :
    let s := runningState copyRun
    let r := copyRun
    let es := run (pageP 540) 4
    let w := fun (code cause : Nat) => s.unitSet 0 (capAdd r.entry 28) 4 (statusWord (if cause = 0 then r.valid else 0) code cause)
    r.queue = none ∧ r.owner = none ∧ (s.chainOf 0 r).map (fun c => (c.ccb, c.die)) = some (mkCap 5 0, 0) ∧ es.Nodup ∧ (∀ p ∈ es, pTag p = 0 ∧ p ∉ run (pageP 0) 64) ∧
    pTag (pageP 0) = 0 ∧ (s.unitRange 0 (capAdd r.entry 28) 4 2 true false).toOption = some es ∧ (w 0 0).ccbPlace 0 (mkCap 5 0) = some (pageP 0) ∧
    (w 2 4).ccbPlace 0 (mkCap 5 0) = some (pageP 0) ∧ entBarv r.ent = false ∧ entBarv (arriveRun 3).ent = true := by decide +kernel
theorem witness_EngineEvents_arrival :
    let s := demoBarrier (pbWord { pending := 1, expected := 65535, phase := 0, gen := 3 })
    let b := pbOf (s.num (sharedP 1 1016) 8)
    s.anyCtx (arriveRun 3).ctx = some demoCtx ∧ State.reset.anyCtx (arriveRun 3).ctx = none ∧ fld (arriveRun 3).ent 24 4 = 1016 ∧ 1016 % 8 = 0 ∧
    1016 + 8 ≤ demoCtx.kernel.sharedBytes ∧ b.gen = fld (arriveRun 3).ent 4 2 % 2 ^ 15 ∧ b.gen ≠ fld (arriveRun 4).ent 4 2 % 2 ^ 15 ∧ b.expected ≠ 0 ∧ b.pending ≠ 0 := by decide
theorem witness_EngineEvents_unitWrite :
    ((pageState []).unitRange 0 (mkCap 5 65528) 8 2 true false).toOption = some (run (pageP 65528) 8) ∧ (run (pageP 65528) 8).Nodup ∧
    ∀ p ∈ run (pageP 65528) 8, isRemote p = false ∧ pTag p ≠ 7 := by decide +kernel
/-- Command 3 of queue 5, with a completion record or not, and the same when it has ended. -/
def openCmd (crec : Option Cap) : Pending := { seq := 3, op := 0x20, entry := mkCap 5 128, crec := crec }
def openState (crec : Option Cap) : State := { lastState with queues := [(5, { taken := 3, pend := [openCmd crec] })] }
def endedState (crec : Option Cap) : State := (openState crec).modPend 5 3 (fun p => { p with fin := some (statusWord 0 4 0, 7) })
theorem witness_EngineEvents_commands (crec : Option Cap) (h : crec = none ∨ crec = some (mkCap 5 256)) :
    ((openState crec).queue 5).pend.find? (fun p => p.seq == 3 && !p.done) = some (openCmd crec) ∧ (openCmd crec).fin = none ∧
    (((openState crec).queue 5).pend.map (fun p => p.seq)).Nodup ∧ (endedState crec).releaseAll.allReleased true = true ∧
    (endedState crec).releaseAll.cmdOwes { openCmd crec with fin := some (statusWord 0 4 0, 7) } = false := by
  obtain rfl | rfl := h <;> exact ⟨by decide +kernel, rfl, by decide +kernel, by decide +kernel, by decide +kernel⟩
def doneState (pend : List Pending) : State := queueState { taken := 2, pend := pend } []
theorem witness_EngineEvents_doneseq (pend : List Pending) (h : pend = [] ∨ pend = [{ openCmd none with seq := 1, done := true }, { openCmd none with seq := 2 }]) :
    let at_ := fun (u : State) => (u.qdesc 0).bind (fun d => u.ccbPlace 0 d.chain)
    at_ (doneState pend) = some (pageP 512) ∧ at_ ((doneState pend).setCcb 0 (pageP 512) 32 8 2) = some (pageP 512) ∧
    at_ ((doneState pend).setCcb 0 (pageP 512) 32 8 1) = some (pageP 512) ∧ pTag (pageP 512) = 0 := by
  obtain rfl | rfl := h <;> exact ⟨by decide +kernel, by decide +kernel, by decide +kernel, by decide +kernel⟩

/-- A launch with a block to place, the head task of die 0, and a saved block. -/
def workState (ls : List Launch) (ts : List Task) (saved : List (Nat × Ctx)) : State :=
  { State.reset with job := { state := .run }, launches := ls, saved := saved, dies := [(0, { tasks := ts })] }
def blockLaunch (next : Nat) (restore : List Nat) : Launch :=
  { no := 1, kernel := { roles := [1] }, cmd := { blocks := 1, blockdim := 32 }, units := 1, next := next, restore := restore }
def demoTask : Task := { entry := mkCap 5 0, args := 0, tile := 0, succ := 0, time := 0, loc := 0, flags := 0, gen := 0 }
/-- A block that is being saved, and one that a save is asked of, each with a load outstanding. -/
def loadingCtx : Ctx := { demoCtx with loads := [{ ltag := 7, tids := [0], wheel := 0, dreg := 4, nreg := 2, nbytes := 8 }] }
def savingCtx : Ctx := { loadingCtx with saving := true }
theorem witness_Placement :
    (∀ ls ts sv, NoPins (workState ls ts sv) ∧ (∀ e ∈ (workState ls ts sv).ctxs, e.2.spec = none) ∧ ∀ j, j < 4 → ((workState ls ts sv).slot j).state = .idle) ∧
    (let s := workState [blockLaunch 0 []] [] []
     (s.nextWork.map (fun w => (w.head, (s.headCores w.head (fun _ c => c.isRun)).isSome))) = some (.block 1, true)) ∧
    (let s := workState [] [demoTask] []
     (s.nextWork.map (fun w => (w.head, (s.headCores w.head (fun _ c => c.isRun)).isSome))) = some (.task 0, true)) ∧
    (let s := workState [blockLaunch 1 [7]] [] [(7, loadingCtx)]
     (s.nextWork.map (fun w => (w.head, (s.headCores w.head (fun _ c => c.isRun)).isSome))) = some (.saved 7, true) ∧
     (match s.headCores (.saved 7) (fun _ c => c.isRun) with | some cores => s.locksFit loadingCtx cores | none => false) = true ∧ ∀ o ∈ loadingCtx.loads, o.arrived = false ∧ o.refused = false) ∧
    (∀ c ∈ [savingCtx, loadingCtx], c.handler = false ∧ c.cancelled = false ∧ NoStores c ∧
      let s : State := { withCtx c with dies := [(0, { pools := { save := c.areaBytes } })] }
      (c.saving = true ∨ c.areaBytes ≤ (s.die c.die).pools.save) ∧ (s.stopCtx 1).stopped 1 c = true) ∧
    Clean ({ withCtx savingCtx with dies := [(0, { pools := { save := savingCtx.areaBytes } })] }) := by
  refine ⟨fun ls ts sv => ⟨by simp [NoPins, workState, State.reset], by simp [workState, State.reset], fun j _ => by simp [workState, State.reset, State.slot, sGet]⟩,
    by decide +kernel, by decide +kernel, ⟨by decide +kernel, by decide +kernel, by decide⟩, by unfold NoStores; decide +kernel, ?_⟩
  simp [Clean, withCtx, State.reset]

/-- A queue that may start a run, a claiming slot, one in its commit, and one that nobody claimed in time. -/
def specPred : Hist := { cmd := { krec := mkCap 5 2048, code := mkCap 5 0, blocks := 1, blockdim := 32 } }
def predState : State := { queueState { conf := 7, hist := [specPred, specPred] } [] with pectl := { argobj := 5 } }
def slotState (cycle : Nat) (x : Slot) : State := { State.reset with cycle := cycle, slots := [(2, x)] }
def claimed (st : RunState) (monitors : Sparse (List Nat)) : State := slotState 0 { state := st, claim := some (1, 3), readSet := [9], monitors := monitors }
theorem witness_SpeculativeRuns :
    (NoPins predState ∧ predState.runQueue = some 0 ∧ (predState.mayRun 0).isSome = true) ∧
    (∀ x ∈ [([(0, [8])], false), ([(0, [9])], true)], let s := claimed .claiming x.1
      (s.slot 2).state = .claiming ∧ (s.slot 2).claim = some (1, 3) ∧ (s.slot 2).conflict = x.2 ∧ s.agenda.all isClaimCheck = true) ∧
    (let s := claimed .commit []
     NoPins s ∧ (s.slot 2).state = .commit ∧ (s.slot 2).claim = some (1, 3) ∧ s.countAccepted 1 = true) ∧
    (let s := slotState (2 ^ 22 + 1) { state := .done }
     (s.slot 2).state = .done ∧ max (s.queue (s.slot 2).queue).lastTake (s.slot 2).doneAt + 2 ^ 22 < s.cycle) := by
  refine ⟨⟨by simp [NoPins, predState, queueState, State.reset], by decide +kernel, by decide +kernel⟩, by decide,
    ⟨by simp [NoPins, claimed, slotState, State.reset], by decide, by decide, by decide⟩, by decide⟩

/-- The commit of a run that was DONE, with a byte to write to frame 3 of die 0, and its launch. -/
def commitState : State :=
  { slotState 0 { state := .commit, claim := some (1, 3), wasDone := true } with
    mem := mPuts [] [(shadowP 4 8, 9)]
    shadow := [{ slot := 2, die := 0, frame := 3, page := 4, mask := [8] }]
    launches := [{ no := 1, kernel := {}, cmd := {}, units := 0, slot := some 2, seq := 3 }] }
theorem witness_SpeculativeRuns_commit :
    let s := commitState
    let cells := (s.shadow.filter (fun p => p.slot == 2)).flatMap (fun p => p.mask.map (fun o => (canopyP p.die (p.frame * 65536 + o), s.byte (shadowP p.page o))))
    NoPins s ∧ (s.slot 2).state = .commit ∧ (s.slot 2).claim = some (1, 3) ∧ s.countAccepted 1 = true ∧ (∀ e ∈ s.ctxs, e.2.spec = some 2 → NoStores e.2) ∧
    cells = [(pageP 8, 9)] ∧ (cells.map (fun c => c.1)).Nodup ∧ (s.slot 2).wasDone = true ∧ Clean s ∧ (∀ e ∈ s.dies, e.2.evAcks = []) ∧
    s.owesGrid (fun c => c.launch == 1 && c.graph.isNone) = false ∧ (s.launches.find? (fun l => l.no == 1)).map (fun l => l.cancelled) = some false :=
  ⟨by simp [NoPins, commitState, slotState, State.reset], by decide, by decide, by decide, List.forall_mem_nil _, by decide +kernel, by decide +kernel, by decide,
    demo_clean _ (.inl rfl) (.inl rfl), List.forall_mem_nil _, by decide, by decide⟩

/-- The machine with object 5 mapped, and a table command of die 0: OP, PAGE 5:0, and its operand. -/
def cmdState (op arg : Nat) (wait : Option TWait) (pools : Pools) : State :=
  { State.reset with
    cycle := 1, job := tableJob
    dies := [(0, { twait := wait, pools := pools })]
    mem := mPuts (tableMem 65536 []) ((run (tcoP 0) 48).zip (natBytes 48 (op + 5 * 2 ^ 108 + arg * 2 ^ 128 + 2 ^ 256))) }
def takesCmd (s : State) (op : Nat) : Bool := s.tableReady 0 && s.cmdFld 0 0 1 == op && !s.tableReserved 0 && !s.tableNoObj 0
def moveWait (frame : Option Nat) : TWait := { till := 0, seq := 1, page := mkCap 5 0, old := 785, target := 1, frame := frame }
theorem witness_TableCommands :
    (takesCmd (cmdState 4 0 none {}) 4 = true ∧ takesCmd (cmdState 2 1 none {}) 2 = true) ∧
    (let s := cmdState 3 (65536 + 31 * 2 ^ 64 + 2 ^ 69) none {}
     takesCmd s 3 = true ∧ s.descBad (s.cmdFld 0 16 16) = false) ∧
    (takesCmd (cmdState 1 0 none {}) 1 = true ∧ leafHeld 0 (leafFor 0 0 ((cmdState 1 0 none {}).cmdFld 0 16 8)) = none) ∧
    (let s := cmdState 1 785 none {}
     takesCmd s 1 = true ∧ leafHeld 0 (leafFor 0 0 (s.cmdFld 0 16 8)) = some (0, 3) ∧ leafHeld 0 (s.leafWord 0 5 0) = some (0, 3)) ∧
    (let s := cmdState 1 2321 none {}
     takesCmd s 1 = true ∧ leafHeld 0 (leafFor 0 0 (s.cmdFld 0 16 8)) = some (0, 9) ∧ (leafHeld 0 (s.leafWord 0 5 0)).isNone = false) ∧
    (let s := cmdState 2 1 (some (moveWait none)) {}
     (moveWait none).till < s.cycle ∧ NoPins s ∧ s.pageDrained (s.oldPage 0 (moveWait none)) = true ∧ (s.die 1).pools.lowest = some 0) ∧
    (let s := cmdState 2 0 (some { moveWait none with target := 0 }) { aside := 2 ^ 21 }
     (s.die 0).pools.lowest = none) ∧
    ((cmdState 2 1 (some (moveWait (some 7))) {}).migrateOutcome 0 (moveWait (some 7))).isSome = true ∧
    (cmdState 2 1 (some { moveWait none with status := some 0 }) {}).die 0 = { twait := some { moveWait none with status := some 0 } } ∧
    (let s := cmdState 0 0 none { back := [(9, 0)] }
     (9, 0) ∈ (s.die 0).pools.back ∧ 0 < s.cycle ∧ s.pageDrained (canopyP 0 (9 * 65536)) = true) := by
  refine ⟨by decide +kernel, by decide +kernel, by decide +kernel, by decide +kernel, by decide +kernel,
    ⟨by decide, by simp [NoPins, cmdState, State.reset], by decide +kernel, by decide +kernel⟩, by decide +kernel, by decide +kernel, by decide +kernel, by decide +kernel⟩

/-- The page that is copied: 65,536 bytes, none of them poisoned. -/
theorem witness_TableCommands_data :
    ∃ data, (cmdState 2 1 (some (moveWait (some 7))) {}).migrateOutcome 0 (moveWait (some 7)) = some (false, data) ∧ data.length = 65536 :=
  ⟨_, by rw [State.migrateOutcome, if_neg (by decide), if_neg (by decide +kernel)]; rfl, by simp [State.bytes, run]⟩

/-- Waits for a descriptor and for a leaf entry; a filled entry, a faulted one, and one whose eviction is over and owes a refill. -/
def missCtx (e : LeaseAt) : Ctx := { demoCtx with waits := [{ wid := 3, tids := [0], kind := .miss e }] }
def entryState (r : Resid) : State := { State.reset with cycle := 1, resid := [(4095, r)] }
theorem witness_CachedTables :
    (∀ e ∈ [LeaseAt.desc 0 5, .leaf 0 5 0], sGet (withCtx (missCtx e)).ctxs 1 = some (missCtx e) ∧ ∃ w ∈ (missCtx e).waits, w.kind = .miss e) ∧
    (let r := (entryState { state := 1, mapped := true, nt := 2, filled := 3 }).residOf 4095
     r.state = 1 ∧ r.mapped = true ∧ r.bad = false ∧ r.nt + 1 ≤ r.filled) ∧
    (let r := (entryState { state := 1, bad := true, frames := [4] }).residOf 4095
     r.state = 1 ∧ r.bad = true) ∧
    (let s := entryState { state := 4, evictAt := 0, refill := true, refs := 2, frames := [4] }
     (s.residOf 4095).state = 4 ∧ (s.residOf 4095).evictAt < s.cycle ∧ (s.resid.map (fun x => x.1)).Nodup ∧
       ∀ f ∈ (s.residOf 4095).frames, s.pageIdle (canopyP (s.residOf 4095).wdie (f * 65536)) = true) := by
  refine ⟨?_, by decide, by decide, by decide⟩
  intro e m
  simp only [List.mem_cons, List.not_mem_nil, or_false] at m
  obtain rfl | rfl := m <;> exact ⟨rfl, _, List.mem_singleton.mpr rfl, rfl⟩

/-- A regulator whose batch closes, one with a batch to sequence, one whose frontiers are due, and an unacknowledged batch. -/
def regState (cycle : Nat) (r : Regulator) (sent : List Sent) : State := { State.reset with cycle := cycle, dies := [(0, { reg := r })], sendbuf := sent }
def demoUpd : Upd := { loc := 0, time := 0, delta := 1 }
def sentBatch : Sent := { seq := 9, upds := [demoUpd], dests := [(1, .sent (some 0) 0)] }
theorem witness_ProgressBatches :
    (let s := regState 65 { issued := [{ upd := demoUpd, owner := some .job, at_ := 0 }] } []
     (s.reg 0).closes s.cycle = true) ∧
    (let b : Submitted := { die := 0, items := [{ upd := demoUpd, owner := some .job }] }
     let s : State := { State.reset with submitted := [b] }
     s.nextBatch = some b ∧ b.die = 0) ∧
    (let s := State.reset
     (∀ d ∈ [0, 1, 2, 3], (s.reg d).nextOf s.mycoord = s.seq ∧ (s.reg d).nextOf 1 = 1 ∧ (s.reg d).stopped = false ∧ (s.reg d).heldRoom = [] ∧ (s.reg d).reorder = [] ∧
       (s.reg d).fits [demoUpd] = true ∧ overflows ((s.reg d).count demoUpd.loc demoUpd.time + demoUpd.delta) = false) ∧
     ([demoUpd].map (fun u => (u.loc, u.time))).Nodup) ∧
    (∀ st ∈ [EvState.transfer, .drain, .safe, .abort], ({ State.reset with mgmt := { evctl := { state := st } } } : State).mgmt.evctl.state = st) ∧
    (({ src := 1, seq := 1, upds := [demoUpd] } : Batch).bad = false ∧ State.reset.handingOver = false) ∧
    ((regState 1 {} [sentBatch]).sendbuf.any (fun b => b.seq == 9 && b.dests.any (fun x => x.1 == 1))) = true ∧
    (let s := regState (2 ^ 20 + 1) {} [sentBatch]
     s.sendbuf.find? (fun x => x.seq == 9) = some sentBatch ∧ sentBatch.dests.find? (fun x => x.1 == 1) = some (1, .sent (some 0) 0) ∧
       0 + 2 ^ 20 < s.cycle) ∧
    (let s := regState 1 { announce := some 0 } []
     (s.reg 0).announce = some 0 ∧ 0 < s.cycle ∧ (s.reg 0).stopped = false) ∧
    newFront (some (some 5)) (some 7) = some (7 : BitVec 64) ∧
    overflows (((regState 0 {} []).reg 0).count demoUpd.loc demoUpd.time + demoUpd.delta) = false := by decide +kernel

/-- A grid of two devices: contributions to the other one, new and old, and to this one; packets from outside. -/
def demoPkt : Pkt := { ty := 1, esize := 8, nelem := 1, obj := 5, offs := [0], data := natBytes 8 7, cseq := 3 }
def demoContrib (dst : Nat) (d : DestState) : Contrib := { cseq := 3, ctx := 1, tids := [0], pkts := [demoPkt], dests := [(dst, d)] }
def gridState (cycle : Nat) (g : GridUnit) : State :=
  { tableState [] with
    cycle := cycle, grid := [2], links := [(0, { state := .up })]
    dies := [(0, { grid := g, fabric := { rules := [(0, { valid := true })] }, lcache := [{ obj := 5, page := 0, word := 785, till := 9 }] })] }
theorem witness_GridEvents :
    (let s := gridState 0 { contribs := [demoContrib 1 .fresh] }
     1 ≠ s.coordAt 0 ∧ s.owedBefore 0 3 1 = [] ∧ (s.destWord 0 (coordRank s.grid 1)).hold = false ∧ s.route 0 (s.useBank 0 1) 1 = some (0, false) ∧ (s.die 0).grid.staged = [] ∧ s.nextSend 0 = some (demoContrib 1 .fresh, 1)) ∧
    (let c := demoContrib 1 (.retryAt 256)
     let s := gridState 256 { contribs := [c] }
     s.resendAt 0 3 1 (fun d => match d with | .retryAt k => decide (k ≤ s.cycle) | _ => false) = some c) ∧
    (let c := demoContrib 1 (.sent (some 0) 0)
     let s := gridState (2 ^ 20 + 1) { contribs := [c] }
     s.resendAt 0 3 1 (fun d => match d with | .sent _ k => decide (k + 2 ^ 20 < s.cycle) | _ => false) = some c) ∧
    (let s := gridState 0 { contribs := [demoContrib 0 .fresh] }
     s.nextSend 0 = some (demoContrib 0 .fresh, s.coordAt 0)) ∧
    (let s := gridState 0 {}
     let p := demoPkt
     let u := (s.gridHot 0 p).dropOwn 0 p
     p.bad = false ∧ p.dstc = s.coordAt 0 ∧ p.srcc = s.coordAt 0 ∧ s.waitsHere p = false ∧ s.stalePkt 0 p = false ∧ s.reasmOf p = none ∧ p.npkt = 1 ∧ p.rgv = false ∧ p.ty ≤ 2 ∧
       p.nelem = 1 ∧ p.poison = false ∧ p.void = false ∧ s.srcDelayed p = false ∧ s.retriedOf 0 p = [] ∧ s.pktPinned 0 p = false ∧
       (u.elemSpot 0 p 0).map (fun x => x.1) = some (run (pageP 0) 8) ∧ (run (pageP 0) 8).Nodup ∧ (p.data.take p.esize).length = 8 ∧
       ∀ q ∈ run (pageP 0) 8, pTag q ≠ 7) ∧
    (let s := gridState 0 {}
     let r : PeerReq := { src := 1, tag := 4, obj := 5, ofs := 65528, n := 8, op := .read }
     (s.unitRange 0 (mkCap r.obj r.ofs) r.n 1 false false).toOption = some (run (pageP 65528) 8) ∧ r.ofs < 2 ^ 44 ∧
       ∀ q ∈ run (pageP 65528) 8, pTag q = 0 ∧ s.pinned 160 (lineOf q) = false ∧ s.poison.contains (place (pTag q) (pIdx q / 4 * 4)) = false) ∧
    (∀ st ∈ [0, 4, 5], let s := gridState 1 { contribs := [demoContrib 1 (.sent (some 0) 0)] }
     let p : Pkt := { ty := 0, srcc := 1, cseq := 3, status := st }
     (s.die 0).grid.contribs.find? (fun c => c.cseq == p.cseq && c.dests.any (fun x => x.1 == p.srcc)) = some (demoContrib 1 (.sent (some 0) 0)) ∧
       ((demoContrib 1 (.sent (some 0) 0)).pkts.headD {}).ty ≤ 3) ∧
    (let s := gridState 0 {}
     let p := { demoPkt with dstc := 1, detour := true }
     p.detour = true ∧ p.relayed = false ∧ s.route 0 (if p.ver then 1 else 0) p.dstc = some (0, false)) ∧
    (let p : Pkt := { demoPkt with dstc := 1 }
     let s := gridState 0 { held := [{ msg := .pkt p, at_ := 0 }] }
     (s.die 0).grid.held = [{ msg := .pkt p, at_ := 0 }] ∧ 0 ≤ s.cycle ∧ p.dstc ≠ s.coordAt 0 ∧ s.route 0 (s.curBank 0) p.dstc = some (0, false)) := by decide +kernel
theorem witness_GridReplies :
    let c := { demoContrib 1 (.sent (some 0) 0) with pkts := [{ demoPkt with ty := 4 }] }
    let s := gridState 1 { contribs := [c] }
    (s.die 0).grid.contribs.find? (fun c => c.cseq == 3 && c.dests.any (fun x => x.1 == 1)) = some c ∧ 3 < (c.pkts.headD {}).ty := by decide +kernel

/-- A link in a state, with flits that it accepts, control flits, and flits with neither seed. -/
def linkState (cycle : Nat) (k : Link) : State := { State.reset with cycle := cycle, links := [(3, k)] }
def zeros60 : List Byte := List.replicate 60 0
theorem witness_LinkEvents :
    (let k : Link := { state := .up, exp := 4095 }
     flitOk (seqSeed k.exp) (sealFlit (seqSeed 4095) zeros60) = true ∧
     (flitOk (seqSeed k.exp) (sealFlit 0 zeros60) = false ∧ flitOk 0 (sealFlit 0 zeros60) = true ∧ (k.control (sealFlit 0 zeros60) 0).2 = false) ∧
     (flitOk (seqSeed k.exp) (zeros60 ++ [1, 2, 3, 4]) = false ∧ flitOk 0 (zeros60 ++ [1, 2, 3, 4]) = false)) ∧
    (let k : Link := { state := .up, txq := [.pkt demoPkt, .back 1 2 0 0 false false false] }
     k.state = .up ∧ (k.txq.filter (fun m => m.chan == 1 || (match m with | .back _ _ _ _ _ _ r => !r | _ => false))).length = 1) ∧
    (let s := linkState 4097 { state := .up, replay := [(7, zeros60)], rounds := 16 }
     (s.link 3).state = .up ∧ (s.link 3).replay ≠ [] ∧ (s.link 3).ackAt + 4096 < s.cycle ∧ 16 ≤ (s.link 3).rounds) ∧
    (let s := linkState (2 ^ 24 + 1) { state := .train, lexpChk := true, lexpPeer := 5 }
     (s.link 3).state = .train ∧ (s.link 3).lexpChk = true ∧ (s.link 3).lexpPeer ≠ 6 ∧ (s.link 3).since + 2 ^ 24 < s.cycle) ∧
    (let s := linkState (2 ^ 22 + 1) { state := .failed }
     (s.link 3).state = .failed ∧ (s.link 3).since + 2 ^ 22 < s.cycle) ∧
    (let s : State := { State.reset with dies := [(3, { fabric := { busy := true } })] }
     (s.die 3).fabric.busy = true ∧ ∀ r, r < 32 → s.pend 3 r = 0) := by decide +kernel

/-- A loaded job: object 5 in every copy, its page in frame 3 of die 0, with the queue table, .gmeta, the summaries and the handlers' record in it. -/
def loadedState (st : JobState) : State :=
  { State.reset with
    mem := mPuts [] (((List.range 4).flatMap (fun d =>
      (run (canopyP d 65696) 32).zip (natBytes 32 (65536 + 31 * 2 ^ 64 + 2 ^ 69)) ++
      (run (canopyP d 131072) 8).zip (natBytes 8 (1 + (if d = 0 then 0 else 2) + 16 + 3 * 256)))) ++ (run (pageP 8260) 2).zip (natBytes 2 8))
    job := { state := st, qtbl := mkCap 5 0, gmeta := mkCap 5 8192, psum := mkCap 5 12288
             otbl := (List.range 4).map (fun d => (d, { dirframe := 1, nobj := 16, leafframe := 2, leafbytes := 8 }))
             handler := (List.range 4).map (fun d => (d, { krec := mkCap 5 8256, code := mkCap 5 0, args := mkCap 5 12352 })) }
    qps := [(16, { die := 0, tag := 7, control := true, mtu := 1024, base := 0 })] }
/-- The leaf entries of object 5 stand apart from each other, from its descriptors and from frame 7 of die 1. -/
theorem witness_TableCommands_apart :
    let s := loadedState .run
    ∀ c ∈ [0, 1, 2, 3], ∀ w ∈ (s.readDesc c 5).toList,
      (∀ p ∈ run (s.leafP c (dLeafofs w) 0) 8, ∀ d ∈ [0, 1, 2, 3], p ∉ run (s.descP d 5) 32 ∧
        ∀ v ∈ (s.readDesc d 5).toList, d ≠ c → p ∉ run (s.leafP d (dLeafofs v) 0) 8) ∧
      (∀ d ∈ [0, 1, 2, 3], c ≠ d → ∀ p ∈ run (s.descP c 5) 16, p ∉ run (s.descP d 5) 16) ∧
      ∀ p ∈ run (s.descP c 5) 32 ++ run (s.leafP c (dLeafofs w) 0) 8, p < canopyP 1 (7 * 65536) ∨ canopyP 1 (8 * 65536) ≤ p := by decide +kernel

def demoRdma (obj ofs : Nat) : Rdma := { qp := 16, rkey := 7 * 2 ^ 20 + obj, addr := mkCap obj ofs }
theorem witness_HostRequests :
    State.reset.mgmt.power = .main ∧ State.reset.mgmt.inReset = true ∧ ({ power := .main, inReset := false } : Mgmt).inReset = false ∧
    ({ mtu := 4096 } : QpOpts).reliable = true ∧ ({ mtu := 4096 } : QpOpts).mtu ∈ [1024, 2048, 4096] ∧ ({ mtu := 512 } : QpOpts).mtu ∉ [1024, 2048, 4096] ∧ (loadedState .run).qpDelayed 16 = false ∧ (loadedState .run).forHost 16 = [] ∧
    (loadedState .run).rdmaAt (demoRdma 6 0) 8 2 true = .refused ∧ (loadedState .run).rdmaAt (demoRdma 6 0) 8 1 false = .refused ∧
    (loadedState .run).rdmaAt (demoRdma 0xFFFFF 0x2000) 4 2 true = .control 0x2000 ∧
    (loadedState .loading).rdmaAt (demoRdma 0xFFFFF (2 ^ 39 + 64)) 8 2 true = .loader (canopyP 0 64) ∧
    (∀ w ∈ [(2, true), (1, false), (8, true)], (loadedState .run).rdmaAt (demoRdma 5 65528) 8 w.1 w.2 = .places 0 (run (pageP 65528) 8)) ∧
    (∀ p ∈ run (pageP 65528) 8, isRemote p = false ∧ (loadedState .run).pinned 160 (lineOf p) = false ∧
      (loadedState .run).poison.contains (place (pTag p) (pIdx p / 4 * 4)) = false ∧ pTag p = 0) ∧
    (run (pageP 65528) 8).Nodup ∧ capOfs (demoRdma 5 65528).addr % 8 = 0 ∧
    (withCtx demoLoads).loadCtx 7 = some 1 ∧ State.reset.loadCtx 7 = none ∧ wideReg 0x2000 = false ∧
    State.reset.job.state = .idle ∧ (loadedState .loading).goErr = 0 ∧ ({ State.reset with job := { state := .loading } } : State).goErr ≠ 0 ∧
    ({ State.reset with cycle := 1, job := { state := .ending } } : State).endingOver = true := by decide +kernel
theorem witness_HostRequests_pub : (loadedState .run).pubOf (((run (pageP 65528) 8).zip (natBytes 8 1)).map (fun c => c.1)) = [] := by decide +kernel

/-- The controller in the states of the module and of the handshake. -/
def mgmtState (power : Power) (st : EvState) (cycle : Nat) : State :=
  { State.reset with cycle := cycle, mgmt := { power := power, inReset := false, evctl := { state := st, spare := 1 } } }
theorem witness_ManagementEvents :
    (∀ p ∈ [Power.off, .recovery, .main], (mgmtState p .run 0).mgmt.power = p ∧ (mgmtState p .run 0).job.state = .idle) ∧ State.reset.mgmt.inReset = true ∧
    (∀ st ∈ [EvState.run, .evictReq, .quiesce, .transfer, .drain, .safe, .abort], let s := mgmtState .main st 0
      s.mgmt.evctl.state = st ∧ s.mgmt.power = .main ∧ s.quiet = true ∧ s.linksQuiet = true) ∧
    (∀ st ∈ [EvState.evictReq, .quiesce, .transfer, .drain, .abort], (mgmtState .main st (10 ^ 12)).overrun = true) ∧
    (let m : Mgmt := { power := .main, evictSrc := some 3 }
     m.evictSrc = some 3 ∧ m.rxDone = false ∧ (m.receive 0 [5, 6] true).rxEnd = some (m.receive 0 [5, 6] true).rxGot ∧
       (m.receive 2 [5, 6] true).rxEnd ≠ some (m.receive 2 [5, 6] true).rxGot ∧ (m.receive 0 [5, 6] false).rxEnd ≠ some (m.receive 0 [5, 6] false).rxGot) ∧
    (let s : State := State.reset
     (s.reg 0).lateinc < 2 ^ 16 ∧ (s.reg 0).regerr < 2 ^ 16 ∧ (s.reg 0).unreach < 2 ^ 16 ∧ (s.reg 0).view.length < 2 ^ 18 ∧ (s.die 0).fabric.busy = false) := by
  refine ⟨by decide, by decide, by decide, by decide, by decide, by decide⟩

/-- A thread at the start of the page, where the words of the worked encoding after R91 stand. -/
def stepCtx : Ctx := { soloCtx with threads := [{ demoThread 0 with pc := mkCap 5 0 }] }
def stepState : State := { pageState [(0, 12, 0x05022301 + 0x08000800 * 2 ^ 32 + 0x11 * 2 ^ 64)] with beat := none, ctxs := [(1, stepCtx)] }
theorem witness_StepRunsDecodedInstruction :
    stepState.agenda = [] ∧ stepState.nextQuarter = some 0 ∧ stepState.poison = [] ∧
    (let held := stepState.holdMisses (stepState.allGroups 0 0)
     let ready : State := { held.stampAll 0 0 (held.cands 0 0) with turns := 0 :: held.turns }
     match ready.choose 0 0 (held.cands 0 0) with
     | some g => (match g.got with
        | .words w _ _ => !g.lanes.isEmpty && (match decodeWords w.1 w.2.1 w.2.2 with | .ok _ => true | .error _ => false) &&
            (match Op.ofCode (w.1.toNat % 256) with
             | some o => g.lanes.all (fun l => !windowBad o (Raw.ofWords w.1 w.2.1 w.2.2) l.w.window)
             | none => false)
        | _ => false)
     | none => false) = true := by decide +kernel

/-- The event at the head of an agenda. -/
theorem witness_StepRunsDecodedInstruction_event : isEvent .dieResetEnd = true ∧ ({ State.reset with agenda := [.dieResetEnd] } : State).agenda = [.dieResetEnd] := by decide

theorem witness_StepKeepsSound : State.reset.Sound := ⟨by decide, rfl⟩

/-- A word that decodes to a well-formed instruction. -/
theorem witness_DecodeEncode :
    wf (.iadd { guard := .ifP 3 } .s32 true (.v 4) (.v 5) (.imm 17)) = true ∧
    encodeWords (.iadd { guard := .ifP 3 } .s32 true (.v 4) (.v 5) (.imm 17)) = some (0x05022301, 0x08000800, 0x00000011) := by decide

end Sys2Proof.Tests
end

/-! PROOF of O8: 32-bit arithmetic, SAT and ICMP in terms of words (R13, R106, R107, R110). -/

namespace Sys2Proof.Proofs

open Sys2Proof Sys2Proof.Machine Sys2Proof.Claims

/-! ### Integers and bit vectors -/

/-- The signed reading of the low bits of a number is that of the two's-complement word. -/
theorem sgnVal_true {w : Nat} (hw : 0 < w) (n : Nat) : sgnVal true w n = (BitVec.ofNat w n).toInt := by
  have hp : 2 * 2 ^ (w - 1) = 2 ^ w := mul_pow_sub_one hw.ne' 2
  simp only [sgnVal, Bool.true_and, decide_eq_true_eq, BitVec.toInt_eq_toNat_cond, BitVec.toNat_ofNat, Nat.cast_pow, Nat.cast_ofNat]
  by_cases hu : 2 ^ (w - 1) ≤ n % 2 ^ w
  · rw [if_pos hu, if_neg (by omega)]
  · rw [if_neg hu, if_pos (by omega)]

/-- The unsigned reading of the low bits of a number is that of the binary word. -/
theorem sgnVal_false (w n : Nat) : sgnVal false w n = (BitVec.ofNat w n).toNat := by
  simp [sgnVal]

/-- Signed or unsigned, the value of a word goes back to the word. -/
theorem ofInt_sgnVal {w : Nat} (hw : 0 < w) (signed : Bool) (n : Nat) : BitVec.ofInt w (sgnVal signed w n) = BitVec.ofNat w n := by
  cases signed with
  | true => rw [sgnVal_true hw, BitVec.ofInt_toInt]
  | false => rw [sgnVal_false, BitVec.ofInt_natCast, BitVec.ofNat_toNat, BitVec.setWidth_eq]

/-- Wrapping is the word of an exact integer (R13). -/
theorem ofNat_wrapInt (w : Nat) (x : Int) : BitVec.ofNat w (wrapInt w x) = BitVec.ofInt w x := by
  apply BitVec.eq_of_toNat_eq
  simp only [wrapInt, BitVec.toNat_ofNat, BitVec.toNat_ofInt, Nat.cast_pow, Nat.cast_ofNat]
  apply Nat.mod_eq_of_lt
  have hlt := Int.emod_lt_of_pos x (show (0 : Int) < 2 ^ w by positivity)
  have hnn := Int.emod_nonneg x (show (2 ^ w : Int) ≠ 0 by positivity)
  zify
  rwa [Int.toNat_of_nonneg hnn]

/-- The word of a difference. -/
theorem ofInt_sub (w : Nat) (x y : Int) : BitVec.ofInt w (x - y) = BitVec.ofInt w x - BitVec.ofInt w y := by
  rw [Int.sub_eq_add_neg, BitVec.ofInt_add, BitVec.ofInt_neg, BitVec.sub_eq_add_neg]

/-! ### Sources of one word -/

/-- A source of one register holds the number of its word. -/
theorem srcWord_toNat (l : Lane) (x : Src) : (srcWord l x).toNat = readSrc l 1 x := by
  have hlt : readSrc l 1 x < 2 ^ 32 := by
    cases x with
    | v r =>
      have := (l.t.v r.toNat).isLt
      simp only [readSrc, readV]; split <;> simp [wordsNat, this]
    | s r =>
      have := (l.w.s r.toNat).isLt
      simp only [readSrc, readS]; split <;> simp [wordsNat, this]
    | imm i =>
      have := Int.emod_lt_of_pos (immVal i) (show (0 : Int) < 2 ^ 32 by decide)
      simp only [readSrc, wrapInt]; omega
  exact Nat.mod_eq_of_lt hlt

/-- The elements of a 32-bit source: one, its word (R15, R100). -/
theorem readElems_word {ty : Ty} (hw : tyW ty = 32) (hr : tyRegs ty = 1) (l : Lane) (x : Src) :
    readElems l ty x = [(srcWord l x).toNat] := by
  have he : tyElems ty = 1 := by simp [tyElems, hw, hr]
  have hn := srcWord_toNat l x
  have hmod : readSrc l 1 x % 2 ^ 32 = readSrc l 1 x := by rw [← hn]; exact Nat.mod_eq_of_lt (BitVec.isLt _)
  cases x with
  | v r => simpa [readElems, he, hw, hr, elemAt, natBits, hn] using hmod
  | s r => simpa [readElems, he, hw, hr, elemAt, natBits, hn] using hmod
  | imm i => simp [readElems, he, hw, hn, readSrc]

/-- The value of a 32-bit source under its type goes back to its word. -/
theorem ofInt_elemVal {ty : Ty} (hw : tyW ty = 32) (v : Word) : BitVec.ofInt 32 (elemVal ty v.toNat) = v := by
  rw [elemVal, hw, ofInt_sgnVal (by decide), BitVec.ofNat_toNat, BitVec.setWidth_eq]

/-- One packed element of 32 bits is its word. -/
theorem packTy_word {ty : Ty} (hw : tyW ty = 32) (hr : tyRegs ty = 1) (n : Nat) : packTy ty [n] = [BitVec.ofNat 32 n] := by
  rw [packTy, hw, hr]
  have hn : BitVec.ofNat 32 (n % 2 ^ 32 + 2 ^ 32 * 0) = BitVec.ofNat 32 n :=
    BitVec.eq_of_toNat_eq (by simp only [BitVec.toNat_ofNat]; omega)
  exact congrArg (fun v => [v]) hn

/-- The body of R106 over 32 bits without SAT, for one source. -/
theorem intOne_word {ty : Ty} (hw : tyW ty = 32) (hr : tyRegs ty = 1) (f : Int → Int) (l : Lane) (x : Src) :
    intOne ty false f l x = [BitVec.ofInt 32 (f (elemVal ty (srcWord l x).toNat))] := by
  rw [intOne, readElems_word hw hr, List.map_singleton, packTy_word hw hr, elemFit, hw]
  exact congrArg (fun v => [v]) (ofNat_wrapInt 32 _)

/-- The body of R106 over 32 bits, for two sources. -/
theorem intTwo_word {ty : Ty} (hw : tyW ty = 32) (hr : tyRegs ty = 1) (sat : Bool) (f : Int → Int → Int) (l : Lane) (x y : Src) :
    intTwo ty sat f l x y =
      [BitVec.ofInt 32
        (let r := f (elemVal ty (srcWord l x).toNat) (elemVal ty (srcWord l y).toNat)
         if sat then satInt (tySigned ty) 32 r else r)] := by
  rw [intTwo, readElems_word hw hr, readElems_word hw hr, List.zipWith_cons_cons, List.zipWith_nil_left, packTy_word hw hr, elemFit, hw]
  exact congrArg (fun v => [v]) (ofNat_wrapInt 32 _)

/-- A clamped value fits its signed word. -/
theorem toInt_satInt (x : Int) : (BitVec.ofInt 32 (satInt true 32 x)).toInt = max (-2 ^ 31) (min x (2 ^ 31 - 1)) := by
  have hs : satInt true 32 x = max (-2 ^ 31) (min x (2 ^ 31 - 1)) := rfl
  rw [hs]
  exact BitVec.toInt_ofInt_eq_self (by decide) (by omega) (by omega)

/-- The value of a signed 32-bit operand. -/
theorem srcInt_s32 (l : Lane) (x : Src) : srcInt l .s32 x = (srcWord l x).toInt := sgnVal_true (by decide) _

/-- The value of an unsigned 32-bit operand. -/
theorem srcInt_n32 (l : Lane) (x : Src) : srcInt l .n32 x = (srcWord l x).toNat := sgnVal_false 32 _

/-! ### Instructions of one shape -/

section Shapes

variable {s : State} {b : Beat} {c : Ctx} (hi : InIssue s b c)

include hi

/-- An instruction that writes D with what `f` computes, which is `g`. -/
theorem does_regOp {i : Instr} {h : Head} {d : Dst} {f g : Lane → List Word} (he : exec i s = act (regOp h d 3 f) s)
    (hfg : ∀ l, f l = g l) : Does i s b c h (into d g) := by
  rw [← funext hfg, Does, he]
  exact regOp_ran hi h d 3 f

/-- An instruction that writes a predicate with what `f` computes, which is `g`. -/
theorem does_predOp {i : Instr} {h : Head} {pd : BitVec 5} {f g : Lane → Bool} (he : exec i s = act (predOp h pd 3 f) s)
    (hfg : ∀ l, f l = g l) : Does i s b c h (intoP pd g) := by
  rw [← funext hfg, Does, he]
  exact predOp_ran hi h pd 3 f

/-- Over 32 bits without SAT, arithmetic is that of words (R13, R106). -/
theorem intArith_wraps {ty : Ty} (hw : tyW ty = 32) (hr : tyRegs ty = 1) (h : Head) (d : Dst) (x y : Src) :
    Does (.iadd h ty false d x y) s b c h (into d (fun l => [srcWord l x + srcWord l y])) ∧
    Does (.isub h ty false d x y) s b c h (into d (fun l => [srcWord l x - srcWord l y])) ∧
    Does (.imul h ty false d x y) s b c h (into d (fun l => [srcWord l x * srcWord l y])) ∧
    Does (.ineg h ty false d x) s b c h (into d (fun l => [-srcWord l x])) := by
  refine ⟨does_regOp hi rfl fun l => ?_, does_regOp hi rfl fun l => ?_, does_regOp hi rfl fun l => ?_, does_regOp hi rfl fun l => ?_⟩
  · simp [intTwo_word hw hr, BitVec.ofInt_add, ofInt_elemVal hw]
  · simp [intTwo_word hw hr, ofInt_sub, ofInt_elemVal hw]
  · simp [intTwo_word hw hr, BitVec.ofInt_mul, ofInt_elemVal hw]
  · simp [intOne_word hw hr, BitVec.ofInt_neg, ofInt_elemVal hw]

/-- The bitwise instructions over 32 bits are those of words (R110). -/
theorem bitwise_words (h : Head) (d : Dst) (x y : Src) :
    Does (.andB h .b32 d x y) s b c h (into d (fun l => [srcWord l x &&& srcWord l y])) ∧
    Does (.orB h .b32 d x y) s b c h (into d (fun l => [srcWord l x ||| srcWord l y])) ∧
    Does (.xorB h .b32 d x y) s b c h (into d (fun l => [srcWord l x ^^^ srcWord l y])) ∧
    Does (.notB h .b32 d x) s b c h (into d (fun l => [~~~srcWord l x])) := by
  refine ⟨does_regOp hi rfl fun l => ?_, does_regOp hi rfl fun l => ?_, does_regOp hi rfl fun l => ?_, does_regOp hi rfl fun l => ?_⟩
  · exact congrArg (fun v => [v]) BitVec.ofNat_and
  · exact congrArg (fun v => [v]) BitVec.ofNat_or
  · exact congrArg (fun v => [v]) BitVec.ofNat_xor
  · have hnot : BitVec.ofNat 32 (2 ^ 32 - 1 - readSrc l 1 x) = ~~~srcWord l x := by
      apply BitVec.eq_of_toNat_eq
      rw [BitVec.toNat_not, srcWord_toNat, BitVec.toNat_ofNat, Nat.mod_eq_of_lt (by omega)]
    exact congrArg (fun v => [v]) hnot

/-- With SAT the signed sum is clamped to the format (R13). -/
theorem iadd_s32_saturates (h : Head) (d : Dst) (x y : Src) : ∃ f : Lane → Word,
    Does (.iadd h .s32 true d x y) s b c h (into d (fun l => [f l])) ∧
    ∀ l, (f l).toInt = max (-2 ^ 31) (min ((srcWord l x).toInt + (srcWord l y).toInt) (2 ^ 31 - 1)) := by
  refine ⟨fun l => BitVec.ofInt 32 (satInt true 32 ((srcWord l x).toInt + (srcWord l y).toInt)), does_regOp hi rfl fun l => ?_,
    fun l => toInt_satInt _⟩
  have hv : ∀ v : Word, elemVal .s32 v.toNat = v.toInt := fun v =>
    (sgnVal_true (w := 32) (by decide) v.toNat).trans (by rw [BitVec.ofNat_toNat, BitVec.setWidth_eq])
  rw [intTwo_word rfl rfl, hv, hv]
  rfl

/-- The orders of ICMP are those of words (R107). -/
theorem icmp_orders_words (h : Head) (pd : BitVec 5) (x y : Src) :
    Does (.icmp h .s32 .lt false pd x y) s b c h (intoP pd (fun l => (srcWord l x).slt (srcWord l y))) ∧
    Does (.icmp h .n32 .lt false pd x y) s b c h (intoP pd (fun l => (srcWord l x).ult (srcWord l y))) ∧
    Does (.icmp h .s32 .eq false pd x y) s b c h (intoP pd (fun l => srcWord l x == srcWord l y)) ∧
    Does (.icmp h .s32 .ge true pd x y) s b c h (intoP pd (fun l => readP l pd && !(srcWord l x).slt (srcWord l y))) := by
  refine ⟨does_predOp hi rfl fun l => ?_, does_predOp hi rfl fun l => ?_, does_predOp hi rfl fun l => ?_, does_predOp hi rfl fun l => ?_⟩
  · simp [ccHolds, srcInt_s32, BitVec.slt_eq_decide]
  · simp [ccHolds, srcInt_n32, BitVec.ult_eq_decide]
  · simp [ccHolds, srcInt_s32, BitVec.toInt_inj, Bool.beq_eq_decide_eq]
  · simp only [ccHolds, srcInt_s32, BitVec.slt_eq_decide, ← decide_not, Int.not_lt, if_true]

end Shapes

/-- Settles O8: the value of a 32-bit operand goes back to its word, so exact arithmetic wraps to that of words; a clamped value is in the range of the format. -/
theorem wordArithmetic : Obligations.WordArithmetic := by
  refine ⟨fun s b c hi h d x y ty hty => ?_, fun s b c hi => iadd_s32_saturates hi, fun s b c hi => icmp_orders_words hi⟩
  obtain ⟨hw, hr⟩ : tyW ty = 32 ∧ tyRegs ty = 1 := by
    rcases List.mem_pair.1 hty with rfl | rfl <;> exact ⟨rfl, rfl⟩
  obtain ⟨hadd, hsub, hmul, hneg⟩ := intArith_wraps hi hw hr h d x y
  exact ⟨hadd, hsub, hmul, hneg, bitwise_words hi h d x y⟩

end Sys2Proof.Proofs

/-! PROOF of O35: reads of %fstat and flags retire in order (R34, R85, R117). -/

namespace Sys2Proof.Proofs

open Sys2Proof Sys2Proof.Machine Sys2Proof.Claims

/-! ### One context alone -/

/-- A step that sets one context changes nothing else. -/
theorem quiet_setCtx (s : State) (k : Nat) (c : Ctx) : Quiet s k ((s.setCtx k c).seal s.mem) :=
  ⟨fun _ hj => sGet_sPut_ne _ _ hj, fun p => State.byte_seal (s.setCtx k c) p, fun _ => rfl, rfl⟩

/-- The context that was set is there after the step. -/
theorem sGet_setCtx_seal (s : State) (k : Nat) (c : Ctx) (m : List Host.Cell) : sGet ((s.setCtx k c).seal m).ctxs k = some c :=
  sGet_sPut_self _ _ _

/-- A thread of a context whose threads are those of another after a change that keeps their numbers. -/
theorem thread_of_map {c c' : Ctx} {f : Thread → Thread} (hc : c'.threads = c.threads.map f) (hf : ∀ x, (f x).tid = x.tid) (i : Nat) :
    c'.thread i = (c.thread i).map f := by
  rw [Ctx.thread, hc]
  exact find?_map_key c.threads _ f hf i

/-- A wheel of a context whose wheels are those of another after a change that keeps their indices. -/
theorem wheel_of_map {c c' : Ctx} {f : Wheel → Wheel} (hc : c'.wheels = c.wheels.map f) (hf : ∀ w, (f w).idx = w.idx) (j : Nat) :
    c'.wheel j = (c.wheel j).map f := by
  rw [Ctx.wheel, hc]
  exact find?_map_key c.wheels _ f hf j

/-! ### A read of %fstat joins the retirements (R117) -/

/-- The registers and predicates of a thread of the beat are as before; it stands at the next instruction. -/
structure MovedOn (b : Beat) (x y : Thread) : Prop where
  tid : y.tid = x.tid
  regs : ∀ n, y.v n = x.v n
  preds : y.preds = x.preds
  pc : y.pc = if x.tid ∈ b.tids then nextPc b.pc else x.pc

/-- A wheel that may differ in its scoreboard alone. -/
structure SameWheel (w v : Wheel) : Prop where
  idx : v.idx = w.idx
  fstat : v.fstat = w.fstat
  regs : ∀ n, v.s n = w.s n
  retire : v.retire = w.retire

/-- The retirement of a read of %fstat for the lanes of wheel `k`. -/
def fstatRead (cycle : Nat) (clr : Bool) (d : Dst) (ls : List Lane) (k : Nat) : Retire :=
  { due := cycle + 3
    read := some { clr := clr, uni := (dstNum d).2, d := (dstNum d).1, tids := (ls.filter (fun l => l.w.idx == k)).map (fun l => l.t.tid) } }

/-- The read joins the retirements of a lane's home wheel. -/
def joinRead (cycle : Nat) (clr : Bool) (d : Dst) (ls : List Lane) (l : Lane) (w : Wheel) : Wheel :=
  { w with retire := w.retire ++ [fstatRead cycle clr d ls l.w.idx] }

/-- Writing no register leaves the registers of a thread. -/
theorem thread_put_nil_v (t : Thread) (d : Nat) (p : List Pend) (n : Nat) : (t.put d [] p).v n = t.v n := by
  rw [Thread.put_v, if_neg (by rw [List.length_nil]; omega)]

/-- Writing no register leaves the registers of a wheel. -/
theorem wheel_put_nil_s (w : Wheel) (d : Nat) (p : List Pend) (n : Nat) : (w.put d [] p).s n = w.s n := by
  rw [Wheel.put_s, if_neg (by rw [List.length_nil]; omega)]

/-- The threads of the beat move on, and lanes whose change leaves registers, predicates and address leave them. -/
theorem movedOn_ranT (b : Beat) (h : Head) (ls : List Lane) {f : Lane → Thread → Thread} (x : Thread)
    (hf : ∀ l y, MovedOn b x y → MovedOn b x (f l y)) : MovedOn b x (ranT b h ls f x) := by
  have hy : MovedOn b x (if b.tids.contains x.tid then { x with pc := nextPc b.pc, stamp := none, yielded := h.yld } else x) := by
    by_cases hb : x.tid ∈ b.tids
    · rw [if_pos (List.contains_iff_mem.2 hb)]; exact ⟨rfl, fun _ => rfl, rfl, (if_pos hb).symm⟩
    · rw [if_neg (fun e => hb (List.contains_iff_mem.1 e))]; exact ⟨rfl, fun _ => rfl, rfl, (if_neg hb).symm⟩
  unfold ranT
  dsimp only
  split
  · exact hf _ _ hy
  · exact hy

/-- A thread that only enters the scoreboard. -/
theorem MovedOn.put_nil {b : Beat} {x y : Thread} (hy : MovedOn b x y) (d : Nat) (p : List Pend) : MovedOn b x (y.put d [] p) :=
  ⟨(Thread.put_tid ..).trans hy.tid, fun n => (thread_put_nil_v ..).trans (hy.regs n), (Thread.put_preds ..).trans hy.preds,
    (Thread.put_pc ..).trans hy.pc⟩

/-- A wheel that only enters the scoreboard. -/
theorem sameWheel_ranW (ls : List Lane) (d : Nat) (p : List Pend) (w : Wheel) : SameWheel w (ranW ls (fun _ w => w.put d [] p) w) := by
  unfold ranW
  split
  · exact ⟨by simp, by simp, fun n => wheel_put_nil_s .., by simp⟩
  · exact ⟨rfl, rfl, fun _ => rfl, rfl⟩

/-- The retirements of a wheel after a read of %fstat: the read is behind those that were there, if a lane of the wheel acts. -/
theorem retire_joinRead (cycle : Nat) (clr : Bool) (d : Dst) (ls : List Lane) (w : Wheel) :
    (ranW ls (joinRead cycle clr d ls) w).retire =
      w.retire ++ (if ls.filter (fun l => l.w.idx == w.idx) = [] then [] else [fstatRead cycle clr d ls w.idx]) := by
  unfold ranW
  cases hl : ls.find? (fun l => l.w.idx == w.idx) with
  | none =>
    have hnil : ls.filter (fun l => l.w.idx == w.idx) = [] := by
      rw [List.filter_eq_nil_iff]; simpa using List.find?_eq_none.1 hl
    rw [if_pos hnil, List.append_nil]
  | some l =>
    have hidx : l.w.idx = w.idx := by simpa using List.find?_some hl
    have hne : ls.filter (fun l => l.w.idx == w.idx) ≠ [] :=
      List.ne_nil_of_mem (List.mem_filter.2 ⟨List.mem_of_find?_eq_some hl, beq_iff_eq.2 hidx⟩)
    rw [if_neg hne, ← hidx]
    rfl

/-- A wheel that takes the read keeps all but its retirements. -/
theorem ranW_joinRead_rest (cycle : Nat) (clr : Bool) (d : Dst) (ls : List Lane) (w : Wheel) :
    ranW ls (joinRead cycle clr d ls) w = { w with retire := (ranW ls (joinRead cycle clr d ls) w).retire } := by
  unfold ranW
  split <;> rfl

/-- The destination of a read of %fstat enters the scoreboard: in each lane, or once for each home wheel (R85). -/
def enterDst (s : State) (ls : List Lane) (d : Dst) (c : Ctx) : Ctx :=
  match d with
  | .v r => c.eachLane ls (fun _ t => t.put r.toNat [] (mkPend s (.v r.toNat 1) 3))
  | .s r => c.eachWheel ls (fun _ w => w.put r.toNat [] (mkPend s (.s r.toNat 1) 3))

/-- The threads of the beat that issues the read move on. -/
theorem enterDst_threads (s : State) (b : Beat) (c : Ctx) (h : Head) (ls : List Lane) (d : Dst) :
    ∃ T : Thread → Thread, (enterDst s ls d (c.advance b h.yld)).threads = c.threads.map T ∧ ∀ x, MovedOn b x (T x) := by
  cases d with
  | v r => exact ⟨_, congrArg Ctx.threads (advance_eachLane c b h ls _), fun x => movedOn_ranT b h ls x fun _ _ hy => hy.put_nil _ _⟩
  | s r => exact ⟨_, congrArg Ctx.threads (advance_eachWheel c b h ls _), fun x => movedOn_ranT b h [] x fun _ _ hy => hy⟩

/-- The wheels take at most an entry of the scoreboard. -/
theorem enterDst_wheels (s : State) (b : Beat) (c : Ctx) (h : Head) (ls : List Lane) (d : Dst) :
    ∃ W : Wheel → Wheel, (enterDst s ls d (c.advance b h.yld)).wheels = c.wheels.map W ∧ ∀ w, SameWheel w (W w) := by
  cases d with
  | v r => exact ⟨id, (List.map_id _).symm, fun _ => ⟨rfl, rfl, fun _ => rfl, rfl⟩⟩
  | s r => exact ⟨_, rfl, sameWheel_ranW ls r.toNat (mkPend s (.s r.toNat 1) 3)⟩

/-- MOVS of %fstat: D enters the scoreboard, and the read joins the retirements of each home wheel. -/
theorem movs_fstat {s : State} {b : Beat} {c : Ctx} (hi : InIssue s b c) (h : Head) (clr : Bool) (d : Dst) :
    exec (.movs h clr d 16) s = .next ((s.setCtx b.ctx
      ((enterDst s (acting b c h) d (c.advance b h.yld)).eachWheel (acting b c h) (joinRead s.cycle clr d (acting b c h)))).seal s.mem) := by
  refine (act_onBeat hi h _).trans ?_
  dsimp only
  rw [if_pos rfl]
  cases d with
  | v r | s r =>
    simp only [State.readFlags, show (siteOf b c h).b.ctx = b.ctx from rfl, State.modCtx_setCtx]
    rfl

/-- The clause of O35 on MOVS of %fstat. -/
theorem fstatRead_joins {s : State} {b : Beat} {c : Ctx} (hi : InIssue s b c) (h : Head) (clr : Bool) (d : Dst) :
    ∃ t c', exec (.movs h clr d 16) s = .next t ∧ sGet t.ctxs b.ctx = some c' ∧ Quiet s b.ctx t ∧
      (∀ i x, c.thread i = some x → ∃ y, c'.thread i = some y ∧ MovedOn b x y) ∧
      ∀ k w, c.wheel k = some w → ∃ v, c'.wheel k = some v ∧ v.fstat = w.fstat ∧ (∀ n, v.s n = w.s n) ∧
        v.retire = w.retire ++ (if (acting b c h).filter (fun l => l.w.idx == k) = [] then [] else
          [fstatRead s.cycle clr d (acting b c h) k]) := by
  obtain ⟨T, hthreads, hT⟩ := enterDst_threads s b c h (acting b c h) d
  obtain ⟨W, hentered, hW⟩ := enterDst_wheels s b c h (acting b c h) d
  refine ⟨_, _, movs_fstat hi h clr d, sGet_setCtx_seal .., quiet_setCtx .., fun i x hx => ⟨T x, ?_, hT x⟩, fun k w hw => ?_⟩
  · exact (thread_of_map hthreads (fun x => (hT x).tid) i).trans (by rw [hx, Option.map_some])
  · have hrest := ranW_joinRead_rest s.cycle clr d (acting b c h)
    have hent : (enterDst s (acting b c h) d (c.advance b h.yld)).wheel k = some (W w) := by
      rw [wheel_of_map hentered (fun w => (hW w).idx), hw, Option.map_some]
    obtain ⟨hidx, hfstat, hregs, hretire⟩ := hW w
    refine ⟨_, (wheel_of_map rfl (fun w => (congrArg Wheel.idx (hrest w) :)) k).trans (congrArg _ hent),
      by rw [hrest]; exact hfstat, by rw [hrest]; exact hregs, ?_⟩
    rw [retire_joinRead, hidx, hretire, Ctx.wheel_idx hw]

/-! ### Retirement on one wheel (R34, R117) -/

/-- The reads of a uniform destination write it. -/
def takeReads (w : Wheel) (rs : List (FRead × Word)) : Wheel :=
  rs.foldl (fun w r => if r.1.uni then w.put r.1.d [r.2] [] else w) w

/-- A wheel on which everything of one cycle has retired. -/
def retired (w : Wheel) (due : Nat) : Wheel := takeReads (w.retireAt due).1 (w.retireAt due).2

/-- Reads keep the wheel's index. -/
theorem takeReads_idx (w : Wheel) (rs : List (FRead × Word)) : (takeReads w rs).idx = w.idx := by
  induction rs generalizing w with
  | nil => rfl
  | cons r rs ih =>
    refine (ih _).trans ?_
    dsimp only
    split
    · exact Wheel.put_idx ..
    · rfl

/-- A wheel after a change of one wheel that keeps its index. -/
theorem wheel_modW (c : Ctx) (i j : Nat) (f : Wheel → Wheel) (hf : ∀ w, w.idx = i → (f w).idx = i) :
    (c.modW i f).wheel j = (c.wheel j).map (fun w => if j = i then f w else w) := by
  have hkey : ∀ w : Wheel, (if w.idx = i then f w else w).idx = w.idx := fun w => by
    split
    · rw [hf w ‹_›]; exact Eq.symm ‹_›
    · rfl
  refine (wheel_of_map rfl hkey j).trans ?_
  cases hw : c.wheel j with
  | none => rfl
  | some w => rw [Option.map_some, Option.map_some, Ctx.wheel_idx hw]

/-- The reads of a wheel write its uniform registers and those of no other wheel. -/
theorem wheel_flagReads (c : Ctx) (i j : Nat) (rs : List (FRead × Word)) :
    (c.flagReads i rs).wheel j = (c.wheel j).map (fun w => if j = i then takeReads w rs else w) := by
  induction rs generalizing c with
  | nil => simp [Ctx.flagReads, takeReads]
  | cons r rs ih =>
    rw [Ctx.flagReads]
    refine (ih _).trans ?_
    by_cases hu : r.1.uni
    · rw [if_pos hu, wheel_modW c i j _ (fun w hw => by simpa using hw), Option.map_map]
      by_cases hj : j = i <;> simp [hj, takeReads, hu, Function.comp_def]
    · rw [if_neg hu]
      by_cases hj : j = i <;> simp [hj, takeReads, hu] <;> rfl

/-- Retirement on a wheel changes no other wheel. -/
theorem wheel_retireWheel (c : Ctx) (i j due : Nat) :
    (c.retireWheel i due).wheel j = (c.wheel j).map (fun w => if j = i then retired w due else w) := by
  unfold Ctx.retireWheel
  cases hi : c.wheel i with
  | none => by_cases hj : j = i <;> simp [hj, hi]
  | some x =>
    rw [wheel_flagReads, wheel_modW c i j (fun _ => (x.retireAt due).1) (fun _ _ => (Ctx.wheel_idx hi :)), Option.map_map]
    by_cases hj : j = i
    · subst hj; simp [hi, retired]
    · simp [hj, Function.comp_def]

/-- So do the retirements of several cycles. -/
theorem wheel_retireWheels (c : Ctx) (i j : Nat) (ds : List Nat) :
    (ds.foldl (fun c d => c.retireWheel i d) c).wheel j = (c.wheel j).map (fun w => if j = i then ds.foldl retired w else w) := by
  induction ds generalizing c with
  | nil => simp
  | cons d ds ih =>
    rw [List.foldl_cons, ih, wheel_retireWheel, Option.map_map]
    by_cases hj : j = i <;> simp [hj, Function.comp_def]

/-! ### Retirement in a context -/

/-- A context whose wheels `ws` have retired what is due before `now`. -/
def retiredAll (now : Nat) (ws : List Wheel) (c : Ctx) : Ctx :=
  ws.foldl (fun c w => (w.dues now).foldl (fun c d => c.retireWheel w.idx d) c) c

/-- A wheel that is not among those that retire is as before. -/
theorem wheel_retiredAll_of_notMem (now : Nat) (ws : List Wheel) (c : Ctx) {j : Nat} (hj : j ∉ ws.map (fun w => w.idx)) :
    (retiredAll now ws c).wheel j = c.wheel j := by
  induction ws generalizing c with
  | nil => rfl
  | cons w ws ih =>
    obtain ⟨hne, hrest⟩ := not_or.1 (fun h => hj (List.mem_cons.2 h))
    refine (ih _ hrest).trans ?_
    rw [wheel_retireWheels]
    simp [hne]

/-- A wheel that retires does so once. -/
theorem wheel_retiredAll_of_mem (now : Nat) (ws : List Wheel) (c : Ctx) (hnd : (ws.map (fun w => w.idx)).Nodup) {w : Wheel} (hw : w ∈ ws) :
    (retiredAll now ws c).wheel w.idx = (c.wheel w.idx).map ((w.dues now).foldl retired) := by
  induction ws generalizing c with
  | nil => cases hw
  | cons w' ws ih =>
    obtain ⟨hnot, hnd⟩ := List.nodup_cons.1 hnd
    have hhead := wheel_retireWheels c w'.idx w.idx (w'.dues now)
    rcases List.mem_cons.1 hw with rfl | hmem
    · refine (wheel_retiredAll_of_notMem now ws _ hnot).trans (hhead.trans ?_)
      simp
    · have hne : w.idx ≠ w'.idx := fun e => hnot (List.mem_map.2 ⟨w, hmem, e⟩)
      refine (ih _ hnd hmem).trans ?_
      rw [hhead]
      simp [hne]

/-- What retirement leaves of a context: its waits, and of each thread all but registers and what their writes release. -/
structure Kept (c c' : Ctx) : Prop where
  waits : c'.waits = c.waits
  threads : ∀ i x, c.thread i = some x → ∃ y, c'.thread i = some y ∧ y.preds = x.preds ∧ y.pc = x.pc ∧ y.st = x.st ∧ y.pend = x.pend

/-- A context keeps all of itself. -/
theorem Kept.refl (c : Ctx) : Kept c c := ⟨rfl, fun _ x hx => ⟨x, hx, rfl, rfl, rfl, rfl⟩⟩

/-- What is kept twice is kept. -/
theorem Kept.trans {c d e : Ctx} (h : Kept c d) (h' : Kept d e) : Kept c e := by
  refine ⟨h'.waits.trans h.waits, fun i x hx => ?_⟩
  obtain ⟨y, hy, hpreds, hpc, hst, hpend⟩ := h.threads i x hx
  obtain ⟨z, hz, hpreds', hpc', hst', hpend'⟩ := h'.threads i y hy
  exact ⟨z, hz, hpreds'.trans hpreds, hpc'.trans hpc, hst'.trans hst, hpend'.trans hpend⟩

/-- What every step of a fold keeps, the fold keeps. -/
theorem Kept.foldl {α : Type} {f : Ctx → α → Ctx} (hf : ∀ c a, Kept c (f c a)) (l : List α) (c : Ctx) : Kept c (l.foldl f c) := by
  induction l generalizing c with
  | nil => exact .refl c
  | cons a l ih => exact (hf c a).trans (ih _)

/-- A change of a wheel touches no thread. -/
theorem kept_modW (c : Ctx) (i : Nat) (f : Wheel → Wheel) : Kept c (c.modW i f) := ⟨rfl, (Kept.refl c).threads⟩

/-- A write without pending result leaves the scoreboard. -/
theorem thread_put_pend_nil (t : Thread) (d : Nat) (ws : List Word) : (t.put d ws []).pend = t.pend := by
  unfold Thread.put
  split
  · rfl
  · exact List.append_nil _

/-- Vector registers written in some threads. -/
theorem kept_modT_put (c : Ctx) (p : Thread → Bool) (d : Nat) (ws : List Word) : Kept c (c.modT p (fun t => t.put d ws [])) := by
  refine ⟨rfl, fun i x hx => ⟨if p x then x.put d ws [] else x, ?_, ?_⟩⟩
  · refine (thread_of_map rfl (fun x => ?_) i).trans (by rw [hx]; rfl)
    split
    · exact Thread.put_tid ..
    · rfl
  · split
    · simp [thread_put_pend_nil]
    · simp

/-- Reads of %fstat write registers alone. -/
theorem kept_flagReads (i : Nat) (rs : List (FRead × Word)) (c : Ctx) : Kept c (c.flagReads i rs) := by
  induction rs generalizing c with
  | nil => exact .refl c
  | cons r rs ih =>
    rw [Ctx.flagReads]
    refine Kept.trans ?_ (ih _)
    split
    · exact kept_modW ..
    · exact kept_modT_put ..

/-- So does retirement on a wheel. -/
theorem kept_retireWheel (c : Ctx) (i due : Nat) : Kept c (c.retireWheel i due) := by
  unfold Ctx.retireWheel
  split
  · exact .refl c
  · exact (kept_modW ..).trans (kept_flagReads ..)

/-- So does retirement on all wheels. -/
theorem kept_retiredAll (now : Nat) (ws : List Wheel) (c : Ctx) : Kept c (retiredAll now ws c) :=
  Kept.foldl (fun c (w : Wheel) => Kept.foldl (fun c d => kept_retireWheel c w.idx d) (w.dues now) c) ws c

/-! ### The scoreboard (R85, R254) -/

/-- A pending result whose cycle has not passed. -/
def stillDue (now : Nat) (p : Pend) : Bool :=
  match p.due with
  | some d => decide (now ≤ d)
  | none => true

/-- The writeback of the threads: retirement, and then results whose cycle has passed leave the scoreboard. -/
theorem writeback_threads (c : Ctx) (now : Nat) :
    (c.writeback now).threads = (retiredAll now c.wheels c).threads.map (fun t => { t with pend := t.pend.filter (stillDue now) }) := rfl

/-- The writeback of the wheels. -/
theorem writeback_wheels (c : Ctx) (now : Nat) :
    (c.writeback now).wheels = (retiredAll now c.wheels c).wheels.map (fun w => { w with pend := w.pend.filter (stillDue now) }) := rfl

/-- The writeback keeps the waits. -/
theorem writeback_waits (c : Ctx) (now : Nat) : (c.writeback now).waits = c.waits := (kept_retiredAll now c.wheels c).waits

/-- A thread after the writeback. -/
theorem thread_writeback {c : Ctx} {i : Nat} {x : Thread} (hx : c.thread i = some x) (now : Nat) :
    ∃ y, (c.writeback now).thread i = some y ∧ y.preds = x.preds ∧ y.pc = x.pc ∧ y.st = x.st ∧ y.pend = x.pend.filter (stillDue now) := by
  obtain ⟨y, hy, hpreds, hpc, hst, hpend⟩ := (kept_retiredAll now c.wheels c).threads i x hx
  refine ⟨{ y with pend := y.pend.filter (stillDue now) }, ?_, hpreds, hpc, hst, by rw [hpend]⟩
  rw [thread_of_map (writeback_threads c now) (fun _ => rfl), hy, Option.map_some]

/-- A wheel after the writeback: everything due on it has retired. -/
theorem wheel_writeback {c : Ctx} (hnd : (c.wheels.map (fun w => w.idx)).Nodup) {j : Nat} {w : Wheel} (hw : c.wheel j = some w) (now : Nat) :
    (c.writeback now).wheel j =
      some { (w.dues now).foldl retired w with pend := ((w.dues now).foldl retired w).pend.filter (stillDue now) } := by
  have hidx := Ctx.wheel_idx hw
  subst hidx
  rw [wheel_of_map (writeback_wheels c now) (fun _ => rfl),
    wheel_retiredAll_of_mem now c.wheels c hnd (List.mem_of_find?_eq_some hw), hw, Option.map_some, Option.map_some]

/-- A context without waits: the step is its writeback. -/
theorem resultWriteback_eq {s : State} {k : Nat} {c : Ctx} (hc : sGet s.ctxs k = some c) (hw : c.waits = []) :
    exec (.resultWriteback k) s = .next ((s.setCtx k (c.writeback s.cycle)).seal s.mem) := by
  have hset : s.modCtx k (fun c => c.writeback s.cycle) = s.setCtx k (c.writeback s.cycle) := by simp only [State.modCtx, hc]
  have hsettle : (s.setCtx k (c.writeback s.cycle)).settle k (s.cycle - 1) = s.setCtx k (c.writeback s.cycle) := by
    simp [State.settle, writeback_waits, hw]
  refine (show exec (.resultWriteback k) s = .next (((s.modCtx k (fun c => c.writeback s.cycle)).settle k (s.cycle - 1)).seal s.mem) from rfl).trans ?_
  rw [hset, hsettle]

/-! ### A wheel whose retirements all have one cycle -/

/-- That cycle is the one due. -/
theorem dues_of_all {w : Wheel} {now e : Nat} (he : e < now) (hall : ∀ r ∈ w.retire, r.due = e) :
    w.dues now = if w.retire = [] then [] else [e] := by
  have hmap : w.retire.map (fun r => r.due) = List.replicate w.retire.length e :=
    List.eq_replicate_iff.2 ⟨List.length_map _, by simpa using hall⟩
  rw [Wheel.dues, hmap, List.filter_replicate_of_pos (by simpa using he)]
  by_cases hnil : w.retire = []
  · simp [hnil, sortBy]
  · rw [if_neg hnil, List.replicate_dedup (by simpa using hnil)]
    rfl

/-- Everything retires: the reads take the value before, and the flags are ORed into what they leave. -/
theorem retireAt_of_all {w : Wheel} {e : Nat} (hall : ∀ r ∈ w.retire, r.due = e) :
    w.retireAt e =
      (let reads := w.retire.filterMap (fun r => r.read)
       ({ w with fstat := w.retire.foldl (fun a r => a ||| r.flags) (if reads.any (fun r => r.clr) then 0 else w.fstat), retire := [] },
        reads.map (fun r => (r, w.fstat)))) := by
  have hnow : w.retire.filter (fun r => r.due == e) = w.retire := List.filter_eq_self.2 (by simpa using hall)
  have hlater : w.retire.filter (fun r => r.due != e) = [] := List.filter_eq_nil_iff.2 (by simpa using hall)
  rw [Wheel.retireAt, hnow, hlater]

/-- Flags alone are ORed into %fstat (R34). -/
theorem dues_retired_flags {w : Wheel} {now e : Nat} (he : e < now) (hall : ∀ r ∈ w.retire, r.due = e ∧ r.read = none) :
    (w.dues now).foldl retired w = { w with fstat := w.retire.foldl (fun a r => a ||| r.flags) w.fstat, retire := [] } := by
  have hdue : ∀ r ∈ w.retire, r.due = e := fun r hr => (hall r hr).1
  have hreads : w.retire.filterMap (fun r => r.read) = [] := List.filterMap_eq_nil_iff.2 fun r hr => (hall r hr).2
  rw [dues_of_all he hdue]
  by_cases hnil : w.retire = []
  · obtain ⟨⟩ := w; cases hnil; rfl
  · rw [if_neg hnil, List.foldl_cons, List.foldl_nil, retired, retireAt_of_all hdue, hreads]
    rfl

/-- A read of a uniform destination and flags of one cycle: the read takes the value before the flags, and with CLR only they stay (R117). -/
theorem dues_retired_read {w : Wheel} {now e : Nat} (he : e < now) {r : FRead} {fl : Word}
    (hw : w.retire = [{ due := e, read := some r }, { due := e, flags := fl }]) (hu : r.uni = true) :
    (w.dues now).foldl retired w =
      ({ w with fstat := (if r.clr then 0 else w.fstat) ||| fl, retire := [] } : Wheel).put r.d [w.fstat] [] := by
  have hdue : ∀ r ∈ w.retire, r.due = e := by simp [hw]
  rw [dues_of_all he hdue, if_neg (by simp [hw]), List.foldl_cons, List.foldl_nil, retired, retireAt_of_all hdue, hw]
  simp [takeReads, hu]

/-- The clause of O35 on RESULT_WRITEBACK. -/
theorem results_retire {s : State} {k : Nat} {c : Ctx} (hc : sGet s.ctxs k = some c) (hw : c.waits = [])
    (hnd : (c.wheels.map (fun w => w.idx)).Nodup) :
    ∃ t c', exec (.resultWriteback k) s = .next t ∧ sGet t.ctxs k = some c' ∧ Quiet s k t ∧
      (∀ i x, c.thread i = some x → ∃ y, c'.thread i = some y ∧ y.preds = x.preds ∧ y.pc = x.pc ∧ y.st = x.st ∧
        y.pend = x.pend.filter (stillDue s.cycle)) ∧
      ∀ j w e, c.wheel j = some w → e < s.cycle → ∃ v, c'.wheel j = some v ∧
        ((∀ r ∈ w.retire, r.due = e ∧ r.read = none) → v.fstat = w.retire.foldl (fun a r => a ||| r.flags) w.fstat ∧ v.retire = []) ∧
        (∀ r fl, w.retire = [{ due := e, read := some r }, { due := e, flags := fl }] → r.uni = true →
          v.fstat = (if r.clr then 0 else w.fstat) ||| fl ∧ ∀ n, v.s n = after w.s [(r.d, [w.fstat])] n) := by
  refine ⟨_, _, resultWriteback_eq hc hw, sGet_setCtx_seal .., quiet_setCtx .., fun i x hx => thread_writeback hx s.cycle,
    fun j w e hj he => ⟨_, wheel_writeback hnd hj s.cycle, fun hall => ?_, fun r fl hr hu => ?_⟩⟩
  · rw [dues_retired_flags he hall]
    exact ⟨rfl, rfl⟩
  · rw [dues_retired_read he hr hu]
    exact ⟨Wheel.put_fstat .., fun n => Wheel.put_after ..⟩

/-- Settles O35: a read joins behind the retirements of its wheel; retirement touches one wheel at a time, and only registers of threads. -/
theorem flagsRetire : Obligations.FlagsRetire := by
  refine ⟨fun s b c hi h clr d => ?_, fun s k c hc hw hnd => results_retire hc hw hnd⟩
  obtain ⟨t, c', hexec, hc', hquiet, hthreads, hwheels⟩ := fstatRead_joins hi h clr d
  refine ⟨t, c', hexec, hc', hquiet, fun i x hx => ?_, hwheels⟩
  obtain ⟨y, hy, hmoved⟩ := hthreads i x hx
  exact ⟨y, hy, hmoved.regs, hmoved.preds, by rw [hmoved.pc, Ctx.thread_tid hx]⟩

end Sys2Proof.Proofs

/-! PROOF of O40: times, their order and summaries (R69, R72). -/

namespace Sys2Proof.Proofs

open Sys2Proof Sys2Proof.Machine

/-! ### The fields of a time (R69) -/

/-- Bits of a number as a quotient and a remainder. -/
theorem natBits_eq (w lo len : Nat) : natBits w lo len = w / 2 ^ lo % 2 ^ len := by
  rw [natBits, Nat.shiftRight_eq_div_pow]

/-- Counter `k` as the bits of R69. -/
theorem tCtr_eq (t k : Nat) : tCtr t k = t / 2 ^ (45 - 15 * k) % 2 ^ 15 := natBits_eq ..

/-- A counter has 15 bits. -/
theorem tCtr_lt (t k : Nat) : tCtr t k < 2 ^ 15 := by
  rw [tCtr_eq]; exact Nat.mod_lt _ (by decide)

/-- The depth as the bits of R69. -/
theorem tDepth_eq {t : Nat} (ht : t < 2 ^ 64) : tDepth t = t / 2 ^ 62 + 1 := by
  rw [tDepth, natBits_eq, Nat.mod_eq_of_lt (by omega)]

/-- A time is sound when its reserved bits and the counters beyond its depth are 0 (R70). -/
theorem tBad_eq_false_iff (t : Nat) : tBad t = false ↔ t / 2 ^ 60 % 4 = 0 ∧ ∀ k, tDepth t ≤ k → k < 4 → tCtr t k = 0 := by
  simp only [tBad, Bool.or_eq_false_iff, bne_eq_false_iff_eq, natBits_eq, List.any_eq_false, List.mem_range, Bool.and_eq_true,
    decide_eq_true_eq, bne_iff_ne, ne_eq, not_and, not_not]
  exact and_congr_right fun _ => forall_congr' fun k => imp.swap

/-- The counter that a time of depth `d` holds at place `k`. -/
def ctrOf (d : Nat) (cs : List Nat) (k : Nat) : Nat := if k < d then cs.getD k 0 else 0

/-- A counter from a list of numbers of 15 bits. -/
theorem ctrOf_lt {d : Nat} {cs : List Nat} (hcs : ∀ x ∈ cs, x < 2 ^ 15) (k : Nat) : ctrOf d cs k < 2 ^ 15 := by
  unfold ctrOf
  split
  · by_cases hk : k < cs.length
    · rw [List.getD_eq_getElem _ _ hk]; exact hcs _ (List.getElem_mem hk)
    · rw [List.getD_eq_default _ _ (not_lt.1 hk)]; decide
  · decide

/-- A time as the sum of its fields. -/
theorem mkTime_eq (d : Nat) (cs : List Nat) :
    mkTime d cs = (d - 1) * 2 ^ 62 + (ctrOf d cs 0 * 2 ^ 45 + ctrOf d cs 1 * 2 ^ 30 + ctrOf d cs 2 * 2 ^ 15 + ctrOf d cs 3) := by
  simp [mkTime, ctrOf, List.range_succ]

/-- The counters of a time. -/
theorem tCtr_mkTime {d : Nat} {cs : List Nat} (hcs : ∀ x ∈ cs, x < 2 ^ 15) {k : Nat} (hk : k < 4) : tCtr (mkTime d cs) k = ctrOf d cs k := by
  have hlt := ctrOf_lt (d := d) hcs
  have c0 := hlt 0; have c1 := hlt 1; have c2 := hlt 2; have c3 := hlt 3
  rw [tCtr_eq, mkTime_eq]
  interval_cases k <;> omega

section Fields

variable {d : Nat} {cs : List Nat} (h1 : 1 ≤ d) (h4 : d ≤ 4) (hcs : ∀ x ∈ cs, x < 2 ^ 15)

include h1 h4 hcs

/-- A time fits 64 bits, and its high bits are its depth and two zeros. -/
theorem mkTime_high : mkTime d cs < 2 ^ 64 ∧ mkTime d cs / 2 ^ 62 = d - 1 ∧ mkTime d cs / 2 ^ 60 % 4 = 0 := by
  have hlt := ctrOf_lt (d := d) hcs
  have c0 := hlt 0; have c1 := hlt 1; have c2 := hlt 2; have c3 := hlt 3
  rw [mkTime_eq]
  omega

/-- The depth of a time. -/
theorem tDepth_mkTime : tDepth (mkTime d cs) = d := by
  obtain ⟨hlt, hdepth, -⟩ := mkTime_high h1 h4 hcs
  rw [tDepth_eq hlt]; omega

/-- A time is sound. -/
theorem tBad_mkTime : tBad (mkTime d cs) = false := by
  refine (tBad_eq_false_iff _).2 ⟨(mkTime_high h1 h4 hcs).2.2, fun k hd hk => ?_⟩
  rw [tDepth_mkTime h1 h4 hcs] at hd
  rw [tCtr_mkTime hcs hk, ctrOf, if_neg (not_lt.2 hd)]

end Fields

/-! ### The order of times -/

/-- The number whose digits of 15 bits a list gives, the highest first. -/
def radix : List Nat → Nat
  | [] => 0
  | x :: xs => x * 2 ^ (15 * xs.length) + radix xs

/-- A number of `n` digits. -/
theorem radix_lt {cs : List Nat} (hcs : ∀ x ∈ cs, x < 2 ^ 15) : radix cs < 2 ^ (15 * cs.length) := by
  induction cs with
  | nil => exact Nat.one_pos
  | cons x xs ih =>
    obtain ⟨hx, hxs⟩ := List.forall_mem_cons.1 hcs
    have hlow := ih hxs
    have hpow : 2 ^ (15 * (x :: xs).length) = 2 ^ 15 * 2 ^ (15 * xs.length) := by rw [List.length_cons, Nat.mul_succ, Nat.pow_add']
    have hhigh := Nat.mul_le_mul_right (2 ^ (15 * xs.length)) (Nat.succ_le_of_lt hx)
    rw [Nat.succ_mul] at hhigh
    rw [radix, hpow]
    omega

/-- Numbers of as many digits order like the lists of their digits. -/
theorem radix_lt_radix_iff {a b : List Nat} (hlen : a.length = b.length) (ha : ∀ x ∈ a, x < 2 ^ 15) (hb : ∀ x ∈ b, x < 2 ^ 15) :
    radix a < radix b ↔ a < b := by
  induction a generalizing b with
  | nil => rw [List.length_eq_zero_iff.1 hlen.symm]; simp
  | cons x xs ih =>
    cases b with
    | nil => simp at hlen
    | cons y ys =>
      obtain ⟨-, hxs⟩ := List.forall_mem_cons.1 ha
      obtain ⟨-, hys⟩ := List.forall_mem_cons.1 hb
      have hlen' : xs.length = ys.length := Nat.succ.inj hlen
      have hlx := radix_lt hxs
      have hly := radix_lt hys
      rw [List.cons_lt_cons_iff, ← ih hlen' hxs hys, radix, radix, ← hlen']
      rw [← hlen'] at hly
      rcases lt_trichotomy x y with hxy | rfl | hxy
      · have := Nat.mul_le_mul_right (2 ^ (15 * xs.length)) (Nat.succ_le_of_lt hxy)
        rw [Nat.succ_mul] at this
        simp only [hxy, true_or, iff_true]; omega
      · simp
      · have := Nat.mul_le_mul_right (2 ^ (15 * xs.length)) (Nat.succ_le_of_lt hxy)
        rw [Nat.succ_mul] at this
        simp only [hxy.not_gt, hxy.ne', false_or, false_and, iff_false]; omega

/-- A time whose list has its counters alone is the number of their digits, with zeros below. -/
theorem mkTime_eq_radix {d : Nat} (h1 : 1 ≤ d) (h4 : d ≤ 4) {cs : List Nat} (hlen : cs.length = d) :
    mkTime d cs = (d - 1) * 2 ^ 62 + radix cs * 2 ^ (15 * (4 - d)) := by
  subst hlen
  rw [mkTime_eq]
  match cs, h1, h4 with
  | [_], _, _ | [_, _], _, _ | [_, _, _], _, _ | [_, _, _, _], _, _ => simp [ctrOf, radix] <;> ring

/-- Times of one depth order like the lists of their counters. -/
theorem mkTime_lt_mkTime_iff {d : Nat} (h1 : 1 ≤ d) (h4 : d ≤ 4) {a b : List Nat} (ha : a.length = d) (hb : b.length = d)
    (hab : ∀ x ∈ a ++ b, x < 2 ^ 15) : mkTime d a < mkTime d b ↔ a < b := by
  obtain ⟨hda, hdb⟩ := List.forall_mem_append.1 hab
  rw [mkTime_eq_radix h1 h4 ha, mkTime_eq_radix h1 h4 hb, Nat.add_lt_add_iff_left, Nat.mul_lt_mul_right (by positivity),
    radix_lt_radix_iff (ha.trans hb.symm) hda hdb]

/-! ### Summaries (R72) -/

/-- Counter `k` of the time that a summary with level `lev` and increment `inc` gives for a time. -/
def sumCtr (t lev inc k : Nat) : Nat := if k < lev then tCtr t k else if k = lev then tCtr t lev + inc else 0

/-- What a summary gives, by its fields. -/
theorem applySum_eq {s : Nat} (hs : s < 2 ^ 32) (t : Nat) :
    applySum s t =
      (let leave := s / 2 ^ 30
       let enter := s / 2 ^ 28 % 4
       let lev := s / 2 ^ 26 % 4
       let inc := s / 2 ^ 16 % 2 ^ 10
       let d := tDepth t
       if s = 0xFFFFFFFF then .noPath
       else if s % 2 ^ 16 ≠ 0 ∨ d ≤ leave ∨ d - leave ≤ lev ∨ 4 < d - leave + enter then .bad 5
       else if 32767 < tCtr t lev + inc then .bad 3
       else .at_ (mkTime (d - leave + enter) ((List.range (d - leave + enter)).map (sumCtr t lev inc)))) := by
  have hleave : natBits s 30 2 = s / 2 ^ 30 := by rw [natBits_eq, Nat.mod_eq_of_lt (by omega)]
  have henter : natBits s 28 2 = s / 2 ^ 28 % 4 := natBits_eq ..
  have hlev : natBits s 26 2 = s / 2 ^ 26 % 4 := natBits_eq ..
  have hinc : natBits s 16 10 = s / 2 ^ 16 % 2 ^ 10 := natBits_eq ..
  simp only [applySum, hleave, henter, hlev, hinc]
  rfl

/-- The counters of the new time fit: the outer ones are those of a time, and the incremented one is below the bound. -/
theorem sumCtr_lt {t lev inc : Nat} (hinc : tCtr t lev + inc ≤ 32767) (k : Nat) : sumCtr t lev inc k < 2 ^ 15 := by
  unfold sumCtr
  split
  · exact tCtr_lt t k
  · split <;> omega

/-- The time of depth `n` whose counters are those of the summary. -/
theorem mkTime_sumCtr {t lev inc n : Nat} (h1 : 1 ≤ n) (h4 : n ≤ 4) (hinc : tCtr t lev + inc ≤ 32767) :
    let u := mkTime n ((List.range n).map (sumCtr t lev inc))
    u < 2 ^ 64 ∧ tBad u = false ∧ tDepth u = n ∧ ∀ k, k < n → tCtr u k = sumCtr t lev inc k := by
  have hcs : ∀ x ∈ (List.range n).map (sumCtr t lev inc), x < 2 ^ 15 := by
    intro x hx
    obtain ⟨k, -, rfl⟩ := List.mem_map.1 hx
    exact sumCtr_lt hinc k
  refine ⟨(mkTime_high h1 h4 hcs).1, tBad_mkTime h1 h4 hcs, tDepth_mkTime h1 h4 hcs, fun k hk => ?_⟩
  rw [tCtr_mkTime hcs (by omega), ctrOf, if_pos hk, List.getD_eq_getElem _ _ (by simpa using hk)]
  simp

/-- Settles O40: a time is the sum of its fields, so each field is read back; equal depths leave the order to the digits; a summary's answer is a time of the new depth. -/
theorem timeArithmetic : Obligations.TimeArithmetic := by
  refine ⟨fun d cs h1 h4 _ hcs => ?_, by decide, fun t _ => tBad_eq_false_iff t,
    fun d a b h1 h4 ha hb hab => mkTime_lt_mkTime_iff h1 h4 ha hb hab, fun s t hs _ _ => ?_⟩
  · obtain ⟨hlt, hdepth, hzero⟩ := mkTime_high h1 h4 hcs
    exact ⟨hlt, hdepth, hzero, tDepth_mkTime h1 h4 hcs, tBad_mkTime h1 h4 hcs,
      fun k hk => ⟨tCtr_eq _ _, tCtr_mkTime hcs hk⟩⟩
  · dsimp only
    rw [applySum_eq hs]
    refine ⟨fun hpath => if_pos hpath, fun hpath hbad => ?_, fun hpath hwrong hinc => ?_⟩
    · dsimp only
      rw [if_neg hpath]
      split
      · exact ⟨5, rfl⟩
      · exact ⟨3, if_pos (hbad.resolve_left ‹_›)⟩
    · refine ⟨_, (if_neg hpath).trans ((if_neg hwrong).trans (if_neg (not_lt.2 hinc))), mkTime_sumCtr ?_ ?_ hinc⟩ <;> omega

end Sys2Proof.Proofs

/-! PROOF of O11: VZ and SZ read zero and discard writes (R46, R48). -/

namespace Sys2Proof.Proofs

open Sys2Proof Sys2Proof.Machine Sys2Proof.Claims

/-- Words written at the zero register leave every register. -/
theorem after_zeroRegister (old : Nat → Word) (ws : List Word) (n : Nat) : after old [(255, ws)] n = old n := by
  simp [after]

/-- Words written at the zero register reach no range. -/
theorem untouched_zeroRegister (ws : List Word) (d n : Nat) : untouched [(255, ws)] d n = true := by
  simp [untouched]

/-- Writing VZ in an acting lane is writing nothing. -/
theorem threadRan_discard {b : Beat} {c : Ctx} {h : Head} {f : Lane → List Word} {x y : Thread}
    (hr : ThreadRan b c h { vec := fun l => [(255, f l)] } x y) : ThreadRan b c h {} x y := by
  obtain ⟨hrest, hpc, hregs, hpreds, hlatched, hacqs⟩ := hr
  cases hl : actingLane b c h x with
  | none =>
    simp only [hl, Option.map_none, Option.getD_none] at hrest hpc hregs hpreds hlatched hacqs
    constructor <;> simpa only [hl]
  | some l =>
    simp only [hl, Option.map_some, Option.getD_some, after_zeroRegister, untouched_zeroRegister, List.filter_true] at hrest hpc hregs hpreds hlatched hacqs
    constructor <;> simpa only [hl, Option.map_some, Option.getD_some, after, filter_untouched_nil]

/-- An instruction that writes VZ or SZ has no effect beyond moving on. -/
theorem ran_discard {s t : State} {b : Beat} {c : Ctx} {h : Head} {d : Dst} (hd : d = .v 255 ∨ d = .s 255) {f : Lane → List Word}
    (hr : Ran s b c h (into d f) t) : Ran s b c h {} t := by
  rcases hd with rfl | rfl
  · obtain ⟨⟨c', hc', hran⟩, hothers, hmem, hpath, hrest⟩ := hr
    obtain ⟨hctx, htids, hidxs, hthreads, hwheels⟩ := hran
    refine ⟨⟨c', hc', hctx, htids, hidxs, fun i x hx => ?_, fun k w hw => ?_⟩, hothers, hmem, hpath, hrest⟩
    · obtain ⟨y, hy, hran⟩ := hthreads i x hx
      exact ⟨y, hy, threadRan_discard hran⟩
    · obtain ⟨v, hv, hwrest, hstores, hregs, hflags⟩ := hwheels k w hw
      exact ⟨v, hv, hwrest, hstores, hregs, hflags⟩
  · exact ran_congr hr (fun _ _ => rfl) (fun _ _ => rfl) (fun l _ w n => after_zeroRegister w.s (f l) n) rfl rfl rfl

/-- Settles O11: the registers are those of an instruction that writes D, and a write at base 255 leaves them. -/
theorem zeroRegisters : Obligations.ZeroRegisters := by
  refine ⟨fun l n => ⟨rfl, rfl⟩, fun s b c hi h ty sat x y => ?_⟩
  have hdiscard : ∀ (i : Instr) (d : Dst) (f : Lane → List Word), exec i s = act (regOp h d 3 f) s → d = .v 255 ∨ d = .s 255 →
      Does i s b c h {} := fun i d f he hd => by
    obtain ⟨t, ht, hran⟩ := regOp_ran hi h d 3 f
    exact ⟨t, he.trans ht, ran_discard hd hran⟩
  exact ⟨hdiscard _ _ _ rfl (.inl rfl), hdiscard _ _ _ rfl (.inr rfl), hdiscard _ _ _ rfl (.inl rfl), hdiscard _ _ _ rfl (.inr rfl)⟩

end Sys2Proof.Proofs

/-! PROOF of O44: arming, reading and waiting for a gather slot, and arrivals at it (R58, R235-R237). -/

namespace Sys2Proof.Proofs

open Sys2Proof Sys2Proof.Machine Sys2Proof.Claims

/-! ### The site of a beat -/

@[simp] theorem siteOf_b (b : Beat) (c : Ctx) (h : Head) : (siteOf b c h).b = b := rfl
@[simp] theorem siteOf_c (b : Beat) (c : Ctx) (h : Head) : (siteOf b c h).c = c := rfl
@[simp] theorem siteOf_lanes (b : Beat) (c : Ctx) (h : Head) : (siteOf b c h).lanes = acting b c h := rfl

/-! ### The context of a beat, as a whole effect -/

/-- The context after a step whose threads and wheels are changed one by one. -/
theorem ctxRan_of_maps {cycle : Nat} {b : Beat} {c c' : Ctx} {h : Head} {E : Effect} (F : Thread → Thread) (G : Wheel → Wheel)
    (hc' : c' = { E.ctx c with threads := c.threads.map F, wheels := c.wheels.map G })
    (hF : ∀ x, (F x).tid = x.tid) (hG : ∀ w, (G w).idx = w.idx)
    (hT : ∀ x, c.thread x.tid = some x → ThreadRan b c h E x (F x)) (hW : ∀ w, c.wheel w.idx = some w → WheelRan cycle b c h E w (G w)) :
    CtxRan cycle b c h E c' := by
  have hthreads : c'.threads = c.threads.map F := by rw [hc']
  have hwheels : c'.wheels = c.wheels.map G := by rw [hc']
  refine ⟨by rw [hc'], by simp [hthreads, Function.comp_def, hF], by simp [hwheels, Function.comp_def, hG], fun i x hx => ?_, fun k w hw => ?_⟩
  · have htid := Ctx.thread_tid hx
    subst htid
    exact ⟨F x, (thread_of_map hthreads hF _).trans (by rw [hx, Option.map_some]), hT x hx⟩
  · have hidx := Ctx.wheel_idx hw
    subst hidx
    exact ⟨G w, (wheel_of_map hwheels hG _).trans (by rw [hw, Option.map_some]), hW w hw⟩

/-- A thread keeps its number as it moves on and takes a change that keeps it. -/
theorem ranT_tid (b : Beat) (h : Head) (ls : List Lane) {f : Lane → Thread → Thread} (hf : ∀ l t, (f l t).tid = t.tid) (x : Thread) :
    (ranT b h ls f x).tid = x.tid := by
  unfold ranT
  dsimp only
  split
  · rw [hf]; split <;> rfl
  · split <;> rfl

/-- The context whose threads only move on, with a change of its other parts. -/
theorem ctxRan_move {cycle : Nat} {b : Beat} {c : Ctx} {h : Head} (g : Ctx → Ctx)
    (hg : g (c.advance b h.yld) = { g c with threads := (c.advance b h.yld).threads, wheels := c.wheels }) :
    CtxRan cycle b c h { ctx := g } (g (c.advance b h.yld)) := by
  have hthreads : (c.advance b h.yld).threads = c.threads.map (ranT b h [] (fun _ t => t)) := rfl
  refine ctxRan_of_maps (ranT b h [] (fun _ t => t)) id (by rw [hg, hthreads, List.map_id]) (ranT_tid b h [] fun _ _ => rfl) (fun _ => rfl)
    (fun x _ => threadRan_move b c h _ x (fun _ => rfl) (fun _ => rfl) (fun _ _ => rfl) (fun _ => rfl))
    (fun w _ => wheelRan_none _ b c h _ w (fun _ => rfl) (fun _ => rfl) (fun _ => rfl))

/-- The whole effect of a step that sets one context. -/
theorem ran_setCtx {s : State} {b : Beat} {c c' : Ctx} {h : Head} {E : Effect} (hE : E.hold = 0) (hc' : CtxRan s.cycle b c h E c') :
    Ran s b c h E ((s.setCtx b.ctx c').seal s.mem) :=
  ⟨⟨c', sGet_setCtx_seal .., hc'⟩, (quiet_setCtx s b.ctx c').others, (quiet_setCtx s b.ctx c').memory, path_same rfl hE, rfl⟩

/-- A change of a context, placed or saved, that was just set. -/
theorem modAny_setCtx (s : State) (k : Nat) (c : Ctx) (f : Ctx → Ctx) : (s.setCtx k c).modAny k f = s.setCtx k (f c) := by
  simp [State.modAny, State.setCtx]

/-- Threads of a context that was just set enter a wait (R249). -/
theorem suspend_setCtx (s : State) (k : Nat) (c : Ctx) (tids : List Nat) (kind : WaitKind) (n : Nat) :
    (s.setCtx k c).suspend k tids kind (some (s.cycle + n)) =
      { s.setCtx k { c.modT (fun t => tids.contains t.tid) (fun t => { t with st := .suspended s.nextWid, stamp := none }) with
          waits := c.waits ++ [{ wid := s.nextWid, tids := tids, kind := kind, deadline := some (s.cycle + n), span := n }] } with
        nextWid := s.nextWid + 1 } := by
  simp [State.suspend]

/-- No lane, no change. -/
theorem eachLane_nil (c : Ctx) (f : Lane → Thread → Thread) : c.eachLane [] f = c := by
  simp [Ctx.eachLane]

/-- No lane, no change of a wheel. -/
theorem eachWheel_nil (c : Ctx) (f : Lane → Wheel → Wheel) : c.eachWheel [] f = c := by
  simp [Ctx.eachWheel]

/-- A change of the threads that some lanes name is one of each lane. -/
theorem modT_eq_eachLane (c : Ctx) (ls : List Lane) (f : Thread → Thread) :
    c.modT (fun t => (ls.map (fun l => l.t.tid)).contains t.tid) f = c.eachLane ls (fun _ t => f t) := by
  have hthreads : (c.modT (fun t => (ls.map (fun l => l.t.tid)).contains t.tid) f).threads = (c.eachLane ls (fun _ t => f t)).threads := by
    rw [Ctx.eachLane_threads]
    refine List.map_congr_left fun t _ => ?_
    cases hl : ls.find? (fun l => l.t.tid == t.tid) with
    | none =>
      refine if_neg fun hmem => ?_
      obtain ⟨l, hl', ht⟩ := List.mem_map.1 (List.contains_iff_mem.1 hmem)
      exact List.find?_eq_none.1 hl l hl' (beq_iff_eq.2 ht)
    | some l => exact if_pos (List.contains_iff_mem.2 (List.mem_map.2 ⟨l, List.mem_of_find?_eq_some hl, by simpa using List.find?_some hl⟩))
  exact congrArg (fun ts => { c with threads := ts }) hthreads

/-- A thread as it moves on with its beat. -/
def moved (b : Beat) (h : Head) (x : Thread) : Thread :=
  if b.tids.contains x.tid then { x with pc := nextPc b.pc, stamp := none, yielded := h.yld } else x

/-- Moving on changes the address and the escapement's marks alone. -/
theorem moved_eq (b : Beat) (h : Head) (x : Thread) :
    moved b h x = { x with pc := if x.tid ∈ b.tids then nextPc b.pc else x.pc, stamp := (moved b h x).stamp, yielded := (moved b h x).yielded } := by
  unfold moved
  by_cases hb : x.tid ∈ b.tids
  · rw [if_pos (List.contains_iff_mem.2 hb), if_pos hb]
  · rw [if_neg (fun e => hb (List.contains_iff_mem.1 e)), if_neg hb]

/-- A thread takes the change of its acting lane as it moves on. -/
theorem ranT_acting {b : Beat} {c : Ctx} {h : Head} {x : Thread} (hx : c.thread x.tid = some x) (f : Lane → Thread → Thread) :
    ranT b h (acting b c h) f x = ((actingLane b c h x).map (fun l => f l (moved b h x))).getD (moved b h x) := by
  have htid : (moved b h x).tid = x.tid := by rw [moved_eq]
  show (match (acting b c h).find? (fun l => l.t.tid == (moved b h x).tid) with | some l => f l (moved b h x) | none => moved b h x) = _
  rw [htid, acting_find b c h x hx]
  cases actingLane b c h x <;> rfl

/-- The threads of the acting lanes are suspended as they move on, and the context has a new wait (R249). -/
theorem ctxRan_suspend (cycle : Nat) (b : Beat) (c : Ctx) (h : Head) (wid : Nat) (w : Ctx → Wait) :
    CtxRan cycle b c h { thread := fun _ x => { x with st := .suspended wid }, ctx := fun c => { c with waits := c.waits ++ [w c] } }
      { (c.advance b h.yld).eachLane (acting b c h) (fun _ t => { t with st := .suspended wid, stamp := none }) with waits := c.waits ++ [w c] } := by
  refine ctxRan_of_maps (ranT b h (acting b c h) (fun _ t => { t with st := .suspended wid, stamp := none })) id
    (by rw [advance_eachLane]) (ranT_tid b h _ fun _ _ => rfl) (fun _ => rfl) (fun x hx => ?_)
    (fun w _ => wheelRan_none _ b c h _ w (fun _ => rfl) (fun _ => rfl) (fun _ => rfl))
  rw [ranT_acting hx, moved_eq]
  cases hl : actingLane b c h x with
  | none => constructor <;> simp [hl, after, untouched, Thread.v]
  | some l => constructor <;> simp [hl, after, untouched, Thread.v, actingLane_t hl]

/-- The threads of the acting lanes take a predicate as they move on. -/
theorem ctxRan_preds (cycle : Nat) (b : Beat) (c : Ctx) (h : Head) (k : Nat) (v : Bool) :
    CtxRan cycle b c h { preds := fun l => setPred l.t.preds k v }
      ((c.advance b h.yld).eachLane (acting b c h) (fun _ t => { t with preds := setPred t.preds k v })) := by
  refine ctxRan_of_maps (ranT b h (acting b c h) (fun _ t => { t with preds := setPred t.preds k v })) id (advance_eachLane ..)
    (ranT_tid b h _ fun _ _ => rfl) (fun _ => rfl) (fun x hx => ?_)
    (fun w _ => wheelRan_none _ b c h _ w (fun _ => rfl) (fun _ => rfl) (fun _ => rfl))
  exact threadRan_lane b c h _ _ x hx (fun _ _ => rfl) (fun _ => rfl) (fun _ _ => rfl) (fun _ _ _ => rfl)
    (fun l t hp => congrArg (fun p => setPred p k v) hp.symm) (fun _ _ => (filter_untouched_nil ..).symm) (fun _ _ => (filter_untouched_nil ..).symm)

/-- An acquire, if there is one, changes caches and what late replies may enter them (R276, R278). -/
theorem acquireIf_frame (s : State) (on : Bool) (c : Ctx) (core : Nat) (sc : Scope) :
    ∃ cores dies late, s.acquireIf on c core sc = { s with cores := cores, dies := dies, late := late } := by
  unfold State.acquireIf
  split
  · unfold State.acquire
    extract_lets r s'
    split
    · exact ⟨_, _, _, rfl⟩
    · split <;> exact ⟨_, _, _, rfl⟩
  · exact ⟨_, _, _, rfl⟩

/-- A step that sets one context and then acquires touches no byte of memory. -/
theorem touched_setCtx_acquireIf {s : State} {b : Beat} {c c' : Ctx} {h : Head} {E : Effect} (hc' : CtxRan s.cycle b c h E c') (on : Bool) (core : Nat) (sc : Scope) :
    Touched s b c h E [] (((s.setCtx b.ctx c').acquireIf on c core sc).seal s.mem) := by
  obtain ⟨cores, dies, late, hacquire⟩ := acquireIf_frame (s.setCtx b.ctx c') on c core sc
  rw [hacquire]
  exact ⟨⟨c', sGet_sPut_self _ _ _, hc'⟩, fun _ hk => sGet_sPut_ne _ _ hk, fun a _ => State.byte_seal (s.setCtx b.ctx c') a, .inl rfl, rfl⟩

/-- A step that sets one context and uses wait numbers changes nothing else. -/
theorem turned_setCtx {s : State} {b : Beat} {c c' : Ctx} {h : Head} {E : Effect} (hc' : CtxRan s.cycle b c h E c') (n : Nat) :
    Turned s b c h E (State.seal s.mem { s.setCtx b.ctx c' with nextWid := n }) :=
  ⟨⟨c', sGet_sPut_self _ _ _, hc'⟩, fun _ hk => sGet_sPut_ne _ _ hk, fun a => State.byte_seal (s.setCtx b.ctx c') a, rfl⟩

section Grid

variable {s : State} {b : Beat} {c : Ctx} (hi : InIssue s b c) (hrun : c.run = none) (h : Head)

include hi hrun

/-- A grid instruction that acts outside a run does its effect. -/
theorem act_gridOp (f : Site → State → State) (hls : acting b c h ≠ []) :
    act (gridOp h f) s = .next ((f (siteOf b c h) (started s b c h)).seal s.mem) := by
  refine (act_onBeat hi h _).trans ?_
  obtain ⟨l, ls, hacting⟩ := List.exists_cons_of_ne_nil hls
  simp only [siteOf_lanes, siteOf_c, hacting, hrun, started]

omit hrun in
/-- A grid instruction that acts in no lane only moves its threads on. -/
theorem act_gridOp_idle (f : Site → State → State) (hls : acting b c h = []) :
    act (gridOp h f) s = .next ((started s b c h).seal s.mem) := by
  refine (act_onBeat hi h _).trans ?_
  simp only [siteOf_lanes, hls, started]

/-! ### GARM (R235) -/

/-- GARM of one home wheel arms the slot of its block. -/
theorem garm_arms (pat : Bool) (g : BitVec 6) (x : Src) {l : Lane} {n : Nat} (hwheels : wheelsOf (acting b c h) = [l])
    (hcount : s.garmCount pat l x = .ok n) :
    Does (.garm h pat g x) s b c h { ctx := fun c => { c with gslots := sPut c.gslots g.toNat (armed n) } } := by
  have hls : acting b c h ≠ [] := fun hnil => by rw [hnil] at hwheels; cases hwheels
  refine ⟨_, act_gridOp hi hrun h _ hls, ?_⟩
  have hcount' : (started s b c h).garmCount pat l x = .ok n := hcount
  simp only [siteOf_lanes, siteOf_b, hwheels, List.foldl_cons, List.foldl_nil, hcount', State.countSlot]
  rw [started, modAny_setCtx]
  exact ran_setCtx rfl (ctxRan_move (fun c => { c with gslots := sPut c.gslots g.toNat (armed n) }) rfl)

/-! ### GSTAT (R237) -/

/-- GSTAT writes the image of the slot. -/
theorem gstat_reads (d : Dst) (g : BitVec 6) : Does (.gstat h d g) s b c h (into d (fun _ => natWords 2 (slotImage (c.slotOf g.toNat)))) := by
  obtain ⟨t, ht, hran⟩ := regOp_ran hi h d 0 (fun _ => natWords 2 (slotImage (c.slotOf g.toNat)))
  refine ⟨t, Eq.trans ?_ ht, hran⟩
  have hreg : act (regOp h d 0 (fun _ => natWords 2 (slotImage (c.slotOf g.toNat)))) s = _ := act_onBeat hi h _
  by_cases hls : acting b c h = []
  · refine (act_gridOp_idle hi h _ hls).trans (Eq.trans ?_ hreg.symm)
    cases d <;> simp only [State.writeV, State.writeS, siteOf_lanes, siteOf_b, hls, eachLane_nil, eachWheel_nil, State.modCtx_setCtx, started]
  · refine (act_gridOp hi hrun h _ hls).trans (Eq.trans ?_ hreg.symm)
    cases d <;> rfl

/-! ### GWAIT (R237) -/

/-- GWAIT of a complete slot sets Pd at once, and acquires if it is asked to. -/
theorem gwait_complete (acq : Bool) (pd : BitVec 5) (g : BitVec 6) (hg : (c.slotOf g.toNat).complete = true) :
    Uses (.gwait h acq pd g) s b c h { preds := fun l => setPred l.t.preds pd.toNat true } [] := by
  have hran := ctxRan_preds s.cycle b c h pd.toNat true
  by_cases hls : acting b c h = []
  · rw [hls, eachLane_nil] at hran
    exact ⟨_, act_gridOp_idle hi h _ hls, touched_setCtx_acquireIf hran false 0 .dom⟩
  · refine ⟨_, act_gridOp hi hrun h _ hls, ?_⟩
    have hdone : ((((started s b c h).anyCtx b.ctx).map (fun (x : Ctx) => x.slotOf g.toNat)).getD {}).complete = true := by
      rw [State.anyCtx, started, State.setCtx_ctxs, sGet_sPut_self]; exact hg
    simp only [siteOf_lanes, siteOf_b, siteOf_c, hg, if_true, State.gwaitEnd, hdone]
    rw [started, State.modCtx_setCtx, modT_eq_eachLane]
    exact touched_setCtx_acquireIf hran _ _ _

/-- GWAIT of another slot suspends its threads. -/
theorem gwait_suspends (acq : Bool) (pd : BitVec 5) (g : BitVec 6) (hg : (c.slotOf g.toNat).complete = false) (hls : acting b c h ≠ []) :
    let till := (s.die (dieOf b.core)).waitiv
    ∃ t, exec (.gwait h acq pd g) s = .next t ∧ t.nextWid = s.nextWid + 1 ∧ Turned s b c h
      { thread := fun _ x => { x with st := .suspended s.nextWid }
        ctx := fun c => { c with waits := c.waits ++ [{ wid := s.nextWid, tids := (acting b c h).map (fun l => l.t.tid), kind := .gwait pd.toNat g.toNat acq, deadline := some (s.cycle + till), span := till }] } } t := by
  intro till
  have hran := ctxRan_suspend s.cycle b c h s.nextWid fun c =>
    { wid := s.nextWid, tids := (acting b c h).map (fun l => l.t.tid), kind := .gwait pd.toNat g.toNat acq, deadline := some (s.cycle + till), span := till }
  refine ⟨_, act_gridOp hi hrun h _ hls, ?_⟩
  have htill : ((started s b c h).die (dieOf b.core)).waitiv = till := rfl
  simp only [siteOf_lanes, siteOf_b, siteOf_c, hg, Bool.false_eq_true, if_false, htill]
  rw [started, State.setCtx_cycle, suspend_setCtx, modT_eq_eachLane]
  exact ⟨rfl, turned_setCtx hran (s.nextWid + 1)⟩

end Grid

/-! ### Arrivals (R236) -/

/-- The counts of an arrival. -/
def arrival (g : GSlot) (void poison unreach : Bool) : GSlot :=
  { g with
    arrived := g.arrived + 1, void := g.void + (if void then 1 else 0), poison := g.poison || poison, unreach := g.unreach || unreach
    complete := g.expected != 0 && g.arrived + 1 == g.expected }

section Count

variable {g : GSlot} (hg : g.complete = false) (void poison unreach : Bool) (p : BitVec 64) (derived : Nat)

/-- An arrival at a complete slot sets OVERRUN alone. -/
theorem count_complete (hg : g.complete = true) (pat : Option (BitVec 64)) :
    g.count void poison unreach pat derived = { g with overrun := true } := if_pos hg

include hg

/-- An acknowledgement carries no pattern. -/
theorem count_acknowledgement : g.count void poison unreach none derived = arrival g void poison unreach := by
  simp [GSlot.count, hg, arrival]

/-- An armed slot keeps the count of GARM. -/
theorem count_armed (ha : g.armed = true) : g.count void poison unreach (some p) derived = arrival g void poison unreach := by
  simp [GSlot.count, hg, ha, arrival]

/-- The first arrival at a slot that nothing armed gives its count. -/
theorem count_first (ha : g.armed = false) (he : g.expected = 0) :
    g.count void poison unreach (some p) derived = arrival { g with expected := derived, pattern := some p } void poison unreach := by
  simp [GSlot.count, hg, ha, he, arrival]

/-- A later arrival is compared with the pattern of the first. -/
theorem count_later (ha : g.armed = false) (he : g.expected ≠ 0) :
    g.count void poison unreach (some p) derived =
      arrival { g with mismatch := g.mismatch || g.pattern != some p } void poison unreach := by
  by_cases hp : g.pattern = some p <;> simp [GSlot.count, hg, ha, he, hp, arrival]

end Count

/-- What an arrival at an open slot does to it. -/
theorem count_open {g : GSlot} (hg : g.complete = false) (void poison unreach : Bool) (pat : Option (BitVec 64)) (derived : Nat) :
    let r := g.count void poison unreach pat derived
    r.arrived = g.arrived + 1 ∧ r.void = g.void + (if void then 1 else 0) ∧ r.poison = (g.poison || poison) ∧
    r.unreach = (g.unreach || unreach) ∧ r.overrun = g.overrun ∧ r.armed = g.armed ∧
    r.complete = (r.expected != 0 && r.arrived == r.expected) ∧
    (∀ p, pat = some p → g.armed = false → g.expected = 0 → r.expected = derived ∧ r.pattern = some p) ∧
    (∀ p, pat = some p → g.armed = false → g.expected ≠ 0 → r.mismatch = (g.mismatch || g.pattern != some p)) ∧
    (g.armed = true ∨ g.expected ≠ 0 ∨ pat = none → r.expected = g.expected) := by
  cases pat with
  | none => simp [count_acknowledgement hg, arrival]
  | some p =>
    cases ha : g.armed with
    | true => simp [count_armed hg _ _ _ _ _ ha, arrival, ha]
    | false =>
      by_cases he : g.expected = 0
      · simp [count_first hg _ _ _ _ _ ha he, arrival, ha, he]
      · simp [count_later hg _ _ _ _ _ ha he, arrival, ha, he]

/-- Settles O44: each instruction acts on the context alone, GWAIT's acquire on caches; an arrival counts in one of the cases of R236. -/
theorem gatherSlots : Obligations.GatherSlots := by
  refine ⟨fun s b c hi hrun h pat acq g x d pd l n => ⟨fun hw hn => ?_, fun hpat hn => ?_, fun hpat hok => ?_, gstat_reads hi hrun h d g,
    fun hg => gwait_complete hi hrun h acq pd g hg, fun hg hls => gwait_suspends hi hrun h acq pd g hg hls⟩,
    fun g void poison unreach pat derived => ⟨fun hg => count_complete void poison unreach derived hg pat,
      fun hg => count_open hg void poison unreach pat derived⟩⟩
  · exact garm_arms hi hrun h pat g x hw hn
  · subst hpat; exact if_neg (not_lt.2 hn)
  · subst hpat; exact if_pos hok

end Sys2Proof.Proofs

/-! PROOF of O58: the step is the decoded instruction of the chosen candidate (R63, R74, R250-R253). -/

namespace Sys2Proof.Proofs

open Sys2Proof Sys2Proof.Machine

/-! ### What a fetch and its counts leave -/

/-- A change within the issue of a beat: memory and the beat are as before, and no poison mark is new. -/
structure Issues (s t : State) : Prop where
  mem : t.mem = s.mem
  beat : t.beat = s.beat
  poison : t.poison ⊆ s.poison

/-- No change is one. -/
theorem Issues.refl (s : State) : Issues s s := ⟨rfl, rfl, List.Subset.refl _⟩

/-- Two such changes are one. -/
theorem Issues.trans {s t u : State} (h : Issues s t) (h' : Issues t u) : Issues s u :=
  ⟨h'.mem.trans h.mem, h'.beat.trans h.beat, List.Subset.trans h'.poison h.poison⟩

/-- Such changes, one for each element of a list. -/
theorem Issues.foldl {α : Type} {f : State → α → State} (hf : ∀ s a, Issues s (f s a)) (l : List α) (s : State) : Issues s (l.foldl f s) := by
  induction l generalizing s with
  | nil => exact .refl s
  | cons a l ih => exact (hf s a).trans (ih _)

/-- A change of anything but memory, the beat and poison marks. -/
theorem issues_of_eq {s t : State} (hm : t.mem = s.mem) (hb : t.beat = s.beat) (hp : t.poison = s.poison) : Issues s t :=
  ⟨hm, hb, hp ▸ List.Subset.refl _⟩

/-- A change of a die is one. -/
theorem issues_modDie (s : State) (d : Nat) (f : Die → Die) : Issues s (s.modDie d f) := issues_of_eq rfl rfl rfl

/-- A run's read set takes a frame. -/
theorem issues_noteRead (s : State) (c : Ctx) (p : Nat) : Issues s (s.noteRead c p) := by
  unfold State.noteRead
  cases c.run with
  | none => exact .refl s
  | some k => dsimp only; split <;> exact issues_of_eq rfl rfl rfl

/-- A run's read set takes the frames of an access. -/
theorem issues_noteAccess (s : State) (c : Ctx) (a : Acc) : Issues s (s.noteAccess c a) := by
  unfold State.noteAccess
  split
  · exact .foldl (fun s p => issues_noteRead s c p) _ s
  · exact .refl s

/-- A home write notes its frame in the write monitors, and its byte is written at the end of the step. -/
theorem issues_writeByte (s : State) (c : Nat × Byte) : Issues s ((s.putByte c.1 c.2).noteWrite c.1) := by
  unfold State.noteWrite
  split <;> exact issues_of_eq rfl rfl rfl

/-- Home writes change no memory before the end of the step, and add no poison mark. -/
theorem issues_homeWrites (s : State) (cells : List (Nat × Byte)) : Issues s (s.homeWrites cells) := by
  obtain ⟨hmem, hbeat, hpoison⟩ := Issues.foldl issues_writeByte cells s
  exact ⟨hmem, hbeat, fun p hp => hpoison (List.mem_filter.1 hp).1⟩

/-- A request counts at a port, and may be announced in the ring (R376). -/
theorem issues_countHot (s : State) (d obj page req : Nat) (hot : Bool) : Issues s (s.countHot d obj page req hot) := by
  unfold State.countHot
  extract_lets x old n rest rest' s' base head r s1 s2 s3
  have hcount : Issues s s' := issues_modDie ..
  split
  · have hring : Issues s' s3 := (issues_homeWrites ..).trans ((issues_homeWrites ..).trans (issues_homeWrites ..))
    exact hcount.trans (hring.trans (issues_modDie ..))
  · exact hcount

/-- A page counts when it is remote from its die (R376). -/
theorem issues_touch (s : State) (d obj page leaf : Nat) : Issues s (s.touch d obj page leaf) := by
  unfold State.touch
  extract_lets remote
  split
  · exact issues_countHot ..
  · exact .refl s

/-- The line accesses of a beat count at their ports. -/
theorem issues_countBeat (s s0 : State) (k : Nat) (accs : List Acc) (read : Bool) : Issues s (s.countBeat s0 k accs read) := by
  refine .foldl (fun s x => ?_) _ s
  split
  · exact .refl s
  · split
    · exact .refl s
    · exact issues_touch ..

/-- The cache actions of an acquire (R278). -/
theorem issues_acquire (s : State) (c : Ctx) (core : Nat) (sc : Scope) : Issues s (s.acquire c core sc) := by
  unfold State.acquire
  extract_lets r s'
  split
  · exact .refl s
  · split <;> exact issues_of_eq rfl rfl rfl

/-- Reads of status words acquire (R274). -/
theorem issues_acqReads (s : State) (o : Op) (r : Raw) : Issues s (s.acqReads o r) := by
  unfold State.acqReads
  split
  · exact .refl s
  · split
    · exact .refl s
    · exact .foldl (fun s (a : Nat × Scope) => issues_acquire s _ _ a.2) _ s

/-- A beat is in issue: the state with it, its fetch noted and counted. -/
theorem issues_begin (s : State) (core q : Nat) (g : Cand) : Issues { s with beat := some (g.beat core q) } (s.begin core q g) := by
  unfold State.begin
  extract_lets s1 s2 tids
  have hbeat : Issues { s with beat := some (g.beat core q) } s2 := issues_of_eq rfl rfl rfl
  split
  · extract_lets a s3
    have hfetch : Issues s2 s3 := by
      show Issues s2 (if _ then _ else _)
      split
      · exact issues_noteAccess ..
      · exact (issues_noteAccess ..).trans (issues_countBeat ..)
    refine hbeat.trans (hfetch.trans ?_)
    split
    · exact issues_of_eq (State.modCtx_mem ..) (State.modCtx_beat ..) (State.modCtx_poison ..)
    · exact .refl s3
  · exact hbeat

/-! ### The beat that issues -/

/-- Threads whose windows hold the registers of the instruction do not trap (R89). -/
theorem windowTrap_of_fits {s : State} {b : Beat} (hb : s.beat = some b) {g : Cand} {w : Word × Word × Word} {o : Op}
    (ho : Op.ofCode (w.1.toNat % 256) = some o) (hwin : ∀ l ∈ g.lanes, windowBad o (Raw.ofWords w.1 w.2.1 w.2.2) l.w.window = false) :
    s.windowTrap g w = s := by
  have hbad : g.lanes.filter (fun l => windowBad o (Raw.ofWords w.1 w.2.1 w.2.2) l.w.window) = [] :=
    List.filter_eq_nil_iff.2 fun l hl => by simp [hwin l hl]
  have htids : b.tids.filter (fun t => !([] : List Nat).contains t) = b.tids := List.filter_eq_self.2 fun _ _ => rfl
  simp only [State.windowTrap, ho, hb, hbad, List.map_nil, htids]
  show { s with beat := some b } = s
  rw [← hb]

/-- With no register marked, none traps (R440). -/
theorem poisonTrap_of_clean {s : State} (hp : ∀ p ∈ s.poison, pTag p ≠ 4) (g : Cand) (w : Word × Word × Word) : s.poisonTrap g w = s :=
  if_pos (List.all_eq_true.2 fun p hmem => by simpa using hp p hmem)

/-- The issue of a candidate whose words decode and whose threads do not trap: the instruction, with the candidate's beat in issue. -/
theorem issueCand_eq {s : State} {core q : Nat} {g : Cand} {w : Word × Word × Word} {ps : List Nat} {pages : List (Nat × Nat × Nat)}
    {i : Instr} {o : Op} (hgot : g.got = .words w ps pages) (hlanes : g.lanes ≠ []) (hdec : decodeWords w.1 w.2.1 w.2.2 = .ok i)
    (ho : Op.ofCode (w.1.toNat % 256) = some o) (hwin : ∀ l ∈ g.lanes, windowBad o (Raw.ofWords w.1 w.2.1 w.2.2) l.w.window = false)
    (hp : ∀ p ∈ s.poison, pTag p ≠ 4) :
    s.issueCand core q g = ((s.begin core q g).acqReads o (Raw.ofWords w.1 w.2.1 w.2.2), some i) := by
  obtain ⟨-, hbeat, hpoison⟩ := issues_begin s core q g
  have hbeat' := (issues_acqReads (s.begin core q g) o (Raw.ofWords w.1 w.2.1 w.2.2)).beat.trans hbeat
  have htids : (g.beat core q).tids.isEmpty = false := by simpa [Cand.beat] using hlanes
  simp only [State.issueCand, hgot, hdec, windowTrap_of_fits hbeat ho hwin, poisonTrap_of_clean (fun p hmem => hp p (hpoison hmem)), ho,
    hbeat', htids, Bool.false_eq_true, if_false]

/-! ### The chosen candidate -/

/-- The least of some candidates is one of them. -/
theorem leastCand_mem {now : Nat} {ptr : Option Nat} {cs : List Cand} {g : Cand} (h : leastCand now ptr cs = some g) : g ∈ cs := by
  have hfold : ∀ (cs : List Cand) (a : Option Cand), cs.foldl (fun a c => match a with
      | none => some c
      | some b => if keyLt (c.key now ptr) (b.key now ptr) then some c else a) a = some g → a = some g ∨ g ∈ cs := by
    intro cs
    induction cs with
    | nil => exact fun a ha => .inl ha
    | cons c cs ih =>
      intro a ha
      rcases ih _ ha with hstep | hmem
      · cases a with
        | none => exact .inr (List.mem_cons.2 (.inl (Option.some.inj hstep).symm))
        | some b =>
          dsimp only at hstep
          split at hstep
          · exact .inr (List.mem_cons.2 (.inl (Option.some.inj hstep).symm))
          · exact .inl hstep
      · exact .inr (List.mem_cons_of_mem _ hmem)
  exact (hfold cs none h).resolve_left (by simp)

/-- The candidate that is chosen is one of those offered. -/
theorem choose_mem {s : State} {core q : Nat} {cs : List Cand} {g : Cand} (h : s.choose core q cs = some g) : g ∈ cs := by
  have hmem := (List.mem_filter.1 (leastCand_mem h)).1
  split at hmem
  · exact hmem
  · exact (List.mem_filter.1 hmem).1

/-- A candidate is its group, less the threads that a hazard holds (R85, R250). -/
theorem cand_eq {s : State} {core q : Nat} {g g' : Cand} (h : s.cand core q g = some g') :
    g'.ctx = g.ctx ∧ g'.pc = g.pc ∧ g'.got = g.got ∧ g'.lanes ⊆ g.lanes := by
  unfold State.cand at h
  split at h
  · extract_lets ls full at h
    split at h
    · cases h
    · rw [← Option.some.inj h]; exact ⟨rfl, rfl, rfl, fun l hl => (List.mem_filter.1 hl).1⟩
  · cases h
  · rw [← Option.some.inj h]; exact ⟨rfl, rfl, rfl, List.Subset.refl _⟩

/-- A group has the fetch at its address by its threads. -/
theorem groups_fetch {s : State} {k core q : Nat} {c : Ctx} {g : Cand} (h : g ∈ s.groups k core q c) :
    g.ctx = k ∧ g.got = s.fetch core c (g.lanes.map (fun l => l.t.tid)) g.pc := by
  obtain ⟨key, -, rfl⟩ := List.mem_map.1 h
  exact ⟨rfl, rfl⟩

/-- What a candidate has fetched is the fetch at its address by the threads of its group. -/
theorem cands_fetch {s : State} {core q : Nat} {g : Cand} (h : g ∈ s.cands core q) :
    ∃ c tids, (g.ctx, c) ∈ s.ctxs ∧ (∀ l ∈ g.lanes, l.t.tid ∈ tids) ∧ s.fetch core c tids g.pc = g.got := by
  obtain ⟨g0, hg0, hcand⟩ := List.mem_filterMap.1 h
  obtain ⟨hctx, hpc, hgot, hlanes⟩ := cand_eq hcand
  obtain ⟨⟨k, c⟩, hc, hgroup⟩ := List.mem_flatMap.1 hg0
  obtain ⟨hk, hfetch⟩ := groups_fetch hgroup
  exact ⟨c, g0.lanes.map (fun l => l.t.tid), by rw [hctx, hk]; exact hc, fun l hl => List.mem_map_of_mem (hlanes hl), by rw [hpc, hgot, hfetch]⟩

/-! ### The turn -/

/-- Threads whose fetch misses wait, and memory is as before. -/
theorem holdMisses_mem (s : State) (gs : List Cand) : (s.holdMisses gs).mem = s.mem := by
  unfold State.holdMisses
  induction gs generalizing s with
  | nil => rfl
  | cons g gs ih =>
    rw [List.foldl_cons, ih]
    split
    · exact State.modCtx_mem ..
    · rfl

/-- A turn with a chosen candidate is the candidate's issue. -/
theorem quarterTurn_eq {s : State} {k : Nat} {g : Cand} :
    let held := s.holdMisses (s.allGroups (k / 4) (k % 4))
    let ready : State := { held.stampAll (k / 4) (k % 4) (held.cands (k / 4) (k % 4)) with turns := k :: held.turns }
    ready.choose (k / 4) (k % 4) (held.cands (k / 4) (k % 4)) = some g → s.quarterTurn k = ready.issueCand (k / 4) (k % 4) g := by
  intro held ready hchoose
  unfold State.quarterTurn
  extract_lets core q held' cs stamped ready'
  split
  · rename_i hnone
    cases hchoose.symm.trans hnone
  · rename_i g' hsome
    cases hchoose.symm.trans hsome
    rfl

/-- Settles O58: the turn ends in the issue of the chosen candidate, which neither traps nor changes memory; a candidate is a group with its fetch. -/
theorem stepRunsDecodedInstruction : Obligations.StepRunsDecodedInstruction := by
  refine ⟨fun s e rest hagenda hevent => ?_, fun s k g w ps pages i hagenda hquarter => ?_⟩
  · simp only [step, hagenda, hevent, if_true]
  · intro held ready hchoose hgot hlanes hdec o ho hwin hpoison u
    have hturn : s.quarterTurn k = (u, some i) := (quarterTurn_eq hchoose).trans (issueCand_eq hgot hlanes hdec ho hwin hpoison)
    have hissues := (issues_begin ready (k / 4) (k % 4) g).trans (issues_acqReads _ o (Raw.ofWords w.1 w.2.1 w.2.2))
    refine ⟨by simp only [step, hagenda, hquarter, hturn], hissues.beat, hissues.mem.trans (holdMisses_mem ..), ?_⟩
    rw [← hgot]
    exact cands_fetch (choose_mem hchoose)

end Sys2Proof.Proofs

/-! REFUTATION of O16: what LDSH may leave of a queue's history (R193, R351, R376). -/

namespace Sys2Proof.Proofs

open Sys2Proof Sys2Proof.Machine Sys2Proof.Claims

/-! ### A state in which a load's line count clears a history

The statement lets LDSH change queues only by writes of its own, and it has none. But its line access counts at the port (R376): at HOTTH, a page with HOT
puts a notification into the ring of the table control object, and every home write, of the ring too, forgets the history of a queue whose EN byte it writes
even (R351). Nothing in the statement keeps a queue's EN byte out of that ring. -/

/-- A wheel whose S2 and S3 name the first byte of object 5. -/
def hotWheel : Wheel := { idx := 0, window := 32, sregs := [(3, BitVec.ofNat 32 (5 * 2 ^ 12))] }

/-- The one thread of the block. -/
def hotThread : Thread := { tid := 0, wheel := 0, lane := 0, pc := mkCap 5 24 }

/-- The lane that acts. -/
def hotLane : Lane := { t := hotThread, w := hotWheel }

/-- The block. -/
def hotCtx : Ctx := { threads := [hotThread], wheels := [hotWheel], cores := [0] }

/-- The beat in issue. -/
def hotBeat : Beat := { ctx := 1, core := 0, quarter := 0, pc := mkCap 5 24, tids := [0], words := (1, 2, 3) }

/-- The leaf entry of page 0 of object 5: V, the canopy of die 1, HOT. -/
def hotLeaf : BitVec 64 := BitVec.ofNat 64 (1 + 2 * 1 + 2 ^ 6 + 2 ^ 8 * 2 ^ 21)

/-- The state: one request makes a page hot, and the EN byte of queue 0, which has a launch in its history, lies in the second half of the ring's first entry. -/
def hotState : State :=
  { State.reset with
    beat := some hotBeat
    ctxs := [(1, hotCtx)]
    cores := [(0, { dcache := [{ obj := 5, valid := true, extent := 64, rights := 1, leafofs := 0, till := 9 }] })]
    dies := [(0, { lcache := [{ obj := 5, page := 0, word := hotLeaf, till := 9 }] })]
    hotth := 1
    queues := [(0, { enAt := some (tcoP (0x1000 + 24)), hist := [{ cmd := {} }] })] }

/-- LDSH of T0 from object 5. -/
def hotLdsh : Instr := .ldsh {} .g 0 2 0

/-- The places that it reads. -/
def hotPlaces : List Nat := run (canopyP 1 0) 64

/-- Whether the history of queue 0 is empty after a step. -/
def forgets : Out → Bool
  | .next t => (t.queue 0).hist.isEmpty
  | _ => false

/-- The one home wheel of the beat. -/
theorem hot_wheels : wheelsOf (acting hotBeat hotCtx {}) = [hotLane] := by decide

/-- The access passes, in four pieces of 16 bytes. -/
theorem hot_passes : Passes hotState 0 (hotState.access (siteOf hotBeat hotCtx {}) hotLane (shWant .g false) (.s 2) 0) hotPlaces :=
  ⟨List.replicate 4 (5, 0, hotLeaf.toNat), by decide +kernel, by decide +kernel⟩

/-- Every byte is there, from its home. -/
theorem hot_holds : Holds hotState 0 hotPlaces := by unfold Holds; decide +kernel

/-- The count of the line announces the page in the ring, and the history is forgotten. -/
theorem hot_forgets : forgets (exec hotLdsh hotState) = true := by decide +kernel

/-- A step that writes no byte may not forget a history. -/
theorem touched_keeps_history {s t : State} {b : Beat} {c : Ctx} {h : Head} {E : Effect} (ht : Touched s b c h E [] t) (q : Nat) :
    (t.queue q).hist = (s.queue q).hist := by
  have hnote : ∀ x : Queue, x.noteEn [] = x := fun x => by unfold Queue.noteEn; split <;> rfl
  have hqueues : t.queues = s.queues := by simpa [hnote] using ht.queues
  rw [State.queue, State.queue, hqueues]

/-- Refutes O16: LDSH of a hot page forgets the history of a queue whose EN byte the state puts into the ring of the table control object. The units find EN bytes
through the object table, which names no place there, so a premise that keeps EN bytes out of that object would bar this state; SETSH and the fields of a shape
register are not what fails. -/
theorem not_shapeRegisterResults : ¬ Obligations.ShapeRegisterResults := by
  intro h
  obtain ⟨hinstr, -⟩ := h
  obtain ⟨-, hldsh⟩ := hinstr hotState hotBeat hotCtx ⟨rfl, rfl⟩ rfl {} 0 .g 0 (.s 2) 2 0 hotLane hotPlaces hot_wheels
  have hstores : NoStores hotCtx := by unfold NoStores; decide
  have halone : Alone hotCtx := by unfold Alone; decide
  obtain ⟨t, ht, htouched⟩ := hldsh hstores halone hot_passes hot_holds
  have hforgets := hot_forgets
  rw [hotLdsh, ht, forgets, touched_keeps_history htouched] at hforgets
  exact absurd hforgets (by decide)

end Sys2Proof.Proofs

/-! PROOF of O57: decoding and encoding agree (R73-R91). -/

namespace Sys2Proof.Proofs
open Sys2Proof Sys2Proof.Machine

/-! ### Bits of concatenations -/

/-- Low bits of a concatenation are bits of its low part. -/
theorem extract_append_low {v w s n : Nat} (x : BitVec v) (y : BitVec w) (h : s + n ≤ w) :
    (x ++ y).extractLsb' s n = y.extractLsb' s n := BitVec.extractLsb'_append_eq_of_add_le h

/-- High bits of a concatenation are bits of its high part. -/
theorem extract_append_high {v w s n : Nat} (x : BitVec v) (y : BitVec w) (h : w ≤ s) :
    (x ++ y).extractLsb' s n = x.extractLsb' (s - w) n := BitVec.extractLsb'_append_eq_of_le h

/-- All bits of a word are the word. -/
theorem extract_all {w s : Nat} (x : BitVec w) (h : s = 0) : x.extractLsb' s w = x := by
  subst h; exact BitVec.extractLsb'_eq_self

/-- Neighbouring fields of a word put together. -/
theorem append_extract {w s t m n : Nat} (x : BitVec w) (h : t = s + n) :
    x.extractLsb' t m ++ x.extractLsb' s n = x.extractLsb' s (m + n) := BitVec.extractLsb'_append_extractLsb'_eq_extractLsb' h

/-! ### The words and their fields (R73) -/

/-- The fields of the words of some fields are these. -/
theorem ofWords_words (r : Raw) (opc : BitVec 8) : Raw.ofWords (r.w0 opc) r.w1 r.w2 = r := by
  simp (disch := decide) only [Raw.ofWords, Raw.w0, Raw.w1, Raw.w2, extract_append_low, extract_append_high, extract_all]

/-- The opcode byte of the words of some fields. -/
theorem opcode_words (r : Raw) (opc : BitVec 8) : (r.w0 opc).extractLsb' 0 8 = opc := by
  simp (disch := decide) only [Raw.w0, extract_append_low, extract_all]

/-- The words of the fields of some words are these. -/
theorem words_ofWords (w0 w1 w2 : Word) :
    (Raw.ofWords w0 w1 w2).w0 (w0.extractLsb' 0 8) = w0 ∧ (Raw.ofWords w0 w1 w2).w1 = w1 ∧ (Raw.ofWords w0 w1 w2).w2 = w2 := by
  refine ⟨?_, ?_, ?_⟩ <;> simp (disch := decide) only [Raw.ofWords, Raw.w0, Raw.w1, Raw.w2, append_extract, extract_all]

/-! ### Codes (R27, R81, R107, R119, R122, R136, R138, R167, R170, R174, R178, R221, R226, R245) -/

theorem tyOf_tyCode (t : Ty) : tyOf (tyCode t) = t := by cases t <;> rfl
theorem rndOf_rndCode (x : Rnd) : rndOf (rndCode x) = x := by cases x <;> rfl
theorem ccOf_ccCode (x : Cc) : ccOf (ccCode x) = x := by cases x <;> rfl
theorem relOf_relCode (x : Rel) : relOf (relCode x) = x := by cases x <;> rfl
theorem fnOf_fnCode (x : Fn) : fnOf (fnCode x) = x := by cases x <;> rfl
theorem shflOf_shflCode (x : ShflMode) : shflOf (shflCode x) = x := by cases x <;> rfl
theorem reduxOf_reduxCode (x : ReduxOp) : reduxOf (reduxCode x) = x := by cases x <;> rfl
theorem spaceOf_spaceCode (x : Space) : spaceOf (spaceCode x) = x := by cases x <;> rfl
theorem sizeOf_sizeCode (x : Size) : Machine.sizeOf (sizeCode x) = x := by cases x <;> rfl
theorem csizeOf_csizeCode (x : CSize) : csizeOf (csizeCode x) = x := by cases x <;> rfl
theorem ordOf_ordCode (x : Ordr) : ordOf (ordCode x) = x := by cases x <;> rfl
theorem semOf_semCode (x : Sem) : semOf (semCode x) = x := by cases x <;> rfl
theorem scopeOf_scopeCode (x : Scope) : scopeOf (scopeCode x) = x := by cases x <;> rfl
theorem amoOf_amoCode (x : AmoOp) : amoOf (amoCode x) = x := by cases x <;> rfl
theorem fragOf_fragCode (x : Frag) : fragOf (fragCode x) = x := by cases x <;> rfl
theorem eretOf_eretCode (x : EretAct) : eretOf (eretCode x) = x := by cases x <;> rfl
theorem levelOf_levelCode (x : Level) : levelOf (levelCode x) = x := by cases x <;> rfl

theorem rndCode_rndOf : ∀ c : BitVec 3, c.toNat ≤ 4 → rndCode (rndOf c) = c := by decide
theorem ccCode_ccOf : ∀ c : BitVec 3, c.toNat ≤ 5 → ccCode (ccOf c) = c := by decide
theorem relCode_relOf : ∀ c : BitVec 3, c ≠ 7 → relCode (relOf c) = c := by decide
theorem fnCode_fnOf : ∀ c : BitVec 4, c.toNat ≤ 8 → fnCode (fnOf c) = c := by decide
theorem shflCode_shflOf : ∀ c : BitVec 2, shflCode (shflOf c) = c := by decide
theorem reduxCode_reduxOf : ∀ c : BitVec 3, reduxCode (reduxOf c) = c := by decide
theorem spaceCode_spaceOf : ∀ c : BitVec 2, spaceCode (spaceOf c) = c := by decide
theorem sizeCode_sizeOf : ∀ c : BitVec 3, c.toNat ≤ 6 → sizeCode (Machine.sizeOf c) = c := by decide
theorem csizeCode_csizeOf : ∀ c : BitVec 2, c ≠ 3 → csizeCode (csizeOf c) = c := by decide
theorem ordCode_ordOf : ∀ c : BitVec 2, ordCode (ordOf c) = c := by decide
theorem semCode_semOf : ∀ c : BitVec 2, semCode (semOf c) = c := by decide
theorem scopeCode_scopeOf : ∀ c : BitVec 3, c.toNat ≤ 5 → scopeCode (scopeOf c) = c := by decide
theorem amoCode_amoOf : ∀ c : BitVec 4, c.toNat ≤ 8 → amoCode (amoOf c) = c := by decide
theorem gredTyCode_gredTyOf : ∀ c : BitVec 3, c.toNat ≤ 6 → gredTyCode (gredTyOf c) = c := by decide
theorem fragCode_fragOf : ∀ c : BitVec 2, c ≠ 3 → fragCode (fragOf c) = c := by decide
theorem eretCode_eretOf : ∀ c : BitVec 3, c.toNat ≤ 3 → eretCode (eretOf c) = c := by decide
theorem levelCode_levelOf : ∀ c : BitVec 3, c.toNat ≤ 4 → levelCode (levelOf c) = c := by decide

/-- Every defined opcode has its place in the map (R88). -/
theorem ofCode_code (o : Op) : Op.ofCode o.code = some o := by cases o <;> rfl

/-- The opcode found for a code has that code. -/
theorem code_of_ofCode {n : Nat} {o : Op} (h : Op.ofCode n = some o) : o.code = n := by
  simpa using List.find?_some h

/-- A code is a byte, and not that of ILL. -/
theorem code_lt (o : Op) : o.code < 255 := by cases o <;> decide

/-! ### Fields as they are put (R43, R76, R83)

`Raw.putA` and its like branch on the operand. Written as one update whose new values branch, the fields of an instruction are one record, and reading and
writing them is comparing records. -/

/-- The register that a source leaves in its field. -/
def regIn (s : Src) (old : BitVec 8) : BitVec 8 := match s with | .v n => n | .s n => n | .imm _ => old

/-- The kind that a source leaves in its field. -/
def kindIn (s : Src) (old : BitVec 2) : BitVec 2 := match s with | .v _ => old | .s _ => 1 | .imm _ => 2

/-- What a source leaves in IMM24. -/
def immIn (s : Src) (old : BitVec 24) : BitVec 24 := match s with | .imm i => i | _ => old

/-- GMODE of a guard. -/
def gmodeOf (g : Guard) : BitVec 2 := match g with | .always => 0 | .ifP _ => 1 | .ifNot _ => 2

/-- GPRED of a guard. -/
def gpredOf (g : Guard) : BitVec 5 := match g with | .always => 0 | .ifP p => p | .ifNot p => p

theorem headRaw_eq (h : Head) : headRaw h =
    { gpred := gpredOf h.guard, gmode := gmodeOf h.guard, pol := h.pol, reuse := bit1 h.reuse, repack := bit1 h.repack, yld := bit1 h.yld } := by
  unfold headRaw; cases h.guard <;> rfl

theorem putA_eq (q : Raw) (s : Src) : q.putA s = { q with a := regIn s q.a, ak := kindIn s q.ak, x := immIn s q.x } := by cases s <;> rfl
theorem putB_eq (q : Raw) (s : Src) : q.putB s = { q with b := regIn s q.b, bk := kindIn s q.bk, x := immIn s q.x } := by cases s <;> rfl
theorem putC_eq (q : Raw) (s : Src) : q.putC s = { q with c := regIn s q.c, ck := kindIn s q.ck, x := immIn s q.x } := by cases s <;> rfl

/-- The destination's kind that a destination leaves. -/
def udIn (d : Dst) (old : BitVec 1) : BitVec 1 := match d with | .v _ => old | .s _ => 1

theorem putD_eq (q : Raw) (d : Dst) : q.putD d = { q with d := dstReg d, dk := udIn d q.dk } := by cases d <;> rfl

/-! ### What an accepted word's fields hold (R44, R77, R78, R82, R83, R89) -/

/-- A source field that its entry accepts. -/
structure SrcFits (p : SSpec) (k : BitVec 2) (reg : BitVec 8) : Prop where
  kind : srcKindBad p k reg = false
  unused : srcUnusedBad p k reg = false

/-- The fields of a word with none of the causes 1 to 10 of R89, for an entry `f`. -/
structure Accepted (f : Form) (r : Raw) : Prop where
  gmode : r.gmode ≠ 3
  gpred : r.gmode = 0 → r.gpred = 0
  rsv : r.rsv = 0
  ctl : f.ctl = true
  mask : ∀ m, f.x = .ctl m → r.x &&& ~~~m = 0
  dstKind : dstKindBad f r = false
  noDst : f.d = .no → r.d = 0 ∧ r.dk = 0
  a : SrcFits f.a r.ak r.a
  b : SrcFits f.b r.bk r.b
  c : SrcFits f.c r.ck r.c
  oneImm : ¬(r.ak = 2 ∧ r.bk = 2) ∧ ¬(r.ak = 2 ∧ r.ck = 2) ∧ ¬(r.bk = 2 ∧ r.ck = 2)
  imm : f.x = .imm → r.ak = 2 ∨ r.bk = 2 ∨ r.ck = 2 ∨ r.x = 0
  vecOnly : f.dkCause = 10 → r.dk = 0

/-- A list of refusals that refuses nothing. -/
theorem ite_some_eq_none {α : Type} {p : Prop} [Decidable p] {a : α} {x : Option α} : (if p then some a else x) = none ↔ ¬p ∧ x = none := by
  split <;> simp [*]

/-- The fields that no cause refuses are accepted. -/
theorem accepted_of_encCause {o : Op} {r : Raw} (h : encCause o r = none) : Accepted (form o r) r := by
  have hbit : r.dk ≠ 1 → r.dk = 0 := by generalize r.dk = k; revert k; decide
  simp only [encCause, ite_some_eq_none, sources, List.any_cons, List.any_nil, List.countP_cons, List.countP_nil, Bool.or_eq_true, not_or,
    Bool.not_eq_true, Bool.or_false] at h
  obtain ⟨hgmode, hgpred, hrsv, ⟨hctl, hmask⟩, -, ⟨hdst, hka, hkb, hkc⟩, ⟨⟨⟨hno, hua, hub, huc⟩, hone⟩, himm⟩, -, -, hvec, -⟩ := h
  refine ⟨hgmode, by simpa using hgpred, by simpa using hrsv, by simpa using hctl, fun m hm => by simpa [hm] using hmask, hdst, fun hf => ?_,
    ⟨hka, hua⟩, ⟨hkb, hub⟩, ⟨hkc, huc⟩, ?_, fun hf => ?_, fun hf => ?_⟩
  · obtain ⟨hd, hdk⟩ : r.d = 0 ∧ r.dk ≠ 1 := by simpa [hf] using hno
    exact ⟨hd, hbit hdk⟩
  · refine ⟨?_, ?_, ?_⟩ <;> rintro ⟨h1, h2⟩ <;> simp [h1, h2] at hone
  · have hlast : r.x ≠ 0 → r.ak ≠ 2 → r.bk ≠ 2 → r.ck = 2 := by simpa [hf] using himm
    by_contra hall
    obtain ⟨ha, hb, hc, hx⟩ := by simpa only [not_or] using hall
    exact hc (hlast hx ha hb)
  · exact hbit fun hdk => by simp [hdk, hf] at hvec

section Source

variable {p : SSpec} {k : BitVec 2} {reg : BitVec 8} (h : SrcFits p k reg)

include h

/-- A field that takes no immediate holds none. -/
theorem SrcFits.not_imm (hp : p.imm = false) : k ≠ 2 := by
  rintro rfl
  obtain ⟨hk, hu⟩ := h
  cases hused : p.used <;> cases hlit : p.lit <;> simp [srcKindBad, srcUnusedBad, hp, hused, hlit] at hk hu

/-- A field that takes no name holds none. -/
theorem SrcFits.not_index (hp : p.ix = .no) : k ≠ 3 := by
  rintro rfl
  obtain ⟨hk, hu⟩ := h
  cases hused : p.used <;> cases hlit : p.lit <;> simp [srcKindBad, srcUnusedBad, hp, hused, hlit] at hk hu

/-- The field beside an immediate is 0. -/
theorem SrcFits.reg_of_imm (hk : k = 2) : reg = 0 := by
  subst hk
  have hu := h.unused
  cases hused : p.used <;> simp [srcUnusedBad, hused] at hu
  exact hu

/-- An unused field is 0. -/
theorem SrcFits.zero (hp : p.used = false) : 0 = reg ∧ 0 = k := by
  have hu := h.unused
  simp only [srcUnusedBad, hp, Bool.false_eq_true, if_false, Bool.or_eq_false_iff, bne_eq_false_iff_eq] at hu
  exact ⟨hu.2.symm, hu.1.symm⟩

/-- A field that takes vector registers alone has their kind. -/
theorem SrcFits.vector (hs : p.s = 0) (hi : p.imm = false) (hx : p.ix = .no) : 0 = k := by
  have h1 : k ≠ 1 := by
    rintro rfl
    obtain ⟨hk, hu⟩ := h
    cases hused : p.used <;> cases hlit : p.lit <;> simp [srcKindBad, srcUnusedBad, hs, hused, hlit] at hk hu
  have h2 := h.not_imm hi
  have h3 := h.not_index hx
  clear h
  revert k; decide

/-- A field that takes uniform registers alone has their kind. -/
theorem SrcFits.uniform (hu : p.used = true) (hl : p.lit = false) (hv : p.v = 0) (hi : p.imm = false) (hx : p.ix = .no) : 1 = k := by
  have h0 : k ≠ 0 := by
    rintro rfl
    have hk := h.kind
    simp [srcKindBad, hv, hu, hl] at hk
  have h2 := h.not_imm hi
  have h3 := h.not_index hx
  clear h
  revert k; decide

/-- A field that takes a name alone holds one of its space. -/
theorem SrcFits.index (hu : p.used = true) (hl : p.lit = false) (hv : p.v = 0) (hs : p.s = 0) (hi : p.imm = false) :
    3 = k ∧ reg.toNat < 2 ^ p.ix.bits := by
  have hk := h.kind
  have h2 := h.not_imm hi
  have h3 : k = 0 ∨ k = 1 ∨ k = 2 ∨ k = 3 := by clear h h2 hk; revert k; decide
  rcases h3 with rfl | rfl | rfl | rfl
  · simp [srcKindBad, hv, hu, hl] at hk
  · simp [srcKindBad, hs, hu, hl] at hk
  · exact absurd rfl h2
  · simp [srcKindBad, hu, hl] at hk
    exact ⟨rfl, by simpa using hk.2⟩

/-- Putting a name where it was read restores the field. -/
theorem SrcFits.index_put {n : Nat} (hu : p.used = true) (hl : p.lit = false) (hv : p.v = 0) (hs : p.s = 0) (hi : p.imm = false) (hn : p.ix.bits = n) :
    BitVec.ofNat 8 (reg.extractLsb' 0 n).toNat = reg ∧ 3 = k := by
  subst hn
  obtain ⟨hk, hlt⟩ := h.index hu hl hv hs hi
  refine ⟨BitVec.eq_of_toNat_eq ?_, hk⟩
  rw [BitVec.toNat_ofNat, BitVec.extractLsb'_toNat, Nat.shiftRight_zero, Nat.mod_eq_of_lt hlt, Nat.mod_eq_of_lt reg.isLt]

/-- Putting a source where it was read restores the field. -/
theorem SrcFits.put (hp : p.ix = .no) (x : BitVec 24) : regIn (srcOf k reg x) 0 = reg ∧ kindIn (srcOf k reg x) 0 = k := by
  have h2 := h.reg_of_imm
  have h3 := h.not_index hp
  have hk : k = 0 ∨ k = 1 ∨ k = 2 ∨ k = 3 := by clear h h2 h3; revert k; decide
  rcases hk with rfl | rfl | rfl | rfl
  · exact ⟨rfl, rfl⟩
  · exact ⟨rfl, rfl⟩
  · rw [h2 rfl]; exact ⟨rfl, rfl⟩
  · exact absurd rfl h3

end Source

/-! ### Destinations, IMM24 and XCTL of an accepted word (R47, R78, R82) -/

/-- Putting D where it was read restores it. -/
theorem dst_put (r : Raw) : dstReg r.dst = r.d ∧ udIn r.dst 0 = r.dk := by
  have hk : r.dk = 0 ∨ r.dk = 1 := by generalize r.dk = k; revert k; decide
  rcases hk with hk | hk <;> simp [Raw.dst, hk, dstReg, udIn]

/-- A field of a few bits as a wider one, whose other bits are 0. -/
theorem zeroExtend_low {w n : Nat} {x : BitVec w} (h : x.toNat < 2 ^ n) : (x.extractLsb' 0 n).zeroExtend w = x := by
  apply BitVec.eq_of_toNat_eq
  rw [BitVec.zeroExtend, BitVec.toNat_setWidth, BitVec.extractLsb'_toNat, Nat.shiftRight_zero, Nat.mod_eq_of_lt h, Nat.mod_eq_of_lt x.isLt]

/-- Bits above those of a small number are 0. -/
theorem lt_of_high {w n k : Nat} {x : BitVec w} (h : x.extractLsb' n k = 0) (hw : n + k = w) : x.toNat < 2 ^ n := by
  have hz := congrArg BitVec.toNat h
  simp only [BitVec.extractLsb'_toNat, Nat.shiftRight_eq_div_pow, BitVec.ofNat_eq_ofNat, BitVec.toNat_ofNat, Nat.zero_mod] at hz
  have hlt : x.toNat / 2 ^ n < 2 ^ k := Nat.div_lt_of_lt_mul (by rw [← Nat.pow_add, hw]; exact x.isLt)
  rw [Nat.mod_eq_of_lt hlt] at hz
  exact (Nat.div_eq_zero_iff.1 hz).resolve_left (by positivity)

/-- An immediate that was read is put back in IMM24. -/
theorem immIn_srcOf (k : BitVec 2) (reg : BitVec 8) (x y : BitVec 24) (h : k = 2 ∨ y = x) : immIn (srcOf k reg x) y = x := by
  rcases h with rfl | rfl
  · rfl
  · unfold srcOf; split <;> [rfl; (split <;> rfl)]

/-- A source that is no immediate leaves IMM24. -/
theorem SrcFits.immIn_eq {p : SSpec} {k : BitVec 2} {reg : BitVec 8} (h : SrcFits p k reg) (hi : p.imm = false) (hx : p.ix = .no) (x y : BitVec 24) :
    immIn (srcOf k reg x) y = y := by
  have hk : k = 0 ∨ k = 1 := by
    have h2 := h.not_imm hi
    have h3 := h.not_index hx
    clear h
    revert k; decide
  rcases hk with rfl | rfl <;> rfl

section Entry

variable {f : Form} {r : Raw} (h : Accepted f r)

include h

/-- An unused D is 0. -/
theorem Accepted.no_dst (hd : f.d = .no) : 0 = r.d ∧ 0 = r.dk := ⟨(h.noDst hd).1.symm, (h.noDst hd).2.symm⟩

/-- D of an entry without a uniform form. -/
theorem Accepted.vec_dst {n : Nat} (hd : f.d = .reg n 0) (hk : f.dkCause = 6) : 0 = r.dk := by
  have hkind : r.dk = 0 ∧ ¬n = 0 := by simpa [dstKindBad, hd, hk] using h.dstKind
  exact hkind.1.symm

/-- D of an entry with a uniform form alone. -/
theorem Accepted.uni_dst {n : Nat} (hd : f.d = .reg 0 n) : 1 = r.dk := by
  have hkind := h.dstKind
  have hk : r.dk = 0 ∨ r.dk = 1 := by generalize r.dk = k; revert k; decide
  rcases hk with hk | hk
  · simp [dstKindBad, hd, hk] at hkind
  · exact hk.symm

/-- D of an entry whose kind another field gives. -/
theorem Accepted.uniform_dst {n : Nat} (hd : f.d = .uni n) : 0 = r.dk := by
  have hkind := h.dstKind
  simp only [dstKindBad, hd, beq_eq_false_iff_ne, ne_eq] at hkind
  revert hkind; generalize r.dk = k; revert k; decide

/-- A predicate destination. -/
theorem Accepted.pred_dst (hd : f.d = .pred) : r.pd.zeroExtend 8 = r.d ∧ 0 = r.dk := by
  have hkind := h.dstKind
  simp only [dstKindBad, hd, Bool.or_eq_false_iff, beq_eq_false_iff_ne, ne_eq, decide_eq_false_iff_not, not_le] at hkind
  refine ⟨zeroExtend_low (by simpa using hkind.2), ?_⟩
  have hk := hkind.1
  revert hk; generalize r.dk = k; revert k; decide

/-- XCTL bits that the entry does not name are 0. -/
theorem Accepted.xctl_zero {m : BitVec 24} {s n : Nat} (hx : f.x = .ctl m) (hm : ∀ i, i < n → s + i < 24 → m.getLsbD (s + i) = false) : r.x.extractLsb' s n = 0 := by
  have hmask := h.mask m hx
  apply BitVec.eq_of_getLsbD_eq
  intro i hi
  have hbit := congrArg (fun v => v.getLsbD (s + i)) hmask
  simp only [BitVec.getLsbD_and, BitVec.getLsbD_not, BitVec.ofNat_eq_ofNat, BitVec.getLsbD_zero] at hbit
  simp only [BitVec.getLsbD_extractLsb', hi, decide_true, Bool.true_and, BitVec.ofNat_eq_ofNat, BitVec.getLsbD_zero]
  by_cases hlt : s + i < 24
  · rw [hm i hi hlt] at hbit
    simpa [hlt] using hbit
  · exact BitVec.getLsbD_of_ge _ _ (by omega)

/-- An entry that takes no immediate and names no bit of XCTL has none. -/
theorem Accepted.no_x (hx : f.x = .ctl 0) : 0 = r.x := by
  have hall := h.xctl_zero (s := 0) (n := 24) hx fun _ _ _ => BitVec.getLsbD_zero
  rwa [extract_all _ rfl, eq_comm] at hall

/-- XCTL of an entry that names low bits alone. -/
theorem Accepted.low_x {m : BitVec 24} {n : Nat} (hx : f.x = .ctl m) (hn : n ≤ 24) (hm : m.toNat < 2 ^ n) :
    (r.x.extractLsb' 0 n).zeroExtend 24 = r.x := by
  refine zeroExtend_low (lt_of_high (k := 24 - n) (h.xctl_zero hx fun i _ _ => ?_) (by omega))
  exact Nat.testBit_lt_two_pow (hm.trans_le (Nat.pow_le_pow_right (by decide) (by omega)))

/-- IMM24 is 0 unless a source is an immediate. -/
theorem Accepted.imm_or_zero (hx : f.x = .imm ∨ f.x = .ctl 0) : r.ak = 2 ∨ r.bk = 2 ∨ r.ck = 2 ∨ 0 = r.x := by
  rcases hx with hx | hx
  · rcases h.imm hx with h' | h' | h' | h' <;> simp [h']
  · exact .inr (.inr (.inr (h.no_x hx)))

/-- The immediate of source A. -/
theorem Accepted.imm_a (hx : f.x = .imm ∨ f.x = .ctl 0) (hb : f.b.imm = false) (hc : f.c.imm = false) : immIn r.srcA 0 = r.x := by
  rcases h.imm_or_zero hx with hk | hk | hk | hk
  · exact immIn_srcOf _ _ _ _ (.inl hk)
  · exact absurd hk (h.b.not_imm hb)
  · exact absurd hk (h.c.not_imm hc)
  · exact immIn_srcOf _ _ _ _ (.inr hk)

/-- The immediate of source B. -/
theorem Accepted.imm_b (hx : f.x = .imm ∨ f.x = .ctl 0) (ha : f.a.imm = false) (hc : f.c.imm = false) : immIn r.srcB 0 = r.x := by
  rcases h.imm_or_zero hx with hk | hk | hk | hk
  · exact absurd hk (h.a.not_imm ha)
  · exact immIn_srcOf _ _ _ _ (.inl hk)
  · exact absurd hk (h.c.not_imm hc)
  · exact immIn_srcOf _ _ _ _ (.inr hk)

/-- The immediate of source A or B. -/
theorem Accepted.imm_ab (hx : f.x = .imm ∨ f.x = .ctl 0) (hc : f.c.imm = false) : immIn r.srcB (immIn r.srcA 0) = r.x := by
  apply immIn_srcOf
  rcases h.imm_or_zero hx with hk | hk | hk | hk
  · exact .inr (immIn_srcOf _ _ _ _ (.inl hk))
  · exact .inl hk
  · exact absurd hk (h.c.not_imm hc)
  · exact .inr (immIn_srcOf _ _ _ _ (.inr hk))

/-- The immediate of one of three sources. -/
theorem Accepted.imm_abc (hx : f.x = .imm ∨ f.x = .ctl 0) : immIn r.srcC (immIn r.srcB (immIn r.srcA 0)) = r.x := by
  apply immIn_srcOf
  rcases h.imm_or_zero hx with hk | hk | hk | hk
  · exact .inr (immIn_srcOf _ _ _ _ (.inr (immIn_srcOf _ _ _ _ (.inl hk))))
  · exact .inr (immIn_srcOf _ _ _ _ (.inl hk))
  · exact .inl hk
  · exact .inr (immIn_srcOf _ _ _ _ (.inr (immIn_srcOf _ _ _ _ (.inr hk))))

/-- Fields put one by one are the accepted fields: the guard and the hints as they were read, and each other field. -/
theorem Accepted.eq_of {d a b c : BitVec 8} {dk : BitVec 1} {ak bk ck : BitVec 2} {ctl : BitVec 10} {x : BitVec 24} (hd : d = r.d ∧ dk = r.dk)
    (ha : a = r.a ∧ ak = r.ak) (hb : b = r.b ∧ bk = r.bk) (hc : c = r.c ∧ ck = r.ck) (hctl : ctl = r.ctl) (hx : x = r.x) :
    ({ gpred := gpredOf (headOf r).guard, gmode := gmodeOf (headOf r).guard, d := d, dk := dk, a := a, ak := ak, b := b, bk := bk, c := c, ck := ck
       ctl := ctl, x := x, pol := (headOf r).pol, reuse := bit1 (headOf r).reuse, repack := bit1 (headOf r).repack, yld := bit1 (headOf r).yld } : Raw) = r := by
  obtain ⟨rfl, rfl⟩ := hd; obtain ⟨rfl, rfl⟩ := ha; obtain ⟨rfl, rfl⟩ := hb; obtain ⟨rfl, rfl⟩ := hc; subst hctl hx
  have hflag : ∀ v : BitVec 1, bit1 (v == 1) = v := by decide
  have hguard : gpredOf (guardOf r) = r.gpred ∧ gmodeOf (guardOf r) = r.gmode := by
    have hk : r.gmode = 0 ∨ r.gmode = 1 ∨ r.gmode = 2 ∨ r.gmode = 3 := by generalize r.gmode = k; revert k; decide
    rcases hk with hk | hk | hk | hk
    · simp [guardOf, hk, h.gpred hk, gpredOf, gmodeOf]
    · simp [guardOf, hk, gpredOf, gmodeOf]
    · simp [guardOf, hk, gpredOf, gmodeOf]
    · exact absurd hk h.gmode
  have hrsv := h.rsv
  obtain ⟨hpred, hmode⟩ := hguard
  simp only [headOf, hflag, hpred, hmode]
  rw [← hrsv]

end Entry

/-! ### CTL (R80, R174) -/

/-- A flag as it was read. -/
theorem bit1_beq : ∀ v : BitVec 1, bit1 (v == 1) = v := by decide

/-- A bit of a word as a field. -/
theorem bit1_getLsbD {w : Nat} (x : BitVec w) (i : Nat) : bit1 (x.getLsbD i) = x.extractLsb' i 1 := by
  apply BitVec.eq_of_getLsbD_eq
  intro j hj
  obtain rfl : j = 0 := by omega
  cases hx : x.getLsbD i <;> simp [bit1, hx]

/-- Bits of bits. -/
theorem extract_extract {w s n t m : Nat} (x : BitVec w) (h : t + m ≤ n) : (x.extractLsb' s n).extractLsb' t m = x.extractLsb' (s + t) m := by
  apply BitVec.eq_of_getLsbD_eq
  intro i hi
  simp only [BitVec.getLsbD_extractLsb', hi, decide_true, Bool.true_and, Nat.add_assoc, show t + i < n by omega]

/-- A high part above a low part. -/
theorem append_part {w s m n : Nat} {x : BitVec w} {hi : BitVec m} {lo : BitVec n} (hhi : hi = x.extractLsb' (s + n) m) (hlo : lo = x.extractLsb' s n) :
    hi ++ lo = x.extractLsb' s (m + n) := by
  rw [hhi, hlo, append_extract _ rfl]

/-- A high part above a low part that make up a word. -/
theorem append_whole {m n : Nat} {x : BitVec (m + n)} {hi : BitVec m} {lo : BitVec n} (hhi : hi = x.extractLsb' n m) (hlo : lo = x.extractLsb' 0 n) :
    hi ++ lo = x := by
  rw [append_part (s := 0) (by simpa using hhi) hlo, extract_all _ rfl]

/-- No bit of CTL is set. -/
theorem ctl_none {r : Raw} (h : (r.ctl == 0) = true) : 0 = r.ctl := (beq_iff_eq.1 h).symm

/-- Bits of CTL that are 0, as a field. -/
theorem zero_of_beq {n : Nat} {v : BitVec n} (h : (v == 0) = true) : 0 = v := (beq_iff_eq.1 h).symm

/-- CTL is the four fields of the standard layout. -/
theorem ctl_std (r : Raw) : r.hi9 ++ r.opx ++ r.sat ++ r.ty = r.ctl :=
  append_whole (append_part (append_part rfl rfl) rfl) rfl

/-- The standard layout put from its fields. -/
theorem stdCtl_eq {r : Raw} {hi9 : BitVec 1} {opx : BitVec 3} {sat : Bool} {t : Ty} (h9 : hi9 = r.hi9) (ho : opx = r.opx) (hs : bit1 sat = r.sat)
    (ht : tyCode t = r.ty) : stdCtl hi9 opx sat t = r.ctl := by
  rw [stdCtl, h9, ho, hs, ht, ctl_std]

/-- What the standard layout of an entry accepts. -/
theorem std_iff {r : Raw} {l : List Ty} {sat opx : Bool} :
    r.std l sat opx = true ↔ (∃ t ∈ l, tyCode t = r.ty) ∧ (sat = true ∨ r.sat = 0) ∧ opx = true := by
  simp [Raw.std, Raw.tyIn, and_assoc]

theorem opx0_iff {r : Raw} : r.opx0 = true ↔ r.opx = 0 ∧ r.hi9 = 0 := by
  simp [Raw.opx0]

section Standard

variable {r : Raw} {l : List Ty} {t : Ty}

/-- The type of an accepted TY has its code. -/
theorem tyCode_tyv {sat opx : Bool} (h : r.std l sat opx = true) : tyCode r.tyv = r.ty := by
  obtain ⟨⟨t, -, ht⟩, -⟩ := std_iff.1 h
  rw [Raw.tyv, ← ht, tyOf_tyCode]

/-- The only type of an entry is the one accepted. -/
theorem tyCode_one {sat opx : Bool} (h : r.std [t] sat opx = true) : tyCode t = r.ty := by
  simpa using (std_iff.1 h).1

/-- SAT 0 where an entry accepts no SAT. -/
theorem noSat {opx : Bool} (h : r.std l false opx = true) : bit1 false = r.sat :=
  ((std_iff.1 h).2.1.resolve_left Bool.false_ne_true).symm

/-- The condition on OPX. -/
theorem std_opx {sat opx : Bool} (h : r.std l sat opx = true) : opx = true := (std_iff.1 h).2.2

/-- CTL of an integer instruction with SAT. -/
theorem sat_ctl (h : r.std l true r.opx0 = true) (ht : tyCode t = r.ty) : stdCtl 0 0 r.satv t = r.ctl :=
  have hz := opx0_iff.1 (std_opx h)
  stdCtl_eq hz.2.symm hz.1.symm (bit1_beq _) ht

/-- CTL of an instruction of the standard layout without SAT. -/
theorem plain_ctl (h : r.std l false r.opx0 = true) (ht : tyCode t = r.ty) : stdCtl 0 0 false t = r.ctl :=
  have hz := opx0_iff.1 (std_opx h)
  stdCtl_eq hz.2.symm hz.1.symm (noSat h) ht

/-- CTL of floating arithmetic (R80). -/
theorem round_ctl (h : r.std l true (decide (r.opx.toNat ≤ 3)) = true) (ht : tyCode t = r.ty) :
    stdCtl (bit1 r.ftzv) (rndCode r.rndv) r.satv t = r.ctl :=
  have hle : r.opx.toNat ≤ 3 := of_decide_eq_true (std_opx h)
  stdCtl_eq (bit1_beq _) (rndCode_rndOf _ (by omega)) (bit1_beq _) ht

/-- CTL of a floating instruction that rounds nothing. -/
theorem ftz_ctl (h : r.std l false (r.opx == 0) = true) (ht : tyCode t = r.ty) : stdCtl (bit1 r.ftzv) 0 false t = r.ctl :=
  stdCtl_eq (bit1_beq _) (zero_of_beq (std_opx h)) (noSat h) ht

/-- CTL of ICMP (R107). -/
theorem icmp_ctl (h : r.std l false (decide (r.opx.toNat ≤ 5)) = true) :
    stdCtl (bit1 r.ftzv) (ccCode (ccOf r.opx)) false r.tyv = r.ctl :=
  stdCtl_eq (bit1_beq _) (ccCode_ccOf _ (of_decide_eq_true (std_opx h))) (noSat h) (tyCode_tyv h)

/-- A bit of OPX. -/
theorem bit1_opx (r : Raw) {i : Nat} (hi : i < 3) : bit1 (r.cbit (6 + i)) = r.opx.extractLsb' i 1 := by
  rw [Raw.opx, extract_extract _ (by omega), Raw.cbit, bit1_getLsbD]

/-- CTL of IDP4 and IDP8, with a flag for each sign (R106). -/
theorem idp_ctl (h : r.std [.s32] true (r.opx.extractLsb' 2 1 == 0 && r.hi9 == 0) = true) :
    stdCtl 0 ((0 : BitVec 1) ++ bit1 (r.cbit 7) ++ bit1 (r.cbit 6)) r.satv .s32 = r.ctl := by
  obtain ⟨hz, h9⟩ := Bool.and_eq_true_iff.1 (std_opx h)
  exact stdCtl_eq (zero_of_beq h9)
    (append_whole (append_part (zero_of_beq hz) (bit1_opx r (i := 1) (by decide))) (bit1_opx r (i := 0) (by decide))) (bit1_beq _) (tyCode_one h)

/-- CTL with one flag in OPX (R109, R113). -/
theorem flag_ctl (h : r.std l false (r.opx.extractLsb' 1 2 == 0 && r.hi9 == 0) = true) (ht : tyCode t = r.ty) :
    stdCtl 0 ((0 : BitVec 2) ++ bit1 (r.cbit 6)) false t = r.ctl := by
  obtain ⟨hz, h9⟩ := Bool.and_eq_true_iff.1 (std_opx h)
  exact stdCtl_eq (zero_of_beq h9) (append_whole (zero_of_beq hz) (bit1_opx r (i := 0) (by decide))) (noSat h) ht

/-- CTL of SHFL (R119). -/
theorem shfl_ctl (h : r.std l false (r.opx.extractLsb' 2 1 == 0 && r.hi9 == 0) = true) (ht : tyCode t = r.ty) :
    stdCtl 0 ((0 : BitVec 1) ++ shflCode (shflOf (r.ctl.extractLsb' 6 2))) false t = r.ctl := by
  obtain ⟨hz, h9⟩ := Bool.and_eq_true_iff.1 (std_opx h)
  refine stdCtl_eq (zero_of_beq h9) (append_whole (zero_of_beq hz) ?_) (noSat h) ht
  rw [shflCode_shflOf, Raw.opx, extract_extract _ (by decide)]

end Standard

section Layouts

variable {r : Raw}

/-- The one bit of a bit as a field. -/
theorem bit1_cbit (r : Raw) (i : Nat) : bit1 (r.cbit i) = r.ctl.extractLsb' i 1 := bit1_getLsbD _ _

/-- A flag of XCTL as a field. -/
theorem bit1_xbit (r : Raw) (i : Nat) : bit1 (r.xbit i) = r.x.extractLsb' i 1 := bit1_getLsbD _ _

/-- CTL whose lowest bit alone is a flag. -/
theorem bit_ctl (h : (r.ctl.extractLsb' 1 9 == 0) = true) : (bit1 (r.cbit 0)).zeroExtend 10 = r.ctl := by
  rw [bit1_cbit, zeroExtend_low (lt_of_high (beq_iff_eq.1 h) rfl)]

/-- CTL of CVT (R140). -/
theorem cvt_ctl (hr : (r.ctl.extractLsb' 0 3).toNat ≤ 4) (hz : (r.ctl.extractLsb' 7 3 == 0) = true) :
    (0 : BitVec 3) ++ r.ctl.extractLsb' 5 2 ++ bit1 (r.cbit 4) ++ bit1 (r.cbit 3) ++ rndCode (rndOf (r.ctl.extractLsb' 0 3)) = r.ctl :=
  append_whole (append_part (append_part (append_part (zero_of_beq hz) rfl) (bit1_cbit r 4)) (bit1_cbit r 3)) (rndCode_rndOf _ hr)

/-- CTL of QBLK (R144). -/
theorem qblk_ctl (hr : (r.ctl.extractLsb' 0 3).toNat ≤ 3) (hz : (r.ctl.extractLsb' 4 6 == 0) = true) :
    (0 : BitVec 6) ++ bit1 (r.cbit 3) ++ rndCode (rndOf (r.ctl.extractLsb' 0 3)) = r.ctl :=
  append_whole (append_part (zero_of_beq hz) (bit1_cbit r 3)) (rndCode_rndOf _ (by omega))

/-- CTL of DQBLK (R145). -/
theorem dqblk_ctl (hr : (r.ctl.extractLsb' 0 3).toNat ≤ 3) (hz : (r.ctl.extractLsb' 8 2 == 0) = true) :
    (0 : BitVec 2) ++ bit1 (r.cbit 7) ++ bit1 (r.cbit 6) ++ r.ctl.extractLsb' 4 2 ++ bit1 (r.cbit 3) ++ rndCode (rndOf (r.ctl.extractLsb' 0 3)) =
      r.ctl :=
  append_whole (append_part (append_part (append_part (append_part (zero_of_beq hz) (bit1_cbit r 7)) (bit1_cbit r 6)) rfl) (bit1_cbit r 3))
    (rndCode_rndOf _ (by omega))

/-- CTL of LDMX and STMX (R167). -/
theorem ldmx_ctl (hz : (r.ctl.extractLsb' 4 6 == 0) = true) (hf : r.ctl.extractLsb' 1 2 ≠ 3) :
    (0 : BitVec 6) ++ bit1 (r.cbit 3) ++ fragCode (fragOf (r.ctl.extractLsb' 1 2)) ++ bit1 (r.cbit 0) = r.ctl :=
  append_whole (append_part (append_part (zero_of_beq hz) (bit1_cbit r 3)) (fragCode_fragOf _ hf)) (bit1_cbit r 0)

/-- CTL of a matrix instruction (R154). -/
theorem mm_ctl (hz : (r.ctl.extractLsb' 8 2 == 0) = true) :
    (0 : BitVec 2) ++ bit1 (r.cbit 7) ++ bit1 (r.cbit 6) ++ bit1 (r.cbit 5) ++ bit1 (r.cbit 4) ++ bit1 (r.cbit 3) ++ bit1 (r.cbit 2) ++
      bit1 (r.cbit 1) ++ bit1 (r.cbit 0) = r.ctl :=
  append_whole (append_part (append_part (append_part (append_part (append_part (append_part (append_part (zero_of_beq hz) (bit1_cbit r 7))
    (bit1_cbit r 6)) (bit1_cbit r 5)) (bit1_cbit r 4)) (bit1_cbit r 3)) (bit1_cbit r 2)) (bit1_cbit r 1)) (bit1_cbit r 0)

/-- ORD and SCOPE above five low bits (R174). -/
theorem ordCtl_eq {o : Ordr} {low : BitVec 5} (hs : r.scopeOk = true) (ho : ordCode o = r.ord) (hl : low = r.ctl.extractLsb' 0 5) :
    ordCtl (scopeOf r.scope) o low = r.ctl := by
  simp only [Raw.scopeOk, Bool.and_eq_true, decide_eq_true_eq] at hs
  exact append_whole (append_part (scopeCode_scopeOf _ hs.1) ho) hl

/-- The acquire bit gives ORD where it may be plain or acquire. -/
theorem ordCode_acqOrd (h : r.ord.toNat ≤ 1) : ordCode (acqOrd (r.cbit 5)) = r.ord := by
  have hb : r.cbit 5 = r.ord.getLsbD 0 := by simp [Raw.cbit, Raw.ord]
  rw [hb]; revert h; generalize r.ord = v; revert v; decide

/-- The release bit gives ORD where it may be plain or release. -/
theorem ordCode_relOrd (h : r.ord.toNat ∈ [0, 2]) : ordCode (relOrd (r.cbit 6)) = r.ord := by
  have hb : r.cbit 6 = r.ord.getLsbD 1 := by simp [Raw.cbit, Raw.ord]
  rw [hb]; revert h; generalize r.ord = v; revert v; decide

/-- The low bits of CTL of LD and ST (R175). -/
theorem ldst_low (hz : (r.ctl.extractLsb' 2 3).toNat ≤ 6) :
    sizeCode (Machine.sizeOf (r.ctl.extractLsb' 2 3)) ++ spaceCode (spaceOf (r.ctl.extractLsb' 0 2)) = r.ctl.extractLsb' 0 5 :=
  append_part (sizeCode_sizeOf _ hz) (spaceCode_spaceOf _)

/-- The low bits of CTL of an atomic (R178). -/
theorem amo_low (hz : (r.ctl.extractLsb' 2 3 == 0) = true) :
    (0 : BitVec 3) ++ spaceCode (spaceOf (r.ctl.extractLsb' 0 2)) = r.ctl.extractLsb' 0 5 :=
  append_part (zero_of_beq hz) (spaceCode_spaceOf _)

/-- The low bits of CTL of a grid access (R226). -/
theorem csize_low (hc : (r.ctl.extractLsb' 0 3).toNat ≤ 2) (hz : (r.ctl.extractLsb' 3 2 == 0) = true) :
    (0 : BitVec 3) ++ csizeCode (csizeOf (r.ctl.extractLsb' 0 2)) = r.ctl.extractLsb' 0 5 := by
  have hlow : (r.ctl.extractLsb' 0 3).extractLsb' 0 2 ≠ 3 ∧ (0 : BitVec 1) = (r.ctl.extractLsb' 0 3).extractLsb' 2 1 := by
    revert hc; generalize r.ctl.extractLsb' 0 3 = v; revert v; decide
  rw [extract_extract _ (by decide), extract_extract _ (by decide)] at hlow
  have hsplit : (0 : BitVec 3) = r.ctl.extractLsb' 2 3 := append_part (hi := (0 : BitVec 2)) (lo := (0 : BitVec 1)) (zero_of_beq hz) hlow.2
  exact append_part hsplit (csizeCode_csizeOf _ hlow.1)

/-- CTL of GREDC (R226). -/
theorem gred_ctl (ho : (r.ctl.extractLsb' 0 3).toNat ≤ 5) (ht : (r.ctl.extractLsb' 3 3).toNat ≤ 6) :
    spaceCode (spaceOf (r.ctl.extractLsb' 8 2)) ++ r.ctl.extractLsb' 6 2 ++ gredTyCode (gredTyOf (r.ctl.extractLsb' 3 3)) ++
      (amoCode (amoOf ((0 : BitVec 1) ++ r.ctl.extractLsb' 0 3))).extractLsb' 0 3 = r.ctl := by
  have hop : ∀ v : BitVec 3, v.toNat ≤ 5 → (amoCode (amoOf ((0 : BitVec 1) ++ v))).extractLsb' 0 3 = v := by decide
  exact append_whole (append_part (append_part (spaceCode_spaceOf _) rfl) (gredTyCode_gredTyOf _ ht)) (hop _ ho)

/-- CTL of GWAIT and FWAIT, whose one flag is bit 5. -/
theorem wait_ctl (h : (r.ctl == 0 || r.ctl == 0x20) = true) : (0 : BitVec 4) ++ bit1 (r.cbit 5) ++ (0 : BitVec 5) = r.ctl := by
  rcases Bool.or_eq_true_iff.1 h with h | h <;> simp only [Raw.cbit, beq_iff_eq.1 h] <;> decide

/-- The type of an atomic has its code (R178). -/
theorem tyCode_of_amoOk {op : BitVec 4} {ty : BitVec 5} {rmw pk : Bool} (h : amoOk op ty rmw pk = true) : tyCode (tyOf ty) = ty ∧ op.toNat ≤ 8 := by
  revert h; revert ty op; revert rmw pk; decide

/-- XCTL of an atomic (R178). -/
theorem amo_x {f : Form} {rmw pk : Bool} (h : Accepted f r) (hx : f.x = .ctl 0x1FF)
    (hop : amoOk (r.x.extractLsb' 0 4) (r.x.extractLsb' 4 5) rmw pk = true) :
    (0 : BitVec 15) ++ tyCode (tyOf (r.x.extractLsb' 4 5)) ++ amoCode (amoOf (r.x.extractLsb' 0 4)) = r.x :=
  have hcode := tyCode_of_amoOk hop
  append_whole (append_part (h.xctl_zero hx (by decide)).symm hcode.1) (amoCode_amoOf _ hcode.2)

/-- XCTL of a grid access (R227). -/
theorem gridX_put (conv : BitVec 10) (h : conv = r.x.extractLsb' 14 10) : gridXRaw (gridXOf r) conv = r.x :=
  append_whole (append_part (append_part (append_part h (bit1_xbit r 13)) rfl) (bit1_xbit r 6)) rfl

end Layouts

/-! ### Reading an accepted word and putting its fields back -/

/-- A bit of CTL as a condition. -/
theorem cbit_iff (r : Raw) (i : Nat) : r.cbit i = true ↔ r.ctl.extractLsb' i 1 = 1 := by
  rw [← bit1_cbit]
  cases r.cbit i <;> decide

/-- D and UD of an entry with UD (R120, R122). -/
theorem udst_put (r : Raw) : dstReg r.udst = r.d ∧ dstUd r.udst = r.hi9 := by
  have hk : r.hi9 = 0 ∨ r.hi9 = 1 := by generalize r.hi9 = k; revert k; decide
  rcases hk with hk | hk <;> simp [Raw.udst, hk, dstReg, dstUd]

section Special

variable {r : Raw}

/-- MOVS reads a name, whose registers its type says (R113). -/
theorem fields_build_movs (h : Accepted (form .movs r) r) : fields (build .movs r) = some (.movs, r) := by
  have hc := h.ctl
  have hk : 3 = r.ak := (h.a.index_put rfl rfl rfl rfl rfl rfl).2
  simp only [form, ← hk, Bool.and_eq_true, Bool.or_eq_true, decide_eq_true_eq, beq_iff_eq] at hc
  obtain ⟨hstd, hname⟩ := hc
  obtain ⟨⟨-, hty⟩, -⟩ := hname.resolve_left (by decide)
  have hcode : tyCode (if r.a.toNat ∈ [12, 14, 17] then .b64 else .b32) = r.ty := by rw [hty]; split <;> rfl
  simp only [build, fields, headRaw_eq, putD_eq, Raw.ixA, Option.some.injEq, Prod.mk.injEq, true_and]
  exact h.eq_of (dst_put r) ⟨by simp, hk⟩ (h.b.zero rfl) (h.c.zero rfl) (flag_ctl hstd hcode) (h.no_x rfl)

/-- VTOS has a lane in B, or reads the lowest lane (R117). -/
theorem fields_build_vtos (h : Accepted (form .vtos r) r) : fields (build .vtos r) = some (.vtos, r) := by
  have hc := h.ctl
  have hctl := flag_ctl hc (tyCode_tyv hc)
  have hopx : bit1 (r.cbit 6) = r.opx.extractLsb' 0 1 ∧ 0 = r.opx.extractLsb' 1 2 :=
    ⟨bit1_opx r (i := 0) (by decide), zero_of_beq (Bool.and_eq_true_iff.1 (std_opx hc)).1⟩
  have ha := h.a.vector rfl rfl rfl
  cases hb : r.cbit 6
  · have hne : (r.opx == 1) = false := by
      rw [hb] at hopx; revert hopx; generalize r.opx = v; revert v; decide
    have hbf : (form .vtos r).b = si 1 := if_neg (Bool.eq_false_iff.1 hne)
    have hreg := h.b
    rw [hbf] at hreg
    simp only [build, hb, fields, headRaw_eq, putB_eq, Option.some.injEq, Prod.mk.injEq, true_and, Bool.false_eq_true, if_false]
    rw [hb] at hctl
    exact h.eq_of ⟨rfl, h.uniform_dst rfl⟩ ⟨rfl, ha⟩ (hreg.put rfl _) (h.c.zero rfl) hctl (h.imm_b (.inl rfl) rfl rfl)
  · have heq : (r.opx == 1) = true := by
      rw [hb] at hopx; revert hopx; generalize r.opx = v; revert v; decide
    have hbf : (form .vtos r).b = un := if_pos heq
    have hreg := h.b
    rw [hbf] at hreg
    simp only [build, hb, fields, headRaw_eq, Option.some.injEq, Prod.mk.injEq, true_and, if_true]
    rw [hb] at hctl
    refine h.eq_of ⟨rfl, h.uniform_dst rfl⟩ ⟨rfl, ha⟩ (hreg.zero rfl) (h.c.zero rfl) hctl ?_
    rcases h.imm_or_zero (.inl rfl) with hk | hk | hk | hk
    · exact absurd hk (h.a.not_imm rfl)
    · exact absurd hk (hreg.not_imm rfl)
    · exact absurd hk (h.c.not_imm rfl)
    · exact hk

/-- VOTE writes a predicate, or a mask in a register of either kind (R120). -/
theorem fields_build_vote (h : Accepted (form .vote r) r) : fields (build .vote r) = some (.vote, r) := by
  have hc := h.ctl
  have ha := h.a.index_put rfl rfl rfl rfl rfl rfl
  have hopx : bit1 (r.cbit 8) ++ r.ctl.extractLsb' 6 2 = r.opx :=
    append_whole (bit1_opx r (i := 2) (by decide)) (by rw [Raw.opx, extract_extract _ (by decide)])
  have hpred : r.ctl.extractLsb' 6 2 ≠ 3 → bit1 (r.cbit 8) = 0 ∧ 0 = r.hi9 ∧ r.pd.zeroExtend 8 = r.d ∧ 0 = r.dk := fun hne => by
    have hz : r.opx.extractLsb' 2 1 = 0 ∧ r.hi9 = 0 := by
      have hor := std_opx hc
      simpa only [Bool.or_eq_true, Bool.and_eq_true, beq_iff_eq, hne, false_or] using hor
    exact ⟨(bit1_opx r (i := 2) (by decide)).trans hz.1, hz.2.symm, h.pred_dst (if_neg (mt beq_iff_eq.1 hne))⟩
  have hmask : r.ctl.extractLsb' 6 2 = 3 → 0 = r.dk := fun he => by
    have hd : (form .vote r).d = if r.hi9 == 1 then .uni 1 else .reg 1 0 := if_pos (beq_iff_eq.2 he)
    by_cases hu : r.hi9 = 1
    · exact h.uniform_dst (hd.trans (if_pos (beq_iff_eq.2 hu)))
    · exact h.vec_dst (hd.trans (if_neg (mt beq_iff_eq.1 hu))) rfl
  have hv : r.ctl.extractLsb' 6 2 = 0 ∨ r.ctl.extractLsb' 6 2 = 1 ∨ r.ctl.extractLsb' 6 2 = 2 ∨ r.ctl.extractLsb' 6 2 = 3 := by
    generalize r.ctl.extractLsb' 6 2 = v; revert v; decide
  rcases hv with hv | hv | hv | hv
  case inr.inr.inr =>
    have hb : build .vote r = .vote (headOf r) (.mask (r.cbit 8) r.udst) (r.a.extractLsb' 0 5) := by simp only [build, hv]; rfl
    simp only [hb, fields, headRaw_eq, Raw.ixA, Option.some.injEq, Prod.mk.injEq, true_and]
    exact h.eq_of ⟨(udst_put r).1, hmask hv⟩ ha (h.b.zero rfl) (h.c.zero rfl)
      (stdCtl_eq (udst_put r).2 (by rw [← hopx, hv]) (noSat hc) (tyCode_one hc)) (h.no_x rfl)
  case' inl => have hb : build .vote r = .vote (headOf r) (.every r.pd) (r.a.extractLsb' 0 5) := by simp only [build, hv]; rfl
  case' inr.inl => have hb : build .vote r = .vote (headOf r) (.any r.pd) (r.a.extractLsb' 0 5) := by simp only [build, hv]; rfl
  case' inr.inr.inl => have hb : build .vote r = .vote (headOf r) (.agree r.pd) (r.a.extractLsb' 0 5) := by simp only [build, hv]; rfl
  all_goals
    obtain ⟨h8, h9, hd⟩ := hpred (by rw [hv]; decide)
    simp only [hb, fields, headRaw_eq, Raw.ixA, Raw.putPd, Option.some.injEq, Prod.mk.injEq, true_and]
    exact h.eq_of hd ha (h.b.zero rfl) (h.c.zero rfl) (stdCtl_eq h9 (by rw [← hopx, hv, h8]; decide) (noSat hc) (tyCode_one hc)) (h.no_x rfl)

/-- REDUX writes a register of either kind (R122). -/
theorem fields_build_redux (h : Accepted (form .redux r) r) : fields (build .redux r) = some (.redux, r) := by
  have hc := h.ctl
  have hdk : 0 = r.dk := by
    by_cases hu : r.hi9 = 1
    · exact h.uniform_dst (if_pos (beq_iff_eq.2 hu))
    · exact h.vec_dst (if_neg (mt beq_iff_eq.1 hu)) rfl
  simp only [build, fields, headRaw_eq, Option.some.injEq, Prod.mk.injEq, true_and]
  exact h.eq_of ⟨(udst_put r).1, hdk⟩ ⟨rfl, h.a.vector rfl rfl rfl⟩ (h.b.zero rfl) (h.c.zero rfl)
    (stdCtl_eq (udst_put r).2 (reduxCode_reduxOf _) (bit1_beq _) (tyCode_tyv hc)) (h.no_x rfl)

/-- CVT has a source C where it rounds to a scaled type (R140). -/
theorem fields_build_cvt (h : Accepted (form .cvt r) r) : fields (build .cvt r) = some (.cvt, r) := by
  have hc := h.ctl
  simp only [form, Bool.and_eq_true, decide_eq_true_eq] at hc
  obtain ⟨⟨⟨⟨⟨⟨⟨⟨⟨hrnd, hz⟩, -⟩, -⟩, -⟩, -⟩, -⟩, -⟩, -⟩, -⟩ := hc
  have hctl := cvt_ctl hrnd hz
  have hx : (0 : BitVec 8) ++ r.x.extractLsb' 8 8 ++ r.x.extractLsb' 0 8 = r.x :=
    append_whole (append_part (h.xctl_zero rfl (by decide)).symm rfl) rfl
  have hcf := h.c
  by_cases hr : r.ctl.extractLsb' 0 3 = 4
  · have hform : (form .cvt r).c = vs 1 := if_pos (beq_iff_eq.2 hr)
    rw [hform] at hcf
    simp only [build, if_pos hr, fields, headRaw_eq, putA_eq, putC_eq, putD_eq, Option.some.injEq, Prod.mk.injEq, true_and]
    exact h.eq_of (dst_put r) (h.a.put rfl _) (h.b.zero rfl) (hcf.put rfl _) hctl
      ((hcf.immIn_eq rfl rfl _ _).trans <| (h.a.immIn_eq rfl rfl _ _).trans hx)
  · have hform : (form .cvt r).c = un := if_neg (mt beq_iff_eq.1 hr)
    rw [hform] at hcf
    simp only [build, if_neg hr, fields, headRaw_eq, putA_eq, putD_eq, Option.some.injEq, Prod.mk.injEq, true_and]
    exact h.eq_of (dst_put r) (h.a.put rfl _) (h.b.zero rfl) (hcf.zero rfl) hctl ((h.a.immIn_eq rfl rfl _ _).trans hx)

/-- ATOM has a source C for CAS (R178). -/
theorem fields_build_atom (h : Accepted (form .atom r) r) : fields (build .atom r) = some (.atom, r) := by
  have hc := h.ctl
  simp only [form, Bool.and_eq_true] at hc
  obtain ⟨⟨⟨-, hz⟩, hsc⟩, hop⟩ := hc
  have hctl := ordCtl_eq hsc (ordCode_ordOf _) (amo_low hz)
  have hx := amo_x h rfl hop
  have hcf := h.c
  by_cases hr : r.x.extractLsb' 0 4 = 7
  · have hform : (form .atom r).c = vs (tyRegs (tyOf (r.x.extractLsb' 4 5))) := if_pos (beq_iff_eq.2 hr)
    rw [hform] at hcf
    simp only [build, if_pos hr, fields, headRaw_eq, putA_eq, putB_eq, putC_eq, putD_eq, Option.some.injEq, Prod.mk.injEq, true_and]
    exact h.eq_of (dst_put r) (h.a.put rfl _) (h.b.put rfl _) (hcf.put rfl _) hctl hx
  · have hform : (form .atom r).c = un := if_neg (mt beq_iff_eq.1 hr)
    rw [hform] at hcf
    simp only [build, if_neg hr, fields, headRaw_eq, putA_eq, putB_eq, putD_eq, Option.some.injEq, Prod.mk.injEq, true_and]
    exact h.eq_of (dst_put r) (h.a.put rfl _) (h.b.put rfl _) (hcf.zero rfl) hctl hx

/-- The entries of RCV and RFCLAIM whose CTL says whether D names a predicate (R190, R207). -/
theorem flag_pred {f : Form} (h : Accepted f r) (hz : (r.ctl.extractLsb' 1 9 == 0) = true)
    (hd : f.d = if r.ctl.extractLsb' 0 1 == 1 then .pred else .no) :
    (r.cbit 0 = true ∧ 1 = r.ctl ∧ r.pd.zeroExtend 8 = r.d ∧ 0 = r.dk) ∨ (r.cbit 0 = false ∧ 0 = r.ctl ∧ 0 = r.d ∧ 0 = r.dk) := by
  have hctl := bit_ctl hz
  by_cases hb : r.cbit 0 = true
  · rw [hb] at hctl
    exact .inl ⟨hb, hctl, h.pred_dst (hd.trans (if_pos (beq_iff_eq.2 ((cbit_iff r 0).1 hb))))⟩
  · have hne : r.ctl.extractLsb' 0 1 ≠ 1 := fun he => hb ((cbit_iff r 0).2 he)
    rw [Bool.not_eq_true] at hb
    rw [hb] at hctl
    exact .inr ⟨hb, hctl, h.no_dst (hd.trans (if_neg (mt beq_iff_eq.1 hne)))⟩

/-- RCV has a predicate or none (R190). -/
theorem fields_build_rcv (h : Accepted (form .rcv r) r) : fields (build .rcv r) = some (.rcv, r) := by
  have hx := h.low_x (n := 16) rfl (by decide) (by decide)
  rcases flag_pred h h.ctl rfl with ⟨hb, hctl, hd⟩ | ⟨hb, hctl, hd⟩
  · simp only [build, hb, fields, headRaw_eq, Raw.putPd, Option.some.injEq, Prod.mk.injEq, true_and, if_true]
    exact h.eq_of hd (h.a.zero rfl) (h.b.zero rfl) (h.c.zero rfl) hctl hx
  · simp only [build, hb, fields, headRaw_eq, Option.some.injEq, Prod.mk.injEq, true_and, Bool.false_eq_true, if_false]
    exact h.eq_of hd (h.a.zero rfl) (h.b.zero rfl) (h.c.zero rfl) hctl hx

/-- RFCLAIM has a predicate or none (R207). -/
theorem fields_build_rfclaim (h : Accepted (form .rfclaim r) r) : fields (build .rfclaim r) = some (.rfclaim, r) := by
  have hc := h.ctl
  simp only [form, Bool.and_eq_true] at hc
  have hx := h.low_x (n := 9) rfl (by decide) (by decide)
  rcases flag_pred h hc.1.1 rfl with ⟨hb, hctl, hd⟩ | ⟨hb, hctl, hd⟩
  · simp only [build, hb, fields, headRaw_eq, Raw.putPd, Option.some.injEq, Prod.mk.injEq, true_and, if_true]
    exact h.eq_of hd (h.a.zero rfl) (h.b.zero rfl) (h.c.zero rfl) hctl hx
  · simp only [build, hb, fields, headRaw_eq, Option.some.injEq, Prod.mk.injEq, true_and, Bool.false_eq_true, if_false]
    exact h.eq_of hd (h.a.zero rfl) (h.b.zero rfl) (h.c.zero rfl) hctl hx

/-- A matrix instruction has B in registers or through a shape register (R154, R155). -/
theorem mmRaw_args {p8 int f6 sc : Bool} (h : Accepted (mmForm r p8 int f6 sc) r) : mmRaw (headOf r) (mmArgsOf r) = r := by
  have hc := h.ctl
  simp only [mmForm, Bool.and_eq_true] at hc
  obtain ⟨⟨⟨⟨⟨⟨⟨hz, -⟩, -⟩, -⟩, -⟩, -⟩, -⟩, -⟩ := hc
  have hci := h.c.index rfl rfl rfl rfl rfl
  have hb : (if r.cbit 1 then (0 : BitVec 2) else 3) = r.bk := by
    have hbf := h.b
    by_cases hr : r.cbit 1 = true
    · obtain ⟨n, hform⟩ : ∃ n, (mmForm r p8 int f6 sc).b = vo n := ⟨_, if_pos (beq_iff_eq.2 ((cbit_iff r 1).1 hr))⟩
      rw [hform] at hbf
      rw [if_pos hr, hbf.vector rfl rfl rfl]
    · have hform : (mmForm r p8 int f6 sc).b = ixo .t := if_neg fun he => hr ((cbit_iff r 1).2 (beq_iff_eq.1 he))
      rw [hform] at hbf
      rw [if_neg hr, (hbf.index rfl rfl rfl rfl rfl).1]
  simp only [mmRaw, mmArgsOf, headRaw_eq]
  exact h.eq_of ⟨rfl, (h.vecOnly rfl).symm⟩ ⟨rfl, h.a.vector rfl rfl rfl⟩ ⟨rfl, hb⟩ ⟨zeroExtend_low hci.2, hci.1⟩ (mm_ctl hz)
    (append_whole (append_part (append_part (append_part rfl rfl) rfl) rfl) rfl)

end Special

/-- The instruction of an accepted word has that word's opcode and fields. -/
theorem fields_build {o : Op} {r : Raw} (henc : encCause o r = none) : fields (build o r) = some (o, r) := by
  have h := accepted_of_encCause henc
  clear henc
  have hc := h.ctl
  cases o
  case vote => exact fields_build_vote h
  case vtos => exact fields_build_vtos h
  case movs => exact fields_build_movs h
  case cvt => exact fields_build_cvt h
  case atom => exact fields_build_atom h
  case redux => exact fields_build_redux h
  case rcv => exact fields_build_rcv h
  case rfclaim => exact fields_build_rfclaim h
  case mmbf | mmhf | mm8p | mmi8 | mmi4 | mmf6a | mmf6b | mmf4 | mms8p | mmsf6a | mmsf6b | mmsf4 =>
    exact congrArg (fun q => some (_, q)) (mmRaw_args h)
  all_goals simp only [build, fields, aluRaw, fltRaw, headRaw_eq, putA_eq, putB_eq, putC_eq, putD_eq, Raw.putPd, Raw.ixA, Raw.ixB, Raw.ixC,
    Option.some.injEq, Prod.mk.injEq, true_and]
  case iadd | isub | imul =>
    exact h.eq_of (dst_put r) (h.a.put rfl _) (h.b.put rfl _) (h.c.zero rfl) (sat_ctl hc (tyCode_tyv hc)) (h.imm_ab (.inl rfl) rfl)
  case imulh | imin | imax | andB | orB | xorB | shl | shr | sar | bfx =>
    exact h.eq_of (dst_put r) (h.a.put rfl _) (h.b.put rfl _) (h.c.zero rfl) (plain_ctl hc (tyCode_tyv hc)) (h.imm_ab (.inl rfl) rfl)
  case imad | imadw =>
    exact h.eq_of (dst_put r) (h.a.put rfl _) (h.b.put rfl _) (h.c.put rfl _) (sat_ctl hc (tyCode_tyv hc)) (h.imm_abc (.inl rfl))
  case bfi =>
    exact h.eq_of (dst_put r) (h.a.put rfl _) (h.b.put rfl _) (h.c.put rfl _) (plain_ctl hc (tyCode_tyv hc)) (h.imm_abc (.inl rfl))
  case bperm =>
    exact h.eq_of (dst_put r) (h.a.put rfl _) (h.b.put rfl _) (h.c.put rfl _) (plain_ctl hc (tyCode_one hc)) (h.imm_abc (.inl rfl))
  case idp4 | idp8 =>
    exact h.eq_of (dst_put r) (h.a.put rfl _) (h.b.put rfl _) (h.c.put rfl _) (idp_ctl hc) (h.imm_abc (.inl rfl))
  case fsh =>
    exact h.eq_of (dst_put r) (h.a.put rfl _) (h.b.put rfl _) (h.c.put rfl _) (flag_ctl hc (tyCode_one hc)) (h.imm_abc (.inl rfl))
  case lut3 =>
    exact h.eq_of (dst_put r) (h.a.put rfl _) (h.b.put rfl _) (h.c.put rfl _) (plain_ctl hc (tyCode_tyv hc)) (h.low_x rfl (by decide) (by decide))
  case iabs | ineg =>
    exact h.eq_of (dst_put r) (h.a.put rfl _) (h.b.zero rfl) (h.c.zero rfl) (sat_ctl hc (tyCode_tyv hc)) (h.imm_a (.inr rfl) rfl rfl)
  case notB | pcnt | clz | brev =>
    exact h.eq_of (dst_put r) (h.a.put rfl _) (h.b.zero rfl) (h.c.zero rfl) (plain_ctl hc (tyCode_tyv hc)) (h.imm_a (.inr rfl) rfl rfl)
  case mov =>
    exact h.eq_of (dst_put r) (h.a.put rfl _) (h.b.zero rfl) (h.c.zero rfl) (plain_ctl hc (tyCode_tyv hc)) (h.imm_a (.inl rfl) rfl rfl)
  case movi =>
    have hck : r.ck = 0 := by simpa [srcKindBad, form, alu] using h.c.kind
    refine h.eq_of (dst_put r) (h.a.zero rfl) (h.b.zero rfl) ⟨?_, hck.symm⟩ (plain_ctl hc (tyCode_one hc)) ?_
    · rw [extract_append_high _ _ (by decide), extract_all _ (by decide)]
    · rw [extract_append_low _ _ (by decide), extract_all _ (by decide)]
  case icmp =>
    exact h.eq_of (h.pred_dst rfl) (h.a.put rfl _) (h.b.put rfl _) (h.c.zero rfl) (icmp_ctl hc) (h.imm_ab (.inl rfl) rfl)
  case sel =>
    exact h.eq_of ⟨rfl, h.vec_dst rfl rfl⟩ (h.a.put rfl _) (h.b.put rfl _) (h.c.index_put rfl rfl rfl rfl rfl rfl) (plain_ctl hc (tyCode_tyv hc))
      (h.imm_ab (.inl rfl) rfl)
  case shfl =>
    exact h.eq_of ⟨rfl, h.vec_dst rfl rfl⟩ ⟨rfl, h.a.vector rfl rfl rfl⟩ (h.b.put rfl _) (h.c.zero rfl) (shfl_ctl hc (tyCode_tyv hc))
      (h.imm_b (.inl rfl) rfl rfl)
  case matchL =>
    exact h.eq_of ⟨rfl, h.vec_dst rfl rfl⟩ ⟨rfl, h.a.vector rfl rfl rfl⟩ (h.b.zero rfl) (h.c.zero rfl) (plain_ctl hc (tyCode_tyv hc)) (h.no_x rfl)
  case padd =>
    have hw : tyCode (if r.tyv == .s64 then .s64 else .s32) = r.ty := by
      have hl := tyCode_tyv hc
      obtain ⟨⟨t, ht, htc⟩, -⟩ := std_iff.1 hc
      rw [Raw.tyv, ← htc, tyOf_tyCode]
      rcases List.mem_pair.1 ht with rfl | rfl <;> rfl
    exact h.eq_of (dst_put r) (h.a.put rfl _) (h.b.put rfl _) (h.c.zero rfl) (sat_ctl hc hw) (h.imm_ab (.inl rfl) rfl)
  case pdiff =>
    exact h.eq_of (dst_put r) (h.a.put rfl _) (h.b.put rfl _) (h.c.zero rfl) (plain_ctl hc (tyCode_one hc)) (h.imm_ab (.inr rfl) rfl)
  case prstr =>
    exact h.eq_of (dst_put r) (h.a.put rfl _) (h.b.put rfl _) (h.c.zero rfl) (plain_ctl hc (tyCode_one hc)) (h.imm_ab (.inl rfl) rfl)
  case pchk =>
    obtain ⟨hstd, -⟩ := Bool.and_eq_true_iff.1 hc
    exact h.eq_of (h.pred_dst rfl) (h.a.put rfl _) (h.b.zero rfl) (h.c.zero rfl) (plain_ctl hstd (tyCode_one hstd))
      ((h.a.immIn_eq rfl rfl _ _).trans (append_whole (append_part rfl (h.xctl_zero rfl (by decide)).symm) rfl))
  case plop =>
    exact h.eq_of (h.pred_dst rfl) (h.a.index_put rfl rfl rfl rfl rfl rfl) (h.b.index_put rfl rfl rfl rfl rfl rfl)
      (h.c.index_put rfl rfl rfl rfl rfl rfl) (plain_ctl hc (tyCode_one hc)) (h.low_x rfl (by decide) (by decide))
  case ptov =>
    exact h.eq_of ⟨rfl, h.vec_dst rfl rfl⟩ (h.a.zero rfl) (h.b.zero rfl) (h.c.zero rfl) (plain_ctl hc (tyCode_one hc)) (h.no_x rfl)
  case vtop =>
    exact h.eq_of (h.no_dst rfl) (h.a.put rfl _) (h.b.put rfl _) (h.c.zero rfl) (plain_ctl hc (tyCode_one hc)) (h.imm_ab (.inl rfl) rfl)
  case qblk =>
    simp only [form, Bool.and_eq_true, decide_eq_true_eq] at hc
    obtain ⟨⟨⟨hrnd, hz⟩, -⟩, -⟩ := hc
    exact h.eq_of (dst_put r) (h.a.put rfl _) (h.b.zero rfl) (h.c.zero rfl) (qblk_ctl hrnd hz)
      ((h.a.immIn_eq rfl rfl _ _).trans (append_whole (append_part (append_part (h.xctl_zero rfl (by decide)).symm rfl) rfl) rfl))
  case dqblk =>
    simp only [form, Bool.and_eq_true, decide_eq_true_eq] at hc
    obtain ⟨⟨⟨hrnd, -⟩, hz⟩, -⟩ := hc
    exact h.eq_of (dst_put r) (h.a.put rfl _) (h.b.put rfl _) (h.c.zero rfl) (dqblk_ctl hrnd hz)
      ((h.b.immIn_eq rfl rfl _ _).trans <| (h.a.immIn_eq rfl rfl _ _).trans
        (append_whole (append_part (append_part (h.xctl_zero rfl (by decide)).symm rfl) rfl) (h.xctl_zero rfl (by decide)).symm))
  case fadd | fmul | dadd | dmul =>
    exact h.eq_of (dst_put r) (h.a.put rfl _) (h.b.put rfl _) (h.c.zero rfl) (round_ctl hc (tyCode_one hc)) (h.imm_ab (.inr rfl) rfl)
  case hadd2 | hmul2 =>
    exact h.eq_of (dst_put r) (h.a.put rfl _) (h.b.put rfl _) (h.c.zero rfl) (round_ctl hc (tyCode_tyv hc)) (h.imm_ab (.inr rfl) rfl)
  case ffma | dfma =>
    exact h.eq_of (dst_put r) (h.a.put rfl _) (h.b.put rfl _) (h.c.put rfl _) (round_ctl hc (tyCode_one hc)) (h.imm_abc (.inr rfl))
  case hfma2 =>
    exact h.eq_of (dst_put r) (h.a.put rfl _) (h.b.put rfl _) (h.c.put rfl _) (round_ctl hc (tyCode_tyv hc)) (h.imm_abc (.inr rfl))
  case fmin | fmax =>
    exact h.eq_of (dst_put r) (h.a.put rfl _) (h.b.put rfl _) (h.c.zero rfl) (ftz_ctl hc (tyCode_one hc)) (h.imm_ab (.inr rfl) rfl)
  case hmnx2 =>
    refine h.eq_of (dst_put r) (h.a.put rfl _) (h.b.put rfl _) (h.c.zero rfl) (ftz_ctl hc (tyCode_tyv hc)) ?_
    rw [bit1_xbit]
    exact h.low_x rfl (by decide) (by decide)
  case fcmp =>
    obtain ⟨hstd, hrel⟩ := Bool.and_eq_true_iff.1 hc
    exact h.eq_of (h.pred_dst rfl) (h.a.put rfl _) (h.b.put rfl _) (h.c.zero rfl) (ftz_ctl hstd (tyCode_tyv hstd))
      ((h.b.immIn_eq rfl rfl _ _).trans <| (h.a.immIn_eq rfl rfl _ _).trans
        (append_whole (append_part (append_part (h.xctl_zero rfl (by decide)).symm (bit1_xbit r 4)) (bit1_xbit r 3)) (relCode_relOf _ (by simpa using hrel))))
  case ffn =>
    obtain ⟨hstd, hfn⟩ := Bool.and_eq_true_iff.1 hc
    refine h.eq_of (dst_put r) (h.a.put rfl _) (h.b.zero rfl) (h.c.zero rfl) (ftz_ctl hstd (tyCode_one hstd)) ?_
    rw [fnCode_fnOf _ (of_decide_eq_true hfn)]
    exact h.low_x rfl (by decide) (by decide)
  case ftest =>
    simp only [form, Bool.and_eq_true] at hc
    obtain ⟨⟨hstd, -⟩, -⟩ := hc
    exact h.eq_of (h.pred_dst rfl) (h.a.put rfl _) (h.b.zero rfl) (h.c.zero rfl) (plain_ctl hstd (tyCode_tyv hstd))
      ((h.a.immIn_eq rfl rfl _ _).trans (append_whole (append_part (h.xctl_zero rfl (by decide)).symm (bit1_xbit r 10)) rfl))
  case ldmx =>
    simp only [form, if_true, Bool.and_eq_true] at hc
    obtain ⟨⟨hz, hf⟩, -⟩ := hc
    exact h.eq_of ⟨rfl, h.vec_dst rfl rfl⟩ (h.a.put rfl _) (h.b.index_put rfl rfl rfl rfl rfl rfl) (h.c.zero rfl) (ldmx_ctl hz (by simpa using hf)) rfl
  case stmx =>
    simp only [form, reduceCtorEq, if_false, Bool.and_eq_true] at hc
    obtain ⟨⟨hz, hf⟩, -⟩ := hc
    exact h.eq_of (h.no_dst rfl) (h.a.put rfl _) (h.b.index_put rfl rfl rfl rfl rfl rfl) ⟨rfl, h.c.vector rfl rfl rfl⟩ (ldmx_ctl hz (by simpa using hf)) rfl
  case ld =>
    simp only [form, Bool.and_eq_true, decide_eq_true_eq] at hc
    obtain ⟨⟨⟨hsz, -⟩, hsc⟩, -⟩ := hc
    exact h.eq_of (dst_put r) (h.a.put rfl _) (h.b.zero rfl) (h.c.zero rfl) (ordCtl_eq hsc (ordCode_ordOf _) (ldst_low hsz)) rfl
  case st =>
    simp only [form, Bool.and_eq_true, decide_eq_true_eq] at hc
    obtain ⟨⟨hsz, -⟩, hsc⟩ := hc
    have hle : (r.ctl.extractLsb' 2 3).toNat ≤ 6 := by
      simp only [List.mem_cons, List.not_mem_nil, or_false] at hsz; omega
    exact h.eq_of (h.no_dst rfl) (h.a.put rfl _) (h.b.put rfl _) (h.c.zero rfl) (ordCtl_eq hsc (ordCode_ordOf _) (ldst_low hle)) rfl
  case red =>
    simp only [form, Bool.and_eq_true] at hc
    obtain ⟨⟨⟨⟨-, hz⟩, -⟩, hsc⟩, hop⟩ := hc
    exact h.eq_of (h.no_dst rfl) (h.a.put rfl _) (h.b.put rfl _) (h.c.zero rfl) (ordCtl_eq hsc (ordCode_ordOf _) (amo_low hz)) (amo_x h rfl hop)
  case fence =>
    simp only [form, Bool.and_eq_true, decide_eq_true_eq] at hc
    obtain ⟨hz, hsc⟩ := hc
    exact h.eq_of (h.no_dst rfl) (h.a.zero rfl) (h.b.zero rfl) (h.c.zero rfl)
      (append_whole (append_part (scopeCode_scopeOf _ hsc) (semCode_semOf _)) (zero_of_beq hz)) (h.no_x rfl)
  case pref =>
    obtain ⟨-, h3⟩ := Bool.and_eq_true_iff.1 hc
    exact h.eq_of (h.no_dst rfl) (h.a.put rfl _) (h.b.zero rfl) (h.c.zero rfl)
      (append_whole (append_part (zero_of_beq h3) (bit1_cbit r 2)) (spaceCode_spaceOf _)) rfl
  case spadj =>
    exact h.eq_of ⟨rfl, h.vec_dst rfl rfl⟩ (h.a.put rfl _) (h.b.zero rfl) (h.c.zero rfl) (ctl_none hc) (h.imm_a (.inl rfl) rfl rfl)
  case cpy =>
    simp only [form, Bool.and_eq_true, decide_eq_true_eq] at hc
    obtain ⟨⟨hsz, hz⟩, hsc⟩ := hc
    exact h.eq_of ⟨rfl, h.vec_dst rfl rfl⟩ (h.a.put rfl _) (h.b.put rfl _) (h.c.zero rfl)
      (append_whole (append_part (append_part (append_part (scopeCode_scopeOf _ hsc) (zero_of_beq hz)) (csizeCode_csizeOf _ (by simpa using hsz)))
        (spaceCode_spaceOf _)) (spaceCode_spaceOf _)) (append_whole rfl rfl)
  case chapp =>
    exact h.eq_of (dst_put r) (h.a.put rfl _) (h.b.put rfl _) (h.c.zero rfl) (ctl_none hc) (h.imm_ab (.inr rfl) rfl)
  case chadv | pbinit =>
    exact h.eq_of (h.no_dst rfl) (h.a.put rfl _) (h.b.put rfl _) (h.c.zero rfl) (ctl_none hc) (h.imm_ab (.inl rfl) rfl)
  case tryw =>
    simp only [form, Bool.and_eq_true, decide_eq_true_eq] at hc
    obtain ⟨⟨⟨-, hz⟩, hord⟩, hsc⟩ := hc
    exact h.eq_of (h.pred_dst rfl) (h.a.put rfl _) (h.b.put rfl _) (h.c.zero rfl) (ordCtl_eq hsc (ordCode_acqOrd hord)
      (append_part (append_part (zero_of_beq hz) (bit1_cbit r 2)) (spaceCode_spaceOf _))) rfl
  case ldsh | stsh =>
    obtain ⟨-, hz⟩ := Bool.and_eq_true_iff.1 hc
    refine h.eq_of (h.no_dst rfl) ⟨rfl, h.a.uniform rfl rfl rfl rfl rfl⟩ (h.b.zero rfl) (h.c.index_put rfl rfl rfl rfl rfl rfl) ?_ rfl
    rw [spaceCode_spaceOf, zeroExtend_low (lt_of_high (beq_iff_eq.1 hz) rfl)]
  case setsh =>
    obtain ⟨-, hz⟩ := Bool.and_eq_true_iff.1 hc
    exact h.eq_of (h.no_dst rfl) (h.a.zero rfl) (h.b.put rfl _) (h.c.index_put rfl rfl rfl rfl rfl rfl)
      (zeroExtend_low (lt_of_high (beq_iff_eq.1 hz) rfl)) (h.imm_b (.inl rfl) rfl rfl)
  case pbarr =>
    simp only [form, Bool.and_eq_true, decide_eq_true_eq] at hc
    obtain ⟨⟨hz, hord⟩, hsc⟩ := hc
    exact h.eq_of ⟨rfl, h.vec_dst rfl rfl⟩ (h.a.put rfl _) (h.b.put rfl _) (h.c.zero rfl) (ordCtl_eq hsc (ordCode_relOrd hord) (zero_of_beq hz))
      (h.imm_ab (.inl rfl) rfl)
  case pbwait =>
    simp only [form, Bool.and_eq_true, decide_eq_true_eq] at hc
    obtain ⟨⟨hz, hord⟩, hsc⟩ := hc
    exact h.eq_of ⟨rfl, h.vec_dst rfl rfl⟩ (h.a.put rfl _) (h.b.put rfl _) (h.c.zero rfl) (ordCtl_eq hsc (ordCode_acqOrd hord) (zero_of_beq hz))
      ((h.b.immIn_eq rfl rfl _ _).trans <| (h.a.immIn_eq rfl rfl _ _).trans (h.low_x rfl (by decide) (by decide)))
  case pbinv | ret | tspawn =>
    exact h.eq_of (h.no_dst rfl) (h.a.put rfl _) (h.b.zero rfl) (h.c.zero rfl) (ctl_none hc) (h.imm_a (.inr rfl) rfl rfl)
  case cvset =>
    exact h.eq_of (h.no_dst rfl) (h.a.index_put rfl rfl rfl rfl rfl rfl) (h.b.zero rfl) (h.c.zero rfl) (bit_ctl hc) (h.no_x rfl)
  case cvsign =>
    exact h.eq_of (h.no_dst rfl) (h.a.index_put rfl rfl rfl rfl rfl rfl) (h.b.zero rfl) (h.c.zero rfl) (ctl_none hc) (h.no_x rfl)
  case bra => exact h.eq_of (h.no_dst rfl) (h.a.zero rfl) (h.b.zero rfl) (h.c.zero rfl) (ctl_none hc) rfl
  case brx =>
    exact h.eq_of (h.no_dst rfl) (h.a.put rfl _) (h.b.zero rfl) (h.c.zero rfl) (ctl_none hc) (h.low_x rfl (by decide) (by decide))
  case call => exact h.eq_of ⟨rfl, h.vec_dst rfl rfl⟩ (h.a.zero rfl) (h.b.zero rfl) (h.c.zero rfl) (ctl_none hc) rfl
  case callx =>
    exact h.eq_of ⟨rfl, h.vec_dst rfl rfl⟩ (h.a.put rfl _) (h.b.zero rfl) (h.c.zero rfl) (ctl_none hc) (h.low_x rfl (by decide) (by decide))
  case land | yield | trap | bkpt =>
    exact h.eq_of (h.no_dst rfl) (h.a.zero rfl) (h.b.zero rfl) (h.c.zero rfl) (ctl_none hc) (h.low_x rfl (by decide) (by decide))
  case nop | exit => exact h.eq_of (h.no_dst rfl) (h.a.zero rfl) (h.b.zero rfl) (h.c.zero rfl) (ctl_none hc) (h.no_x rfl)
  case gst =>
    simp only [form, Bool.and_eq_true, decide_eq_true_eq] at hc
    obtain ⟨⟨⟨hsz, hz⟩, hord⟩, hsc⟩ := hc
    exact h.eq_of (h.no_dst rfl) (h.a.put rfl _) ⟨rfl, h.b.vector rfl rfl rfl⟩ ⟨rfl, h.c.uniform rfl rfl rfl rfl rfl⟩
      (ordCtl_eq hsc (ordCode_relOrd hord) (csize_low hsz hz)) (gridX_put _ (h.xctl_zero rfl (by decide)).symm)
  case gld =>
    simp only [form, Bool.and_eq_true, decide_eq_true_eq] at hc
    obtain ⟨⟨⟨hsz, hz⟩, hord⟩, hsc⟩ := hc
    exact h.eq_of ⟨rfl, h.vec_dst rfl rfl⟩ (h.a.put rfl _) (h.b.zero rfl) (h.c.put rfl _)
      (ordCtl_eq hsc (ordCode_acqOrd hord) (csize_low hsz hz)) rfl
  case gatom =>
    simp only [form, Bool.and_eq_true] at hc
    obtain ⟨⟨hz, hsc⟩, hop⟩ := hc
    exact h.eq_of ⟨rfl, h.vec_dst rfl rfl⟩ (h.a.put rfl _) (h.b.put rfl _) (h.c.put rfl _)
      (ordCtl_eq hsc (ordCode_ordOf _) (zero_of_beq hz)) (amo_x h rfl hop)
  case gred =>
    simp only [form, Bool.and_eq_true, decide_eq_true_eq] at hc
    obtain ⟨⟨⟨⟨⟨hop, hty⟩, -⟩, -⟩, -⟩, -⟩ := hc
    exact h.eq_of (h.no_dst rfl) (h.a.put rfl _) (h.b.put rfl _) ⟨rfl, h.c.uniform rfl rfl rfl rfl rfl⟩ (gred_ctl hop hty) (gridX_put _ rfl)
  case gcpy =>
    simp only [form, Bool.and_eq_true, decide_eq_true_eq] at hc
    obtain ⟨⟨⟨⟨-, hsz⟩, hz⟩, hord⟩, hsc⟩ := hc
    exact h.eq_of ⟨rfl, h.vec_dst rfl rfl⟩ (h.a.put rfl _) (h.b.put rfl _) ⟨rfl, h.c.uniform rfl rfl rfl rfl rfl⟩
      (ordCtl_eq hsc (ordCode_relOrd hord)
        (append_part (append_part (zero_of_beq hz) (csizeCode_csizeOf _ (by simpa using hsz))) (spaceCode_spaceOf _)))
      (gridX_put _ (h.xctl_zero rfl (by decide)).symm)
  case garm =>
    have hb : (form .garm r).b.ix = .no := by simp only [form]; split <;> rfl
    exact h.eq_of (h.no_dst rfl) (h.a.index_put rfl rfl rfl rfl rfl rfl) (h.b.put hb _) (h.c.zero rfl) (bit_ctl hc) (h.imm_b (.inl rfl) rfl rfl)
  case gwait =>
    exact h.eq_of (h.pred_dst rfl) (h.a.index_put rfl rfl rfl rfl rfl rfl) (h.b.zero rfl) (h.c.zero rfl) (wait_ctl hc) (h.no_x rfl)
  case gstat =>
    exact h.eq_of (dst_put r) (h.a.index_put rfl rfl rfl rfl rfl rfl) (h.b.zero rfl) (h.c.zero rfl) (ctl_none hc) (h.no_x rfl)
  case tminc | tmdec =>
    exact h.eq_of (h.no_dst rfl) (h.a.put rfl _) (h.b.put rfl _) (h.c.put rfl _) (ctl_none hc) (h.imm_abc (.inl rfl))
  case fwait =>
    exact h.eq_of ⟨rfl, h.vec_dst rfl rfl⟩ (h.a.put rfl _) (h.b.put rfl _) (h.c.zero rfl) (wait_ctl hc)
      ((h.b.immIn_eq rfl rfl _ _).trans <| (h.a.immIn_eq rfl rfl _ _).trans (h.low_x rfl (by decide) (by decide)))
  case fread =>
    exact h.eq_of (dst_put r) (h.a.put rfl _) (h.b.zero rfl) (h.c.zero rfl) (ctl_none hc) (h.imm_a (.inl rfl) rfl rfl)
  case tadv | grun =>
    exact h.eq_of (dst_put r) (h.a.put rfl _) (h.b.put rfl _) (h.c.zero rfl) (ctl_none hc) (h.imm_ab (.inr rfl) rfl)
  case tcmp =>
    obtain ⟨hz, hcc⟩ := Bool.and_eq_true_iff.1 hc
    exact h.eq_of (h.pred_dst rfl) (h.a.put rfl _) (h.b.put rfl _) (h.c.zero rfl)
      (append_whole (append_part (zero_of_beq hz) (bit1_cbit r 3)) (ccCode_ccOf _ (of_decide_eq_true hcc))) (h.imm_ab (.inr rfl) rfl)
  case cancel =>
    obtain ⟨hz, hl⟩ := Bool.and_eq_true_iff.1 hc
    refine h.eq_of (h.no_dst rfl) (h.a.zero rfl) (h.b.zero rfl) (h.c.zero rfl) (ctl_none hz) ?_
    rw [levelCode_levelOf _ (of_decide_eq_true hl)]
    exact h.low_x rfl (by decide) (by decide)
  case rfgive =>
    simp only [form, ctlForm, Bool.and_eq_true] at hc
    exact h.eq_of (h.no_dst rfl) (h.a.zero rfl) (h.b.zero rfl) (h.c.zero rfl) (ctl_none hc.1.1) (h.low_x rfl (by decide) (by decide))
  case regroup =>
    obtain ⟨hz, -⟩ := Bool.and_eq_true_iff.1 hc
    exact h.eq_of (h.no_dst rfl) ⟨rfl, h.a.vector rfl rfl rfl⟩ (h.b.zero rfl) (h.c.zero rfl) (ctl_none hz)
      (append_whole (append_part (h.xctl_zero rfl (by decide)).symm rfl) rfl)
  case ungroup =>
    obtain ⟨hz, -⟩ := Bool.and_eq_true_iff.1 hc
    exact h.eq_of (h.no_dst rfl) (h.a.zero rfl) (h.b.zero rfl) (h.c.zero rfl) (ctl_none hz) (append_whole (append_part (h.xctl_zero rfl (by decide)).symm rfl) rfl)
  case exacq =>
    exact h.eq_of ⟨rfl, h.uni_dst rfl⟩ (h.a.put rfl _) (h.b.zero rfl) (h.c.zero rfl) (bit_ctl hc) (h.imm_a (.inl rfl) rfl rfl)
  case exrel =>
    exact h.eq_of (h.no_dst rfl) (h.a.put rfl _) (h.b.zero rfl) (h.c.zero rfl) (ctl_none hc) (h.imm_a (.inl rfl) rfl rfl)
  case expin =>
    exact h.eq_of (h.no_dst rfl) (h.a.put rfl _) (h.b.zero rfl) (h.c.zero rfl) (bit_ctl hc) (h.imm_a (.inl rfl) rfl rfl)
  case eret =>
    obtain ⟨hact, hl⟩ := Bool.and_eq_true_iff.1 hc
    have hlt : r.ctl.toNat ≤ 3 := of_decide_eq_true hact
    refine h.eq_of ⟨rfl, h.uni_dst rfl⟩ ⟨rfl, h.a.uniform rfl rfl rfl rfl rfl⟩ ⟨rfl, h.b.uniform rfl rfl rfl rfl rfl⟩
      ⟨rfl, h.c.uniform rfl rfl rfl rfl rfl⟩ ?_ ?_
    · rw [eretCode_eretOf _ (by rw [BitVec.extractLsb'_toNat]; simp; omega), zeroExtend_low (by omega)]
    · rw [levelCode_levelOf _ (of_decide_eq_true hl)]
      exact h.low_x rfl (by decide) (by decide)
  case sysr =>
    obtain ⟨hz, -⟩ := Bool.and_eq_true_iff.1 hc
    exact h.eq_of (dst_put r) (h.a.zero rfl) (h.b.zero rfl) (h.c.zero rfl) (ctl_none hz) (h.low_x rfl (by decide) (by decide))
  case sysw =>
    obtain ⟨hz, -⟩ := Bool.and_eq_true_iff.1 hc
    exact h.eq_of (h.no_dst rfl) ⟨rfl, h.a.uniform rfl rfl rfl rfl rfl⟩ (h.b.zero rfl) (h.c.zero rfl) (ctl_none hz) (h.low_x rfl (by decide) (by decide))

/-- The operands of the instruction of an accepted word fit each other. -/
theorem operandsFit_build {o : Op} {r : Raw} (henc : encCause o r = none) : operandsFit (build o r) = true := by
  have h := (accepted_of_encCause henc).ctl
  clear henc
  cases o
  case cvt =>
    simp only [form, Bool.and_eq_true, decide_eq_true_eq] at h
    obtain ⟨⟨⟨⟨⟨⟨⟨⟨⟨hrnd, -⟩, -⟩, -⟩, -⟩, -⟩, -⟩, -⟩, -⟩, -⟩ := h
    have hrs : ∀ v : BitVec 3, v.toNat ≤ 4 → ((rndOf v == .rs) = decide (v = 4)) := by decide
    simp only [build, operandsFit, hrs _ hrnd]
    split
    case isTrue h4 => rw [decide_eq_true h4]; rfl
    case isFalse h4 => rw [decide_eq_false h4]; rfl
  case atom =>
    simp only [form, Bool.and_eq_true] at h
    have hcas : ∀ v : BitVec 4, v.toNat ≤ 8 → ((amoOf v == .cas) = decide (v = 7)) := by decide
    simp only [build, operandsFit, hcas _ (tyCode_of_amoOk h.2).2]
    split
    case isTrue h7 => rw [decide_eq_true h7]; rfl
    case isFalse h7 => rw [decide_eq_false h7]; rfl
  case gred =>
    simp only [form, Bool.and_eq_true, decide_eq_true_eq] at h
    obtain ⟨⟨⟨⟨⟨hop, hty⟩, -⟩, -⟩, -⟩, -⟩ := h
    have hpk : ∀ v : BitVec 3, v.toNat ≤ 5 → (amoOf ((0 : BitVec 1) ++ v) != .pkmax) = true := by decide
    simp only [build, operandsFit, hpk _ hop, gredTyCode_gredTyOf _ hty, Bool.true_and, beq_self_eq_true]
  case vote => simp only [build]; split <;> rfl
  all_goals rfl

/-! ### Putting fields and reading them back -/

/-- Reading the guard and the hints of fields that hold them. -/
theorem headOf_fields (h : Head) (d a b c : BitVec 8) (dk : BitVec 1) (ak bk ck : BitVec 2) (ctl : BitVec 10) (x : BitVec 24) (rsv : BitVec 3) :
    headOf { gpred := gpredOf h.guard, gmode := gmodeOf h.guard, d := d, dk := dk, a := a, ak := ak, b := b, bk := bk, c := c, ck := ck, ctl := ctl
             x := x, pol := h.pol, reuse := bit1 h.reuse, repack := bit1 h.repack, yld := bit1 h.yld, rsv := rsv } = h := by
  have hflag : ∀ v : Bool, (bit1 v == 1) = v := by decide
  obtain ⟨guard, pol, reuse, repack, yld⟩ := h
  simp only [headOf, hflag]
  cases guard <;> rfl

/-- Reading a flag's field. -/
theorem beq_bit1 : ∀ v : Bool, (bit1 v == 1) = v := by decide

/-- A bit of CTL through its field. -/
theorem cbit_eq (r : Raw) (i : Nat) : r.cbit i = (r.ctl.extractLsb' i 1 == 1) := by rw [← bit1_cbit, beq_bit1]

/-- A bit of XCTL through its field. -/
theorem xbit_eq (r : Raw) (i : Nat) : r.xbit i = (r.x.extractLsb' i 1 == 1) := by rw [← bit1_xbit, beq_bit1]

/-- The low bits of a field that was widened. -/
theorem extract_zeroExtend {n w : Nat} (k : BitVec n) (h : n ≤ w) : (k.zeroExtend w).extractLsb' 0 n = k := by
  apply BitVec.eq_of_toNat_eq
  rw [BitVec.extractLsb'_toNat, Nat.shiftRight_zero, BitVec.zeroExtend, BitVec.toNat_setWidth,
    Nat.mod_eq_of_lt (k.isLt.trans_le (Nat.pow_le_pow_right (by decide) h)), Nat.mod_eq_of_lt k.isLt]

/-- The low bits of a field that holds a number of so few bits. -/
theorem extract_ofNat {n w : Nat} (k : BitVec n) (h : n ≤ w) : (BitVec.ofNat w k.toNat).extractLsb' 0 n = k := by
  rw [BitVec.ofNat_toNat, ← BitVec.zeroExtend, extract_zeroExtend k h]

/-- Reading a source that was put. -/
theorem srcOf_put (s : Src) (y : BitVec 24) : srcOf (kindIn s 0) (regIn s 0) (immIn s y) = s := by cases s <;> rfl

/-- Reading a source that is no immediate. -/
theorem srcOf_reg {s : Src} (h : kindIn s 0 ≠ 2) (y : BitVec 24) : srcOf (kindIn s 0) (regIn s 0) y = s := by
  cases s
  case imm => exact absurd rfl h
  all_goals rfl

/-- Reading the first of two sources, not both immediates. -/
theorem srcOf_two {s t : Src} (h : ¬(kindIn s 0 = 2 ∧ kindIn t 0 = 2)) (y : BitVec 24) :
    srcOf (kindIn s 0) (regIn s 0) (immIn t (immIn s y)) = s := by
  cases t
  case imm => exact srcOf_reg (fun hs => h ⟨hs, rfl⟩) _
  all_goals exact srcOf_put s y

/-- Reading the first of three sources, of which one at most is an immediate. -/
theorem srcOf_three {s t u : Src} (ht : ¬(kindIn s 0 = 2 ∧ kindIn t 0 = 2)) (hu : ¬(kindIn s 0 = 2 ∧ kindIn u 0 = 2)) (y : BitVec 24) :
    srcOf (kindIn s 0) (regIn s 0) (immIn u (immIn t (immIn s y))) = s := by
  cases u
  case imm => exact srcOf_reg (fun hs => hu ⟨hs, rfl⟩) _
  all_goals exact srcOf_two ht y

/-- Reading a destination that was put. -/
theorem dst_of_put (d : Dst) : (if udIn d 0 = 1 then Dst.s (dstReg d) else Dst.v (dstReg d)) = d := by cases d <;> rfl

/-- Reading a destination with UD. -/
theorem udst_of_put (d : Dst) : (if dstUd d = 1 then Dst.s (dstReg d) else Dst.v (dstReg d)) = d := by cases d <;> rfl

/-- A source that is no immediate leaves what IMM24 holds. -/
theorem immIn_reg {s : Src} (h : kindIn s 0 ≠ 2) (y : BitVec 24) : immIn s y = y := by
  cases s
  case imm => exact absurd rfl h
  all_goals rfl

/-- Reading the acquire bit of ORD. -/
theorem acq_bit {s : Nat} (hs : s = 0) : ∀ b : Bool, (ordCode (acqOrd b)).extractLsb' s 1 = bit1 b := by subst hs; decide

/-- Reading the release bit of ORD. -/
theorem rel_bit {s : Nat} (hs : s = 1) : ∀ b : Bool, (ordCode (relOrd b)).extractLsb' s 1 = bit1 b := by subst hs; decide

/-- Reading the slot fields of XCTL (R227). -/
theorem gridXOf_put {r : Raw} {x : GridX} {conv : BitVec 10} (h : r.x = gridXRaw x conv) : gridXOf r = x := by
  simp (disch := decide) only [gridXOf, xbit_eq, h, gridXRaw, extract_append_low, extract_append_high, extract_all, beq_bit1]

/-- Reading the bits of XCTL above the slot fields (R227). -/
theorem gridX_conv (x : GridX) (conv : BitVec 10) : (gridXRaw x conv).extractLsb' 14 10 = conv := by
  simp (disch := decide) only [gridXRaw, extract_append_high, extract_all]

/-- Reading a matrix instruction that was put (R154, R155). -/
theorem mmArgsOf_mmRaw (h : Head) (m : MmArgs) : mmArgsOf (mmRaw h m) = m := by
  simp (disch := decide) only [mmArgsOf, mmRaw, cbit_eq, extract_append_low, extract_append_high, extract_all, extract_zeroExtend, beq_bit1]

/-- Reading the guard and the hints of a matrix instruction. -/
theorem headOf_mmRaw (h : Head) (m : MmArgs) : headOf (mmRaw h m) = h := by
  rw [mmRaw, headRaw_eq, headOf_fields]

/-- The code of `.rs`. -/
theorem rndCode_rs (x : Rnd) : rndCode x = 4 ↔ (x == .rs) = true := by cases x <;> decide

/-- The code of CAS. -/
theorem amoCode_cas (x : AmoOp) : amoCode x = 7 ↔ (x == .cas) = true := by cases x <;> decide

/-- The instruction of an instruction's fields is this instruction. -/
theorem build_fields {i : Instr} {o : Op} {r : Raw} (hf : fields i = some (o, r)) (hfit : operandsFit i = true) (henc : encCause o r = none) :
    build o r = i := by
  have h := accepted_of_encCause henc
  clear henc
  cases i
  case' vote op _ => cases op
  case' vtos l => cases l
  case' cvt c => cases c
  case' atom c => cases c
  case' rcv pd _ => cases pd
  case' rfclaim pd _ => cases pd
  all_goals simp only [fields, reduceCtorEq, aluRaw, fltRaw, headRaw_eq, putA_eq, putB_eq, putC_eq, putD_eq, Raw.putPd, Raw.ixA, Raw.ixB, Raw.ixC,
    Option.some.injEq, Prod.mk.injEq] at hf
  all_goals obtain ⟨rfl, rfl⟩ := hf
  case mmbf | mmhf | mm8p | mmi8 | mmi4 | mmf6a | mmf6b | mmf4 | mms8p | mmsf6a | mmsf6b | mmsf4 => simp only [build, headOf_mmRaw, mmArgsOf_mmRaw]
  all_goals simp (disch := decide) only [build, headOf_fields, Raw.tyv, Raw.ty, Raw.satv, Raw.sat, Raw.opx, Raw.hi9, Raw.ftzv, Raw.rndv, Raw.pd, Raw.srcA,
    Raw.srcB, Raw.srcC, Raw.dst, Raw.udst, cbit_eq, xbit_eq, Raw.ord, Raw.scope, stdCtl, ordCtl, extract_append_low, extract_append_high, extract_all,
    extract_zeroExtend, extract_ofNat, beq_bit1, srcOf_put, dst_of_put, udst_of_put, tyOf_tyCode, rndOf_rndCode, ccOf_ccCode, fnOf_fnCode,
    shflOf_shflCode, reduxOf_reduxCode, spaceOf_spaceCode, sizeOf_sizeCode, csizeOf_csizeCode, ordOf_ordCode, semOf_semCode, scopeOf_scopeCode,
    amoOf_amoCode, fragOf_fragCode, eretOf_eretCode, levelOf_levelCode, acq_bit, rel_bit]
  case iadd | isub | imul | imulh | imin | imax | icmp | andB | orB | xorB | shl | shr | sar | bfx | pdiff | prstr | vtop | fadd | fmul | fmin | fmax |
      hadd2 | hmul2 | dadd | dmul | chapp | chadv | pbinit | pbarr | tadv | tcmp | grun =>
    rw [srcOf_two h.oneImm.1]
  case sel => rw [srcOf_two h.oneImm.1]; rfl
  case imad | imadw | idp4 | idp8 | fsh | bfi | bperm | ffma | hfma2 | dfma | tminc | tmdec =>
    rw [srcOf_three h.oneImm.1 h.oneImm.2.1, srcOf_two h.oneImm.2.2]
  case movi k => rw [append_whole (m := 8) (n := 24) (x := k) rfl rfl]
  case movs n => rw [BitVec.ofNat_toNat, BitVec.setWidth_eq]
  case padd wide _ _ _ _ =>
    rw [srcOf_two h.oneImm.1]
    cases wide <;> rfl
  case ldmx | stmx | ld | pref | brx | callx | ffn => rw [srcOf_reg (h.a.not_imm rfl)]
  case st | red | cpy | tryw | hmnx2 => rw [srcOf_reg (h.a.not_imm rfl), srcOf_reg (h.b.not_imm rfl)]
  case lut3 | gatom => rw [srcOf_reg (h.a.not_imm rfl), srcOf_reg (h.b.not_imm rfl), srcOf_reg (h.c.not_imm rfl)]
  case gld => rw [srcOf_reg (h.a.not_imm rfl), srcOf_reg (h.c.not_imm rfl)]
  case gst => rw [srcOf_reg (h.a.not_imm rfl), gridXOf_put rfl]
  case gcpy => rw [srcOf_reg (h.a.not_imm rfl), srcOf_reg (h.b.not_imm rfl), gridXOf_put rfl]
  case gred op ty _ _ _ _ _ _ _ =>
    obtain ⟨hop, hty⟩ := Bool.and_eq_true_iff.1 hfit
    have hlow : amoOf ((0 : BitVec 1) ++ (amoCode op).extractLsb' 0 3) = op := by
      cases op
      case pkmax => exact absurd hop (by decide)
      all_goals rfl
    rw [hlow, beq_iff_eq.1 hty, srcOf_reg (h.a.not_imm rfl), srcOf_reg (h.b.not_imm rfl), gridXOf_put rfl, gridX_conv]
  case pchk | qblk | ftest =>
    simp (disch := decide) only [immIn_reg (h.a.not_imm rfl), extract_append_low, extract_append_high, extract_all, beq_bit1]
  case dqblk | fcmp =>
    simp (disch := decide) only [immIn_reg (h.a.not_imm rfl), immIn_reg (h.b.not_imm rfl), srcOf_reg (h.a.not_imm rfl), extract_append_low,
      extract_append_high, extract_all, beq_bit1, relOf_relCode]
  case pbwait | fwait =>
    rw [immIn_reg (h.b.not_imm rfl), immIn_reg (h.a.not_imm rfl), srcOf_reg (h.a.not_imm rfl), extract_zeroExtend _ (by decide)]
  case rcv.none | rcv.some | rfclaim.none | rfclaim.some | vtos.none | vtos.some | vote.every | vote.any | vote.agree => rfl
  case cvt.none =>
    rw [if_neg (mt (rndCode_rs _).1 (Bool.eq_false_iff.1 (beq_iff_eq.1 hfit)))]
    simp (disch := decide) only [immIn_reg (h.a.not_imm rfl), extract_append_low, extract_append_high, extract_all]
  case cvt.some rnd _ _ _ _ _ _ _ c =>
    have hrs : rndCode rnd = 4 := (rndCode_rs _).2 (beq_iff_eq.1 hfit)
    have hc : kindIn c 0 ≠ 2 := h.c.not_imm (by simp (disch := decide) only [form, extract_append_low, extract_all, hrs]; rfl)
    rw [if_pos hrs]
    simp (disch := decide) only [immIn_reg (h.a.not_imm rfl), immIn_reg hc, srcOf_reg (h.a.not_imm rfl), extract_append_low, extract_append_high,
      extract_all]
  case atom.none =>
    rw [if_neg (mt (amoCode_cas _).1 (Bool.eq_false_iff.1 (beq_iff_eq.1 hfit))), srcOf_reg (h.a.not_imm rfl), srcOf_reg (h.b.not_imm rfl)]
  case atom.some op _ _ _ _ _ _ c =>
    have hcas : amoCode op = 7 := (amoCode_cas _).2 (beq_iff_eq.1 hfit)
    have hc : kindIn c 0 ≠ 2 := h.c.not_imm (by simp (disch := decide) only [form, extract_append_low, extract_all, hcas]; rfl)
    rw [if_pos hcas, srcOf_reg (h.a.not_imm rfl), srcOf_reg (h.b.not_imm rfl), srcOf_reg hc]

/-! ### Words and instructions -/

/-- The opcode byte of a word, as a number. -/
theorem opcode_toNat (w0 : Word) : (w0.extractLsb' 0 8).toNat = w0.toNat % 256 := by simp

/-- The fields' opcode byte is the opcode's code. -/
theorem opcode_w0 (o : Op) (r : Raw) : (r.w0 (BitVec.ofNat 8 o.code)).toNat % 256 = o.code := by
  rw [← opcode_toNat, opcode_words, BitVec.toNat_ofNat, Nat.mod_eq_of_lt ((code_lt o).trans (by decide))]

/-- A word of a defined opcode with accepted fields decodes to the instruction of these fields. -/
theorem decodeWords_of {w0 w1 w2 : Word} {o : Op} (ho : Op.ofCode (w0.toNat % 256) = some o) (i : Instr) :
    decodeWords w0 w1 w2 = .ok i ↔ encCause o (Raw.ofWords w0 w1 w2) = none ∧ build o (Raw.ofWords w0 w1 w2) = i := by
  simp only [decodeWords, ho]
  cases encCause o (Raw.ofWords w0 w1 w2) <;> simp

/-- A word of no defined opcode decodes to ILL or to the reserved opcode's step. -/
theorem decodeWords_none {w0 w1 w2 : Word} (ho : Op.ofCode (w0.toNat % 256) = none) (i : Instr) :
    decodeWords w0 w1 w2 = .ok i ↔ (if w0.toNat % 256 = 255 then .ill w0 w1 w2 else .reservedOpcode w0 w1 w2) = i := by
  simp only [decodeWords, ho, Except.ok.injEq]

/-- An instruction of a defined opcode is well-formed with these words exactly if its fields are accepted and the words are theirs. -/
theorem wf_encode_some {w0 w1 w2 : Word} {i : Instr} {o : Op} {r : Raw} (hf : fields i = some (o, r)) :
    (wf i = true ∧ encodeWords i = some (w0, w1, w2)) ↔
      (operandsFit i = true ∧ encCause o r = none) ∧ r.w0 (BitVec.ofNat 8 o.code) = w0 ∧ r.w1 = w1 ∧ r.w2 = w2 := by
  simp only [wf, encodeWords, hf, Bool.and_eq_true, Option.isNone_iff_eq_none, Option.some.injEq, Prod.mk.injEq]

/-- ILL is well-formed with its opcode byte. -/
theorem wf_ill_iff (w0 w1 w2 : Word) : wf (.ill w0 w1 w2) = true ↔ w0.toNat % 256 = 255 := beq_iff_eq

/-- The reserved opcode's step is well-formed with an opcode byte that is neither defined nor ILL's. -/
theorem wf_reserved_iff (w0 w1 w2 : Word) :
    wf (.reservedOpcode w0 w1 w2) = true ↔ Op.ofCode (w0.toNat % 256) = none ∧ w0.toNat % 256 ≠ 255 := by
  change reservedCode w0 = true ↔ _
  rw [reservedCode, Bool.and_eq_true, Option.isNone_iff_eq_none, bne_iff_ne]

/-- A step of no defined opcode is well-formed with these words exactly if it is ILL or the reserved opcode's step, and the opcode is such. -/
theorem wf_encode_none {w0 w1 w2 : Word} {i : Instr} (hf : fields i = none) :
    (wf i = true ∧ encodeWords i = some (w0, w1, w2)) ↔
      (i = .ill w0 w1 w2 ∧ w0.toNat % 256 = 255) ∨ (i = .reservedOpcode w0 w1 w2 ∧ Op.ofCode (w0.toNat % 256) = none ∧ w0.toNat % 256 ≠ 255) := by
  constructor
  · rintro ⟨hwf, henc⟩
    simp only [encodeWords, hf] at henc
    split at henc
    case h_1 =>
      cases henc
      exact .inr ⟨rfl, (wf_reserved_iff w0 w1 w2).1 hwf⟩
    case h_2 =>
      cases henc
      exact .inl ⟨rfl, (wf_ill_iff w0 w1 w2).1 hwf⟩
    case h_3 => cases henc
  · rintro (⟨rfl, h255⟩ | ⟨rfl, hnone, hne⟩)
    · exact ⟨(wf_ill_iff w0 w1 w2).2 h255, rfl⟩
    · exact ⟨(wf_reserved_iff w0 w1 w2).2 ⟨hnone, hne⟩, rfl⟩

/-- ILL's opcode is no defined one. -/
theorem ofCode_ill : Op.ofCode 255 = none := rfl

/-- Settles O57: the fields of the words are the words, and reading accepted fields and putting an instruction's fields undo each other. -/
theorem decodeEncode : Obligations.DecodeEncode := by
  intro w0 w1 w2 i
  cases ho : Op.ofCode (w0.toNat % 256) with
  | some o =>
    rw [decodeWords_of ho]
    constructor
    · rintro ⟨henc, rfl⟩
      obtain ⟨h0, h1, h2⟩ := words_ofWords w0 w1 w2
      have hcode : BitVec.ofNat 8 o.code = w0.extractLsb' 0 8 := by
        rw [code_of_ofCode ho, ← opcode_toNat, BitVec.ofNat_toNat, BitVec.setWidth_eq]
      exact (wf_encode_some (fields_build henc)).2 ⟨⟨operandsFit_build henc, henc⟩, by rw [hcode, h0], h1, h2⟩
    · intro h
      cases hf : fields i with
      | some p =>
        obtain ⟨o', r⟩ := p
        obtain ⟨⟨hfit, henc⟩, rfl, rfl, rfl⟩ := (wf_encode_some hf).1 h
        rw [opcode_w0, ofCode_code, Option.some.injEq] at ho
        subst ho
        rw [ofWords_words]
        exact ⟨henc, build_fields hf hfit henc⟩
      | none =>
        rcases (wf_encode_none hf).1 h with ⟨-, h255⟩ | ⟨-, hnone, -⟩
        · rw [h255, ofCode_ill] at ho; cases ho
        · rw [hnone] at ho; cases ho
  | none =>
    rw [decodeWords_none ho]
    constructor
    · rintro rfl
      split
      case isTrue h255 => exact (wf_encode_none rfl).2 (.inl ⟨rfl, h255⟩)
      case isFalse hne => exact (wf_encode_none rfl).2 (.inr ⟨rfl, ho, hne⟩)
    · intro h
      cases hf : fields i with
      | some p =>
        obtain ⟨o', r⟩ := p
        obtain ⟨-, rfl, -, -⟩ := (wf_encode_some hf).1 h
        rw [opcode_w0, ofCode_code] at ho
        cases ho
      | none =>
        rcases (wf_encode_none hf).1 h with ⟨rfl, h255⟩ | ⟨rfl, -, hne⟩
        · exact if_pos h255
        · exact if_neg hne

end Sys2Proof.Proofs

/-! PROOF of O56: the decoder on the words that the spec writes out. -/

namespace Sys2Proof.Proofs
open Sys2Proof Sys2Proof.Machine

/-- Settles O56, by running the decoder on each word. -/
theorem decodesSpecWords : Obligations.DecodesSpecWords := by
  refine ⟨?_, ?_, ?_, ?_, ?_, ?_, ?_⟩ <;> decide

end Sys2Proof.Proofs

/-! REFUTATION of O24: what BRX may leave of a queue's history (R200, R351, R376). -/

namespace Sys2Proof.Proofs
open Sys2Proof Sys2Proof.Machine Sys2Proof.Claims

/-! ### A state in which a landing pad's line count clears a history

The statement lets BRX change queues only by writes of its own, and it has none. But it reads its target's landing pad, and that access counts at the port (R376):
on the hot page of `hotState` the count puts a notification into the ring of the table control object, which forgets a history (R351). -/

/-- The state of `hotState` with the page executable and a LAND of tag 0 at its first byte. -/
def padState : State :=
  { hotState with
    cores := [(0, { dcache := [{ obj := 5, valid := true, extent := 64, rights := 5, leafofs := 0, till := 9 }] })]
    mem := [(canopyP 1 0, 0x7D)] }

/-- BRX to the capability in S2, with tag 0. -/
def padBrx : Instr := .brx {} (.s 2) 0

/-- The bytes of the landing pad. -/
def padPlaces : List Nat := run (canopyP 1 0) 12

/-- The one lane that acts. -/
theorem pad_lanes : acting hotBeat hotCtx {} = [hotLane] := by decide

/-- The target passes and its landing pad is the page's first instruction. -/
theorem pad_target : ∃ pages, padState.padTarget 0 hotCtx 5 0 = .ok padPlaces pages :=
  ⟨List.replicate 3 (5, 0, hotLeaf.toNat), by decide +kernel⟩

/-- The core reads the pad's bytes, from their home. -/
theorem pad_holds : Holds padState 0 padPlaces := by unfold Holds; decide +kernel

/-- The landing check passes. -/
theorem pad_lands : padState.padBad (siteOf hotBeat hotCtx {}) hotLane padPlaces 0 = none := by decide +kernel

/-- The count of the pad's line announces the page in the ring, and the history is forgotten. -/
theorem pad_forgets : forgets (exec padBrx padState) = true := by decide +kernel

/-- Refutes O24: BRX to a landing pad on a hot page forgets the history of a queue whose EN byte the state puts into the ring of the table control object, as LDSH
does in the refutation of O16. What the clause says of the threads, and the other clauses, are not what fails. -/
theorem not_branchResults : ¬ Obligations.BranchResults := by
  intro h
  obtain ⟨hinstr, -⟩ := h
  obtain ⟨-, -, hpad, -⟩ := hinstr padState hotBeat hotCtx ⟨rfl, rfl⟩ {} 0 (.s 2) 0 0 (fun _ => padPlaces)
  have hstores : NoStores hotCtx := by unfold NoStores; decide
  have halone : Alone hotCtx := by unfold Alone; decide
  have hpads : ∀ l ∈ acting hotBeat hotCtx {}, l = hotLane := by rw [pad_lanes]; simp
  obtain ⟨hbrx, -⟩ := hpad hstores halone rfl
    (fun l hl => by rw [hpads l hl]; exact pad_target)
    (fun l hl => by rw [hpads l hl]; exact ⟨pad_holds, pad_lands⟩)
  obtain ⟨t, ht, htouched⟩ := hbrx rfl
  have hforgets := pad_forgets
  rw [padBrx, ht, forgets, touched_keeps_history htouched] at hforgets
  exact absurd hforgets (by decide)

end Sys2Proof.Proofs

/-! PROOF of O31: the exceptions of TRAP, BKPT, ILL and reserved opcodes (R89, R172, R219, R224, R249, R393). -/

namespace Sys2Proof.Proofs
open Sys2Proof Sys2Proof.Machine Sys2Proof.Claims

/-! ### The home wheels of lanes (R77) -/

/-- Inserting an element into a sorted list adds it. -/
theorem mem_insBy {α : Type} (key : α → Nat) (x y : α) (l : List α) : y ∈ insBy key x l ↔ y = x ∨ y ∈ l := by
  induction l with
  | nil => simp [insBy]
  | cons z l ih =>
    unfold insBy
    split
    · simp
    · simp only [List.mem_cons, ih]; tauto

/-- Sorting keeps the elements. -/
theorem mem_sortBy {α : Type} (key : α → Nat) (y : α) (l : List α) : y ∈ sortBy key l ↔ y ∈ l := by
  have hfold : ∀ acc : List α, y ∈ l.foldl (fun acc x => insBy key x acc) acc ↔ y ∈ acc ∨ y ∈ l := by
    induction l with
    | nil => simp
    | cons x l ih => intro acc; rw [List.foldl_cons, ih, mem_insBy, List.mem_cons]; tauto
  simpa [sortBy] using hfold []

/-- The home wheels of lanes are those of lanes among them. -/
theorem mem_of_mem_wheelsOf {ls : List Lane} {l : Lane} (h : l ∈ wheelsOf ls) : l ∈ ls := by
  obtain ⟨i, -, hi⟩ := List.mem_filterMap.1 h
  exact List.mem_of_find?_eq_some hi

/-- Every lane's home wheel is among the home wheels of the lanes. -/
theorem exists_mem_wheelsOf {ls : List Lane} {l : Lane} (h : l ∈ ls) : ∃ m ∈ wheelsOf ls, m.w.idx = l.w.idx := by
  have hi : l.w.idx ∈ sortBy id (ls.map (fun l => l.w.idx)).dedup :=
    (mem_sortBy id _ _).2 (List.mem_dedup.2 (List.mem_map.2 ⟨l, h, rfl⟩))
  cases hf : ls.find? (fun m => m.w.idx == l.w.idx) with
  | none => exact absurd (beq_self_eq_true l.w.idx) (List.find?_eq_none.1 hf l h)
  | some m => exact ⟨m, List.mem_filterMap.2 ⟨_, hi, hf⟩, by simpa using List.find?_some hf⟩

/-- Lanes of one home wheel. -/
theorem wheelsOf_one {ls : List Lane} {l : Lane} (h : wheelsOf ls = [l]) : l ∈ ls ∧ ∀ x ∈ ls, x.w.idx = l.w.idx := by
  refine ⟨mem_of_mem_wheelsOf (by rw [h]; exact List.mem_singleton_self l), fun x hx => ?_⟩
  obtain ⟨m, hm, hidx⟩ := exists_mem_wheelsOf hx
  rw [h, List.mem_singleton] at hm
  rw [← hidx, hm]

/-- The home wheels of lanes whose threads change. -/
theorem wheelsOf_map (ls : List Lane) {g : Lane → Lane} (hg : ∀ x, (g x).w = x.w) : wheelsOf (ls.map g) = (wheelsOf ls).map g := by
  simp only [wheelsOf, List.map_map, Function.comp_def, hg, List.map_filterMap, List.find?_map]

/-! ### Lanes of a context -/

/-- The lanes are those that the context has for their threads. -/
def LanesOf (c : Ctx) (ls : List Lane) : Prop := ∀ x ∈ ls, c.thread x.t.tid = some x.t ∧ c.wheel x.t.wheel = some x.w

/-- The context's lanes of the threads of its lanes are these. -/
theorem LanesOf.lanes {c : Ctx} {ls : List Lane} (h : LanesOf c ls) : c.lanes (ls.map (fun x => x.t.tid)) = ls := by
  induction ls with
  | nil => rfl
  | cons x ls ih =>
    obtain ⟨ht, hw⟩ := h x List.mem_cons_self
    have hrest := ih fun y hy => h y (List.mem_cons_of_mem x hy)
    rw [Ctx.lanes] at hrest ⊢
    simp only [List.map_cons, List.filterMap_cons, hrest, ht, hw, Option.map_some]

/-- The lanes of threads are lanes of the context. -/
theorem lanesOf_lanes (c : Ctx) (ts : List Nat) : LanesOf c (c.lanes ts) := by
  intro x hx
  obtain ⟨i, -, hi⟩ := List.mem_filterMap.1 hx
  split at hi
  · cases hi
  · rename_i t ht
    obtain ⟨w, hw, rfl⟩ := Option.map_eq_some_iff.1 hi
    exact ⟨by rw [Ctx.thread_tid ht]; exact ht, hw⟩

/-- The acting lanes are lanes of the context. -/
theorem lanesOf_acting (b : Beat) (c : Ctx) (h : Head) : LanesOf c (acting b c h) :=
  fun x hx => lanesOf_lanes c b.tids x (List.mem_filter.1 hx).1

/-- An unguarded instruction acts in every lane of the beat. -/
theorem acting_always (b : Beat) (c : Ctx) : acting b c {} = c.lanes b.tids := List.filter_true _

/-! ### Records and parked threads (R249, R393) -/

/-- The least lane of a fold is one of the lanes. -/
theorem least_mem (ls : List Lane) (x : Lane) : ls.foldl (fun a l => if l.t.lane < a.t.lane then l else a) x ∈ x :: ls := by
  induction ls generalizing x with
  | nil => exact List.mem_singleton_self x
  | cons l ls ih =>
    rw [List.foldl_cons]
    split
    · exact List.mem_cons_of_mem x (ih l)
    · rcases List.mem_cons.1 (ih x) with heq | hmem
      · rw [heq]; exact List.mem_cons_self
      · exact List.mem_cons_of_mem x (List.mem_cons_of_mem l hmem)

/-- One exception in lanes of one home wheel is one record. -/
theorem faultRecs_one {c : Ctx} {b : Beat} {ls : List Lane} {l : Lane} (hls : LanesOf c ls) (hw : wheelsOf ls = [l]) (cls : Nat) (info : BitVec 64) :
    faultRecs c b.ctx b.pc b.words false (ls.map (fun x => { tid := x.t.tid, cls := cls, info := info })) = [recordOf b c l ls cls info] := by
  obtain ⟨hl, hidx⟩ := wheelsOf_one hw
  have hne : ls ≠ [] := List.ne_nil_of_mem hl
  have hkeys : (ls.map (fun x => (cls, 0))).dedup = [(cls, 0)] := by
    rw [List.map_const', List.replicate_dedup (by simpa using hne)]
  have hmine : ls.filter (fun x => x.w.idx == l.w.idx) = ls := List.filter_eq_self.2 fun x hx => beq_iff_eq.2 (hidx x hx)
  have hinfo : ∀ low ∈ ls, ∃ f, (ls.map (fun x => ({ tid := x.t.tid, cls := cls, info := info } : FLane))).find? (fun f => f.tid == low.t.tid) = some f ∧
      f.addr = 0 ∧ f.info = info := by
    intro low hlow
    cases hf : (ls.map (fun x => ({ tid := x.t.tid, cls := cls, info := info } : FLane))).find? (fun f => f.tid == low.t.tid) with
    | none => exact absurd (beq_self_eq_true low.t.tid) (List.find?_eq_none.1 hf _ (List.mem_map.2 ⟨low, hlow, rfl⟩))
    | some f =>
      obtain ⟨x, -, rfl⟩ := List.mem_map.1 (List.mem_of_find?_eq_some hf)
      exact ⟨_, rfl, rfl, rfl⟩
  have hlow : ls.foldl (fun a l => if l.t.lane < a.t.lane then l else a) l ∈ ls := by
    rcases List.mem_cons.1 (least_mem ls l) with heq | hmem
    · rw [heq]; exact hl
    · exact hmem
  obtain ⟨f, hf, haddr, hfinfo⟩ := hinfo _ hlow
  simp only [faultRecs, List.map_map, Function.comp_def, hkeys, List.flatMap_cons, List.flatMap_nil, List.append_nil, beq_self_eq_true, Bool.and_self,
    List.filter_true, List.filter_map, hls.lanes, hw, List.map_cons, List.map_nil, hmine, hf, haddr, hfinfo, Option.getD_some, recordOf]

/-- The lanes as their threads move on. -/
def movedLane (b : Beat) (h : Head) (x : Lane) : Lane := { x with t := moved b h x.t }

/-- Moving on keeps what a record names. -/
theorem moved_keeps (b : Beat) (h : Head) (x : Thread) :
    (moved b h x).tid = x.tid ∧ (moved b h x).lane = x.lane ∧ (moved b h x).wheel = x.wheel := by
  rw [moved_eq]; exact ⟨rfl, rfl, rfl⟩

/-- A record of lanes that have moved on is that of the lanes. -/
theorem recordOf_moved (b : Beat) (c : Ctx) (h : Head) (l : Lane) (ls : List Lane) (cls : Nat) (info : BitVec 64) :
    recordOf b (c.advance b h.yld) (movedLane b h l) (ls.map (movedLane b h)) cls info = recordOf b c l ls cls info := by
  simp only [recordOf, movedLane, List.foldl_map, List.map_map, Function.comp_def, (moved_keeps b h _).1, (moved_keeps b h _).2.1]
  rfl

/-- Lanes of a context are lanes of it as they move on. -/
theorem LanesOf.moved {c : Ctx} {ls : List Lane} (hls : LanesOf c ls) (b : Beat) (h : Head) :
    LanesOf (c.advance b h.yld) (ls.map (movedLane b h)) := by
  intro y hy
  obtain ⟨x, hx, rfl⟩ := List.mem_map.1 hy
  obtain ⟨ht, hw⟩ := hls x hx
  obtain ⟨htid, -, hwheel⟩ := moved_keeps b h x.t
  have hthread : (c.advance b h.yld).thread x.t.tid = (c.thread x.t.tid).map (Proofs.moved b h) :=
    thread_of_map (f := Proofs.moved b h) rfl (fun x => (moved_keeps b h x).1) _
  refine ⟨?_, ?_⟩
  · show (c.advance b h.yld).thread (Proofs.moved b h x.t).tid = some (Proofs.moved b h x.t)
    rw [htid, hthread, ht]; rfl
  · show c.wheel (Proofs.moved b h x.t).wheel = some x.w
    rw [hwheel, hw]

/-- The threads of lanes park. -/
theorem any_tid (ls : List Lane) (f : Lane → FLane) (hf : ∀ x, (f x).tid = x.t.tid) (t : Thread) :
    (ls.map f).any (fun g => g.tid == t.tid) = (ls.map (fun x => x.t.tid)).contains t.tid := by
  rw [List.any_map, List.contains_eq_any_beq, List.any_map]
  congr 1
  funext x
  simp only [Function.comp_apply, hf]
  exact Bool.beq_comm

/-- A thread parks at the instruction. -/
theorem threadRan_park (b : Beat) (c : Ctx) (h : Head) (x y : Thread) (l : Lane) (hl : actingLane b c h x = some l)
    (hy : y = { x with pc := y.pc, stamp := y.stamp, yielded := y.yielded }) : ThreadRan b c h (parks b) x (y.park b.pc) := by
  rw [hy]
  constructor <;> simp [hl, parks, Thread.park, after, untouched, Thread.v, actingLane_t hl]

/-- The acting lanes park at the instruction as the beat moves on (R249). -/
theorem ctxRan_park (cycle : Nat) (b : Beat) (c : Ctx) (h : Head) :
    CtxRan cycle b c h (parks b) ((c.advance b h.yld).eachLane (acting b c h) (fun _ t => t.park b.pc)) := by
  refine ctxRan_of_maps (ranT b h (acting b c h) (fun _ t => t.park b.pc)) id (advance_eachLane ..) (ranT_tid b h _ fun _ _ => rfl) (fun _ => rfl)
    (fun x hx => ?_) (fun w _ => wheelRan_none _ b c h _ w (fun _ => rfl) (fun _ => rfl) (fun _ => rfl))
  rw [ranT_acting hx]
  cases hl : actingLane b c h x with
  | none =>
    simp only [Option.map_none, Option.getD_none]
    rw [moved_eq]
    constructor <;> simp [hl, after, untouched, Thread.v]
  | some l => exact threadRan_park b c h x _ l hl (by rw [moved_eq])

/-- A thread of the context for each number. -/
theorem lanes_each {c : Ctx} {ts : List Nat} (h : ∀ i ∈ ts, (c.lanes [i]).length = 1) :
    (c.lanes ts).map (fun x => x.t.tid) = ts ∧ ∀ i ∈ ts, ∃ t w, c.thread i = some t ∧ c.wheel t.wheel = some w := by
  have hone : ∀ i, (c.lanes [i]).length = 1 → ∃ t w, c.thread i = some t ∧ c.wheel t.wheel = some w := by
    intro i hi
    cases ht : c.thread i with
    | none => simp [Ctx.lanes, ht] at hi
    | some t =>
      cases hw : c.wheel t.wheel with
      | none => simp [Ctx.lanes, ht, hw] at hi
      | some w => exact ⟨t, w, rfl, hw⟩
  refine ⟨?_, fun i hi => hone i (h i hi)⟩
  induction ts with
  | nil => rfl
  | cons i ts ih =>
    obtain ⟨t, w, ht, hw⟩ := hone i (h i List.mem_cons_self)
    have hrest := ih fun k hk => h k (List.mem_cons_of_mem i hk)
    rw [Ctx.lanes] at hrest ⊢
    simp only [List.filterMap_cons, ht, hw, Option.map_some, List.map_cons, hrest, Ctx.thread_tid ht]

/-- A thread takes the change of its lane where it stands. -/
def laneT (ls : List Lane) (f : Thread → Thread) (x : Thread) : Thread :=
  match ls.find? (fun l => l.t.tid == x.tid) with
  | some _ => f x
  | none => x

/-- A beat whose threads are all of the context parks where it stands (R89). -/
theorem ctxRan_park_all (cycle : Nat) (b : Beat) (c : Ctx) {h : Head} (hg : h.guard = .always)
    (hall : ∀ i ∈ b.tids, ∃ t w, c.thread i = some t ∧ c.wheel t.wheel = some w) :
    CtxRan cycle b c h (parks b) (c.eachLane (acting b c h) (fun _ t => t.park b.pc)) := by
  refine ctxRan_of_maps (laneT (acting b c h) (fun t => t.park b.pc)) id ?_ ?_ (fun _ => rfl) (fun x hx => ?_)
    (fun w _ => wheelRan_none _ b c h _ w (fun _ => rfl) (fun _ => rfl) (fun _ => rfl))
  · rw [List.map_id]; rfl
  · intro x; unfold laneT; split <;> rfl
  · rw [laneT, acting_find b c h x hx]
    cases hl : actingLane b c h x with
    | some l => exact threadRan_park b c h x x l hl rfl
    | none =>
      have hbeat : x.tid ∉ b.tids := by
        intro hb
        obtain ⟨t, w, ht, hw⟩ := hall _ hb
        rw [hx] at ht
        cases ht
        simp [actingLane, hb, hw, hg, guardOn] at hl
      constructor <;> simp [hl, hbeat, after, untouched, Thread.v]

/-- One record of an exception in the lanes of one home wheel joins the queue of its die, and the threads park (R172, R249). -/
theorem faultLanes_one {s : State} {b : Beat} {c : Ctx} (hc : sGet s.ctxs b.ctx = some c) (hspec : c.spec = none) (hh : c.handler = false) {ls : List Lane}
    {l : Lane} (hls : LanesOf c ls) (hw : wheelsOf ls = [l]) (cls : Nat) (info : BitVec 64) :
    s.beatFault b false (ls.map (fun x => { tid := x.t.tid, cls := cls, info := info })) =
      (s.setCtx b.ctx (c.eachLane ls (fun _ t => t.park b.pc))).modDie (recordOf b c l ls cls info).die
        (fun d => { d with recs := d.recs ++ [recordOf b c l ls cls info] }) := by
  have hpark : c.modT (fun t => (ls.map (fun x => ({ tid := x.t.tid, cls := cls, info := info } : FLane))).any (fun g => g.tid == t.tid)) (fun t => t.park b.pc) =
      c.eachLane ls (fun _ t => t.park b.pc) := by
    rw [← modT_eq_eachLane]
    congr 1
    funext t
    exact any_tid ls _ (fun _ => rfl) t
  have hcons : ∃ f fs, ls.map (fun x => ({ tid := x.t.tid, cls := cls, info := info } : FLane)) = f :: fs := by
    obtain ⟨hl, -⟩ := wheelsOf_one hw
    cases ls with
    | nil => cases hl
    | cons x ls => exact ⟨_, _, rfl⟩
  have hrecs := faultRecs_one (b := b) hls hw cls info
  obtain ⟨f, fs, heq⟩ := hcons
  rw [heq] at hpark hrecs ⊢
  simp only [State.beatFault, State.faultLanes, hc, hspec, hh, hpark, hrecs, Bool.false_eq_true, if_false, List.foldl_cons, List.foldl_nil]

/-- The state after such an exception is as `Faults` says. -/
theorem faults_of {i : Instr} {s : State} {b : Beat} {c c' : Ctx} {h : Head} {r : FaultRec} (hc' : CtxRan s.cycle b c h (parks b) c')
    (ht : exec i s = .next (((s.setCtx b.ctx c').modDie r.die (fun d => { d with recs := d.recs ++ [r] })).seal s.mem)) : Faults i s b c h r :=
  ⟨_, ht, ⟨c', sGet_sPut_self _ _ _, hc'⟩, fun _ hk => sGet_sPut_ne _ _ hk, fun a => State.byte_seal (s.setCtx b.ctx c') a, rfl⟩

/-- A context that is set twice. -/
theorem setCtx_twice (s : State) (k : Nat) (c c' : Ctx) : (s.setCtx k c).setCtx k c' = s.setCtx k c' := by
  simp [State.setCtx]

section Traps

variable {s : State} {b : Beat} {c : Ctx} (hspec : c.spec = none) (hh : c.handler = false)

include hspec hh

/-- An exception that an instruction takes in its acting lanes, which have moved on. -/
theorem faults_onBeat {i : Instr} {h : Head} {l : Lane} (hw : wheelsOf (acting b c h) = [l]) (cls : Nat) (info : BitVec 64)
    (hexec : exec i s = .next (((started s b c h).beatFault b false
      ((acting b c h).map (fun x => { tid := x.t.tid, cls := cls, info := info }))).seal s.mem)) :
    Faults i s b c h (recordOf b c l (acting b c h) cls info) := by
  have hwheels : wheelsOf ((acting b c h).map (movedLane b h)) = [movedLane b h l] := by rw [wheelsOf_map (g := movedLane b h) _ fun _ => rfl, hw]; rfl
  have hlanes : (acting b c h).map (fun x => ({ tid := x.t.tid, cls := cls, info := info } : FLane)) =
      ((acting b c h).map (movedLane b h)).map (fun x => { tid := x.t.tid, cls := cls, info := info }) := by
    simp only [List.map_map, Function.comp_def, movedLane, (moved_keeps b h _).1]
  have hpark : (c.advance b h.yld).eachLane ((acting b c h).map (movedLane b h)) (fun _ t => t.park b.pc) =
      (c.advance b h.yld).eachLane (acting b c h) (fun _ t => t.park b.pc) := by
    rw [← modT_eq_eachLane, ← modT_eq_eachLane]
    simp only [List.map_map, Function.comp_def, movedLane, (moved_keeps b h _).1]
  have hone := faultLanes_one (s := started s b c h) (b := b) (sGet_sPut_self _ _ _) hspec hh ((lanesOf_acting b c h).moved b h) hwheels cls info
  rw [← hlanes, hpark, recordOf_moved, started, setCtx_twice] at hone
  exact faults_of (ctxRan_park s.cycle b c h) (by rw [hexec, started, hone])

/-- The trap of a word that is no instruction, in every thread of the beat. -/
theorem faults_illegal (hi : InIssue s b c) {i : Instr} {l : Lane} (hw : wheelsOf (c.lanes b.tids) = [l]) (hall : ∀ k ∈ b.tids, (c.lanes [k]).length = 1)
    (hexec : exec i s = .next ((illegalOp s).seal s.mem)) : Faults i s b c {} (recordOf b c l (c.lanes b.tids) 1 0) := by
  obtain ⟨hids, hthreads⟩ := lanes_each hall
  have hill : illegalOp s = s.beatFault b false ((c.lanes b.tids).map (fun x => { tid := x.t.tid, cls := 1, info := 0 })) := by
    have hmap : b.tids.map (fun t => ({ tid := t, cls := 1 } : FLane)) = (c.lanes b.tids).map (fun x => { tid := x.t.tid, cls := 1, info := 0 }) := by
      conv_lhs => rw [← hids]
      simp only [List.map_map, Function.comp_def]
    simp only [illegalOp, hi.1, State.decodeTrap, hmap]
  have hone := faultLanes_one hi.2 hspec hh (lanesOf_lanes c b.tids) hw 1 0
  refine faults_of ?_ (by rw [hexec, hill, hone])
  rw [← acting_always]
  exact ctxRan_park_all s.cycle b c rfl hthreads

end Traps

/-- Settles O31: TRAP and an enabled BKPT fault in their acting lanes, a word that is no instruction in all threads of the beat. -/
theorem trapResults : Obligations.TrapResults := by
  intro s b c hi hspec hh h code w0 w1 w2 l m
  refine ⟨fun hw => ⟨?_, fun hen => ?_⟩, fun hdis => ?_, fun hw hall => ⟨?_, ?_⟩⟩
  · exact faults_onBeat hspec hh hw _ _ (act_onBeat hi h _)
  · refine faults_onBeat hspec hh hw _ _ ((act_onBeat hi h _).trans ?_)
    exact congrArg (fun u => (.next (State.seal s.mem u) : Out)) (if_pos hen)
  · obtain ⟨t, ht, hran⟩ := move_ran hi h
    have hoff : (s.die (dieOf b.core)).bkpten ≠ true := Bool.eq_false_iff.1 hdis
    exact ⟨t, (act_onBeat hi h _).trans ((congrArg (fun u => (.next (State.seal s.mem u) : Out)) (if_neg hoff)).trans ((act_onBeat hi h _).symm.trans ht)), hran⟩
  · exact faults_illegal hspec hh hi hw hall rfl
  · exact faults_illegal hspec hh hi hw hall rfl

end Sys2Proof.Proofs

/-! PROOF of O19: what CPY captures and makes pending (R85, R176, R183). -/

namespace Sys2Proof.Proofs
open Sys2Proof Sys2Proof.Machine Sys2Proof.Claims

/-! ### Bytes after home writes -/

/-- A home write keeps what the step has written before. -/
theorem noteWrite_wr (s : State) (p : Nat) : (s.noteWrite p).wr = s.wr := by
  unfold State.noteWrite; split <;> rfl

/-- The writes of a step, the latest first. -/
theorem homeWrites_wr (s : State) (cells : List (Nat × Byte)) : (s.homeWrites cells).wr = cells.reverse ++ s.wr := by
  have hfold : ∀ (cells : List (Nat × Byte)) (s : State),
      (cells.foldl (fun s c => (s.putByte c.1 c.2).noteWrite c.1) s).wr = cells.reverse ++ s.wr := by
    intro cells
    induction cells with
    | nil => intro s; rfl
    | cons c cells ih => intro s; rw [List.foldl_cons, ih, noteWrite_wr, List.reverse_cons, List.append_assoc]; rfl
  exact hfold cells s

/-- A map in two parts. -/
theorem sGet_append {α : Type} (m n : Sparse α) (k : Nat) : sGet (m ++ n) k = (sGet m k).or (sGet n k) := by
  induction m with
  | nil => rfl
  | cons x m ih =>
    obtain ⟨k', v⟩ := x
    rw [List.cons_append, sGet, sGet]
    split
    · rfl
    · exact ih

/-- A key that is not listed. -/
theorem sGet_eq_none {α : Type} {m : Sparse α} {k : Nat} (h : k ∉ m.map (fun x => x.1)) : sGet m k = none := by
  induction m with
  | nil => rfl
  | cons x m ih =>
    obtain ⟨k', v⟩ := x
    rw [List.map_cons, List.mem_cons, not_or] at h
    rw [sGet, if_neg fun he => h.1 he.symm]
    exact ih h.2

/-- A byte that home writes do not name is as before. -/
theorem byte_homeWrites_ne (s : State) {cells : List (Nat × Byte)} {a : Nat} (h : a ∉ cells.map (fun x => x.1)) : (s.homeWrites cells).byte a = s.byte a := by
  have hnone : sGet cells.reverse a = none := sGet_eq_none (by rwa [List.map_reverse, List.mem_reverse])
  rw [State.byte, State.byte, homeWrites_wr, sGet_append, hnone]
  have hmem : (s.homeWrites cells).mem = s.mem := (issues_homeWrites s cells).mem
  rw [hmem]; rfl

/-! ### Counts at the ports (R376) -/

/-- A change within a step that keeps memory, the contexts, placed and saved, and every byte written outside the table control object. -/
structure Counted (s t : State) : Prop where
  mem : t.mem = s.mem
  ctxs : t.ctxs = s.ctxs
  saved : t.saved = s.saved
  bytes : ∀ a, pTag a ≠ 7 → t.byte a = s.byte a

/-- No change is one. -/
theorem Counted.refl (s : State) : Counted s s := ⟨rfl, rfl, rfl, fun _ _ => rfl⟩

/-- Two such changes are one. -/
theorem Counted.trans {s t u : State} (h : Counted s t) (h' : Counted t u) : Counted s u :=
  ⟨h'.mem.trans h.mem, h'.ctxs.trans h.ctxs, h'.saved.trans h.saved, fun a ha => (h'.bytes a ha).trans (h.bytes a ha)⟩

/-- Such changes, one for each element of a list. -/
theorem Counted.foldl {α : Type} {f : State → α → State} (hf : ∀ s a, Counted s (f s a)) (l : List α) (s : State) : Counted s (l.foldl f s) := by
  induction l generalizing s with
  | nil => exact .refl s
  | cons a l ih => exact (hf s a).trans (ih _)

/-- A change of anything but memory, writes and contexts. -/
theorem counted_of_eq {s t : State} (hm : t.mem = s.mem) (hw : t.wr = s.wr) (hc : t.ctxs = s.ctxs) (hs : t.saved = s.saved) : Counted s t :=
  ⟨hm, hc, hs, fun a _ => by rw [State.byte, State.byte, hm, hw]⟩

/-- A change of a die is one. -/
theorem counted_modDie (s : State) (d : Nat) (f : Die → Die) : Counted s (s.modDie d f) := counted_of_eq rfl rfl rfl rfl

/-- A change of a core is one. -/
theorem counted_modCore (s : State) (c : Nat) (f : Core → Core) : Counted s (s.modCore c f) := counted_of_eq rfl rfl rfl rfl

/-- The places of a run have its tag. -/
theorem pTag_run {p n a : Nat} (h : a ∈ run p n) : pTag a = pTag p := by
  obtain ⟨i, -, rfl⟩ := List.mem_map.1 h
  simp [pTag]

/-- Home writes keep the contexts. -/
theorem homeWrites_ctxs (s : State) (cells : List (Nat × Byte)) : (s.homeWrites cells).ctxs = s.ctxs ∧ (s.homeWrites cells).saved = s.saved := by
  have hfold : ∀ (cells : List (Nat × Byte)) (s : State),
      (cells.foldl (fun s c => (s.putByte c.1 c.2).noteWrite c.1) s).ctxs = s.ctxs ∧
        (cells.foldl (fun s c => (s.putByte c.1 c.2).noteWrite c.1) s).saved = s.saved := by
    intro cells
    induction cells with
    | nil => exact fun s => ⟨rfl, rfl⟩
    | cons c cells ih =>
      intro s
      have hnote : ((s.putByte c.1 c.2).noteWrite c.1).ctxs = s.ctxs ∧ ((s.putByte c.1 c.2).noteWrite c.1).saved = s.saved := by
        unfold State.noteWrite; split <;> exact ⟨rfl, rfl⟩
      obtain ⟨hctxs, hsaved⟩ := ih ((s.putByte c.1 c.2).noteWrite c.1)
      exact ⟨hctxs.trans hnote.1, hsaved.trans hnote.2⟩
  exact hfold cells s

/-- A number in the table control object is one. -/
theorem counted_putNum (s : State) (a n v : Nat) : Counted s (s.putNum (tcoP a) n v) := by
  obtain ⟨hctxs, hsaved⟩ := homeWrites_ctxs s ((run (tcoP a) n).zip (natBytes n v))
  refine ⟨(issues_homeWrites ..).mem, hctxs, hsaved, fun p hp => byte_homeWrites_ne s fun hmem => hp ?_⟩
  obtain ⟨⟨q, v'⟩, hq, rfl⟩ := List.mem_map.1 hmem
  rw [pTag_run (List.of_mem_zip hq).1, tcoP, place, pTag]
  omega

/-- A request counts at a port, and may be announced in the ring (R376). -/
theorem counted_countHot (s : State) (d obj page req : Nat) (hot : Bool) : Counted s (s.countHot d obj page req hot) := by
  unfold State.countHot
  extract_lets x old n rest rest' s' base head r s1 s2 s3
  have hcount : Counted s s' := counted_modDie ..
  split
  · have hr : r + 64 = tcoP (base + 16 + 16 * (head % 255) + 8) := by simp only [r, tcoP, place]; ring
    have hring : Counted s' s3 := (counted_putNum s' ..).trans ((hr ▸ counted_putNum s1 ..).trans (counted_putNum s2 ..))
    exact hcount.trans (hring.trans (counted_modDie ..))
  · exact hcount

/-- A page counts when it is remote from its die (R376). -/
theorem counted_touch (s : State) (d obj page leaf : Nat) : Counted s (s.touch d obj page leaf) := by
  unfold State.touch
  extract_lets remote
  split
  · exact counted_countHot ..
  · exact .refl s

/-- The line accesses of a beat count at their ports. -/
theorem counted_countBeat (s s0 : State) (k : Nat) (accs : List Acc) (read : Bool) : Counted s (s.countBeat s0 k accs read) := by
  refine .foldl (fun s x => ?_) _ s
  split
  · exact .refl s
  · split
    · exact .refl s
    · exact counted_touch ..

/-! ### A context without orders or fills (R267, R271, R272) -/

section Alone

variable {c : Ctx} (ha : Alone c)

include ha

/-- No fill of it was refused. -/
theorem refusedFill_of_alone (r : Res) : refusedFill c r = r := by
  cases r with
  | ok ps pages =>
    have hnone : ps.find? c.refusedFor = none := by
      refine List.find?_eq_none.2 fun p _ hp => ?_
      obtain ⟨o, ho, hfill⟩ := List.any_eq_true.1 hp
      simp [(ha o ho).2] at hfill
    simp only [refusedFill, hnone]
  | _ => rfl

/-- No access of its threads stands behind another. -/
theorem behind_of_alone (tids : List Nat) : c.behind tids = [] := by
  have hnil : c.loads.filter (fun o => o.orders && o.tids.any (fun t => tids.contains t)) = [] :=
    List.filter_eq_nil_iff.2 fun o ho => by simp [(ha o ho).1]
  rw [Ctx.behind, hnil, List.map_nil]

/-- It awaits no fill. -/
theorem noFill_of_alone : c.loads.any (fun o => o.isFill) = false :=
  List.any_eq_false.2 fun o ho => by simp [(ha o ho).2]

end Alone

/-- A lane's load has every byte that its core has. -/
theorem laneBytes_isSome {s : State} {k : Nat} {l : Lane} {ps : List Nat} (h : Holds s l.w.core ps) : ∀ b ∈ s.laneBytes k l ps, b.isSome = true := by
  intro b hb
  unfold State.laneBytes State.loadBytes at hb
  split at hb
  · exact h b hb
  · obtain ⟨⟨p, x⟩, hx, rfl⟩ := List.mem_map.1 hb
    obtain ⟨v, rfl⟩ := Option.isSome_iff_exists.1 (h x (List.of_mem_zip hx).2)
    split
    · rfl
    · split <;> rfl

/-- A run's read set is all that an access notes. -/
theorem noteAccess_of_noRun {c : Ctx} (hrun : c.run = none) (l : List Acc) (s : State) : l.foldl (fun s a => s.noteAccess c a) s = s := by
  have hread : ∀ (ps : List Nat) (s : State), ps.foldl (fun s p => s.noteRead c p) s = s := by
    intro ps
    induction ps with
    | nil => exact fun _ => rfl
    | cons p ps ih => intro s; rw [List.foldl_cons, State.noteRead, hrun, ih]
  induction l generalizing s with
  | nil => rfl
  | cons a l ih =>
    rw [List.foldl_cons, State.noteAccess]
    split
    · rw [hread, ih]
    · exact ih s

/-! ### Changes of cached copies (R266) -/

/-- A change of cores, dies and what late replies may enter them alone. -/
def CachesOnly (s t : State) : Prop := t = { s with cores := t.cores, dies := t.dies, late := t.late }

/-- Two such changes are one. -/
theorem CachesOnly.trans {s t u : State} (h : CachesOnly s t) (h' : CachesOnly t u) : CachesOnly s u :=
  Eq.trans h' (congrArg (fun x : State => { x with cores := u.cores, dies := u.dies, late := u.late }) h)

/-- Such changes, one for each element of a list. -/
theorem CachesOnly.foldl {α : Type} {f : State → α → State} (hf : ∀ s a, CachesOnly s (f s a)) (l : List α) (s : State) : CachesOnly s (l.foldl f s) := by
  induction l generalizing s with
  | nil => rfl
  | cons a l ih => exact (hf s a).trans (ih _)

/-- It keeps contexts and what is written. -/
theorem CachesOnly.counted {s t : State} (h : CachesOnly s t) : Counted s t := by
  rw [h]; exact counted_of_eq rfl rfl rfl rfl

/-- It uses no tag. -/
theorem CachesOnly.nextTag {s t : State} (h : CachesOnly s t) : t.nextTag = s.nextTag := by
  rw [h]

/-- It writes no byte. -/
theorem CachesOnly.wr {s t : State} (h : CachesOnly s t) : t.wr = s.wr := by
  rw [h]

/-- Hints change the hints of caches alone. -/
theorem cachesOnly_hint (s : State) (core pol : Nat) (ps : List Nat) : CachesOnly s (s.hint core pol ps) := by
  unfold State.hint
  extract_lets die
  split
  · rfl
  · refine CachesOnly.foldl (fun s x => ?_) _ s
    extract_lets s'
    have hcore : CachesOnly s s' := rfl
    split
    · exact hcore
    · exact hcore.trans rfl

/-! ### The copy -/

/-- The access of a copy's lane: its source, then its destination. -/
theorem copyAccess {s : State} {core pol : Nat} {a b : Res} {src dst : List Nat} (ha : Passes s core a src) (hb : ∃ q, b = .ok dst q)
    (hbars : s.passBars core pol dst = false) : ∃ pages, (s.pinCheck core false a).join (s.passCheck core pol b) = .ok (src ++ dst) pages := by
  obtain ⟨p, ha, hpin⟩ := ha
  obtain ⟨q, rfl⟩ := hb
  rw [hpin, ha]
  simp only [State.passCheck, hbars, Bool.false_eq_true, if_false, Res.join]
  exact ⟨_, rfl⟩

/-- The load that stands for a copy in flight (R183). -/
def copyLoad (s : State) (e : Site) (pol d : Nat) (sc : Scope) (src dst : Lane → List Nat) (known : List (Option Byte)) : OLoad :=
  { ltag := s.nextTag, tids := e.lanes.map (fun l => l.t.tid), wheel := 0, dreg := d, nreg := 1, pc := e.b.pc, words := e.b.words
    known := known, pol := pol, rel := some sc, cpy := e.lanes.map (fun l => (l.t.tid, src l, dst l)) }

/-- The context with a copy in flight: its destination lines absent, D pending in its threads (R85, R176). -/
def copying (c : Ctx) (o : OLoad) (lines : List (Bool × Nat)) : Ctx :=
  let c := { c with absent := c.absent ++ (lines.filter (fun l => !l.1)).map (fun l => (l.2, o.ltag)), loads := c.loads ++ [o] }
  if o.dreg = 255 then c
  else c.modT (fun t => o.tids.contains t.tid) (fun t => { t with pend := t.pend ++ [{ use := .v o.dreg 1, due := none, tag := o.ltag }] })

/-- The copy is entered in its context, and no byte is written. -/
theorem clearLines_addLoad {s : State} {k : Nat} {c : Ctx} (hc : sGet s.ctxs k = some c) (die : Nat) {o : OLoad} (huni : o.uni = false) (hreg : o.nreg = 1)
    (lines : List (Bool × Nat)) :
    ((s.clearLines k die o.ltag lines).addLoad k o).ctxs = sPut s.ctxs k (copying c o lines) ∧
      ((s.clearLines k die o.ltag lines).addLoad k o).mem = s.mem ∧ ((s.clearLines k die o.ltag lines).addLoad k o).wr = s.wr := by
  have hclear : s.clearLines k die o.ltag lines =
      (s.setCtx k { c with absent := c.absent ++ (lines.filter (fun l => !l.1)).map (fun l => (l.2, o.ltag)) }).modDie die
        (fun x => { x with scrAbsent := x.scrAbsent ++ (lines.filter (fun l => l.1)).map (fun l => (l.2, o.ltag)) }) := by
    simp only [State.clearLines, State.modAny, hc]
  by_cases hd : o.dreg = 255 <;> simp [hclear, State.addLoad, State.modCtx, State.modDie, State.setCtx, huni, hreg, hd, copying]

section Start

variable {s : State} {b : Beat} {c : Ctx} (hi : InIssue s b c) (ha : Alone c) (hrun : c.run = none) {h : Head} {dsp ssp : Space} {sz : CSize} {x y : Src}
  {dofs sofs : BitVec 12} {src dst : Lane → List Nat} (hne : acting b c h ≠ [])
  (hacc : ∀ l ∈ acting b c h,
    Passes s l.w.core (s.access (siteOf b c h) l { sp := ssp, n := cszBytes sz, align := cszBytes sz, need := 1, lock := false } y sofs.toInt) (src l) ∧
    (∃ q, s.access (siteOf b c h) l { sp := dsp, n := cszBytes sz, align := cszBytes sz, need := 2, write := true } x dofs.toInt = .ok (dst l) q) ∧
    s.passBars l.w.core h.pol.toNat (dst l) = false ∧ (src l).length = cszBytes sz ∧ Holds s l.w.core (src l))

include hi ha hrun hne hacc

/-- What CPY does in a context without orders and without a run: the copy is in flight, and the beat counts. -/
theorem exec_cpy (sc : Scope) (d : BitVec 8) :
    ∃ (known : List (Option Byte)) (t : State), exec (.cpy h dsp ssp sz sc d x y dofs sofs) s = .next (t.seal s.mem) ∧ t.mem = s.mem ∧
      t.ctxs = sPut s.ctxs b.ctx (copying (c.advance b h.yld) (copyLoad s (siteOf b c h) h.pol.toNat d.toNat sc src dst known)
        (linesOf ((acting b c h).flatMap dst))) ∧ ∀ a, pTag a ≠ 7 → t.byte a = s.byte a := by
  let n := cszBytes sz
  let acc := fun (l : Lane) => (s.pinCheck l.w.core false (s.access (siteOf b c h) l { sp := ssp, n := n, align := n, need := 1, lock := false } y sofs.toInt)).join
    (s.passCheck l.w.core h.pol.toNat (s.access (siteOf b c h) l { sp := dsp, n := n, align := n, need := 2, write := true } x dofs.toInt))
  have hok : ∀ l ∈ acting b c h, ∃ pages, acc l = .ok (src l ++ dst l) pages := fun l hl => by
    obtain ⟨hfrom, hto, hbars, -, -⟩ := hacc l hl
    exact copyAccess hfrom hto hbars
  have hlen : ∀ l ∈ acting b c h, (src l).length = cszBytes sz := fun l hl => (hacc l hl).2.2.2.1
  have hgate := fun f => gate_ok (started s b c h) (siteOf b c h) false true ((acting b c h).map (fun l => { l := l, r := acc l, wrote := n })) f
    (fun a hmem => by
      obtain ⟨l, hl, rfl⟩ := List.mem_map.1 hmem
      obtain ⟨pages, hr⟩ := hok l hl
      exact ⟨_, pages, hr, refusedFill_of_alone ha _⟩)
    (behind_of_alone ha)
  have hexec : exec (.cpy h dsp ssp sz sc d x y dofs sofs) s = _ :=
    (act_onBeat hi h _).trans (congrArg (fun u => (.next (State.seal s.mem u) : Out)) (hgate _))
  have hoks : ((acting b c h).map (fun l => ({ l := l, r := acc l, wrote := n } : Acc))).map (fun a => (a.l, a.r.places)) =
      (acting b c h).map (fun l => (l, src l ++ dst l)) := by
    rw [List.map_map]
    refine List.map_congr_left fun l hl => ?_
    obtain ⟨pages, hr⟩ := hok l hl
    simp only [Function.comp_apply, hr, Res.places]
  have hdsts : ((acting b c h).map (fun l => (l, src l ++ dst l))).flatMap (fun x => x.2.drop (cszBytes sz)) = (acting b c h).flatMap dst := by
    rw [List.flatMap_map]
    exact List.flatMap_congr fun l hl => List.drop_left' (hlen l hl)
  have hsrcs : ((acting b c h).map (fun l => (l, src l ++ dst l))).map (fun x => (x.1, x.2.take (cszBytes sz))) = (acting b c h).map (fun l => (l, src l)) := by
    rw [List.map_map]
    exact List.map_congr_left fun l hl => Prod.ext rfl (List.take_left' (hlen l hl))
  have hcpy : ((acting b c h).map (fun l => (l, src l ++ dst l))).map (fun x => (x.1.t.tid, x.2.take (cszBytes sz), x.2.drop (cszBytes sz))) =
      (acting b c h).map (fun l => (l.t.tid, src l, dst l)) := by
    rw [List.map_map]
    exact List.map_congr_left fun l hl => Prod.ext rfl (Prod.ext (List.take_left' (hlen l hl)) (List.drop_left' (hlen l hl)))
  have htids : ((acting b c h).map (fun l => (l, src l ++ dst l))).map (fun x => x.1.t.tid) = (acting b c h).map (fun l => l.t.tid) := by
    rw [List.map_map]; rfl
  have hempty : ((acting b c h).map (fun l => (l, src l ++ dst l))).isEmpty = false := by simpa using hne
  have hlack : ((acting b c h).map (fun l => (l, src l))).filter (fun x => ((started s b c h).laneBytes b.ctx x.1 x.2).any (fun b => b.isNone)) = [] := by
    refine List.filter_eq_nil_iff.2 fun z hz => ?_
    obtain ⟨l, hl, rfl⟩ := List.mem_map.1 hz
    have hheld : Holds (started s b c h) l.w.core (src l) := (hacc l hl).2.2.2.2
    rw [Bool.not_eq_true, List.any_eq_false]
    intro v hv
    obtain ⟨w, rfl⟩ := Option.isSome_iff_exists.1 (laneBytes_isSome hheld v hv)
    simp
  simp only [if_true, hoks, hdsts, hsrcs, hcpy, htids, hempty, noteAccess_of_noRun hrun, State.ifRoom, State.shadowRooms, siteOf_c,
    siteOf_b, hrun, State.withBytes, State.withBytesBy, hlack, noFill_of_alone ha, Bool.false_eq_true, if_false] at hexec
  generalize hknown : ((acting b c h).map (fun l => (l, src l))).flatMap (fun x =>
    (x.2.zip ((started s b c h).laneBytes b.ctx x.1 x.2)).map (fun y => if isRemote y.1 then y.2 else none)) = known at hexec
  generalize hhint : (started s b c h).hint b.core h.pol.toNat (((acting b c h).map (fun l => (l, src l ++ dst l))).flatMap (fun x => x.2)) = u at hexec
  have hcaches : CachesOnly (started s b c h) u := hhint ▸ cachesOnly_hint ..
  have htag : u.newTag.1 = s.nextTag := hcaches.nextTag
  have hctx : sGet u.newTag.2.ctxs b.ctx = some (c.advance b h.yld) := by
    rw [show u.newTag.2.ctxs = (started s b c h).ctxs from hcaches.counted.ctxs]
    exact sGet_sPut_self _ _ _
  rw [htag] at hexec
  obtain ⟨hctxs, hmem, hwr⟩ := clearLines_addLoad hctx (dieOf b.core) (o := copyLoad s (siteOf b c h) h.pol.toNat d.toNat sc src dst known) rfl rfl
    (linesOf ((acting b c h).flatMap dst))
  obtain ⟨v, hv⟩ : ∃ v, v = (u.newTag.2.clearLines b.ctx (dieOf b.core) s.nextTag (linesOf ((acting b c h).flatMap dst))).addLoad b.ctx
    (copyLoad s (siteOf b c h) h.pol.toNat d.toNat sc src dst known) := ⟨_, rfl⟩
  have hexec' : exec (.cpy h dsp ssp sz sc d x y dofs sofs) s = .next (State.seal s.mem (if v.isHeld b || (none : Option Nat).isSome then v
      else v.countBeat (started s b c h) b.ctx ((acting b c h).map (fun l => { l := l, r := acc l, wrote := n })) true)) := by rw [hv]; exact hexec
  have hcount : Counted v (if v.isHeld b || (none : Option Nat).isSome then v
      else v.countBeat (started s b c h) b.ctx ((acting b c h).map (fun l => { l := l, r := acc l, wrote := n })) true) := by
    split
    · exact .refl v
    · exact counted_countBeat ..
  have hu : u.newTag.2.mem = s.mem ∧ u.newTag.2.wr = s.wr ∧ u.newTag.2.ctxs = sPut s.ctxs b.ctx (c.advance b h.yld) :=
    ⟨hcaches.counted.mem, hcaches.wr, hcaches.counted.ctxs⟩
  obtain ⟨humem, huwr, huctxs⟩ := hu
  refine ⟨known, _, hexec', hcount.mem.trans ((hv ▸ hmem).trans humem), hcount.ctxs.trans ?_, fun a ha' => (hcount.bytes a ha').trans ?_⟩
  · rw [hv]; refine hctxs.trans ?_; rw [huctxs, sPut_sPut]
  · rw [State.byte, State.byte, hv]
    refine (congrArg₂ (fun (w : Sparse Byte) m => match sGet w a with | some b => b | none => mGet m a) (hwr.trans huwr) (hmem.trans humem)).trans rfl

end Start

/-- A thread as it moves on, with D pending if the copy is its own. -/
def copyT (b : Beat) (h : Head) (o : OLoad) (x : Thread) : Thread :=
  if o.dreg ≠ 255 ∧ x.tid ∈ o.tids then { moved b h x with pend := x.pend ++ [{ use := .v o.dreg 1, due := none, tag := o.ltag }] } else moved b h x

/-- The threads of a context with a copy in flight, as they move on. -/
theorem copying_threads (b : Beat) (c : Ctx) (h : Head) (o : OLoad) (lines : List (Bool × Nat)) :
    (copying (c.advance b h.yld) o lines).threads = c.threads.map (copyT b h o) := by
  have hpend : ∀ x, (moved b h x).pend = x.pend := fun x => by rw [moved_eq]
  by_cases hd : o.dreg = 255
  · have hmoved : copyT b h o = moved b h := funext fun x => if_neg fun hand => hand.1 hd
    simp only [copying, hd, if_true, hmoved]; rfl
  · have hcopying : (copying (c.advance b h.yld) o lines).threads = (c.threads.map (moved b h)).map (fun t =>
        if o.tids.contains t.tid then { t with pend := t.pend ++ [{ use := .v o.dreg 1, due := none, tag := o.ltag }] } else t) := by
      simp only [copying, hd, if_false]; rfl
    rw [hcopying, List.map_map]
    refine List.map_congr_left fun x _ => ?_
    simp only [Function.comp_apply, copyT, hd, ne_eq, not_false_eq_true, true_and, (moved_keeps b h x).1, List.contains_iff_mem, hpend]

/-- Settles O19: every lane's accesses pass and its source is there, so the copy is entered and the beat counts. -/
theorem copyStarts : Obligations.CopyStarts := by
  intro s b c hi ha _ hrun h dsp ssp sz sc d x y dofs sofs src dst e n from_ to_ hne hacc
  obtain ⟨known, t, hexec, hmem, hctxs, hbytes⟩ := exec_cpy hi ha hrun hne hacc sc d
  let o := copyLoad s (siteOf b c h) h.pol.toNat d.toNat sc src dst known
  have hbyte : ∀ a, (t.seal s.mem).byte a = t.byte a := fun a => by rw [← hmem]; exact State.byte_seal t a
  have hloads : (copying (c.advance b h.yld) o (linesOf (e.lanes.flatMap dst))).loads = c.loads ++ [o] := by unfold copying; split <;> rfl
  have habsent : (copying (c.advance b h.yld) o (linesOf (e.lanes.flatMap dst))).absent =
      c.absent ++ ((linesOf (e.lanes.flatMap dst)).filter (fun l => !l.1)).map (fun l => (l.2, s.nextTag)) := by unfold copying; split <;> rfl
  refine ⟨_, _, o, hexec, by rw [State.seal, hctxs]; exact sGet_sPut_self _ _ _, ⟨fun j hj => ?_, fun a hmine => (hbyte a).trans (hbytes a hmine)⟩, hloads,
    rfl, rfl, rfl, rfl, rfl, rfl, habsent, fun i x hx => ?_⟩
  · rw [State.seal, hctxs]; exact sGet_sPut_ne _ _ hj
  · have htid := Ctx.thread_tid hx
    have hkeeps : ∀ x, (copyT b h o x).tid = x.tid := fun x => by unfold copyT; split <;> exact (moved_keeps b h x).1
    refine ⟨copyT b h o x, ?_, ?_⟩
    · rw [thread_of_map (copying_threads b c h o _) hkeeps, hx]; rfl
    · subst htid
      have hd : d ≠ 255 ↔ o.dreg ≠ 255 := by
        show d ≠ 255 ↔ d.toNat ≠ (255 : BitVec 8).toNat
        rw [ne_eq, ne_eq, BitVec.toNat_inj]
      simp only [hd]
      unfold copyT
      split
      · rw [moved_eq]; exact ⟨rfl, rfl, rfl, rfl, rfl⟩
      · rw [moved_eq]; exact ⟨rfl, rfl, rfl, (List.append_nil _).symm, rfl⟩

end Sys2Proof.Proofs

/-! PROOF of O20: a load's reply and a copy's end (R85, R175, R183, R274, R390). -/

namespace Sys2Proof.Proofs
open Sys2Proof Sys2Proof.Machine Sys2Proof.Claims

/-! ### A load that lands (R85, R390) -/

/-- A thread after a load has landed. -/
def landT (o : OLoad) (ws : List Word) (x : Thread) : Thread :=
  if o.tids.contains x.tid then { x.put o.dreg ws [] with
    pend := x.pend.filter (fun p => !(p.due.isNone && p.tag == o.ltag))
    acqs := if o.cpy.isEmpty then x.acqs else x.acqs ++ (o.rel.map (fun sc => (o.dreg, sc))).toList }
  else x

/-- The context after a load to vector registers has landed. -/
theorem landLoad_vector {o : OLoad} (huni : o.uni = false) (c : Ctx) (ws : List Word) :
    c.landLoad o ws = { c with loads := c.loads.filter (fun x => !(x.ltag == o.ltag && x.tids == o.tids)), threads := c.threads.map (landT o ws) } := by
  simp only [Ctx.landLoad, huni, Bool.false_eq_true, if_false]; rfl

/-- Landing keeps a thread's number. -/
theorem landT_tid (o : OLoad) (ws : List Word) (x : Thread) : (landT o ws x).tid = x.tid := by
  unfold landT; split
  · exact x.put_tid ..
  · rfl

/-- Landing changes registers, what is pending, and the operands and acquires still to be taken. -/
theorem landT_rest (o : OLoad) (ws : List Word) (x : Thread) : landT o ws x =
    { x with vregs := (landT o ws x).vregs, pend := (landT o ws x).pend, latched := (landT o ws x).latched, acqs := (landT o ws x).acqs } := by
  unfold landT Thread.put
  split
  · split <;> rfl
  · rfl

/-- The registers after a landing. -/
theorem landT_v (o : OLoad) (ws : List Word) (x : Thread) (n : Nat) :
    (landT o ws x).v n = if x.tid ∈ o.tids then after x.v [(o.dreg, ws)] n else x.v n := by
  by_cases hmem : x.tid ∈ o.tids
  · rw [landT, if_pos (List.contains_iff_mem.2 hmem), if_pos hmem]; exact x.put_after o.dreg ws [] n
  · rw [landT, if_neg (fun h => hmem (List.contains_iff_mem.1 h)), if_neg hmem]

/-- The status word of a copy is read as an acquire at its scope (R274). -/
theorem landT_acqs {o : OLoad} {sc : Scope} (hcpy : o.cpy.isEmpty = false) (hrel : o.rel = some sc) (ws : List Word) {x : Thread} (hmem : x.tid ∈ o.tids) :
    (o.dreg, sc) ∈ (landT o ws x).acqs := by
  simp [landT, hmem, hcpy, hrel]

/-- A thread of a context in which a load has landed. -/
theorem thread_landLoad {o : OLoad} (huni : o.uni = false) {c : Ctx} (ws : List Word) {i : Nat} {x : Thread} (hx : c.thread i = some x) :
    (c.landLoad o ws).thread i = some (landT o ws x) := by
  rw [thread_of_map (f := landT o ws) (by rw [landLoad_vector huni]) (landT_tid o ws), hx]; rfl

/-! ### The reply of a load -/

/-- Bytes become invalid in caches alone. -/
theorem cachesOnly_fillReply (s : State) (core : Nat) (o : OLoad) (data : List Byte) : CachesOnly s (s.fillReply core o data) := by
  unfold State.fillReply
  extract_lets die cells on s1 s2
  have hl2 : CachesOnly s1 s2 := CachesOnly.foldl (fun s c => by split <;> rfl) cells s1
  have hboth : CachesOnly s s2 := CachesOnly.trans (t := s1) rfl hl2
  split
  · rfl
  · split
    · rfl
    · split
      · exact hboth.trans (CachesOnly.foldl (fun s c => by split <;> rfl) cells s2)
      · exact hboth

/-- An acquire changes caches alone (R278). -/
theorem cachesOnly_acquireIf (s : State) (on : Bool) (c : Ctx) (core : Nat) (sc : Scope) : CachesOnly s (s.acquireIf on c core sc) := by
  obtain ⟨_, _, _, h⟩ := acquireIf_frame s on c core sc
  rw [CachesOnly, h]

/-- An acknowledgement that no context waits for ends a wait of a die's engines at most (R391). -/
theorem counted_ackPosted {s : State} {tag : Nat} (h : ∀ e ∈ s.ctxs ++ s.saved, sGet e.2.posted tag = none) : Counted s (s.ackPosted tag false) := by
  unfold State.ackPosted
  extract_lets back s1 s2
  have hs1 : Counted s s1 := by
    unfold s1; split
    · exact .refl s
    · exact counted_of_eq rfl rfl rfl rfl
  have hs2 : s2 = s1 := if_neg (by decide)
  have hnone : (s2.ctxs ++ s2.saved).findSome? (fun e => (sGet e.2.posted tag).map (fun w => (e.1, e.2, w))) = none := by
    rw [hs2, hs1.ctxs, hs1.saved]
    exact List.findSome?_eq_none_iff.2 fun e he => by rw [h e he]; rfl
  rw [hnone]
  exact hs2 ▸ hs1

/-- A change of a placed context. -/
theorem modCtx_placed {s : State} {k : Nat} {c : Ctx} (hc : sGet s.ctxs k = some c) (f : Ctx → Ctx) : s.modCtx k f = s.setCtx k (f c) := by
  rw [State.modCtx, hc]

/-- The reply of one load of registers lands, and no byte is written. -/
theorem landReply_one {s : State} {k : Nat} {c : Ctx} {o : OLoad} (hc : sGet s.ctxs k = some c) (hreg : o.nreg ≠ 0) (hpref : o.pref = false) (data : List Byte) :
    let t := s.landReply k c [o] data
    t.ctxs = sPut s.ctxs k (c.landLoad o (extendBytes o.nreg o.signed (o.bytes data))) ∧ t.mem = s.mem ∧ t.wr = s.wr := by
  have hfill : o.isFill = false := by simp [OLoad.isFill, hreg]
  unfold State.landReply
  simp only [hpref, hfill, Bool.false_eq_true, if_false, List.foldl_cons, List.foldl_nil]
  generalize ((c.lanes o.tids).head?.map (fun l => l.w.core)).getD (((c.wheel o.wheel).map (fun w => w.core)).getD 0) = core
  have hcaches : CachesOnly s ((s.fillReply core o data).forget o.ltag) := (cachesOnly_fillReply ..).trans rfl
  generalize (s.fillReply core o data).forget o.ltag = u at hcaches
  have hctxs := hcaches.counted.ctxs
  rw [modCtx_placed (hctxs ▸ hc)]
  generalize hv : u.setCtx k (c.landLoad o (extendBytes o.nreg o.signed (o.bytes data))) = v
  have hland : v.ctxs = sPut s.ctxs k (c.landLoad o (extendBytes o.nreg o.signed (o.bytes data))) ∧ v.mem = s.mem ∧ v.wr = s.wr := by
    rw [← hv]; exact ⟨congrArg (sPut · k _) hctxs, hcaches.counted.mem, hcaches.wr⟩
  obtain ⟨hvctxs, hvmem, hvwr⟩ := hland
  cases o.acq with
  | none => exact ⟨hvctxs, hvmem, hvwr⟩
  | some sc =>
    have hacq := cachesOnly_acquireIf v true c core sc
    exact ⟨hacq.counted.ctxs.trans hvctxs, hacq.counted.mem.trans hvmem, hacq.wr.trans hvwr⟩

/-- The state after the reply of one load of registers. -/
theorem reply_one {s : State} {k ltag : Nat} {c : Ctx} {o : OLoad} (hc : sGet s.ctxs k = some c)
    (hmine : c.loads.filter (fun x => x.ltag == ltag && x.cpy.isEmpty && !x.arrived && !x.refused && !x.pinned) = [o])
    (hreg : o.nreg ≠ 0) (hpref : o.pref = false) (hposted : ∀ e ∈ s.ctxs ++ s.saved, sGet e.2.posted ltag = none) (data : List Byte) :
    let t := s.reply k ltag false data 0x0B 4
    t.ctxs = sPut s.ctxs k (c.landLoad o (extendBytes o.nreg o.signed (o.bytes data))) ∧ t.mem = s.mem ∧ ∀ a, pTag a ≠ 7 → t.byte a = s.byte a := by
  unfold State.reply
  have hack : Counted s ((s.engReply ltag false data).ackPosted ltag false) :=
    (counted_of_eq (s := s) (t := s.engReply ltag false data) rfl rfl rfl rfl).trans (counted_ackPosted hposted)
  generalize (s.engReply ltag false data).ackPosted ltag false = u at hack
  simp only [hack.ctxs, hc, hmine, Bool.not_false, if_true]
  generalize hv : (if ([o].any (fun o => o.counts) && c.run.isNone) = true then _ else u) = v
  have hcount : Counted u v := by
    rw [← hv]; split
    · exact counted_countHot ..
    · exact .refl u
  have hall := hack.trans hcount
  obtain ⟨hctxs, hmem, hwr⟩ := landReply_one (s := v) (by rw [hall.ctxs]; exact hc) hreg hpref data
  refine ⟨hctxs.trans (by rw [hall.ctxs]), hmem.trans hall.mem, fun a ha => Eq.trans ?_ (hall.bytes a ha)⟩
  rw [State.byte, State.byte, hwr, hmem]

/-! ### What a copy's end keeps of caches, pins and acknowledgements -/

/-- The first entry of a key is in the list. -/
theorem mem_of_sGet {α : Type} {m : Sparse α} {k : Nat} {v : α} (h : sGet m k = some v) : (k, v) ∈ m := by
  induction m with
  | nil => cases h
  | cons e m ih =>
    obtain ⟨k', v'⟩ := e
    rw [sGet] at h
    split at h
    · next hk => cases h; exact hk ▸ List.mem_cons_self
    · exact List.mem_cons_of_mem _ (ih h)

/-- What holds of every entry of a map, and of a new one, holds after it is put. -/
theorem forall_mem_sPut {α : Type} {P : Nat × α → Prop} {m : Sparse α} {k : Nat} {v : α} (hm : ∀ e ∈ m, P e) (hv : P (k, v)) : ∀ e ∈ sPut m k v, P e := by
  induction m with
  | nil => exact List.forall_mem_singleton.2 hv
  | cons e m ih =>
    obtain ⟨hhead, htail⟩ := List.forall_mem_cons.1 hm
    obtain ⟨k', v'⟩ := e
    rw [sPut]
    split
    · exact List.forall_mem_cons.2 ⟨hv, htail⟩
    · exact List.forall_mem_cons.2 ⟨hhead, ih htail⟩

/-- A cache without a dirty byte. -/
def CleanCache (m : Cache) : Prop := ∀ e ∈ m, e.2.2 = false

/-- A clean byte leaves a cache clean. -/
theorem CleanCache.cachePut {m : Cache} (h : CleanCache m) (p : Nat) (b : Byte) : CleanCache (cachePut m p b false) := by
  induction m with
  | nil => exact List.forall_mem_singleton.2 rfl
  | cons e m ih =>
    obtain ⟨hhead, htail⟩ := List.forall_mem_cons.1 h
    obtain ⟨q, v⟩ := e
    rw [Machine.cachePut]
    split
    · exact List.forall_mem_cons.2 ⟨rfl, htail⟩
    · exact List.forall_mem_cons.2 ⟨hhead, ih htail⟩

/-- Bytes merged below the dirty ones leave a cache clean. -/
theorem CleanCache.cacheMerge {m : Cache} (h : CleanCache m) (cells : List (Nat × Byte)) : CleanCache (cacheMerge m cells) := by
  unfold Machine.cacheMerge
  induction cells generalizing m with
  | nil => exact h
  | cons c cells ih =>
    rw [List.foldl_cons]
    refine ih ?_
    split
    · exact h
    · exact h.cachePut c.1 c.2

/-- The L1 of a core of a clean machine. -/
theorem clean_core {s : State} (h : Clean s) (k : Nat) : CleanCache (s.core k).l1 := by
  rw [State.core]
  cases hg : sGet s.cores k with
  | none => exact List.forall_mem_nil _
  | some x => exact h.1 _ (mem_of_sGet hg)

/-- The copies of a die of a clean machine. -/
theorem clean_die {s : State} (h : Clean s) (d : Nat) : CleanCache (s.die d).l2 := by
  rw [State.die]
  cases hg : sGet s.dies d with
  | none => exact List.forall_mem_nil _
  | some x => exact h.2 _ (mem_of_sGet hg)

/-- A core of a machine without pins. -/
theorem noPins_core {s : State} (h : NoPins s) (k : Nat) : (s.core k).pins = [] := by
  rw [State.core]
  cases hg : sGet s.cores k with
  | none => rfl
  | some x => exact h _ (mem_of_sGet hg)

/-- A change within a step that writes `cells` home and keeps contexts, requests and acknowledgements; it leaves no dirty byte and no pin where there was none. -/
structure Writes (s : State) (cells : List (Nat × Byte)) (t : State) : Prop where
  ctxs : t.ctxs = s.ctxs
  saved : t.saved = s.saved
  mem : t.mem = s.mem
  wr : t.wr = cells.reverse ++ s.wr
  reqs : t.hostReqs = s.hostReqs
  acks : ∀ d, (t.die d).evAcks = (s.die d).evAcks
  clean : Clean s → Clean t
  pins : NoPins s → NoPins t

/-- No change is one. -/
theorem Writes.refl (s : State) : Writes s [] s := ⟨rfl, rfl, rfl, rfl, rfl, fun _ => rfl, id, id⟩

/-- Two such changes write the cells of both. -/
theorem Writes.trans {s t u : State} {a b : List (Nat × Byte)} (h : Writes s a t) (h' : Writes t b u) : Writes s (a ++ b) u where
  ctxs := h'.ctxs.trans h.ctxs
  saved := h'.saved.trans h.saved
  mem := h'.mem.trans h.mem
  wr := by rw [h'.wr, h.wr, List.reverse_append, List.append_assoc]
  reqs := h'.reqs.trans h.reqs
  acks d := (h'.acks d).trans (h.acks d)
  clean := h'.clean ∘ h.clean
  pins := h'.pins ∘ h.pins

/-- Such changes that write nothing, one for each element of a list. -/
theorem Writes.foldl {α : Type} {f : State → α → State} (hf : ∀ s a, Writes s [] (f s a)) (l : List α) (s : State) : Writes s [] (l.foldl f s) := by
  induction l generalizing s with
  | nil => exact .refl s
  | cons a l ih => exact (hf s a).trans (ih _)

/-- A core's L1 changes without a new dirty byte. -/
theorem writes_modCore {s : State} {k : Nat} {f : Core → Core} (hl1 : CleanCache (s.core k).l1 → CleanCache (f (s.core k)).l1)
    (hpins : (f (s.core k)).pins = (s.core k).pins) : Writes s [] (s.modCore k f) where
  ctxs := rfl
  saved := rfl
  mem := rfl
  wr := rfl
  reqs := rfl
  acks _ := rfl
  clean h := ⟨forall_mem_sPut (P := fun x : Nat × Core => CleanCache x.2.l1) h.1 (hl1 (clean_core h k)), h.2⟩
  pins h := forall_mem_sPut (P := fun x : Nat × Core => x.2.pins = []) h (hpins.trans (noPins_core h k))

/-- A die's copies change without a new dirty byte. -/
theorem writes_modDie {s : State} {k : Nat} {f : Die → Die} (hl2 : CleanCache (s.die k).l2 → CleanCache (f (s.die k)).l2)
    (hacks : (f (s.die k)).evAcks = (s.die k).evAcks) : Writes s [] (s.modDie k f) where
  ctxs := rfl
  saved := rfl
  mem := rfl
  wr := rfl
  reqs := rfl
  acks d := by
    by_cases hd : d = k
    · subst hd; rw [State.die, State.modDie_dies, sGet_sPut_self]; exact hacks
    · rw [State.die, State.modDie_dies, sGet_sPut_ne _ _ hd]; rfl
  clean h := ⟨h.1, forall_mem_sPut (P := fun x : Nat × Die => CleanCache x.2.l2) h.2 (hl2 (clean_die h k))⟩
  pins h := h

/-- Home writes. -/
theorem writes_homeWrites (s : State) (cells : List (Nat × Byte)) : Writes s cells (s.homeWrites cells) := by
  have hfold : ∀ (cells : List (Nat × Byte)) (s : State),
      let t := cells.foldl (fun s c => (s.putByte c.1 c.2).noteWrite c.1) s
      t.cores = s.cores ∧ t.hostReqs = s.hostReqs := by
    intro cells
    induction cells with
    | nil => exact fun s => ⟨rfl, rfl⟩
    | cons c cells ih =>
      intro s
      have hnote : ((s.putByte c.1 c.2).noteWrite c.1).cores = s.cores ∧ ((s.putByte c.1 c.2).noteWrite c.1).hostReqs = s.hostReqs := by
        unfold State.noteWrite; split <;> exact ⟨rfl, rfl⟩
      obtain ⟨hcores, hreqs⟩ := ih ((s.putByte c.1 c.2).noteWrite c.1)
      exact ⟨hcores.trans hnote.1, hreqs.trans hnote.2⟩
  obtain ⟨hcores, hreqs⟩ := hfold cells s
  have hcores : (s.homeWrites cells).cores = s.cores := hcores
  have hdies := homeWrites_dies s cells
  exact ⟨(homeWrites_ctxs s cells).1, (homeWrites_ctxs s cells).2, (issues_homeWrites s cells).mem, homeWrites_wr s cells, hreqs,
    fun d => by rw [State.die, State.die, hdies], fun h => ⟨hcores ▸ h.1, hdies ▸ h.2⟩, fun h => by rw [NoPins, hcores]; exact h⟩

/-- Clean bytes leave an L1. -/
theorem writes_dropL1 (s : State) (core : Nat) (f : Nat → Bool) : Writes s [] (s.dropL1 core f) :=
  writes_modCore (fun h e he => h e (List.mem_filter.1 he).1) rfl

/-- Clean bytes leave a die's copies. -/
theorem writes_dropL2 (s : State) (die : Nat) (f : Nat → Bool) : Writes s [] (s.dropL2 die f) :=
  writes_modDie (fun h e he => h e (List.mem_filter.1 he).1) rfl

/-- A fetched sector brings clean bytes. -/
theorem writes_fetchSector (s : State) (core q : Nat) (need : List Nat) : Writes s [] (s.fetchSector core q need) := by
  unfold State.fetchSector
  extract_lets die home s1 m cells
  split
  · exact .refl s
  · have hdie : Writes s [] s1 := by
      unfold s1; split
      · exact .refl s
      · exact writes_modDie (fun h => h.cacheMerge _) rfl
    split
    · exact hdie
    · exact hdie.trans (writes_modCore (fun h => h.cacheMerge _) rfl)

/-- The sectors of an access enter the caches clean. -/
theorem writes_fillFor (s : State) (core pol : Nat) (ps : List Nat) : Writes s [] (s.fillFor core pol ps) := by
  unfold State.fillFor
  extract_lets ps s1
  have hdrop : Writes s [] s1 := writes_dropL1 ..
  split
  · exact .refl s
  · split
    · split
      · exact hdrop
      · exact hdrop.trans (writes_dropL2 ..)
    · exact .foldl (fun s q => writes_fetchSector ..) _ s

/-- No cached byte enters the core order. -/
theorem writes_performCached_nil (s : State) (core : Nat) (who : Issuer) (pol : Nat) : Writes s [] (s.performCached core who pol []) := by
  unfold State.performCached
  extract_lets die s1 r
  split
  · have hcore : Writes s [] s1 := writes_modCore id rfl
    have hdie : Writes s1 [] (s1.modDie die (fun x => { x with l2 := cacheRenew x.l2 [] })) := writes_modDie id rfl
    exact hcore.trans (hdie.trans (writes_homeWrites _ []))
  · exact .refl s

/-- Shared and scratchpad bytes of an access outside a run are written at their places (R268). -/
theorem writes_perform_home (s : State) {c : Ctx} (hrun : c.run = none) (core : Nat) (who : Issuer) (pol : Nat) {cells : List (Nat × Byte)}
    (htag : ∀ x ∈ cells, pTag x.1 = 2 ∨ pTag x.1 = 3) : Writes s cells (s.perform c core who pol cells) := by
  have htco : cells.filter (fun x => pTag x.1 == 7) = [] :=
    List.filter_eq_nil_iff.2 fun x hx => by rcases htag x hx with h | h <;> simp [h]
  have hhome : cells.filter (fun x => decide (2 ≤ pTag x.1) && decide (pTag x.1 ≤ 4)) = cells :=
    List.filter_eq_self.2 fun x hx => by rcases htag x hx with h | h <;> simp [h]
  have hfar : cells.filter (fun x => isCached x.1) = [] :=
    List.filter_eq_nil_iff.2 fun x hx => by rcases htag x hx with h | h <;> simp [isCached, isRemote, h]
  have hperform : s.perform c core who pol cells = (s.homeWrites cells).performCached core who pol [] := by
    simp only [State.perform, htco, hhome, hfar, hrun, List.foldl_nil]
  rw [hperform]
  simpa using (writes_homeWrites s cells).trans (writes_performCached_nil (s.homeWrites cells) core who pol)

/-- The last entry of a key is the only one. -/
theorem sGet_reverse {α : Type} {m : Sparse α} (h : (m.map (fun x => x.1)).Nodup) (k : Nat) : sGet m.reverse k = sGet m k := by
  induction m with
  | nil => rfl
  | cons e m ih =>
    obtain ⟨k', v⟩ := e
    rw [List.map_cons, List.nodup_cons] at h
    rw [List.reverse_cons, sGet_append, ih h.2]
    by_cases hk : k' = k
    · have hnone : sGet m k = none := sGet_eq_none (hk ▸ h.1)
      simp [sGet, hk, hnone]
    · simp [sGet, hk]

/-- A byte after writes to distinct places. -/
theorem Writes.byte {s t : State} {cells : List (Nat × Byte)} (h : Writes s cells t) (hnodup : (cells.map (fun x => x.1)).Nodup) (a : Nat) :
    t.byte a = (sGet cells a).getD (s.byte a) := by
  rw [State.byte, State.byte, h.wr, h.mem, sGet_append, sGet_reverse hnodup]
  cases sGet cells a <;> rfl

/-! ### Releases with nothing to write back (R278) -/

/-- Nothing is pinned in a machine without pins. -/
theorem pinned_of_noPins {s : State} (h : NoPins s) (core line : Nat) : s.pinned core line = false :=
  List.any_eq_false.2 fun e he => by simp [h e he]

/-- Nothing of a clean L1 is written back. -/
theorem flushL1_of_clean {s : State} (h : Clean s) (core : Nat) (f : Nat → Bool) : s.flushL1 core f = s := by
  have hnil : (s.core core).l1.filter (fun e => e.2.2 && f e.1 && !s.pinned core (lineOf e.1)) = [] :=
    List.filter_eq_nil_iff.2 fun e he => by simp [clean_core h core e he]
  simp only [State.flushL1, hnil]; rfl

/-- Nothing of a die's clean copies is written back. -/
theorem flushL2_of_clean {s : State} (h : Clean s) (who : Option Issuer) (core die : Nat) (f : Nat → Bool) : s.flushL2 who core die f = s := by
  have hnil : (s.die die).l2.filter (fun e => e.2.2 && f e.1 && !s.pinned core (lineOf e.1)) = [] :=
    List.filter_eq_nil_iff.2 fun e he => by simp [clean_die h die e he]
  simp only [State.flushL2, hnil]; rfl

/-- The queues of a context without queued stores are drained. -/
theorem drain_of_noStores {s : State} {k : Nat} {c : Ctx} (hc : sGet s.ctxs k = some c) (hstores : NoStores c) (i : Nat) :
    s.drain k i = s ∧ s.drained k i = true := by
  rw [State.drain, State.drained, hc, Option.bind_some]
  cases hw : c.wheel i with
  | none => exact ⟨rfl, rfl⟩
  | some w =>
    have hnil : w.stores = [] := hstores w (List.mem_of_find?_eq_some hw)
    simp only [hnil]; exact ⟨rfl, rfl⟩

/-- A release with nothing queued and nothing dirty changes nothing. -/
theorem release_of_clean {s : State} {c' : Ctx} {who : Issuer} (hc : sGet s.ctxs who.ctx = some c') (hstores : NoStores c') (hclean : Clean s) (c : Ctx)
    (wheel core : Nat) (sc : Scope) : s.release c wheel core who sc = s := by
  simp only [State.release, (drain_of_noStores hc hstores wheel).1, flushL1_of_clean hclean, flushL2_of_clean hclean, ite_self]

/-- No pin refuses it. -/
theorem relRefused_of_clean {s : State} {k : Nat} {c' : Ctx} (hc : sGet s.ctxs k = some c') (hstores : NoStores c') (hclean : Clean s) (c : Ctx)
    (wheel core : Nat) (sc : Scope) : s.relRefused k c wheel core sc = false := by
  have hl1 : (s.core core).l1.any (fun e => e.2.2 && pTag e.1 != 1) = false :=
    List.any_eq_false.2 fun e he => by simp [clean_core hclean core e he]
  have hl2 : (s.die (dieOf core)).l2.any (fun e => e.2.2 && inRank (scopeRank c sc) e.1) = false :=
    List.any_eq_false.2 fun e he => by simp [clean_die hclean (dieOf core) e he]
  simp only [State.relRefused, (drain_of_noStores hc hstores wheel).2, hl1, hl2, Bool.not_true, Bool.and_false, Bool.or_false]

/-- No pin ends where there is none. -/
theorem releaseEnd_of_noPins {s : State} (h : NoPins s) (c : Ctx) (k : Nat) (sc : Scope) : s.releaseEnd c k sc = s := by
  have hall : ∀ l : List (Nat × Core), (∀ e ∈ l, e.2.pins = []) →
      l.foldl (fun s e => (e.2.pins.filter (fun p => p.2 == k)).foldl (fun s p => s.unpin e.1 p.1) s) s = s := by
    intro l hl
    induction l with
    | nil => rfl
    | cons e l ih =>
      obtain ⟨hhead, htail⟩ := List.forall_mem_cons.1 hl
      rw [List.foldl_cons, hhead]
      exact ih htail
  rw [State.releaseEnd]
  split
  · rfl
  · exact hall s.cores h

/-- A map over contexts that does not see the change of one. -/
theorem map_sPut {α β : Type} {m : Sparse α} {k : Nat} {v w : α} (h : sGet m k = some v) {f : Nat × α → β} (hf : f (k, w) = f (k, v)) :
    (sPut m k w).map f = m.map f := by
  induction m with
  | nil => cases h
  | cons e m ih =>
    obtain ⟨k', v'⟩ := e
    rw [sGet] at h
    rw [sPut]
    split at h
    · next hk => cases h; subst hk; rw [if_pos rfl, List.map_cons, List.map_cons, hf]
    · next hk => rw [if_neg hk, List.map_cons, List.map_cons, ih h]

/-- The writes that await an acknowledgement on a die, by what each context has posted. -/
theorem posted_of_map (l : List (Nat × Ctx)) (d : Nat) : (l.filter (fun e => e.2.die == d)).flatMap (fun e => e.2.posted.map (fun x => x.1)) =
    ((l.map (fun e => (e.2.die, e.2.posted))).filter (fun e => e.1 == d)).flatMap (fun e => e.2.map (fun x => x.1)) := by
  rw [List.filter_map, List.flatMap_map]; rfl

/-- What a release waits for after a change that keeps the context's remote operations and what it has posted. -/
theorem relWaits_sPut {s t : State} {k : Nat} {c c' : Ctx} (hc : sGet s.ctxs k = some c) (hctxs : t.ctxs = sPut s.ctxs k c') (hsaved : t.saved = s.saved)
    (hreqs : t.hostReqs = s.hostReqs) (hacks : ∀ d, (t.die d).evAcks = (s.die d).evAcks) (hdie : c'.die = c.die) (hposted : c'.posted = c.posted)
    (hremotes : c'.remotes = c.remotes) (d : Ctx) (tids : List Nat) (sc : Scope) : t.relWaits k d tids sc = s.relWaits k d tids sc := by
  have hmap : (t.ctxs ++ t.saved).map (fun e => (e.2.die, e.2.posted)) = (s.ctxs ++ s.saved).map (fun e => (e.2.die, e.2.posted)) := by
    rw [List.map_append, List.map_append, hctxs, hsaved, map_sPut hc (by rw [hdie, hposted])]
  have hrem : (sGet t.ctxs k).map (fun c => c.remotes) = (sGet s.ctxs k).map (fun c => c.remotes) := by
    rw [hctxs, sGet_sPut_self, hc, Option.map_some, Option.map_some, hremotes]
  simp only [State.relWaits, posted_of_map, hmap, hrem, hreqs, hacks]

/-! ### The end of a copy (R183) -/

/-- The bytes that a lane reads in a context without queued stores and without a run, where its core has them all. -/
theorem laneBytes_of_noStores {s : State} {k : Nat} {c : Ctx} (hc : sGet s.ctxs k = some c) (hstores : NoStores c) (hrun : c.run = none) {l : Lane} {ps : List Nat}
    (hholds : Holds s l.w.core ps) : s.laneBytes k l ps = s.coreBytes l.w.core ps := by
  have hqueue : ((c.wheel l.w.idx).map (fun w => w.stores)).getD [] = [] := by
    cases hw : c.wheel l.w.idx with
    | none => rfl
    | some w => exact hstores w (List.mem_of_find?_eq_some hw)
  have hlen : (s.coreBytes l.w.core ps).length ≤ ps.length := by simp [State.coreBytes]
  simp only [State.laneBytes, State.loadBytes, hc, hqueue, hrun, queueByte, List.foldl_nil, Option.bind_none]
  conv_rhs => rw [← List.map_snd_zip hlen]
  refine List.map_congr_left fun x hx => ?_
  obtain ⟨v, hv⟩ := Option.isSome_iff_exists.1 (hholds x.2 (List.of_mem_zip hx).2)
  simp only [hv]

/-- The bytes that a copy's only lane writes: none was captured, so each is the one read (R183). -/
theorem copied_values {s : State} {core : Nat} {ps : List Nat} {far : List (Option Byte)} (hfar : ∀ b ∈ far, b = none) :
    (ps.zip (s.coreBytes core ps)).zipIdx.map (fun (y : (Nat × Option Byte) × Nat) => match sGet ([] : List (Nat × Byte)) y.1.1 with
      | some b => b
      | none => ((far[y.2]?).getD none).getD (y.1.2.getD 0)) = bytesAt s core ps := by
  have hnone : ∀ i : Nat, (far[i]?).getD none = none := fun i => by
    cases hi : far[i]? with
    | none => rfl
    | some b => exact hfar b (List.mem_of_getElem? hi)
  have hlen : (s.coreBytes core ps).length ≤ ps.length := by simp [State.coreBytes]
  simp only [sGet, hnone, Option.getD_none]
  rw [bytesAt, held]
  conv_rhs => rw [← List.map_snd_zip hlen, ← List.zipIdx_map_fst 0 (ps.zip (s.coreBytes core ps)), List.map_map, List.map_map]
  rfl

/-- The context whose lines are present again for a copy (R176). -/
def presentFor (c : Ctx) (tag : Nat) : Ctx := { c with absent := c.absent.filter (fun e => e.2 != tag) }

/-- The lines of a copy are present again, and nothing else of what a release looks at changes. -/
theorem setLines_placed {s : State} {k : Nat} {c : Ctx} (hc : sGet s.ctxs k = some c) (die tag : Nat) :
    ∃ t, Writes s [] t ∧ s.setLines k die tag = t.setCtx k (presentFor c tag) := by
  refine ⟨s.modDie die (fun x => { x with scrAbsent := x.scrAbsent.filter (fun e => e.2 != tag) }), writes_modDie id rfl, ?_⟩
  simp only [State.setLines, State.modAny, hc]; rfl

section CopyEnd

variable {s : State} {k ltag tid : Nat} {c : Ctx} {o : OLoad} {l : Lane} {src dst : List Nat} {sc : Scope} (hc : sGet s.ctxs k = some c)
  (hcpy : o.cpy = [(tid, src, dst)]) (hknown : ∀ b ∈ o.known, b = none) (hlanes : c.lanes [tid] = [l]) (hstores : NoStores c) (hrun : c.run = none)
  (htags : ∀ p ∈ dst, pTag p = 2 ∨ pTag p = 3) (hholds : Holds (filled s o.pol [l] (fun _ => src)) l.w.core src)

include hc hcpy hknown hlanes hstores hrun htags hholds

/-- The bytes of a copy of one lane move, and its lines are present. -/
theorem moveCopy_one : ∃ t, Writes s (dst.zip (bytesAt (filled s o.pol [l] (fun _ => src)) l.w.core src)) t ∧
    s.moveCopy k c o = t.setCtx k (presentFor c o.ltag) := by
  have hfill : Writes s [] (filled s o.pol [l] (fun _ => src)) := writes_fillFor ..
  generalize hu : filled s o.pol [l] (fun _ => src) = u at hfill hholds ⊢
  have hu' : s.fillFor l.w.core o.pol src = u := hu
  have hcu : sGet u.ctxs k = some c := by rw [hfill.ctxs]; exact hc
  have hmove : s.moveCopy k c o = (u.perform c l.w.core { ctx := k, tids := [l.t.tid], pc := o.pc, words := o.words } o.pol
      (dst.zip (bytesAt u l.w.core src))).setLines k c.die o.ltag := by
    have hfar : ∀ b ∈ (o.known.drop (src.length * 0)).take src.length, b = none := fun b hb =>
      hknown b (List.mem_of_mem_drop (List.mem_of_mem_take hb))
    simp only [State.moveCopy, hcpy, List.zipIdx_cons, List.zipIdx_nil, List.foldl_cons, List.foldl_nil, hlanes, List.head?_cons, hu',
      laneBytes_of_noStores hcu hstores hrun hholds, ← copied_values (s := u) (core := l.w.core) (ps := src) hfar] <;> rfl
  have hhome : Writes u (dst.zip (bytesAt u l.w.core src)) _ :=
    writes_perform_home u hrun l.w.core { ctx := k, tids := [l.t.tid], pc := o.pc, words := o.words } o.pol (fun x hx => htags x.1 (List.of_mem_zip hx).1)
  have hall := hfill.trans hhome
  obtain ⟨t, ht, hset⟩ := setLines_placed (s := u.perform c l.w.core { ctx := k, tids := [l.t.tid], pc := o.pc, words := o.words } o.pol
    (dst.zip (bytesAt u l.w.core src))) (by rw [hall.ctxs]; exact hc) c.die o.ltag
  exact ⟨t, by simpa using hall.trans ht, hmove.trans hset⟩

/-- The step that ends a copy of one lane with nothing to release: its bytes move, and its status word lands. -/
theorem exec_cpyComplete (hfind : c.loads.find? (fun x => x.ltag == ltag && !x.cpy.isEmpty) = some o) (htids : o.tids = [tid]) (hmoved : o.moved = false)
    (hrel : o.rel = some sc) (hclean : Clean s) (hpins : NoPins s) (hwaits : s.relWaits k c [tid] sc = ([], [])) :
    ∃ t, Writes s (dst.zip (bytesAt (filled s o.pol [l] (fun _ => src)) l.w.core src)) t ∧
      exec (.cpyComplete k ltag) s = .next (State.seal s.mem
        (t.setCtx k ((presentFor c o.ltag).landLoad o [0x80000001]))) := by
  obtain ⟨t, hwrites, hmove⟩ := moveCopy_one hc hcpy hknown hlanes hstores hrun htags hholds
  have hstores1 : NoStores (presentFor c o.ltag) := hstores
  obtain ⟨w, hw⟩ : ∃ w, w = t.setCtx k (presentFor c o.ltag) := ⟨_, rfl⟩
  have hcw : sGet w.ctxs k = some (presentFor c o.ltag) := hw ▸ sGet_sPut_self ..
  have hcleanw : Clean w := hw ▸ hwrites.clean hclean
  have hpinsw : NoPins w := hw ▸ hwrites.pins hpins
  have hwaitsw : w.relWaits k c [tid] sc = ([], []) := by
    rw [← hwaits, hw]
    exact relWaits_sPut hc (t := t.setCtx k (presentFor c o.ltag)) (c' := presentFor c o.ltag) (congrArg (fun m => sPut m k (presentFor c o.ltag)) hwrites.ctxs) hwrites.saved hwrites.reqs hwrites.acks rfl rfl rfl c [tid] sc
  have hws : wheelsOf [l] = [l] := by simp [wheelsOf, sortBy, insBy]
  have hbarred : s.copyBarred c o = false := by
    simp [State.copyBarred, State.pinBars, State.passBars, pinned_of_noPins hpins]
  have hreleased : w.copyReleased k c o l sc = true := by
    rw [State.copyReleased, relRefused_of_clean hcw hstores1 hcleanw, htids, hwaitsw]; rfl
  refine ⟨t, hwrites, ?_⟩
  show execCpyComplete k ltag s = _
  have hrelease : w.release c l.w.idx l.w.core { ctx := k, tids := [tid], pc := o.pc, words := o.words } sc = w :=
    release_of_clean hcw hstores1 hcleanw c l.w.idx l.w.core sc
  simp only [execCpyComplete, act, hc, hfind, hcpy, List.map_cons, List.map_nil, hlanes, hws, List.foldl_cons, List.foldl_nil, (drain_of_noStores hc hstores l.w.idx).1,
    (drain_of_noStores hc hstores l.w.idx).2, List.any_cons, List.any_nil, hmoved, hbarred, Bool.not_true, Bool.or_false, Bool.and_false, Bool.false_eq_true,
    if_false, hmove, ← hw, hrel, List.head?_cons, htids]
  rw [hrelease, if_pos hreleased, releaseEnd_of_noPins hpinsw, modCtx_placed hcw, hw, setCtx_twice]
  rfl

end CopyEnd

/-- Settles O20: the one load of a reply, or the one copy that ends with nothing to release, lands in its threads. -/
theorem repliesLand : Obligations.RepliesLand := by
  intro s k ltag c o data hc rest landed
  constructor
  · intro hmine hreg hpref huni hposted
    have hltag : o.ltag = ltag := by
      have hmem := hmine ▸ List.mem_singleton_self o
      have hpred := (List.mem_filter.1 hmem).2
      simp only [Bool.and_eq_true, beq_iff_eq] at hpred
      exact hpred.1.1.1.1
    obtain ⟨hctxs, hmem, hbytes⟩ := reply_one hc hmine hreg hpref hposted data
    refine ⟨_, c.landLoad o (extendBytes o.nreg o.signed (o.bytes data)), rfl, ?_, ⟨fun j hj => ?_, fun a ha => ?_⟩, ?_, ?_, fun i x hx => ?_⟩
    · rw [State.seal, hctxs]; exact sGet_sPut_self ..
    · rw [State.seal, hctxs]; exact sGet_sPut_ne _ _ hj
    · rw [← hmem, State.byte_seal]; exact hbytes a ha
    · rw [landLoad_vector huni, hltag]
    · rw [landLoad_vector huni]
    · refine ⟨_, thread_landLoad huni _ hx, landT_rest .., fun n => ?_⟩
      rw [landT_v, Ctx.thread_tid hx]
  · intro tid l src dst sc hfind hcpy htids huni hmoved hrel hknown hlanes hstores hclean hpins hrun hwaits hlen hnodup htags u hholds
    have hltag : o.ltag = ltag := by
      have hpred := List.find?_some hfind
      simp only [Bool.and_eq_true, beq_iff_eq] at hpred
      exact hpred.1
    obtain ⟨t, hwrites, hexec⟩ := exec_cpyComplete hc hcpy hknown hlanes hstores hrun htags hholds hfind htids hmoved hrel hclean hpins hwaits
    have hkeys : ((dst.zip (bytesAt u l.w.core src)).map (fun x => x.1)).Nodup := by
      have hlen' : dst.length ≤ (bytesAt u l.w.core src).length := by simp [bytesAt, held, State.coreBytes, State.below, hlen]
      rwa [List.map_fst_zip hlen']
    refine ⟨_, _, hexec, sGet_sPut_self .., fun a => ?_, ?_, ?_, fun i x hx => ?_⟩
    · rw [← hwrites.mem]
      exact (State.byte_seal _ a).trans (hwrites.byte hkeys a)
    · rw [landLoad_vector huni, hltag]; rfl
    · rw [landLoad_vector huni, hltag]; rfl
    · refine ⟨_, thread_landLoad huni _ hx, landT_rest .., fun hi => ?_, fun n => ?_⟩
      · exact landT_acqs (by rw [hcpy]; rfl) hrel _ (by rw [htids, Ctx.thread_tid hx, hi]; exact List.mem_singleton_self tid)
      · simp only [landT_v, Ctx.thread_tid hx, htids, List.mem_singleton]

end Sys2Proof.Proofs

/-! PROOF of O1, O2, O9: integer arithmetic, bits and fields, and shifts past the width (R106, R109-R115). -/

namespace Sys2Proof.Proofs

open Sys2Proof Sys2Proof.Machine Sys2Proof.Claims

/-- An instruction that is a write of D by its dispatch has that write as its whole effect. -/
theorem does_into {s : State} {b : Beat} {c : Ctx} (hi : InIssue s b c) {i : Instr} {h : Head} {d : Dst} {f : Lane → List Word}
    (he : exec i s = act (regOp h d 3 f) s) : Does i s b c h (into d f) :=
  does_regOp hi he fun _ => rfl

/-- An instruction that is a write of a predicate by its dispatch has that write as its whole effect. -/
theorem does_intoP {s : State} {b : Beat} {c : Ctx} (hi : InIssue s b c) {i : Instr} {h : Head} {pd : BitVec 5} {f : Lane → Bool}
    (he : exec i s = act (predOp h pd 3 f) s) : Does i s b c h (intoP pd f) :=
  does_predOp hi he fun _ => rfl

/-- Settles O1: each instruction writes D with the value that R106 or R109 gives. -/
theorem integerResults : Obligations.IntegerResults := by
  intro s b c hi h ty sat sa sb d x y z
  refine ⟨?iadd, ?isub, ?imul, ?imulh, ?imin, ?imax, ?iabs, ?ineg, ?imad, ?imadw, ?idp4, ?idp8⟩ <;> exact does_into hi rfl

/-- Settles O2: each instruction writes D with the value that R110 to R115 give. -/
theorem bitResults : Obligations.BitResults := by
  intro s b c hi h ty right d x y z tbl n w
  refine ⟨?andB, ?orB, ?xorB, ?notB, ?lut3, ?shl, ?shr, ?sar, ?fsh, ?pcnt, ?clz, ?brev, ?bfx, ?bfi, ?bperm⟩ <;> exact does_into hi rfl

/-! ### Bit strings of registers -/

/-- Registers form a number below 2^32 to their count. -/
theorem wordsNat_lt (ws : List Word) : wordsNat ws < 2 ^ (32 * ws.length) := by
  induction ws with
  | nil => simp [wordsNat]
  | cons v ws ih =>
    rw [List.length_cons, Nat.mul_add_one, Nat.pow_add]
    have hv := v.isLt
    simp only [wordsNat]
    omega

/-- A source of `n` registers is a number below 2^32 to their count. -/
theorem readSrc_lt (l : Lane) (n : Nat) (x : Src) : readSrc l n x < 2 ^ (32 * n) := by
  have hregs (f : Nat → Word) : wordsNat ((List.range n).map f) < 2 ^ (32 * n) := by
    simpa using wordsNat_lt ((List.range n).map f)
  cases x with
  | v r => simp only [readSrc, readV]; split <;> [positivity; exact hregs _]
  | s r => simp only [readSrc, readS]; split <;> [positivity; exact hregs _]
  | imm i =>
    have hlt := Int.emod_lt_of_pos (immVal i) (show (0 : Int) < 2 ^ (32 * n) by positivity)
    simp only [readSrc, wrapInt]
    zify
    rwa [Int.toNat_of_nonneg (Int.emod_nonneg _ (by positivity))]

/-- Zero in every register. -/
theorem natWords_zero (n : Nat) : natWords n 0 = List.replicate n 0 := by
  induction n with
  | zero => rfl
  | succ n ih => rw [natWords, Nat.zero_div, ih, List.replicate_succ]; rfl

/-- Ones in every register. -/
theorem natWords_ones (n : Nat) : natWords n (2 ^ (32 * n) - 1) = List.replicate n 0xFFFFFFFF := by
  induction n with
  | zero => rfl
  | succ n ih =>
    have hpos : 0 < 2 ^ (32 * n) := by positivity
    have hsplit : 2 ^ (32 * (n + 1)) = 2 ^ (32 * n) * 4294967296 := by rw [Nat.mul_add_one, Nat.pow_add]
    have hhigh : (2 ^ (32 * (n + 1)) - 1) / 4294967296 = 2 ^ (32 * n) - 1 := by omega
    have hlow : BitVec.ofNat 32 (2 ^ (32 * (n + 1)) - 1) = 0xFFFFFFFF :=
      BitVec.eq_of_toNat_eq (by rw [BitVec.toNat_ofNat]; show _ = 4294967295; omega)
    rw [natWords, hhigh, hlow, ih, List.replicate_succ]

/-! ### The arithmetic shift (R111) -/

/-- The highest of `w` bits weighs -2^w more when they are read signed (R7). -/
theorem sgnVal_eq_sub {w a : Nat} (hw : 0 < w) (ha : a < 2 ^ w) :
    sgnVal true w a = (a : Int) - if a.testBit (w - 1) then 2 ^ w else 0 := by
  obtain ⟨v, rfl⟩ : ∃ v, w = v + 1 := ⟨w - 1, by omega⟩
  simp only [sgnVal, Nat.mod_eq_of_lt ha, Bool.true_and, decide_eq_true_eq, Nat.add_sub_cancel]
  by_cases hs : 2 ^ v ≤ a
  · rw [if_pos hs, Nat.testBit_of_two_pow_le_and_two_pow_add_one_gt hs ha, if_pos rfl]
  · rw [if_neg hs, Nat.testBit_lt_two_pow (by omega), if_neg Bool.false_ne_true, sub_zero]

/-- A small negative number in its residue. -/
theorem sub_emod_of_lt {q p m : Nat} (hq : q < p) (hp : p ≤ m) : ((q : Int) - p) % m = (q + (m - p) : Nat) := by
  rw [← Int.add_emod_right, Int.emod_eq_of_lt] <;> omega

/-- A shift by at most the width moves the bits down and fills the place they leave with the sign. -/
theorem wrapInt_sgnVal_div {w k a : Nat} (hw : 0 < w) (ha : a < 2 ^ w) (hk : k ≤ w) :
    wrapInt w (sgnVal true w a / 2 ^ k) = a / 2 ^ k + if a.testBit (w - 1) then 2 ^ w - 2 ^ (w - k) else 0 := by
  have hpow : 2 ^ w = 2 ^ (w - k) * 2 ^ k := by rw [← Nat.pow_add, Nat.sub_add_cancel hk]
  have hq : a / 2 ^ k < 2 ^ (w - k) := Nat.div_lt_of_lt_mul (by rwa [mul_comm, ← hpow])
  have hle : 2 ^ (w - k) ≤ 2 ^ w := Nat.pow_le_pow_right (by decide) (Nat.sub_le w k)
  rw [sgnVal_eq_sub hw ha, wrapInt]
  split
  · have hdiv : ((a : Int) - 2 ^ w) / 2 ^ k = (a / 2 ^ k : Nat) - (2 ^ (w - k) : Nat) := by
      rw [show (2 : Int) ^ w = 2 ^ (w - k) * 2 ^ k by exact_mod_cast hpow, Int.sub_mul_ediv_right _ _ (by positivity)]
      norm_cast
    rw [hdiv, show (2 : Int) ^ w = (2 ^ w : Nat) by norm_cast, sub_emod_of_lt hq hle, Int.toNat_natCast]
  · rw [sub_zero, Nat.add_zero]
    exact_mod_cast Nat.mod_eq_of_lt (hq.trans_le hle)

/-! ### The shifts in terms of their counts -/

/-- Results that agree in the acting lanes are one result. -/
theorem does_into_congr {i : Instr} {s : State} {b : Beat} {c : Ctx} {h : Head} {d : Dst} {f g : Lane → List Word}
    (hd : Does i s b c h (into d f)) (hfg : ∀ l ∈ acting b c h, f l = g l) : Does i s b c h (into d g) := by
  obtain ⟨t, ht, hran⟩ := hd
  exact ⟨t, ht, ran_into_congr hran hfg⟩

/-- Settles O9: the shifts of O2, whose conditions on the count are decided. -/
theorem shiftPastWidth : Obligations.ShiftPastWidth := by
  intro s b c hi h d x y ty hty w a n
  obtain ⟨hw, hpos⟩ : w = 32 * tyRegs ty ∧ 0 < w := by
    simp only [List.mem_cons, List.not_mem_nil, or_false] at hty
    rcases hty with rfl | rfl | rfl | rfl | rfl | rfl <;> exact ⟨rfl, by decide⟩
  have ha (l : Lane) : a l < 2 ^ w := hw ▸ readSrc_lt l (tyRegs ty) x
  obtain ⟨-, -, -, -, -, hshl, hshr, hsar, -⟩ := bitResults s b c hi h ty true d x y y 0
  refine ⟨fun hpast => ⟨?shl, ?shr, ?sar⟩, fun hbelow => ⟨?shlBelow, ?shrBelow, ?sarBelow⟩⟩
  case shl => exact does_into_congr hshl fun l hl => by rw [if_pos (hpast l hl), natWords_zero]
  case shr => exact does_into_congr hshr fun l hl => by rw [if_pos (hpast l hl), natWords_zero]
  case sar =>
    refine does_into_congr hsar fun l hl => ?_
    have hfill : a l / 2 ^ w + (if (a l).testBit (w - 1) then 2 ^ w - 2 ^ (w - w) else 0) = if (a l).testBit (w - 1) then 2 ^ w - 1 else 0 := by
      rw [Nat.div_eq_of_lt (ha l), Nat.zero_add, Nat.sub_self, Nat.pow_zero]
    rw [Nat.min_eq_right (hpast l hl), wrapInt_sgnVal_div hpos (ha l) le_rfl, hfill]
    split
    · rw [hw, natWords_ones]
    · exact natWords_zero _
  case shlBelow => exact does_into_congr hshl fun l hl => by rw [if_neg (hbelow l hl).not_ge]
  case shrBelow => exact does_into_congr hshr fun l hl => by rw [if_neg (hbelow l hl).not_ge]
  case sarBelow =>
    refine does_into_congr hsar fun l hl => ?_
    rw [Nat.min_eq_left (hbelow l hl).le, wrapInt_sgnVal_div hpos (ha l) (hbelow l hl).le]

end Sys2Proof.Proofs

/-! PROOF of O5, O10: pointers, whose fields are an object and an offset (R62, R124-R127). -/

namespace Sys2Proof.Proofs

open Sys2Proof Sys2Proof.Machine Sys2Proof.Claims

/-! ### Writes at the site of the beat -/

section Site

variable {s : State} {b : Beat} {c : Ctx} (hi : InIssue s b c) {i : Instr} {h : Head} {F : Site → State → State}
  (he : exec i s = act (onBeat h F) s)

include hi he

/-- An instruction whose effect at its site is a write of vector registers. -/
theorem does_writeV {r : BitVec 8} {lat : Nat} {f : Lane → List Word}
    (hF : F (siteOf b c h) (started s b c h) = (started s b c h).writeV (siteOf b c h) r.toNat lat f) : Does i s b c h (into (.v r) f) :=
  ⟨_, he.trans (act_onBeat hi h F), by rw [← started, hF]; exact writeV_ran s b c h r.toNat lat f⟩

/-- An instruction whose effect at its site is a write of uniform registers. -/
theorem does_writeS {r : BitVec 8} {lat : Nat} {f : Lane → List Word}
    (hF : F (siteOf b c h) (started s b c h) = (started s b c h).writeS (siteOf b c h) r.toNat lat f) : Does i s b c h (into (.s r) f) :=
  ⟨_, he.trans (act_onBeat hi h F), by rw [← started, hF]; exact writeS_ran s b c h r.toNat lat f⟩

/-- An instruction whose effect at its site is a write of a predicate. -/
theorem does_writeP {pd : BitVec 5} {lat : Nat} {f : Lane → Bool}
    (hF : F (siteOf b c h) (started s b c h) = (started s b c h).writeP (siteOf b c h) pd.toNat lat f) : Does i s b c h (intoP pd f) :=
  ⟨_, he.trans (act_onBeat hi h F), by rw [← started, hF]; exact writeP_ran s b c h pd lat f⟩

end Site

/-! ### PCHK (R126) -/

/-- The answer of PCHK comes from the core's entries, not from the contexts. -/
theorem pchk_started (s : State) (b : Beat) (c : Ctx) (h : Head) (core a need size : Nat) :
    (started s b c h).pchk core a need size = s.pchk core a need size := rfl

/-- Settles O5: PADD, PDIFF and PRSTR write D; PCHK finds an entry in every acting lane, so that it waits for none. -/
theorem pointerResults : Obligations.PointerResults := by
  intro s b c hi h wide sat d x y pd rights size
  refine ⟨does_into hi rfl, does_into hi rfl, does_into hi rfl, fun hheld => does_writeP hi rfl (lat := 3) ?_⟩
  have hfind : (acting b c h).find? (fun l => (s.pchk l.w.core (readSrc l 2 x) rights.toNat size.toNat).isNone) = none :=
    List.find?_eq_none.2 fun l hl => by simp [Option.ne_none_iff_isSome.2 (hheld l hl)]
  simp only [pchk_started, siteOf_lanes, hfind]

/-! ### Fields of a pointer -/

/-- The object of a pointer made of an object and an offset. -/
theorem pointer_obj {o m : Nat} (hm : m < 2 ^ 44) : (o * 2 ^ 44 + m) / 2 ^ 44 = o := by omega

/-- The offset of a pointer made of an object and an offset. -/
theorem pointer_ofs {o m : Nat} (hm : m < 2 ^ 44) : (o * 2 ^ 44 + m) % 2 ^ 44 = m := by omega

/-- PADD's new offset, clamped or wrapped to 44 bits (R124). -/
def paddOfs (wide sat : Bool) (a e : Nat) : Int :=
  let n : Int := ((a % 2 ^ 44 : Nat) : Int) + sgnVal true (if wide then 64 else 32) e
  if sat then max 0 (min n (2 ^ 44 - 1)) else n % 2 ^ 44

/-- The new offset lies in its 44 bits. -/
theorem paddOfs_bounds (wide sat : Bool) (a e : Nat) : 0 ≤ paddOfs wide sat a e ∧ paddOfs wide sat a e < 2 ^ 44 := by
  cases sat <;> simp only [paddOfs, Bool.false_eq_true, if_false, if_true] <;> omega

/-- PADD's result is the object with the new offset. -/
theorem paddVal_eq (wide sat : Bool) (a e : Nat) : paddVal wide sat a e = a / 2 ^ 44 * 2 ^ 44 + (paddOfs wide sat a e).toNat := by
  unfold paddVal paddOfs
  cases sat
  · rfl
  · dsimp only
    rw [if_pos rfl, if_pos rfl]
    omega

/-- PADD keeps the object and sets the offset. -/
theorem paddVal_fields {a : Nat} (ha : a < 2 ^ 64) (wide sat : Bool) (e : Nat) :
    paddVal wide sat a e < 2 ^ 64 ∧ paddVal wide sat a e / 2 ^ 44 = a / 2 ^ 44 ∧
      ((paddVal wide sat a e % 2 ^ 44 : Nat) : Int) = paddOfs wide sat a e := by
  obtain ⟨hnn, hlt⟩ := paddOfs_bounds wide sat a e
  have hm : (paddOfs wide sat a e).toNat < 2 ^ 44 := by omega
  rw [paddVal_eq, pointer_obj hm, pointer_ofs hm]
  exact ⟨by omega, rfl, Int.toNat_of_nonneg hnn⟩

/-- Within one object PDIFF is the word of the difference of the offsets. -/
theorem toInt_pdiffVal {a e : Nat} (ho : a / 2 ^ 44 = e / 2 ^ 44) :
    (BitVec.ofNat 64 (pdiffVal a e)).toInt = ((a % 2 ^ 44 : Nat) : Int) - ((e % 2 ^ 44 : Nat) : Int) := by
  rw [pdiffVal, if_pos ho, ofNat_wrapInt]
  exact BitVec.toInt_ofInt_eq_self (by decide) (by omega) (by omega)

/-- The registers of a number's low 64 bits are those of the number. -/
theorem natWords_two_mod (n : Nat) : natWords 2 (BitVec.ofNat 64 n).toNat = natWords 2 n := by
  simp only [natWords, BitVec.toNat_ofNat, List.cons.injEq, and_true]
  constructor <;> apply BitVec.eq_of_toNat_eq <;> simp only [BitVec.toNat_ofNat] <;> omega

/-- Settles O10: the results of O5, read as an object and an offset. -/
theorem pointerFields : Obligations.PointerFields := by
  intro s b c hi h sat wide d x y obj ofs a
  obtain ⟨hpadd, hpdiff, hprstr, -⟩ := pointerResults s b c hi h wide sat d x y 0 0 0
  refine ⟨⟨_, hpadd, fun l => paddVal_fields (readSrc_lt l 2 x) wide sat _⟩,
    ⟨fun l => BitVec.ofNat 64 (pdiffVal (a l) (readSrc l 2 y)), does_into_congr hpdiff fun l _ => (natWords_two_mod _).symm,
      fun l => ⟨toInt_pdiffVal, fun hne => ?_⟩⟩, hprstr⟩
  exact congrArg (BitVec.ofNat 64) (if_neg hne)

end Sys2Proof.Proofs

/-! PROOF of O4: the lane instructions over the acting lanes of the beat (R119-R123). -/

namespace Sys2Proof.Proofs

open Sys2Proof Sys2Proof.Machine Sys2Proof.Claims

/-- Settles O4: each instruction is one write at the site of the beat, of D or of a predicate by the form of the instruction. -/
theorem laneResults : Obligations.LaneResults := by
  intro s b c hi h ty sat cnt mode op d r x y lane pd pa e all mask
  refine ⟨does_writeV hi rfl rfl, ?every, ?any, ?agree, ?mask, does_writeV hi rfl rfl, ?redux, does_writeS hi rfl rfl⟩
  case every | any | agree => exact does_writeP hi rfl rfl
  case mask | redux =>
    cases d with
    | v r => exact does_writeV hi rfl rfl
    | s r => exact does_writeS hi rfl rfl

end Sys2Proof.Proofs

/-! PROOF of O3: compares, moves, predicate words and MOVS, in a speculative run too (R105, R107, R108, R116, R117, R79, R128, R129, R358). -/

namespace Sys2Proof.Proofs

open Sys2Proof Sys2Proof.Machine Sys2Proof.Claims

/-! ### VTOP -/

/-- A change of predicates in each acting lane, as a whole effect. -/
theorem eachLane_preds_ran (s : State) (b : Beat) (c : Ctx) (h : Head) (f : Lane → Word) (p : List Pend) :
    Ran s b c h { preds := f }
      (((started s b c h).modCtx b.ctx (fun c' => c'.eachLane (acting b c h) (fun l t => { t with preds := f l, pend := t.pend ++ p }))).seal s.mem) := by
  rw [started, State.modCtx_setCtx, advance_eachLane]
  exact lanes_wheels_ran _ id rfl rfl (fun _ _ => rfl) (fun _ => rfl) (fun _ _ => rfl) (fun _ _ _ => rfl) (fun _ _ _ => rfl)
    (fun _ _ => (filter_untouched_nil ..).symm) (fun _ _ => (filter_untouched_nil ..).symm) (fun _ => rfl)
    (fun w _ => wheelRan_none _ b c h _ w (fun _ => rfl) (fun _ => rfl) (fun _ => rfl))

/-! ### A discarded run (R362, R364) -/

/-- What a fold's every step leaves, the fold leaves. -/
theorem foldl_keeps {σ α β : Type} (p : σ → β) {f : σ → α → σ} (hf : ∀ s a, p (f s a) = p s) (l : List α) (s : σ) : p (l.foldl f s) = p s := by
  induction l generalizing s with
  | nil => rfl
  | cons a l ih => rw [List.foldl_cons, ih, hf]

/-- Noting a write at the slots leaves the contexts. -/
theorem noteWrite_ctxs (s : State) (p : Nat) : (s.noteWrite p).ctxs = s.ctxs := by
  unfold State.noteWrite
  split <;> rfl

/-- Zeroing bytes leaves the contexts. -/
theorem zeroRange_ctxs (s : State) (p n : Nat) : (s.zeroRange p n).ctxs = s.ctxs := by
  unfold State.zeroRange
  dsimp only
  split
  · rfl
  · exact foldl_keeps State.ctxs (fun s _ => noteWrite_ctxs s _) _ s

/-- Freeing shadow pages leaves the contexts. -/
theorem freeShadow_ctxs (s : State) (k : Nat) : (s.freeShadow k).ctxs = s.ctxs :=
  foldl_keeps State.ctxs (fun s (x : Shadow) => zeroRange_ctxs s (shadowP x.page 0) 65536) _ s

/-- A context that leaves the device takes its entry with it. -/
theorem dropCtx_ctxs {s : State} {k : Nat} {c : Ctx} (hc : sGet s.ctxs k = some c) : (s.dropCtx k).ctxs = sDel s.ctxs k := by
  unfold State.dropCtx
  rw [hc]
  refine congrArg (sDel · k) (Eq.trans (foldl_keeps State.ctxs ?_ _ _) ?_)
  · exact fun _ _ => rfl
  · exact (foldl_keeps State.ctxs (fun _ _ => zeroRange_ctxs ..) _ _).trans (zeroRange_ctxs ..)

/-- A context leaves the device alone. -/
theorem sGet_dropCtx (s : State) (k j : Nat) : sGet (s.dropCtx k).ctxs j = if j = k then none else sGet s.ctxs j := by
  cases hc : sGet s.ctxs k with
  | none =>
    have hsame : s.dropCtx k = s := by rw [State.dropCtx, hc]
    rw [hsame]
    split
    · next hj => rw [hj, hc]
    · rfl
  | some c =>
    rw [dropCtx_ctxs hc]
    split
    · next hj => rw [hj, sGet_sDel_self]
    · next hj => exact sGet_sDel_ne _ hj

/-- The contexts of a list are gone once they have left one by one. -/
theorem sGet_dropCtxs (l : List (Nat × Ctx)) (s : State) {j : Nat} (h : j ∈ l.map Prod.fst ∨ sGet s.ctxs j = none) :
    sGet (l.foldl (fun s e => s.dropCtx e.1) s).ctxs j = none := by
  induction l generalizing s with
  | nil => simpa using h
  | cons e l ih =>
    refine ih (s.dropCtx e.1) ?_
    rw [sGet_dropCtx]
    by_cases hj : j = e.1
    · exact .inr (if_pos hj)
    · rw [if_neg hj]
      exact h.imp_left fun hmem => (List.mem_cons.1 hmem).resolve_left hj

/-- The state once the blocks of a run have left the device and its shadow pages are free. -/
def runGone (s : State) (k : Nat) : State :=
  ((s.ctxs.filter (fun e => e.2.spec == some k)).foldl (fun s e => s.dropCtx e.1) s).freeShadow k

/-- A block of the run is gone with it. -/
theorem runGone_ctxs {s : State} {j k : Nat} {c : Ctx} (hc : sGet s.ctxs j = some c) (hk : c.spec = some k) :
    sGet (runGone s k).ctxs j = none := by
  have hblock : (j, c) ∈ s.ctxs.filter (fun e => e.2.spec == some k) := List.mem_filter.2 ⟨mem_of_sGet hc, by simp [hk]⟩
  have hmem : j ∈ (s.ctxs.filter (fun e => e.2.spec == some k)).map Prod.fst := List.mem_map_of_mem (f := Prod.fst) hblock
  rw [runGone, freeShadow_ctxs]
  exact sGet_dropCtxs _ s (.inl hmem)

/-- A run that ends leaves its slot idle, its cause with its queue, and none of its blocks (R364, R365). -/
theorem discardRun_ends {s : State} {k : Nat} (hrun : (s.slot k).state ≠ .idle) (cause : Nat) :
    ((s.discardRun k cause).slot k).state = .idle ∧ ((s.discardRun k cause).queue (s.slot k).queue).lastCause = cause ∧
      (s.discardRun k cause).ctxs = (runGone s k).ctxs := by
  rw [State.discardRun, if_neg hrun]
  refine ⟨?_, ?_, rfl⟩
  · simp only [State.slot, State.modSlot_slots, sGet_sPut_self, Option.getD_some]
  · simp only [State.queue, State.modSlot_queues, State.modQueue_queues, sGet_sPut_self, Option.getD_some]

/-! ### MOVS (R117, R358) -/

section Movs

variable {s : State} {b : Beat} {c : Ctx} (hi : InIssue s b c)

include hi

/-- MOVS of a special register but %fstat writes D, unless it reads %launch in a lane of a run. -/
theorem movs_reads (h : Head) (clr : Bool) (d : Dst) {num : BitVec 8} (hstat : num ≠ 16) (hrun : num = 5 → c.spec = none ∨ acting b c h = []) :
    Does (.movs h clr d num) s b c h (into d (fun l =>
      natWords (if num = 12 ∨ num = 14 ∨ num = 17 then 2 else 1) (special s (siteOf b c h) l num.toNat))) := by
  have hstays : ¬ (num = 5 ∧ (siteOf b c h).c.spec.isSome ∧ (siteOf b c h).lanes ≠ []) := by
    rintro ⟨hnum, hspec, hlanes⟩
    rcases hrun hnum with hnone | hnil
    · rw [siteOf_c, hnone] at hspec; cases hspec
    · exact hlanes hnil
  cases d with
  | v r => exact does_writeV hi rfl ((if_neg hstat).trans (if_neg hstays))
  | s r => exact does_writeS hi rfl ((if_neg hstat).trans (if_neg hstays))

/-- MOVS of %launch in a lane of a run discards the run with cause 1. -/
theorem movs_launch_discards (h : Head) (clr : Bool) (d : Dst) {k : Nat} (hk : c.spec = some k) (hlanes : acting b c h ≠ []) :
    Becomes (.movs h clr d 5) s ((started s b c h).discardRun k 1) := by
  refine (act_onBeat hi h _).trans ?_
  dsimp only
  rw [if_neg (by decide), if_pos ⟨rfl, by rw [siteOf_c, hk]; rfl, hlanes⟩, siteOf_c, hk]
  rfl

/-- The run that a MOVS of %launch discards is over. -/
theorem movs_launch_ends (h : Head) (clr : Bool) (d : Dst) {k : Nat} (hk : c.spec = some k) (hlanes : acting b c h ≠ [])
    (hrun : (s.slot k).state ≠ .idle) : Reaches (.movs h clr d 5) s (fun t =>
      (t.slot k).state = .idle ∧ (t.queue (s.slot k).queue).lastCause = 1 ∧ sGet t.ctxs b.ctx = none) := by
  obtain ⟨hidle, hcause, hctxs⟩ := discardRun_ends (s := started s b c h) hrun 1
  refine ⟨_, movs_launch_discards hi h clr d hk hlanes, hidle, hcause, ?_⟩
  rw [State.seal_ctxs, hctxs]
  exact runGone_ctxs (c := c.advance b h.yld) (sGet_sPut_self ..) hk

end Movs

/-- Settles O3: one write of D or of predicates for each instruction, and the end of the run for MOVS of %launch. -/
theorem moveResults : Obligations.MoveResults := by
  refine ⟨fun s b c hi h ty cc and d x y r tbl pd pa pb pc k => ?_, fun s b c hi h clr d num => movs_reads hi h clr d,
    fun s b c hi h clr d k hk hlanes => ⟨movs_launch_discards hi h clr d hk hlanes, movs_launch_ends hi h clr d hk hlanes⟩⟩
  refine ⟨move_ran hi h, does_into hi rfl, does_into hi rfl, does_into hi rfl, ?icmp, does_intoP hi rfl, does_into hi rfl, ?vtop⟩
  case icmp =>
    refine does_predOp hi rfl fun l => ?_
    cases and <;> simp
  case vtop => exact ⟨_, act_onBeat hi h _, eachLane_preds_ran ..⟩

end Sys2Proof.Proofs

/-! PROOF of O6, O7: floating-point instructions and conversions, whose effect is a write of D or of a predicate with the flags that go to %fstat (R34, R132-R145). -/

namespace Sys2Proof.Proofs

open Sys2Proof Sys2Proof.Machine Sys2Proof.Claims

/-- How long an instruction holds the vector datapath that its vector form holds for `n` cycles (R134). -/
def holdOf (d : Dst) (n : Nat) : Nat :=
  match d with
  | .v _ => n
  | .s _ => 0

section Float

variable {s : State} {b : Beat} {c : Ctx} (hi : InIssue s b c) {i : Instr} {h : Head}

include hi

/-- An instruction that writes D and raises flags by its dispatch has both as its whole effect. -/
theorem does_intoFl {d : Dst} {lat : Nat} {f : Lane → List Word × Word}
    (he : exec i s = act (aluOp h d lat f) s) : Does i s b c h (intoFl d lat f) := by
  rw [Does, he]
  exact aluOp_ran hi h d lat f

/-- An instruction that also holds the vector datapath: only its vector form holds it (R134). -/
theorem does_intoFl_held {d : Dst} {lat n : Nat} {f : Lane → List Word × Word} (hn : n ≠ 0)
    (he : exec i s = act (fun s => holdPath d n (aluOp h d lat f s)) s) :
    Does i s b c h { intoFl d lat f with hold := holdOf d n } := by
  rw [Does, he]
  exact heldOp_ran hi h d lat n hn f

/-- FCMP writes its predicate and raises the flags of its comparison in each acting lane (R136). -/
theorem fcmp_does (ty : Ty) (ftz : Bool) (rel : Rel) (un and : Bool) (pd : BitVec 5) (x y : Src) :
    let r := fun l => fCmp (tyFmt ty) ftz rel un (readSrc l (tyRegs ty) x) (readSrc l (tyRegs ty) y)
    Does (.fcmp h ty ftz rel un and pd x y) s b c h
      { intoP pd (fun l => if and then readP l pd && (r l).1 else (r l).1) with flags := fun ls => ls.foldl (fun a l => a ||| (r l).2) 0 } :=
  ⟨_, act_onBeat hi h _, writeP_raise_ran s b c h pd 3 _ _⟩

/-- QBLK into vector registers writes the elements of each acting lane and then its scale, from SD as it was before (R144). -/
theorem qblk_does_v (rnd : Rnd) (sc32 : Bool) (sd : BitVec 8) (byte : BitVec 2) (ef r : BitVec 8) (x : Src) :
    let q := fun l => qblkLane rnd sc32 ef l x
    Does (.qblk h rnd sc32 sd byte ef (.v r) x) s b c h
      { vec := fun l => [(r.toNat, (q l).2.1), (sd.toNat, [BitVec.ofNat 32 (natSetBits (readV l.t 1 sd) (8 * byte.toNat) 8 (q l).1)])]
        flags := flagsOf (.v r) (fun l => (q l).2.2), lat := 7 } :=
  ⟨_, act_onBeat hi h _, writeV2_raise_ran s b c h r.toNat sd.toNat 7 _ _ _⟩

/-- QBLK into uniform registers does so once for each home wheel (R77, R144). -/
theorem qblk_does_s (rnd : Rnd) (sc32 : Bool) (sd : BitVec 8) (byte : BitVec 2) (ef r : BitVec 8) (x : Src) :
    let q := fun l => qblkLane rnd sc32 ef l x
    Does (.qblk h rnd sc32 sd byte ef (.s r) x) s b c h
      { uni := fun l => [(r.toNat, (q l).2.1), (sd.toNat, [BitVec.ofNat 32 (natSetBits (readS l.w 1 sd) (8 * byte.toNat) 8 (q l).1)])]
        flags := flagsOf (.s r) (fun l => (q l).2.2), lat := 7 } :=
  ⟨_, act_onBeat hi h _, writeS2_raiseS_ran s b c h r.toNat sd.toNat 7 _ _ _⟩

end Float

/-- Settles O6: each instruction writes D or a predicate with its flags; FFN and the binary64 instructions hold the datapath too. -/
theorem floatResults : Obligations.FloatResults := by
  intro s b c hi h ty sat ftz un and high mx rnd fn rel cls d x y z pd held
  refine ⟨?fadd, ?fmul, ?ffma, ?fmin, ?fmax, ?fcmp, ?ffn, ?ftest, ?hadd2, ?hmul2, ?hfma2, ?hmnx2, ?dadd, ?dmul, ?dfma⟩
  case fcmp => exact fcmp_does hi ty ftz rel un and pd x y
  case ftest => exact does_intoP hi rfl
  case ffn | dadd | dmul | dfma => exact does_intoFl_held hi (by decide) rfl
  case fadd | fmul | ffma | fmin | fmax | hadd2 | hmul2 | hfma2 | hmnx2 => exact does_intoFl hi rfl

/-- Settles O7: CVT and DQBLK write D with their flags, QBLK its elements and its scale. -/
theorem conversionResults : Obligations.ConversionResults := by
  intro s b c hi h rnd sat ftz sc32 ln df byte sf dfm ef sd r d x y z
  exact ⟨does_intoFl hi rfl, does_intoFl hi rfl, qblk_does_v hi rnd sc32 sd byte ef r x, qblk_does_s hi rnd sc32 sd byte ef r x⟩

end Sys2Proof.Proofs

/-! REFUTATION of O12, O13: what LD and ST may leave of a queue's history (R175, R351, R376). -/

namespace Sys2Proof.Proofs

open Sys2Proof Sys2Proof.Machine Sys2Proof.Claims

/-! ### A step that writes no byte and forgets a history -/

/-- A step that forgets the history of queue 0 is not one whose effect writes no byte. -/
theorem not_uses_of_forgets {i : Instr} {s : State} (hforgets : forgets (exec i s) = true) (hkept : (s.queue 0).hist.isEmpty = false)
    (b : Beat) (c : Ctx) (h : Head) (E : Effect) : ¬ Uses i s b c h E [] := by
  rintro ⟨t, ht, htouched⟩
  rw [ht, forgets, touched_keeps_history htouched, hkept] at hforgets
  exact absurd hforgets (by decide)

/-- The lanes of the beat of `hotState`. -/
theorem eq_hotLane {l : Lane} (hl : l ∈ acting hotBeat hotCtx {}) : l = hotLane := by
  rw [show acting hotBeat hotCtx {} = [hotLane] by decide] at hl
  exact List.mem_singleton.mp hl

/-- The context of `hotState` awaits nothing. -/
theorem hot_alone : Alone hotCtx := by unfold Alone; decide

/-! ### LD of a hot page -/

/-- LD of a word of object 5. -/
def hotLd : Instr := .ld {} .g .b32 .plain .blk (.v 4) (.s 2) 0

/-- The places of that word. -/
def hotWord : List Nat := run (canopyP 1 0) 4

/-- The access passes: the page belongs to the canopy of die 1, and no core pins its line. -/
theorem hot_ld_passes : Passes hotState 0
    (hotState.access (siteOf hotBeat hotCtx {}) hotLane { sp := .g, n := 4, align := 4, need := 1, lock := false } (.s 2) 0) hotWord :=
  ⟨[(5, 0, hotLeaf.toNat)], by decide +kernel, by decide +kernel⟩

/-- Every byte is there once the sector has entered the caches. -/
theorem hot_ld_holds : Holds (filled hotState 0 (acting hotBeat hotCtx {}) (fun _ => hotWord)) 0 hotWord := by unfold Holds; decide +kernel

/-- The count of the line announces the page in the ring, and the history is forgotten. -/
theorem hot_ld_forgets : forgets (exec hotLd hotState) = true := by decide +kernel

/-- Refutes O12: LD of a hot page forgets the history of a queue whose EN byte the state puts into the ring of the table control object, as LDSH does in the
refutation of O16. The refutation turns on what the first clause lets LD leave of queues alone. -/
theorem not_loadResults : ¬ Obligations.LoadResults := by
  intro h
  have hstores : NoStores hotCtx := by unfold NoStores; decide
  obtain ⟨hld, -⟩ := h hotState hotBeat hotCtx ⟨rfl, rfl⟩ hstores hot_alone rfl {} .g .b32 .plain .blk (.v 4) (.s 2) 0 false false .fa 0 0 (fun _ => hotWord)
  refine not_uses_of_forgets hot_ld_forgets rfl _ _ _ _ (hld ?passes ?holds)
  case passes => intro l hl; rw [eq_hotLane hl]; exact hot_ld_passes
  case holds => intro l hl; rw [eq_hotLane hl]; exact hot_ld_holds

/-! ### ST to a hot page -/

/-- The leaf entry of `hotState` with W. -/
def hotLeafW : BitVec 64 := hotLeaf ||| BitVec.ofNat 64 (2 ^ 4)

/-- The state of `hotState` with object 5 and its page writable. -/
def storeState : State :=
  { hotState with
    cores := [(0, { dcache := [{ obj := 5, valid := true, extent := 64, rights := 3, leafofs := 0, till := 9 }] })]
    dies := [(0, { lcache := [{ obj := 5, page := 0, word := hotLeafW, till := 9 }] })] }

/-- ST of a word of object 5. -/
def hotSt : Instr := .st {} .g .b32 .plain .blk (.s 2) 0 (.v 4)

/-- The access passes. -/
theorem hot_st_passes : ∃ pages,
    storeState.access (siteOf hotBeat hotCtx {}) hotLane { sp := .g, n := 4, align := 4, need := 2, write := true } (.s 2) 0 = .ok hotWord pages :=
  ⟨[(5, 0, hotLeafW.toNat)], by decide +kernel⟩

/-- The count of the line, as the store is queued, announces the page in the ring, and the history is forgotten. -/
theorem hot_st_forgets : forgets (exec hotSt storeState) = true := by decide +kernel

/-- Refutes O13: ST to a hot page forgets the history of a queue whose EN byte the state puts into the ring of the table control object, though the store itself has
written no byte yet. The refutation turns on the first clause alone, of ST without ordering. -/
theorem not_storeResults : ¬ Obligations.StoreResults := by
  rintro ⟨hqueues, -, -⟩
  obtain ⟨hst, -, -⟩ := hqueues storeState hotBeat hotCtx ⟨rfl, rfl⟩ hot_alone rfl {} .g .b32 .blk (.s 2) (.v 4) 0 false false .fa 0 0 (fun _ => hotWord)
  refine not_uses_of_forgets hot_st_forgets rfl _ _ _ _ (hst ?passes)
  intro l hl; rw [eq_hotLane hl]; exact hot_st_passes

end Sys2Proof.Proofs

/-! REFUTATION of O22: when an operation closed (R150). -/

namespace Sys2Proof.Proofs

open Sys2Proof Sys2Proof.Machine Sys2Proof.Claims

/-! ### A set that closes in cycle 1

The statement gives the queued operation by its block, register, group and signers alone. But R150 orders the queue by the cycle of the close, then by quarter and
wheel of the last signer, so the operation carries them too: its cycle is 0 only for a close in cycle 0. -/

/-- All of the set C1 but thread 0 has signed. -/
def closingCtx : Ctx :=
  { hotCtx with cregs := [(cvKey 0 1, { exp := 0xFFFFFFFF, sgn := 0xFFFFFFFE, group := some 0, signers := [{ tid := 1, void := false }] })] }

/-- The state, in cycle 1. -/
def closingState : State := { State.reset with ctxs := [(1, closingCtx)], cycle := 1 }

/-- The signature that completes the set. -/
def closingSigner : Signer := { tid := 0, void := false }

/-- The cycles in which the operations of a core's queue closed. -/
def closeCycles (s : State) (core : Nat) : List Nat := (s.core core).mqueue.map (fun o => o.closed)

/-- The one operation that the signature queues closed in cycle 1. -/
theorem closing_cycles : closeCycles (closingState.sign 1 0 1 [closingSigner]) 0 = [1] := by decide +kernel

/-- Refutes O22: the operation of a set that closes in cycle 1 carries that cycle, by which R150 orders it, and the statement has it carry 0. The
refutation turns on the clause of the completing signature alone. -/
theorem not_convergence : ¬ Obligations.Convergence := by
  rintro ⟨-, hsigned, -⟩
  obtain ⟨-, hcloses⟩ := hsigned closingState 1 0 1 closingCtx closingSigner rfl (by decide) rfl rfl (.inr (by decide))
  have hcycles := closing_cycles
  rw [hcloses (by decide) (by decide)] at hcycles
  exact absurd hcycles (by decide +kernel)

end Sys2Proof.Proofs

/-! PROOF of O23: a matrix operation with B in registers starts and completes (R159-R161, R163, R164). -/

namespace Sys2Proof.Proofs

open Sys2Proof Sys2Proof.Machine Sys2Proof.Claims

/-! ### What the unit's steps leave -/

/-- A core after a change of it. -/
theorem core_modCore (s : State) (k : Nat) (f : Core → Core) : (s.modCore k f).core k = f (s.core k) := by
  simp [State.core]

/-- At most one context and the latches of one core change: the other contexts, the memory and the rest of that core are as before. -/
structure LatchesOnly (s : State) (k core : Nat) (t : State) : Prop where
  others : ∀ j, j ≠ k → sGet t.ctxs j = sGet s.ctxs j
  mem : t.mem = s.mem
  wr : t.wr = s.wr
  core : ∃ ls, t.core core = { s.core core with latches := ls }

/-- Such changes one after the other. -/
theorem LatchesOnly.trans {s t u : State} {k core : Nat} (h : LatchesOnly s k core t) (h' : LatchesOnly t k core u) : LatchesOnly s k core u where
  others j hj := (h'.others j hj).trans (h.others j hj)
  mem := h'.mem.trans h.mem
  wr := h'.wr.trans h.wr
  core := by
    obtain ⟨ls, hls⟩ := h.core
    obtain ⟨ls', hls'⟩ := h'.core
    exact ⟨ls', by rw [hls', hls]⟩

/-- A change of the context. -/
theorem latchesOnly_modCtx (s : State) (k core : Nat) (f : Ctx → Ctx) : LatchesOnly s k core (s.modCtx k f) where
  others j hj := by
    unfold State.modCtx
    split
    · rfl
    · exact sGet_sPut_ne _ _ hj
  mem := by simp
  wr := by simp
  core := ⟨_, by rw [State.core, State.modCtx_cores, ← State.core]⟩

/-- A change of the latches. -/
theorem latchesOnly_modCore (s : State) (k core : Nat) (f : Core → List Latch) :
    LatchesOnly s k core (s.modCore core (fun y => { y with latches := f y })) where
  others _ _ := rfl
  mem := rfl
  wr := rfl
  core := ⟨_, core_modCore s core _⟩

/-- The latches after an operation (R163). -/
theorem latchesOnly_latchOp (s : State) (core : Nat) (o : MOp) (x : MmOp) (frags : List (Nat × Nat)) :
    LatchesOnly s o.ctx core (s.latchOp core o x frags) := by
  unfold State.latchOp
  split
  · exact (latchesOnly_modCore s o.ctx core _).trans (latchesOnly_modCtx _ o.ctx core _)
  · exact latchesOnly_modCore s o.ctx core _

/-- A step of the unit that changes its core before and after leaves the other contexts and memory. -/
theorem LatchesOnly.calm {s t : State} {k core : Nat} {f : Core → Core} (h : LatchesOnly (s.modCore core f) k core t) (g : Core → Core) :
    Calm s k ((t.modCore core g).seal s.mem) where
  others j hj := h.others j hj
  memory a _ := by
    have hmem : (t.modCore core g).mem = s.mem := h.mem
    rw [← hmem, State.byte_seal, State.byte, State.modCore_wr, State.modCore_mem, h.wr, h.mem]
    rfl

/-! ### The start of an operation (R159, R164) -/

/-- Registers carry no mark where no mark is a register's (R440). -/
theorem badRegs_of_noMarks {s : State} (hpoison : ∀ p ∈ s.poison, pTag p ≠ 4) {p : Nat → Nat} (hp : ∀ n, pTag (p n) = 4) (base n : Nat) :
    s.badRegs p base n = false := by
  have hclear : ∀ i, s.poison.contains (p (base + i)) = false := fun i => by
    simpa using fun hmem => hpoison _ hmem (hp _)
  simp only [State.badRegs, hclear, List.any_eq_false.mpr (fun _ _ => Bool.false_ne_true), Bool.and_false]

/-- Then no register that an operation reads is poisoned (R165). -/
theorem mmPoison_of_noMarks {s : State} (hpoison : ∀ p ∈ s.poison, pTag p ≠ 4) (core : Nat) (o : MOp) (c : Ctx) (x : MmOp) (size : Nat) :
    s.mmPoison core o c x size = false := by
  have hv : ∀ tid base n, s.badRegs (vregP o.ctx tid) base n = false := fun tid =>
    badRegs_of_noMarks hpoison (fun n => by simp [vregP, place, pTag])
  have hs : ∀ w base n, s.badRegs (sregP o.ctx w) base n = false := fun w =>
    badRegs_of_noMarks hpoison (fun n => by simp only [sregP, place, pTag]; omega)
  simp only [State.mmPoison, hv, hs, Bool.and_false, Bool.or_false, List.any_eq_false.mpr (fun _ _ => Bool.false_ne_true), Bool.false_or]
  split <;> simp only [Bool.and_false]

/-- The queues of the signers are drained where the context has no stores (R166). -/
theorem signers_drain_of_noStores {s : State} {o : MOp} {c : Ctx} (hc : sGet s.ctxs o.ctx = some c) (hstores : NoStores c) (gs : List Signer) :
    gs.foldl (fun s g => s.drain o.ctx g.wheel) s = s := by
  induction gs with
  | nil => rfl
  | cons g gs ih => rw [List.foldl_cons, (drain_of_noStores hc hstores g.wheel).1, ih]

/-- The members of an operation with B in registers, in the order of the set, each with its results and flags (R157, R159). -/
def memberResults (s : State) (core : Nat) (o : MOp) (c : Ctx) (x : MmOp) : List (Lane × List Word × Word) :=
  let size := if x.m.set128 then 128 else 32
  let rows := if x.m.set128 then 64 else 32
  let rowsA := (List.range rows).map (o.regRow c size x.kind.k (fmtBits x.kind.fa) (fragA (s.latchFor core o x) x))
  let colsB := (List.range rows).map (o.regRow c size x.kind.k (fmtBits x.kind.fb)
    (fun l => readV l.t (cdiv (x.kind.k * fmtBits x.kind.fb / (if x.m.set128 then 2 else 1)) 32) x.m.b))
  (List.range size).filterMap (fun i => (o.member c size i).map (fun l => (l,
    o.result c x size i ((rowsA[i % rows]?).getD []) (fun j => (colsB[j]?).getD []) (o.uni c size x 2) (o.uni c size x 3))))

/-- The A fragment of each member (R163). -/
def memberFrags (s : State) (core : Nat) (o : MOp) (c : Ctx) (x : MmOp) : List (Nat × Nat) :=
  (List.range (if x.m.set128 then 128 else 32)).filterMap (fun i =>
    (o.member c (if x.m.set128 then 128 else 32) i).map (fun l => (l.t.tid, fragA (s.latchFor core o x) x l)))

/-- The cycles that an operation holds the unit (R161). -/
def occupancy (x : MmOp) : Nat := if x.m.set128 then 16 else 4

/-- What the unit holds of an operation whose sources it has read: the results, until the eighth cycle after its last (R161). -/
def heldResults (s : State) (core : Nat) (o : MOp) (c : Ctx) (x : MmOp) : MDone :=
  { op := o, due := s.cycle + occupancy x - 1 + 8, d := x.m.d.toNat, outs := (memberResults s core o c x).map (fun r => (r.1.t.tid, r.2.1)) }

/-- The flags of results are on their way to the %fstat of each wheel (R34). -/
def raiseResults (due : Nat) (rs : List (Lane × List Word × Word)) (c : Ctx) : Ctx :=
  { c with wheels := c.wheels.map (fun w =>
      let fl := (rs.filter (fun r => r.1.w.idx == w.idx)).foldl (fun a r => a ||| r.2.2) 0
      if fl = 0 then w else { w with retire := w.retire ++ [{ due := due, flags := fl }] }) }

/-- The state whose unit has taken an operation from its queue. -/
def dequeued (s : State) (core : Nat) (o : MOp) : State := s.modCore core (fun y => { y with mqueue := y.mqueue.erase o })

/-- The unit of a core is held for an operation and holds its results (R161). -/
def occupied (x : MmOp) (cycle : Nat) (r : MDone) (y : Core) : Core := { y with mfree := cycle + occupancy x, mdone := y.mdone ++ [r] }

/-- Taking an operation changes no latch. -/
theorem latchFor_dequeued (s : State) (core : Nat) (o : MOp) (x : MmOp) : (dequeued s core o).latchFor core o x = s.latchFor core o x := by
  simp only [State.latchFor, State.bound, dequeued, core_modCore, State.modCore_ctxs]

/-- The number of members decides as the set does. -/
theorem ite_size_eq (b : Bool) {α : Type} (p q : α) : (if (if b then 128 else 32) = 128 then p else q) = if b then p else q := by
  cases b <;> rfl

/-- The start of an operation with B in registers, whose sources carry no mark. -/
theorem mmStart_registers {s : State} {core : Nat} {o : MOp} {c : Ctx} {x : MmOp} (hc : sGet s.ctxs o.ctx = some c) (hargs : o.args = some x)
    (hreg : x.m.breg = true) (hstores : NoStores c) (hpoison : ∀ p ∈ s.poison, pTag p ≠ 4) :
    let r := heldResults s core o c x
    s.mmStart core o = (((dequeued s core o).modCtx o.ctx (raiseResults r.due (memberResults s core o c x))).latchOp core o x
      (memberFrags s core o c x)).modCore core (occupied x s.cycle r) := by
  have hc' : sGet (dequeued s core o).ctxs o.ctx = some c := hc
  have hdrain := signers_drain_of_noStores hc' hstores o.signers
  have hmarks := mmPoison_of_noMarks (s := dequeued s core o) hpoison core o c x
  rw [State.mmStart, show s.modCore core (fun y => { y with mqueue := y.mqueue.erase o }) = dequeued s core o from rfl, hdrain]
  simp only [hc', hargs, hreg, hmarks, if_true, List.flatten_nil, List.find?_nil, latchFor_dequeued, ite_size_eq, State.modCtx_cycle]
  rfl

/-- MATRIX_OP_START of an operation with B in registers: beside latches, its core and its context alone change. -/
theorem matrixOpStart_registers {s : State} {core : Nat} {o : MOp} {c : Ctx} {x : MmOp} (hnext : s.mmNext core = some o)
    (hc : sGet s.ctxs o.ctx = some c) (hargs : o.args = some x) (hreg : x.m.breg = true) (hstores : NoStores c)
    (hpoison : ∀ p ∈ s.poison, pTag p ≠ 4) :
    ∃ t ls, exec (.matrixOpStart core) s = .next t ∧ Calm s o.ctx t ∧ t.core core =
      occupied x s.cycle (heldResults s core o c x) { s.core core with mqueue := (s.core core).mqueue.erase o, latches := ls } := by
  have hlocal := (latchesOnly_modCtx (dequeued s core o) o.ctx core (raiseResults (heldResults s core o c x).due (memberResults s core o c x))).trans
    (latchesOnly_latchOp _ core o x (memberFrags s core o c x))
  have hexec : exec (.matrixOpStart core) s = .next ((s.mmStart core o).seal s.mem) := by
    show execMatrixOpStart core s = _
    simp only [execMatrixOpStart, act, hnext]
  rw [mmStart_registers hc hargs hreg hstores hpoison] at hexec
  obtain ⟨ls, hls⟩ := hlocal.core
  rw [dequeued, core_modCore] at hls
  exact ⟨_, ls, hexec, hlocal.calm _, (core_modCore _ core _).trans (congrArg _ hls)⟩

/-! ### The end of an operation (R160, R161) -/

/-- A thread as results are written: one that signed goes on behind the instruction. -/
def resultWritten (r : MDone) (x : Thread) : Thread :=
  match r.outs.find? (fun o => o.1 == x.tid) with
  | none => x
  | some o => { x.put r.d o.2 [] with st := if x.st = .blocked then .ready else x.st, pc := nextPc x.pc, stamp := none }

/-- It keeps its number. -/
theorem resultWritten_tid (r : MDone) (x : Thread) : (resultWritten r x).tid = x.tid := by
  unfold resultWritten
  split
  · rfl
  · exact Thread.put_tid _ _ _ _

/-- MATRIX_OP_COMPLETE of results that are due: they leave the unit, and the threads of their context take them. -/
theorem matrixOpComplete_due {s : State} {core : Nat} {r : MDone} {c : Ctx} (hdone : s.mmDone core = some r) (hc : sGet s.ctxs r.op.ctx = some c) :
    ∃ t, exec (.matrixOpComplete core) s = .next t ∧ Calm s r.op.ctx t ∧ (t.core core).mdone = (s.core core).mdone.erase r ∧
      sGet t.ctxs r.op.ctx = some { c with threads := c.threads.map (resultWritten r) } := by
  have hcore := core_modCore s core (fun x => { x with mdone := x.mdone.erase r })
  have hexec : exec (.matrixOpComplete core) s = .next (((s.modCore core (fun x => { x with mdone := x.mdone.erase r })).setCtx r.op.ctx
      { c with threads := c.threads.map (resultWritten r) }).seal s.mem) := by
    show execMatrixOpComplete core s = _
    simp only [execMatrixOpComplete, act, hdone]
    rw [modCtx_placed (s := s.modCore core _) hc]
    rfl
  exact ⟨_, hexec, ⟨fun j hj => sGet_sPut_ne _ _ hj, fun a _ => State.byte_seal ((s.modCore core _).setCtx r.op.ctx _) a⟩,
    congrArg Core.mdone hcore, sGet_setCtx_seal _ _ _ _⟩

/-- What the end of an operation leaves in a thread (R160). -/
theorem resultWritten_after (r : MDone) {i : Nat} {x : Thread} (hx : x.tid = i) :
    match r.outs.find? (fun o => o.1 == i) with
    | none => resultWritten r x = x
    | some o => (∀ n, (resultWritten r x).v n = after x.v [(r.d, o.2)] n) ∧ (resultWritten r x).preds = x.preds ∧
        (resultWritten r x).pc = nextPc x.pc ∧ (x.st = .blocked → (resultWritten r x).st = .ready) := by
  subst hx
  unfold resultWritten
  split
  · rfl
  · exact ⟨fun n => x.put_after r.d _ [] n, Thread.put_preds _ _ _ _, rfl, fun h => if_pos h⟩

/-- Settles O23: the start and the end of an operation, each through the state it leaves. -/
theorem matrixOperation : Obligations.MatrixOperation := by
  intro s core
  refine ⟨?start, ?complete⟩
  case start =>
    intro o c x hnext hc hargs hreg hstores hpoison
    obtain ⟨t, ls, hexec, hcalm, hcore⟩ := matrixOpStart_registers hnext hc hargs hreg hstores hpoison
    refine ⟨t, heldResults s core o c x, hexec, hcalm, ?_⟩
    rw [hcore]
    refine ⟨rfl, rfl, rfl, rfl, rfl, rfl, ?_⟩
    simp only [heldResults, memberResults, List.map_filterMap, Option.map_map]
    rfl
  case complete =>
    intro r c hdone hc
    obtain ⟨t, hexec, hcalm, hcore, hctx⟩ := matrixOpComplete_due hdone hc
    refine ⟨t, _, hexec, hcalm, hcore, hctx, rfl, fun i x hx => ⟨resultWritten r x, ?_, resultWritten_after r (Ctx.thread_tid hx)⟩⟩
    rw [thread_of_map rfl (resultWritten_tid r), hx, Option.map_some]

end Sys2Proof.Proofs

/-! REFUTATION of O14, O18: what an atomic and TRYW may leave of a queue's history (R178, R192, R351, R376). -/

namespace Sys2Proof.Proofs

open Sys2Proof Sys2Proof.Machine Sys2Proof.Claims

/-! ### Histories that the writes of a step leave -/

/-- Writes elsewhere than a queue's EN byte leave its history. -/
theorem noteEn_hist {q : Queue} {cells : List (Nat × Byte)} (h : ∀ p, q.enAt = some p → p ∉ cells.map (fun x => x.1)) :
    (q.noteEn cells).hist = q.hist := by
  unfold Queue.noteEn
  split
  · rfl
  next p hp =>
    refine congrArg Queue.hist (if_neg fun hany => h p hp ?_)
    obtain ⟨c, hc, hcp⟩ := List.any_eq_true.1 hany
    exact List.mem_map.2 ⟨c, hc, by simp_all⟩

/-- A map whose values are changed. -/
theorem sGet_map {α : Type} (f : α → α) (m : Sparse α) (k : Nat) : sGet (m.map (fun x => (x.1, f x.2))) k = (sGet m k).map f := by
  induction m with
  | nil => rfl
  | cons x m ih =>
    simp only [List.map_cons, sGet]
    split
    · rfl
    · exact ih

/-- The history of a queue after every queue has seen the writes of a step. -/
theorem hist_noteEn {s t : State} {cells : List (Nat × Byte)} (ht : t.queues = s.queues.map (fun q => (q.1, q.2.noteEn cells))) {k : Nat}
    (h : ∀ p, (s.queue k).enAt = some p → p ∉ cells.map (fun x => x.1)) : (t.queue k).hist = (s.queue k).hist := by
  rw [State.queue, ht, sGet_map (fun q : Queue => q.noteEn cells)]
  unfold State.queue at h ⊢
  cases hq : sGet s.queues k with
  | none => rfl
  | some q => exact noteEn_hist (by simpa [hq] using h)

/-- A step whose own writes miss a queue's EN byte keeps the history. -/
theorem touched_keeps_hist {s t : State} {b : Beat} {c : Ctx} {h : Head} {E : Effect} {cells : List (Nat × Byte)} (ht : Touched s b c h E cells t) {k : Nat}
    (hen : ∀ p, (s.queue k).enAt = some p → p ∉ cells.map (fun x => x.1)) : (t.queue k).hist = (s.queue k).hist := by
  obtain hsame | hnoted := ht.queues
  · rw [State.queue, State.queue, hsame]
  · exact hist_noteEn hnoted hen

/-! ### RED of a word of a hot page -/

/-- The state of `storeState` with object 5 open to atomics too. -/
def atomState : State :=
  { storeState with cores := [(0, { dcache := [{ obj := 5, valid := true, extent := 64, rights := 11, leafofs := 0, till := 9 }] })] }

/-- RED.add of 1 to the first word of object 5. -/
def hotRed : Instr := .red {} .g .add .n32 .plain .blk (.s 2) (.imm 1)

/-- The access passes: the page belongs to the canopy of die 1. -/
theorem hot_red_access : atomState.access (siteOf hotBeat hotCtx {}) hotLane (amoWant .g .add .n32) (.s 2) 0 = .ok hotWord [(5, 0, hotLeafW.toNat)] := by
  decide +kernel

/-- The count of the line announces the page in the ring, and the history is forgotten. -/
theorem hot_red_forgets : forgets (exec hotRed atomState) = true := by decide +kernel

/-- Refutes O14: RED of a hot page forgets the history of a queue whose EN byte the state puts into the ring of the table control object, though it writes a word of
the canopy alone. What the operations compute, and the places that they write, are not what fails. -/
theorem not_atomicResults : ¬ Obligations.AtomicResults := by
  rintro ⟨hinstr, -⟩
  have hstores : NoStores hotCtx := by unfold NoStores; decide
  have hclean : Clean atomState := by unfold Clean; decide
  obtain ⟨-, t, ht, htouched⟩ := hinstr atomState hotBeat hotCtx ⟨rfl, rfl⟩ hstores hot_alone rfl hclean {} .g .add .n32 .plain .blk (.v 4) (.s 2) (.imm 1) none
    hotLane hotWord _ (by decide) hot_red_access (by decide +kernel) (by decide) (by decide) (by decide)
  have hforgets := hot_red_forgets
  rw [hotRed, ht, forgets, touched_keeps_hist htouched (by decide +kernel)] at hforgets
  exact absurd hforgets (by decide)

/-! ### TRYW of a word of a hot page -/

/-- TRYW of a word of object 5 that is at least 0. -/
def hotTryw : Instr := .tryw {} .g false false .blk 1 (.s 2) 0 (.imm 0)

/-- The word is at least 0 at once. -/
theorem hot_tryw_met : hotState.trywMet hotCtx (0, hotWord, 0) = true := by decide +kernel

/-- The count of the line announces the page in the ring, and the history is forgotten. -/
theorem hot_tryw_forgets : forgets (exec hotTryw hotState) = true := by decide +kernel

/-- Refutes O18: TRYW that is met at once reads a hot page and forgets the history of a queue whose EN byte the state puts into the ring of the table control object.
What a suspension and a wake do is not what fails. -/
theorem not_suspension : ¬ Obligations.Suspension := by
  rintro ⟨-, htryw⟩
  refine not_uses_of_forgets hot_tryw_forgets rfl _ _ _ _
    (htryw hotState hotBeat hotCtx ⟨rfl, rfl⟩ hot_alone rfl {} .g false false .blk 1 (.s 2) (.imm 0) 0 (fun _ => hotWord) ?passes ?met)
  case passes => intro l hl; rw [eq_hotLane hl]; exact hot_ld_passes
  case met => intro l hl; rw [eq_hotLane hl]; exact hot_tryw_met

end Sys2Proof.Proofs

/-! REFUTATION of O36: what the end of a PBWAIT leaves of a copy's status word (R197, R274). -/

namespace Sys2Proof.Proofs

open Sys2Proof Sys2Proof.Machine Sys2Proof.Claims

/-! ### A PBWAIT that ends in the register of a copy's status word

The statement keeps every field of the thread but its state, its registers and its predicates. But a status word that is overwritten is no longer there to be read,
so the write of D also drops what the thread would acquire by reading it (R274). -/

/-- A thread that waits at a barrier, and whose V4 holds the status word of a copy. -/
def statusThread : Thread := { hotThread with st := .suspended 3, acqs := [(4, .blk)] }

/-- Its PBWAIT, decided already, with D in V4. -/
def statusWait : Wait := { wid := 3, tids := [0], kind := .pbwait 4 1 none [(0, 0, 0, some 0)] }

/-- The block. -/
def statusCtx : Ctx := { hotCtx with threads := [statusThread], waits := [statusWait] }

/-- The state. -/
def statusState : State := { State.reset with ctxs := [(1, statusCtx)] }

/-- The status words that thread 0 of context 1 has still to read after a step. -/
def statusLeft : Out → Option (List (Nat × Scope))
  | .next t => (sGet t.ctxs 1).bind (fun c => (c.thread 0).map (fun x => x.acqs))
  | _ => none

/-- The write of D drops the status word. -/
theorem pbwait_drops_status : statusLeft (exec (.pbwaitRelease 1 3) statusState) = some [] := by decide +kernel

/-- Refutes O36: PBWAIT that writes its status over the status word of a copy leaves no acquire to be made by reading it, where the statement keeps it. The
refutation turns on this field of the thread alone. -/
theorem not_waitsEnd : ¬ Obligations.WaitsEnd := by
  intro h
  obtain ⟨-, hpbwait, -⟩ := h statusState 1 statusCtx statusWait rfl rfl
  obtain ⟨hends, -⟩ := hpbwait 4 1 none [(0, 0, 0, some 0)] rfl
  obtain ⟨t, c', hexec, hc', -, -, -, -, -, hthreads⟩ := hends rfl
  obtain ⟨y, hy, hrest, -⟩ := hthreads 0 statusThread rfl
  have hkept : y.acqs = statusThread.acqs := (congrArg Thread.acqs hrest :)
  have hdrops := pbwait_drops_status
  rw [show statusWait.wid = 3 from rfl] at hexec
  simp only [hexec, statusLeft, hc', Option.bind_some, hy, Option.map_some, hkept] at hdrops
  exact absurd hdrops (by decide)

end Sys2Proof.Proofs

/-! SUPPORT of O15, O17, O42, O45, O46: all that home writes change. -/

namespace Sys2Proof.Proofs

open Sys2Proof Sys2Proof.Machine Sys2Proof.Claims

/-- The places that a number written at a run of places names. -/
theorem pTag_zip_run {p n a : Nat} {bs : List Byte} (h : a ∈ ((run p n).zip bs).map (fun x => x.1)) : pTag a = pTag p := by
  obtain ⟨x, hx, rfl⟩ := List.mem_map.1 h
  exact pTag_run (List.of_mem_zip hx).1

/-- Home writes touch the writes of the step, write monitors, the queues' histories and poison marks alone. -/
theorem homeWrites_frame (s : State) (cells : List (Nat × Byte)) : s.homeWrites cells = { s with
    slots := (s.homeWrites cells).slots, poison := s.poison.filter (fun w => !(run w 4).all (fun p => cells.any (fun c => c.1 == p)))
    queues := s.queues.map (fun q => (q.1, q.2.noteEn cells)), wr := cells.reverse ++ s.wr } := by
  have hfold : ∀ (cells : List (Nat × Byte)) (s : State),
      cells.foldl (fun s c => (s.putByte c.1 c.2).noteWrite c.1) s =
        { s with slots := (cells.foldl (fun s c => (s.putByte c.1 c.2).noteWrite c.1) s).slots, wr := cells.reverse ++ s.wr } := by
    intro cells
    induction cells with
    | nil => intro s; rfl
    | cons c cells ih =>
      intro s
      have hnote : (s.putByte c.1 c.2).noteWrite c.1 = { s with slots := ((s.putByte c.1 c.2).noteWrite c.1).slots, wr := c :: s.wr } := by
        unfold State.noteWrite; split <;> rfl
      rw [List.foldl_cons, ih, hnote, List.reverse_cons, List.append_assoc]
      rfl
  unfold State.homeWrites
  dsimp only
  rw [hfold cells s]

end Sys2Proof.Proofs

/-! REFUTATION of O42: what CHADV may leave of a queue's history (R186, R351, R376). -/

namespace Sys2Proof.Proofs

open Sys2Proof Sys2Proof.Machine Sys2Proof.Claims

/-! ### CHADV of a chain control block on a hot page -/

/-- CHADV that publishes up to 0 of the chain whose block is the first 64 bytes of object 5. -/
def hotChadv : Instr := .chadv {} (.s 2) (.imm 0)

/-- The block, in the canopy of die 1. -/
def hotCcb : Nat := canopyP 1 0

/-- The access passes. -/
theorem hot_ccbAccess : atomState.ccbAccess (siteOf hotBeat hotCtx {}) hotLane (.s 2) = .ok (run hotCcb 64) [(5, 0, hotLeafW.toNat)] := by
  decide +kernel

/-- The count of the line announces the page in the ring, and the history is forgotten. -/
theorem hot_chadv_forgets : forgets (exec hotChadv atomState) = true := by decide +kernel

/-- Binding a chain changes no queue. -/
theorem bindChain_queues (s : State) (ccb : Cap) (die eng upto ctx core : Nat) (fill : Bool) :
    (s.bindChain ccb die eng upto ctx core fill).queues = s.queues := by
  unfold State.bindChain
  dsimp only
  split <;> rfl

/-- A publication on a chain of no queue shows every queue its write of PUBSEQ, and changes no queue else. -/
theorem publish_queues {u : State} (hq : u.job.qtbl = 0) (ccb : Cap) (blk v die ctx core : Nat) :
    (u.publish ccb blk v die ctx core).queues =
      u.queues.map (fun q => (q.1, q.2.noteEn ((run (blk + 8 * 24) 8).zip (natBytes 8 (max (u.num (blk + 8 * 24) 8) v))))) := by
  have hframe := homeWrites_frame u ((run (blk + 8 * 24) 8).zip (natBytes 8 (max (u.num (blk + 8 * 24) 8) v)))
  have hnone : (u.putNum (blk + 8 * 24) 8 (max (u.num (blk + 8 * 24) 8) v)).queueOf ccb = none := by
    unfold State.queueOf
    rw [State.putNum, hframe, if_pos hq]
  unfold State.publish
  dsimp only
  rw [hnone]
  exact (bindChain_queues ..).trans (congrArg State.queues hframe)

/-- Refutes O42: CHADV of a chain on a hot page forgets the history of a queue whose EN byte the state puts into the ring of the table control object, though the
publication writes PUBSEQ alone. What an append and a publication leave in the block is not what fails. -/
theorem not_chainResults : ¬ Obligations.ChainResults := by
  rintro ⟨hinstr, -, -⟩
  have hstores : NoStores hotCtx := by unfold NoStores; decide
  have hclean : Clean atomState := by unfold Clean; decide
  have hpins : NoPins atomState := by unfold NoPins; decide
  obtain ⟨u, c', v, hnear, -, -, hcounted, hbecomes⟩ := (hinstr atomState hotBeat hotCtx ⟨rfl, rfl⟩ hstores hot_alone hclean hpins rfl {} (.v 4) (.s 2) (.imm 0)
    hotLane hotCcb 0 _ (by decide)).2 hot_ccbAccess (by decide +kernel) (by decide +kernel)
  have hjob : u.job.qtbl = 0 := by rw [hnear.rest]; rfl
  have hqueues : u.queues = atomState.queues := by rw [hnear.rest]
  have hv := publish_queues hjob (accessCap hotLane .g (.s 2) 0) hotCcb (readSrc hotLane 2 (.imm 0)) (dieOf hotLane.w.core) hotBeat.ctx hotLane.w.core
  rw [show State.queues _ = v.queues by rw [hcounted.rest]] at hv
  have hkept : (v.queue 0).hist = (u.queue 0).hist := by
    refine hist_noteEn hv fun p hp hmem => ?_
    rw [State.queue, hqueues] at hp
    obtain rfl : tcoP (0x1000 + 24) = p := by simpa [atomState, storeState, hotState, sGet] using hp
    exact absurd (pTag_zip_run hmem) (by decide)
  have hforgets := hot_chadv_forgets
  rw [hotChadv, hbecomes] at hforgets
  change (v.queue 0).hist.isEmpty = true at hforgets
  rw [hkept, State.queue, hqueues] at hforgets
  exact absurd hforgets (by decide)

end Sys2Proof.Proofs

/-! PROOF of O37: holds end, and quarters are marked (R176, R239, R252). -/

namespace Sys2Proof.Proofs

open Sys2Proof Sys2Proof.Machine Sys2Proof.Claims

/-- A held beat whose condition has come about is ready again. -/
theorem presenceHoldRelease_over {s : State} {k : Nat} {c : Ctx} {w : Wait} (hc : sGet s.ctxs k = some c) (hw : c.waitOf w.wid = some w)
    (hover : s.holdOver c w.kind = true) : exec (.presenceHoldRelease k w.wid) s = .next ((s.setCtx k (c.wake w.wid)).seal s.mem) := by
  change execPresenceHoldRelease k w.wid s = _
  simp only [execPresenceHoldRelease, act, hc, hw, if_pos hover]

/-- A held TMDEC whose wheel's increments are accepted is ready again. -/
theorem heldTmdecRelease_accepted {s : State} {k x : Nat} {c : Ctx} {w : Wait} {v : Wheel} (hc : sGet s.ctxs k = some c) (hw : c.waitOf w.wid = some w)
    (hkind : w.kind = .tmdec x) (hv : c.wheel x = some v) (hdone : v.unaccepted = 0) :
    exec (.heldTmdecRelease k w.wid) s = .next ((s.setCtx k (c.wake w.wid)).seal s.mem) := by
  obtain ⟨wid, tids, kind, deadline⟩ := w
  obtain rfl : kind = .tmdec x := hkind
  change execHeldTmdecRelease k wid s = _
  simp [execHeldTmdecRelease, act, hc, hw, hv, hdone]

/-- The mark of a quarter is set by its starving candidates, and no other quarter changes. -/
theorem candidateStarving_marks (s : State) (core q : Nat) :
    ∃ t, exec (.candidateStarving core q) s = .next t ∧ (t.quarter (4 * core + q)).starving = s.starvingIn core q ∧
      (∀ j, j ≠ 4 * core + q → t.quarter j = s.quarter j) ∧ (∀ p, t.byte p = s.byte p) ∧
      t = { s with quarters := t.quarters, mem := t.mem, wr := [] } := by
  refine ⟨_, rfl, ?mark, ?others, fun p => State.byte_seal (s.modQuarter _ _) p, rfl⟩
  case mark => rw [State.quarter, State.seal_quarters, State.modQuarter_quarters, sGet_sPut_self]; rfl
  case others =>
    intro j hj
    rw [State.quarter, State.seal_quarters, State.modQuarter_quarters, sGet_sPut_ne _ _ hj]; rfl

/-- Settles O37: each release makes its threads ready when its condition holds, and the mark follows the starving candidates. -/
theorem holdsRelease : Obligations.HoldsRelease :=
  ⟨fun _ _ _ _ hc hw => ⟨presenceHoldRelease_over hc hw, fun _ _ => heldTmdecRelease_accepted hc hw⟩, candidateStarving_marks⟩

end Sys2Proof.Proofs

/-! SUPPORT of O15, O17: releases and drains that have nothing to do (R272, R278, R280). -/

namespace Sys2Proof.Proofs

open Sys2Proof Sys2Proof.Machine Sys2Proof.Claims

/-- A fold that does nothing. -/
theorem foldl_fixed {α β : Type} {f : β → α → β} {l : List α} {s : β} (h : ∀ a ∈ l, f s a = s) : l.foldl f s = s := by
  induction l with
  | nil => rfl
  | cons a l ih =>
    rw [List.foldl_cons, h a (List.mem_cons_self ..)]
    exact ih fun x hx => h x (List.mem_cons_of_mem _ hx)

/-- A change of the pins of clean cores. -/
def PinsOnly (s t : State) : Prop := Clean s → Clean t ∧ t = { s with cores := t.cores }

/-- Such changes, one for each element of a list. -/
theorem PinsOnly.foldl {α : Type} {f : State → α → State} (hf : ∀ s a, PinsOnly s (f s a)) (l : List α) (s : State) : PinsOnly s (l.foldl f s) := by
  induction l generalizing s with
  | nil => exact fun hclean => ⟨hclean, rfl⟩
  | cons a l ih =>
    intro hclean
    obtain ⟨hclean₁, hstep⟩ := hf s a hclean
    obtain ⟨hclean₂, hrest⟩ := ih (f s a) hclean₁
    exact ⟨hclean₂, hrest.trans (congrArg (fun x : State => { x with cores := (l.foldl f (f s a)).cores }) hstep)⟩

/-- An unpin with nothing dirty. -/
theorem pinsOnly_unpin (s : State) (core line : Nat) : PinsOnly s (s.unpin core line) := by
  intro hclean
  rw [State.unpin, State.flushLine, flushL1_of_clean hclean]
  exact ⟨⟨forall_mem_sPut (P := fun x : Nat × Core => CleanCache x.2.l1) hclean.1 (clean_core hclean core), hclean.2⟩, rfl⟩

/-- A release that is over, with nothing dirty, ends pins alone. -/
theorem releaseEnd_of_clean (s : State) (c : Ctx) (k : Nat) (sc : Scope) : PinsOnly s (s.releaseEnd c k sc) := by
  rw [State.releaseEnd]
  split
  · exact fun hclean => ⟨hclean, rfl⟩
  · unfold State.unpinCtx
    refine PinsOnly.foldl (fun s e => ?_) _ s
    exact PinsOnly.foldl (fun s (p : Nat × Nat) => pinsOnly_unpin s e.1 p.1) _ s

section Gates

variable {s : State} {e : Site} {c' : Ctx} (hc : sGet s.ctxs e.b.ctx = some c') (hstores : NoStores c')

include hc hstores

/-- Empty queues are drained already. -/
theorem drainGate_of_noStores (on : Bool) (f : State → State) : s.drainGate e on f = f s := by
  have hfold : (wheelsOf e.lanes).foldl (fun s l => s.drain e.b.ctx l.w.idx) s = s := foldl_fixed fun l _ => (drain_of_noStores hc hstores l.w.idx).1
  have hall : (wheelsOf e.lanes).all (fun l => s.drained e.b.ctx l.w.idx) = true :=
    List.all_eq_true.2 fun l _ => (drain_of_noStores hc hstores l.w.idx).2
  cases on with
  | false => rfl
  | true => simp only [State.drainGate, if_true, hfold, hall]

/-- A release with nothing queued, dirty or outstanding only ends its block's pins. -/
theorem relFor_of_clean (halone : Alone e.c) (hclean : Clean s) {tids : List Nat} {sc : Scope} (hwaits : s.relWaits e.b.ctx e.c tids sc = ([], []))
    (f : State → State) : s.relFor e tids sc f = f (if e.lanes.isEmpty then s else s.releaseEnd e.c e.b.ctx sc) := by
  have hfold : (wheelsOf e.lanes).foldl (fun s l => s.release e.c l.w.idx l.w.core (e.issuer tids) sc) s = s :=
    foldl_fixed fun l _ => release_of_clean hc hstores hclean e.c l.w.idx l.w.core sc
  have hany : (wheelsOf e.lanes).any (fun l => s.relRefused e.b.ctx e.c l.w.idx l.w.core sc) = false :=
    List.any_eq_false.2 fun l _ => by rw [relRefused_of_clean hc hstores hclean e.c l.w.idx l.w.core sc]; exact Bool.false_ne_true
  simp only [State.relFor, State.inOrder, behind_of_alone halone, hfold, hany, Bool.false_eq_true, if_false, State.acksGate, hwaits]

end Gates

/-- Without queued stores the context has none after its beat has moved on. -/
theorem noStores_advance {c : Ctx} (h : NoStores c) (b : Beat) (yld : Bool) : NoStores (c.advance b yld) := h

/-- What a release waits for when the beat has moved on. -/
theorem relWaits_started {s : State} {b : Beat} {c : Ctx} (hi : InIssue s b c) (h : Head) (d : Ctx) (tids : List Nat) (sc : Scope) :
    (started s b c h).relWaits b.ctx d tids sc = s.relWaits b.ctx d tids sc :=
  relWaits_sPut (t := started s b c h) (c' := c.advance b h.yld) hi.2 rfl rfl rfl (fun _ => rfl) rfl rfl rfl d tids sc

/-- A step that sets one context and changes caches touches no byte of memory. -/
theorem touched_of_cachesOnly {s u : State} {b : Beat} {c c' : Ctx} {h : Head} {E : Effect} (hc' : CtxRan s.cycle b c h E c')
    (hu : CachesOnly (s.setCtx b.ctx c') u) : Touched s b c h E [] (u.seal s.mem) := by
  obtain ⟨cores, dies, late, rfl⟩ : ∃ cores dies late, u = { s.setCtx b.ctx c' with cores := cores, dies := dies, late := late } := ⟨_, _, _, hu⟩
  exact ⟨⟨c', sGet_sPut_self _ _ _, hc'⟩, fun _ hk => sGet_sPut_ne _ _ hk, fun a _ => State.byte_seal (s.setCtx b.ctx c') a, .inl rfl, rfl⟩

end Sys2Proof.Proofs

/-! PROOF of O15: FENCE, PREF and SPADJ (R180-R182, R278). -/

namespace Sys2Proof.Proofs

open Sys2Proof Sys2Proof.Machine Sys2Proof.Claims

/-! ### FENCE -/

/-- The context whose beat only moves on. -/
theorem ctxRan_advance (cycle : Nat) (b : Beat) (c : Ctx) (h : Head) : CtxRan cycle b c h {} (c.advance b h.yld) := ctxRan_move id rfl

/-- The rest of FENCE, after its release: its acquire changes caches alone. -/
theorem cachesOnly_fence {s u : State} {b : Beat} {c : Ctx} {h : Head} (hi : InIssue s b c) (hstores : NoStores c) (halone : Alone c) {sc : Scope}
    (hwaits : s.relWaits b.ctx c ((acting b c h).map (fun l => l.t.tid)) sc = ([], [])) (hu : u = { started s b c h with cores := u.cores }) (on acq : Bool) :
    let e := siteOf b c h
    let tids := e.lanes.map (fun l => l.t.tid)
    CachesOnly (started s b c h) (u.inOrder e tids (fun s => s.acksGate e tids sc (fun s => s.drainGate e on (fun s =>
      s.acquireIf (acq && !e.lanes.isEmpty) e.c e.b.core sc)))) := by
  intro e tids
  have hctx : sGet u.ctxs e.b.ctx = some (c.advance b h.yld) := by rw [hu]; exact sGet_sPut_self _ _ _
  have hacks : u.relWaits e.b.ctx e.c tids sc = ([], []) := by
    rw [hu]; exact (relWaits_started hi h c tids sc).trans hwaits
  simp only [State.inOrder, behind_of_alone (c := e.c) halone, State.acksGate, hacks, drainGate_of_noStores hctx (noStores_advance hstores b h.yld)]
  have hcaches : CachesOnly (started s b c h) u := hu.trans (by rw [hu])
  exact hcaches.trans (cachesOnly_acquireIf ..)

/-- FENCE with nothing queued, dirty or outstanding. -/
theorem fence_uses {s : State} {b : Beat} {c : Ctx} (hi : InIssue s b c) (h : Head) (sem : Sem) (sc : Scope) (hstores : NoStores c) (halone : Alone c)
    (hclean : Clean s) (hwaits : s.relWaits b.ctx c ((acting b c h).map (fun l => l.t.tid)) sc = ([], [])) : Uses (.fence h sem sc) s b c h {} [] := by
  refine ⟨_, act_onBeat hi h _, touched_of_cachesOnly (ctxRan_advance s.cycle b c h) ?_⟩
  have hctx : sGet (started s b c h).ctxs b.ctx = some (c.advance b h.yld) := sGet_sPut_self _ _ _
  have hacks : (started s b c h).relWaits b.ctx c ((acting b c h).map (fun l => l.t.tid)) sc = ([], []) := (relWaits_started hi h ..).trans hwaits
  cases hrel : semRel sem with
  | false => exact cachesOnly_fence hi hstores halone hwaits rfl false (semAcq sem)
  | true =>
    have hfor := relFor_of_clean (e := siteOf b c h) hctx hstores halone hclean hacks
    simp only [State.relGate, if_true]
    refine (hfor _).symm ▸ ?_
    refine cachesOnly_fence hi hstores halone hwaits ?_ true (semAcq sem)
    split
    · rfl
    · exact (releaseEnd_of_clean (started s b c h) c b.ctx sc hclean).2

/-! ### PREF -/

/-- A fetched sector enters caches alone. -/
theorem cachesOnly_fetchSector (s : State) (core q : Nat) (need : List Nat) : CachesOnly s (s.fetchSector core q need) := by
  unfold State.fetchSector
  extract_lets die home s1 m cells
  have hdie : CachesOnly s s1 := by unfold s1; split <;> rfl
  split
  · rfl
  · split
    · exact hdie
    · exact hdie.trans rfl

/-- A line of this device is brought into caches alone. -/
theorem cachesOnly_prefetch (s : State) (e : Site) (l2 : Bool) (pol : Nat) (l : Lane) {p : Nat} (hp : isRemote p = false) (obj : Nat) :
    CachesOnly s (s.prefetch e l2 pol l p obj) := by
  have hhint := cachesOnly_hint s l.w.core pol [p]
  unfold State.prefetch
  simp only [hp, Bool.false_eq_true, if_false]
  cases l2 with
  | false => exact hhint.trans (.foldl (fun s _ => cachesOnly_fetchSector s _ _ _) _ _)
  | true =>
    simp only [Bool.not_true, Bool.false_eq_true, if_false]
    split
    · exact hhint
    · exact hhint.trans rfl

/-- PREF of lines on this device whose addresses wait for nothing. -/
theorem pref_uses {s : State} {b : Beat} {c : Ctx} (hi : InIssue s b c) (h : Head) (sp : Space) (l2 : Bool) (x : Src) (ofs : BitVec 24)
    (hacc : ∀ l ∈ acting b c h,
      let r := s.pinCheck l.w.core false (s.access (siteOf b c h) l { sp := sp, n := 1, align := 1, need := 1, lock := false } x ofs.toInt)
      r.waits = none ∧ ∀ p ps pages, r = .ok (p :: ps) pages → isRemote p = false) : Uses (.pref h sp l2 x ofs) s b c h {} [] := by
  refine ⟨_, act_onBeat hi h _, touched_of_cachesOnly (ctxRan_advance s.cycle b c h) ?_⟩
  extract_lets accs
  have hmem : ∀ a ∈ accs, a.2.waits = none ∧ ∀ p ps pages, a.2 = .ok (p :: ps) pages → isRemote p = false := by
    intro a ha
    obtain ⟨l, hl, rfl⟩ := List.mem_map.1 ha
    exact hacc l hl
  have hwaits : accs.findSome? (fun a => a.2.waits) = none := List.findSome?_eq_none_iff.2 fun a ha => (hmem a ha).1
  rw [hwaits]
  dsimp only
  split
  · rfl
  · refine CachesOnly.foldl (fun s y => ?_) _ _
    split
    next a hfind =>
      obtain ⟨r, hr, hhit⟩ := List.mem_filterMap.1 (List.mem_of_find?_eq_some hfind)
      refine cachesOnly_prefetch s _ l2 _ _ ?_ _
      split at hhit
      next p ps pages hok =>
        split at hhit
        · cases hhit; exact (hmem r hr).2 _ _ _ hok
        · cases hhit
      · cases hhit
    · rfl

/-! ### SPADJ -/

/-- A thread that takes FOFS and D. -/
def framed (s : State) (d : BitVec 8) (new : Lane → Int) (l : Lane) (t : Thread) : Thread :=
  let t := t.put d.toNat [BitVec.ofInt 32 (new l)] (mkPend s (.v d.toNat 1) 3)
  { t with fofs := (new l).toNat, pend := t.pend ++ mkPend s .fofs 3 }

/-- The context in which every acting lane takes FOFS and D. -/
theorem ctxRan_framed (cycle : Nat) (s : State) (b : Beat) (c : Ctx) (h : Head) (d : BitVec 8) (new : Lane → Int) :
    CtxRan cycle b c h { into (.v d) (fun l => [BitVec.ofInt 32 (new l)]) with thread := fun l t => { t with fofs := (new l).toNat } }
      ((c.advance b h.yld).eachLane (acting b c h) (framed s d new)) := by
  have htid : ∀ l t, (framed s d new l t).tid = t.tid := fun l t => (congrArg Thread.tid (t.put_rest d.toNat _ _) :)
  refine ctxRan_of_maps (ranT b h (acting b c h) (framed s d new)) id (advance_eachLane ..) (ranT_tid b h _ htid) (fun _ => rfl) (fun x hx => ?_)
    (fun w _ => wheelRan_none _ b c h _ w (fun _ => rfl) (fun _ => rfl) (fun _ => rfl))
  rw [ranT_acting hx, moved_eq]
  cases hl : actingLane b c h x with
  | none => constructor <;> simp [hl, after, untouched, Thread.v]
  | some l =>
    have ht := actingLane_t hl
    simp only [Option.map_some, Option.getD_some, framed]
    constructor
    case rest => simp only [hl, Option.map_some, Option.getD_some]; rw [Thread.put_rest]
    case pc => simp only [hl, Option.bind_some, into, Option.getD_none]; rw [Thread.put_rest]
    case regs =>
      intro n
      simp only [hl, Option.map_some, Option.getD_some, into]
      exact Thread.put_after ..
    case preds =>
      simp only [hl, Option.map_some, Option.getD_some, into, ht]
      unfold Thread.put; split <;> rfl
    case latched =>
      simp only [hl, Option.map_some, Option.getD_some, into]
      exact Thread.put_latched ..
    case acqs =>
      simp only [hl, Option.map_some, Option.getD_some, into]
      exact Thread.put_acqs ..

/-- The class with which a lane's new frame faults, if it does (R182). -/
def frameFault (c : Ctx) (new : Int) : Option Nat :=
  if new % 4 ≠ 0 then some 7 else if new < 0 || decide ((c.kernel.priv : Int) < new) then some 4 else none

/-- An aligned frame that fits does not fault. -/
theorem frameFault_of_fits {c : Ctx} {new : Int} (hfits : new % 4 = 0 ∧ 0 ≤ new ∧ new ≤ c.kernel.priv) : frameFault c new = none := by
  obtain ⟨halign, hlow, hhigh⟩ := hfits
  rw [frameFault, if_neg (not_not.2 halign), if_neg (by simp [hlow, hhigh])]

/-- SPADJ whose lanes all get an aligned frame that fits. -/
theorem spadj_does {s : State} {b : Beat} {c : Ctx} (hi : InIssue s b c) (h : Head) (d : BitVec 8) (x : Src) :
    let new := fun (l : Lane) => (l.t.fofs : Int) + sgnVal true 32 (readSrc l 1 x)
    (∀ l ∈ acting b c h, new l % 4 = 0 ∧ 0 ≤ new l ∧ new l ≤ c.kernel.priv) →
    Does (.spadj h d x) s b c h { into (.v d) (fun l => [BitVec.ofInt 32 (new l)]) with thread := fun l t => { t with fofs := (new l).toNat } } := by
  intro new hgood
  have hcls : ∀ l ∈ acting b c h, frameFault c (new l) = none := fun l hl => frameFault_of_fits (hgood l hl)
  have hall : (acting b c h).filter (fun l => (frameFault c (new l)).isNone) = acting b c h := List.filter_eq_self.2 fun l hl => by rw [hcls l hl]; rfl
  have hnone : (acting b c h).filter (fun l => (frameFault c (new l)).isSome) = [] := List.filter_eq_nil_iff.2 fun l hl => by rw [hcls l hl]; exact Bool.false_ne_true
  have hexec : exec (.spadj h d x) s = .next (State.seal s.mem (s.setCtx b.ctx ((c.advance b h.yld).eachLane (acting b c h)
      (framed (started s b c h) d new)))) := by
    refine (act_onBeat hi h _).trans (congrArg (fun u => (.next (State.seal s.mem u) : Out)) ?_)
    change State.beatFault ((started s b c h).modCtx b.ctx (fun c' => c'.eachLane ((acting b c h).filter (fun l => (frameFault c (new l)).isNone))
      (framed (started s b c h) d new))) b false (((acting b c h).filter (fun l => (frameFault c (new l)).isSome)).map _) = _
    rw [hall, hnone, started, State.modCtx_setCtx]
    rfl
  exact ⟨_, hexec, ran_setCtx rfl (ctxRan_framed s.cycle (started s b c h) b c h d new)⟩

/-- Settles O15: nothing is left to write back or to wait for, so FENCE and PREF touch caches and pins alone, and SPADJ writes its two registers. -/
theorem fenceAndFrameResults : Obligations.FenceAndFrameResults :=
  fun _ _ _ hi h sem sc sp l2 x ofs d => ⟨fence_uses hi h sem sc, pref_uses hi h sp l2 x ofs, spadj_does hi h d x⟩

end Sys2Proof.Proofs

/-! SUPPORT of O17, O46: numbers written at home places. -/

namespace Sys2Proof.Proofs

open Sys2Proof Sys2Proof.Machine Sys2Proof.Claims

/-- The bytes of a number of `n` bytes. -/
@[simp] theorem natBytes_length (n v : Nat) : (natBytes n v).length = n := by
  induction n generalizing v with
  | zero => rfl
  | succ n ih => rw [natBytes, List.length_cons, ih]

/-- The places of a run. -/
@[simp] theorem run_length (p n : Nat) : (run p n).length = n := by simp [run]

/-- The places of a run are distinct. -/
theorem run_nodup (p n : Nat) : (run p n).Nodup :=
  List.Nodup.map (fun i j (hij : p + 8 * i = p + 8 * j) => by omega) List.nodup_range

/-- The places that a number written at a run names. -/
theorem run_zip_natBytes (p n v : Nat) : ((run p n).zip (natBytes n v)).map (fun x => x.1) = run p n := List.map_fst_zip (by simp)

/-- Home writes do not look at a context that is set. -/
theorem homeWrites_setCtx (s : State) (k : Nat) (c : Ctx) (cells : List (Nat × Byte)) : (s.setCtx k c).homeWrites cells = (s.homeWrites cells).setCtx k c := by
  have hfold : ∀ (cells : List (Nat × Byte)) (s : State), cells.foldl (fun s c => (s.putByte c.1 c.2).noteWrite c.1) (s.setCtx k c) =
      (cells.foldl (fun s c => (s.putByte c.1 c.2).noteWrite c.1) s).setCtx k c := by
    intro cells
    induction cells with
    | nil => intro s; rfl
    | cons x cells ih =>
      intro s
      have hnote : ((s.setCtx k c).putByte x.1 x.2).noteWrite x.1 = ((s.putByte x.1 x.2).noteWrite x.1).setCtx k c := by
        unfold State.noteWrite; split <;> rfl
      rw [List.foldl_cons, List.foldl_cons, hnote, ih]
  unfold State.homeWrites
  rw [hfold]
  rfl

/-- A step that sets one context and writes `cells` home. -/
theorem touched_setCtx_homeWrites {s : State} {b : Beat} {c c' : Ctx} {h : Head} {E : Effect} (hc' : CtxRan s.cycle b c h E c') {cells : List (Nat × Byte)}
    (hnodup : (cells.map (fun x => x.1)).Nodup) : Touched s b c h E cells (((s.setCtx b.ctx c').homeWrites cells).seal s.mem) := by
  have hframe := homeWrites_frame (s.setCtx b.ctx c') cells
  have hctxs := (homeWrites_ctxs (s.setCtx b.ctx c') cells).1
  have hmem := (writes_homeWrites (s.setCtx b.ctx c') cells).mem
  refine ⟨⟨c', ?_, hc'⟩, fun k hk => ?_, fun a _ => ?_, .inr ?_, ?_⟩
  · rw [State.seal_ctxs, hctxs]; exact sGet_sPut_self _ _ _
  · rw [State.seal_ctxs, hctxs]; exact sGet_sPut_ne _ _ hk
  · rw [← show _ = s.mem from hmem, State.byte_seal]
    exact (writes_homeWrites (s.setCtx b.ctx c') cells).byte hnodup a
  · rw [hframe]; rfl
  · rw [hframe]; rfl

end Sys2Proof.Proofs

/-! PROOF of O17: phase barriers (R194-R197). -/

namespace Sys2Proof.Proofs

open Sys2Proof Sys2Proof.Machine Sys2Proof.Claims

/-! ### The word of a barrier (R194, R196) -/

/-- The fields of a word that was made of fields in range. -/
theorem pbOf_pbWord {v : PBar} (hphase : v.phase ≤ 1) (hpending : v.pending < 2 ^ 32) (hexpected : v.expected < 2 ^ 16) (hgen : v.gen < 2 ^ 15) :
    pbOf (pbWord v) = v := by
  obtain ⟨pending, expected, phase, gen⟩ := v
  simp only [pbOf, pbWord, natBits, Nat.shiftRight_eq_div_pow, PBar.mk.injEq] at *
  omega

/-- An arrival that is not the last counts PENDING down. -/
theorem arrive_of_lt {v : PBar} {k : Nat} (h : k < v.pending) : v.arrive k = { v with pending := v.pending - k } := by
  rw [PBar.arrive, if_neg (by omega)]

/-- The last arrival completes the phase. -/
theorem arrive_last {v : PBar} {k : Nat} (h : k = v.pending) : v.arrive k = { v with pending := v.expected, phase := 1 - v.phase } := by
  rw [PBar.arrive, if_pos (by omega)]

/-! ### Contexts of the barrier instructions -/

/-- Without waits nobody is freed. -/
theorem freeWaiters_of_noWaits {c : Ctx} (h : c.waits = []) (p : Nat) : c.freeWaiters p = c := by
  unfold Ctx.freeWaiters
  rw [h, List.map_nil, ← h]

/-- Every acting lane takes D, and a change of its predicates. -/
theorem ctxRan_put (cycle : Nat) (b : Beat) (c : Ctx) (h : Head) (d : Nat) (f : Lane → List Word) (pend : Lane → List Pend) (g : Lane → Word → Word) :
    CtxRan cycle b c h { vec := fun l => [(d, f l)], preds := fun l => g l l.t.preds }
      ((c.advance b h.yld).eachLane (acting b c h) (fun l t => { t.put d (f l) (pend l) with preds := g l t.preds })) := by
  have hrest : ∀ l (t : Thread), { t.put d (f l) (pend l) with preds := g l t.preds } = { t with
      vregs := (t.put d (f l) (pend l)).vregs, preds := g l t.preds, pend := (t.put d (f l) (pend l)).pend
      latched := (t.put d (f l) (pend l)).latched, acqs := (t.put d (f l) (pend l)).acqs } := fun l t => by rw [Thread.put_rest]
  refine ctxRan_of_maps (ranT b h (acting b c h) (fun l t => { t.put d (f l) (pend l) with preds := g l t.preds })) id (advance_eachLane ..)
    (ranT_tid b h _ fun l t => t.put_tid ..) (fun _ => rfl) (fun x hx => ?_)
    (fun w _ => wheelRan_none _ b c h _ w (fun _ => rfl) (fun _ => rfl) (fun _ => rfl))
  exact threadRan_lane b c h _ _ x hx (fun _ _ => rfl) (fun _ => rfl) hrest (fun l t n => t.put_after ..) (fun l t hp => congrArg (g l) hp.symm)
    (fun l t => t.put_latched ..) (fun l t => t.put_acqs ..)

/-! ### One access to the block's own shared memory -/

/-- An access without pages counts at no port (R376). -/
theorem gate_one {s : State} {e : Site} (halone : Alone e.c) (hrun : e.c.run = none) (uni read : Bool) (l : Lane) (ps : List Nat)
    (f : List (Lane × List Nat) → State → State) : s.gate e uni read [{ l := l, r := .ok ps [] }] f = f [(l, ps)] s := by
  rw [gate_ok s e uni read _ f (fun a ha => ⟨ps, [], by rw [List.mem_singleton.1 ha], refusedFill_of_alone halone _⟩) (behind_of_alone halone),
    noteAccess_of_noRun hrun, ite_self]
  exact ite_self _

/-- A change of the one acting lane's thread. -/
theorem modT_one {b : Beat} {c : Ctx} {h : Head} {l : Lane} (hone : acting b c h = [l]) (f : Thread → Thread) : (c.advance b h.yld).modT (fun t => t.tid == l.t.tid) f = (c.advance b h.yld).eachLane (acting b c h) (fun _ t => f t) := by
  rw [← modT_eq_eachLane, hone]
  refine congrArg (fun q => (c.advance b h.yld).modT q f) (funext fun t => ?_)
  rw [Bool.eq_iff_iff]
  simp

section One

variable {s : State} {b : Beat} {c : Ctx} {h : Head} {l : Lane} {p : Nat} (hi : InIssue s b c) (hstores : NoStores c) (halone : Alone c)
  (hrun : c.run = none) (hone : acting b c h = [l])

include hi hstores halone hrun hone

/-- A barrier instruction of one lane whose word takes what the lane asks. -/
theorem pbLanes_one {x : Src} {rel : Bool} {sc : Scope} {f : Lane → Nat → PBar → State → Except (Nat × Nat) State} {t : State}
    (hacc : s.pbAccess (siteOf b c h) l x = .ok (run p 8) [])
    (hrel : rel = true → Clean s ∧ NoPins s ∧ s.relWaits b.ctx c [l.t.tid] sc = ([], []))
    (hf : f l p (pbOf (s.num p 8)) (started s b c h) = .ok t) : (started s b c h).pbLanes (siteOf b c h) x rel sc f = t := by
  have hctx : sGet (started s b c h).ctxs b.ctx = some (c.advance b h.yld) := sGet_sPut_self _ _ _
  have hacc' : (started s b c h).pbAccess (siteOf b c h) l x = .ok (run p 8) [] := hacc
  have hgate : ∀ F, (started s b c h).relGate (siteOf b c h) rel sc F = F (started s b c h) := by
    intro F
    cases rel with
    | false => rfl
    | true =>
      obtain ⟨hclean, hpins, hwaits⟩ := hrel rfl
      have hpins' : NoPins (started s b c h) := hpins
      have hacks : (started s b c h).relWaits b.ctx c [l.t.tid] sc = ([], []) := (relWaits_started hi h ..).trans hwaits
      have hfor := relFor_of_clean (e := siteOf b c h) hctx hstores halone hclean hacks F
      simp only [State.relGate, if_true, siteOf_lanes, hone, List.map_cons, List.map_nil]
      rw [hfor, siteOf_lanes, hone]
      exact congrArg F (releaseEnd_of_noPins hpins' ..)
  have hf' : f l ((run p 8).headD 0) (pbOf ((started s b c h).num ((run p 8).headD 0) 8)) (started s b c h) = .ok t := hf
  unfold State.pbLanes
  rw [siteOf_lanes, hone, List.map_singleton, hacc', gate_one (e := siteOf b c h) halone hrun, hgate,
    drainGate_of_noStores (e := siteOf b c h) hctx (noStores_advance hstores b h.yld), List.foldl_cons, List.foldl_nil]
  simp only [hf']
  rfl

/-- PBINIT of a count in range. -/
theorem pbinit_uses {x y : Src} (hwaits : c.waits = []) (hacc : s.pbAccess (siteOf b c h) l x = .ok (run p 8) []) (hlow : 0 < readSrc l 1 y)
    (hhigh : readSrc l 1 y ≤ 65535) :
    Uses (.pbinit h x y) s b c h {} ((run p 8).zip (natBytes 8 (pbWord
      { pending := readSrc l 1 y, expected := readSrc l 1 y, phase := 0, gen := (pbOf (s.num p 8)).gen + 1 }))) := by
  refine ⟨_, (act_onBeat hi h _).trans (congrArg (fun u => (.next (State.seal s.mem u) : Out)) ?_),
    touched_setCtx_homeWrites (ctxRan_advance s.cycle b c h) (by rw [run_zip_natBytes]; exact run_nodup ..)⟩
  refine pbLanes_one hi hstores halone hrun hone hacc (fun hfalse => absurd hfalse Bool.false_ne_true) ?_
  rw [if_neg (by omega), started, siteOf_b, State.modCtx_setCtx, freeWaiters_of_noWaits (show (c.advance b h.yld).waits = [] from hwaits)]
  rfl

/-- PBINV. -/
theorem pbinv_uses {x : Src} (hwaits : c.waits = []) (hacc : s.pbAccess (siteOf b c h) l x = .ok (run p 8) []) :
    Uses (.pbinv h x) s b c h {} ((run p 8).zip (natBytes 8 (pbWord
      { pbOf (s.num p 8) with pending := 0, expected := 0, gen := (pbOf (s.num p 8)).gen + 1 }))) := by
  refine ⟨_, (act_onBeat hi h _).trans (congrArg (fun u => (.next (State.seal s.mem u) : Out)) ?_),
    touched_setCtx_homeWrites (ctxRan_advance s.cycle b c h) (by rw [run_zip_natBytes]; exact run_nodup ..)⟩
  refine pbLanes_one hi hstores halone hrun hone hacc (fun hfalse => absurd hfalse Bool.false_ne_true) ?_
  rw [started, siteOf_b, State.modCtx_setCtx, freeWaiters_of_noWaits (show (c.advance b h.yld).waits = [] from hwaits)]
  rfl

/-- PBARR that counts within PENDING. -/
theorem pbarr_uses {rel : Bool} {sc : Scope} {d : BitVec 8} {x y : Src} (hacc : s.pbAccess (siteOf b c h) l x = .ok (run p 8) [])
    (hexpected : (pbOf (s.num p 8)).expected ≠ 0) (hlow : 0 < readSrc l 1 y) (hhigh : readSrc l 1 y ≤ (pbOf (s.num p 8)).pending)
    (hrel : rel = true → Clean s ∧ NoPins s ∧ s.relWaits b.ctx c [l.t.tid] sc = ([], [])) :
    Uses (.pbarr h rel sc d x y) s b c h (into (.v d) (fun _ => [BitVec.ofNat 32 ((pbOf (s.num p 8)).gen * 2 + (pbOf (s.num p 8)).phase)]))
      ((run p 8).zip (natBytes 8 (pbWord ((pbOf (s.num p 8)).arrive (readSrc l 1 y))))) := by
  have hput := ctxRan_put s.cycle b c h d.toNat (fun _ => [BitVec.ofNat 32 ((pbOf (s.num p 8)).gen * 2 + (pbOf (s.num p 8)).phase)])
    (fun _ => mkPend (started s b c h) (.v d.toNat 1) 0) (fun _ w => w)
  refine ⟨_, (act_onBeat hi h _).trans (congrArg (fun u => (.next (State.seal s.mem u) : Out)) ?_),
    touched_setCtx_homeWrites hput (by rw [run_zip_natBytes]; exact run_nodup ..)⟩
  refine pbLanes_one hi hstores halone hrun hone hacc hrel ?_
  rw [if_neg (by omega), State.putD, State.putNum, started, homeWrites_setCtx, homeWrites_setCtx]
  simp only [Bool.false_eq_true, if_false, siteOf_b, State.modCtx_setCtx, modT_one hone]
  refine congrArg (fun f => Except.ok (State.setCtx _ b.ctx ((c.advance b h.yld).eachLane (acting b c h) f))) (funext fun _ => funext fun t => ?_)
  rw [← Thread.put_preds t d.toNat]

/-- PBWAIT of a phase whose status is known at once. -/
theorem pbwait_uses {acq : Bool} {sc : Scope} {d : BitVec 8} {pd : BitVec 5} {x y : Src} {st : Nat}
    (hacc : s.access (siteOf b c h) l { sp := .s, n := 8, align := 8, need := 1 } x 0 = .ok (run p 8) [])
    (hstatus : s.pbStatus (l.t.tid, p, readSrc l 1 y, none) = some st) :
    Uses (.pbwait h acq sc d pd x y) s b c h
      { into (.v d) (fun _ => [BitVec.ofNat 32 st]) with preds := fun l => setPred l.t.preds pd.toNat (st == 0) } [] := by
  have hctx : sGet (started s b c h).ctxs b.ctx = some (c.advance b h.yld) := sGet_sPut_self _ _ _
  have hacc' : (started s b c h).access (siteOf b c h) l { sp := .s, n := 8, align := 8, need := 1 } x 0 = .ok (run p 8) [] := hacc
  have hstatus' : (started s b c h).pbStatus (l.t.tid, (run p 8).headD 0, readSrc l 1 y, none) = some st := hstatus
  have hput := ctxRan_put s.cycle b c h d.toNat (fun _ => [BitVec.ofNat 32 st]) (fun _ => []) (fun _ w => setPred w pd.toNat (st == 0))
  obtain ⟨c', hc'⟩ : ∃ c', c' = (c.advance b h.yld).eachLane (acting b c h) (fun _ t =>
    { t.put d.toNat [BitVec.ofNat 32 st] [] with preds := setPred t.preds pd.toNat (st == 0) }) := ⟨_, rfl⟩
  have hmod : (started s b c h).modCtx b.ctx (fun c => c.modT (fun t => [(l.t.tid, st)].any (fun r => r.1 == t.tid)) (fun t =>
      let k := (([(l.t.tid, st)].find? (fun r => r.1 == t.tid)).map (fun r => r.2)).getD 1
      { t.put d.toNat [BitVec.ofNat 32 k] [] with preds := setPred t.preds pd.toNat (k == 0) })) = s.setCtx b.ctx c' := by
    rw [started, State.modCtx_setCtx, hc', ← modT_one hone]
    refine congrArg (fun ts => s.setCtx b.ctx { c.advance b h.yld with threads := ts }) (List.map_congr_left fun t _ => ?_)
    by_cases ht : t.tid = l.t.tid
    · simp [ht]
    · simp [ht, Ne.symm ht]
  have hend : CachesOnly (s.setCtx b.ctx c') ((started s b c h).pbwaitEnd b.ctx c d.toNat pd.toNat (if acq then some sc else none)
      [(l.t.tid, (run p 8).headD 0, readSrc l 1 y, none)]) := by
    unfold State.pbwaitEnd
    simp only [List.map_cons, List.map_nil, hstatus', Option.getD_some]
    rw [hmod]
    cases acq with
    | false => rfl
    | true => exact cachesOnly_acquireIf ..
  refine ⟨_, (act_onBeat hi h _).trans (congrArg (fun u => (.next (State.seal s.mem u) : Out)) ?_), touched_of_cachesOnly (hc' ▸ hput) hend⟩
  change State.gate (started s b c h) (siteOf b c h) false true (List.map _ (siteOf b c h).lanes) _ = _
  rw [siteOf_lanes, hone, List.map_singleton]
  change State.gate (started s b c h) (siteOf b c h) false true [{ l := l, r := (started s b c h).access (siteOf b c h) l _ x 0 }] _ = _
  rw [hacc', gate_one (e := siteOf b c h) halone hrun, drainGate_of_noStores (e := siteOf b c h) hctx (noStores_advance hstores b h.yld)]
  simp only [List.map_cons, List.map_nil, List.all_cons, List.all_nil, hstatus', Option.isSome_some, Bool.and_self, if_true, siteOf_b, siteOf_c]

end One

/-- Settles O17: each instruction reads the word of its one lane and leaves it, D and Pd as its operation says; an arrival is arithmetic on the fields. -/
theorem barrierResults : Obligations.BarrierResults := by
  refine ⟨?instr, fun v k hphase _ => ⟨arrive_of_lt, arrive_last, pbOf_pbWord hphase⟩⟩
  intro s b c hi hstores halone hrun hwaits h acq rel sc d pd x y l p ps e w k at_ hone _ hpb hacc
  exact ⟨pbinit_uses hi hstores halone hrun hone hwaits hpb, pbinv_uses hi hstores halone hrun hone hwaits hpb,
    pbarr_uses hi hstores halone hrun hone hpb, fun _ => pbwait_uses hi hstores halone hrun hone hacc⟩

end Sys2Proof.Proofs

/-! SUPPORT of O45, O46: where the units write. -/

namespace Sys2Proof.Proofs

open Sys2Proof Sys2Proof.Machine Sys2Proof.Claims

/-- No leaf entry maps the table control object. -/
theorem pTag_leafPlace (s : State) (d obj ofs w : Nat) : pTag (s.leafPlace d obj ofs w) ≠ 7 := by
  unfold State.leafPlace
  dsimp only
  split <;> simp [canopyP, peerP, hostP, scratchP, shadowP, place, pTag]

/-- A unit's place lies outside the table control object. -/
theorem pTag_unitPlace {s : State} {d n need : Nat} {c : Cap} {write handler : Bool} {p : Nat} (h : s.unitPlace d c n need write handler = .ok p) : pTag p ≠ 7 := by
  unfold State.unitPlace at h
  dsimp only at h
  split at h
  · cases h
  · cases h
  · split at h
    · cases h
    · split at h
      · cases h
      · split at h
        · cases h
        · split at h
          · cases h
          · cases h; exact pTag_leafPlace s _ _ _ _

/-- So do the places of a unit's range. -/
theorem pTag_unitRange {s : State} {d n need : Nat} {c : Cap} {write handler : Bool} {ps : List Nat} (h : s.unitRange d c n need write handler = .ok ps) :
    ∀ p ∈ ps, pTag p ≠ 7 := by
  unfold State.unitRange at h
  extract_lets ofs last pages at h
  generalize hl : List.range pages = l at h
  clear hl
  generalize hacc : (Except.ok [] : Except (Nat × Nat) (List Nat)) = acc at h
  have hinit : ∀ qs, acc = .ok qs → ∀ p ∈ qs, pTag p ≠ 7 := by rintro qs rfl p hp; cases hacc; cases hp
  clear hacc
  induction l generalizing acc with
  | nil => exact hinit ps h
  | cons i l ih =>
    rw [List.foldl_cons] at h
    refine ih _ h fun qs hqs => ?_
    split at hqs
    · cases hqs
    next rs =>
      dsimp only at hqs
      split at hqs
      · cases hqs
      next p hplace =>
        cases hqs
        intro q hq
        rcases List.mem_append.1 hq with hq | hq
        · exact hinit rs rfl q hq
        · rw [pTag_run hq]; exact pTag_unitPlace hplace

end Sys2Proof.Proofs

/-! REFUTATION of O45: what GRUN may leave of a queue's history (R244, R351, R376). -/

namespace Sys2Proof.Proofs

open Sys2Proof Sys2Proof.Machine Sys2Proof.Claims

/-! ### GRUN of an instance on a hot page

Object 5 has one page, in the canopy of die 1, whose leaf entry has W and HOT. An instance begins it; its table, at byte 1024, has no node. -/

/-- The memory: the descriptor of object 5, its leaf entry, and the word of the instance that names the table. -/
def grunMem : List Host.Cell :=
  mPuts [] ((run (canopyP 0 65696) 32).zip (natBytes 32 (65536 + 31 * 2 ^ 64 + 2 ^ 69)) ++ (run (canopyP 0 131072) 8).zip (natBytes 8 hotLeafW.toNat) ++
    (run (canopyP 1 0) 8).zip (natBytes 8 (5 * 2 ^ 44 + 1024)))

/-- The state: one request makes the page hot, and the EN byte of queue 0 lies in the ring, as in `hotState`. -/
def grunState : State :=
  { hotState with
    mem := grunMem
    job := { state := .run, otbl := [(0, { dirframe := 1, nobj := 16, leafframe := 2 })] }
    cores := [(0, { dcache := [{ obj := 5, valid := true, extent := 65536, rights := 31, leafofs := 0, till := 9 }] })]
    dies := [(0, { lcache := [{ obj := 5, page := 0, word := hotLeafW, till := 9 }] })] }

/-- GRUN of that instance at time 0. -/
def hotGrun : Instr := .grun {} (.s 4) (.s 2) (.imm 0)

/-- The instance. -/
def hotInst : Cap := accessCap hotLane .g (.s 2) 0

/-! ### Histories of queues whose EN byte is in the table control object -/

/-- Every queue whose EN byte lies in the table control object keeps it and its history. -/
def KeepsTco (s t : State) : Prop :=
  ∀ k p, (s.queue k).enAt = some p → pTag p = 7 → (t.queue k).enAt = some p ∧ (t.queue k).hist = (s.queue k).hist

/-- No change of queues is one. -/
theorem keepsTco_of_queues {s t : State} (h : t.queues = s.queues) : KeepsTco s t := fun k p hp _ => by
  rw [State.queue, State.queue, h]; exact ⟨hp, rfl⟩

/-- Two such changes are one. -/
theorem KeepsTco.trans {s t u : State} (h : KeepsTco s t) (h' : KeepsTco t u) : KeepsTco s u := fun k p hp htag => by
  obtain ⟨hen, hhist⟩ := h k p hp htag
  obtain ⟨hen', hhist'⟩ := h' k p hen htag
  exact ⟨hen', hhist'.trans hhist⟩

/-- Writes never move a queue's EN byte. -/
theorem noteEn_enAt (q : Queue) (cells : List (Nat × Byte)) : (q.noteEn cells).enAt = q.enAt := by
  unfold Queue.noteEn
  split
  · rfl
  · split <;> rfl

/-- A queue after home writes. -/
theorem queue_homeWrites (s : State) (cells : List (Nat × Byte)) (k : Nat) : ((s.homeWrites cells).queue k).enAt = (s.queue k).enAt := by
  rw [homeWrites_frame, State.queue, State.queue, sGet_map (fun q : Queue => q.noteEn cells)]
  cases sGet s.queues k with
  | none => rfl
  | some q => exact noteEn_enAt q cells

/-- Home writes elsewhere are one. -/
theorem keepsTco_homeWrites (s : State) {cells : List (Nat × Byte)} (h : ∀ x ∈ cells, pTag x.1 ≠ 7) : KeepsTco s (s.homeWrites cells) := by
  intro k p hp htag
  refine ⟨(queue_homeWrites s cells k).trans hp, hist_noteEn (by rw [homeWrites_frame]) fun q hq hmem => ?_⟩
  obtain ⟨x, hx, rfl⟩ := List.mem_map.1 hmem
  rw [hp] at hq
  cases hq
  exact h x hx htag

/-- A change that keeps these histories, and the graph generations. -/
structure GraphKept (s t : State) : Prop where
  graphs : t.graphs = s.graphs
  hist : KeepsTco s t

/-- Two such changes are one. -/
theorem GraphKept.trans {s t u : State} (h : GraphKept s t) (h' : GraphKept t u) : GraphKept s u := ⟨h'.graphs.trans h.graphs, h.hist.trans h'.hist⟩

/-- A change of neither is one. -/
theorem graphKept_of_eq {s t : State} (hg : t.graphs = s.graphs) (hq : t.queues = s.queues) : GraphKept s t := ⟨hg, keepsTco_of_queues hq⟩

/-- Writes of a unit outside the table control object. -/
theorem graphKept_unitCells (s : State) (die : Nat) {cells : List (Nat × Byte)} (h : ∀ x ∈ cells, pTag x.1 ≠ 7) : GraphKept s (s.unitCells die cells).2 := by
  have hlocal : ∀ x ∈ cells.filter (fun c => !isRemote c.1), pTag x.1 ≠ 7 := fun x hx => h x (List.mem_filter.1 hx).1
  have hputs : GraphKept s (s.unitPuts die (cells.filter (fun c => !isRemote c.1))) := by
    have hnone : (cells.filter (fun c => !isRemote c.1)).filter (fun c => pTag c.1 == 7) = [] := List.filter_eq_nil_iff.2 fun x hx => by simp [hlocal x hx]
    simp only [State.unitPuts, hnone, List.foldl_nil]
    split
    · exact graphKept_of_eq rfl rfl
    · have hhome : GraphKept s (s.homeWrites ((cells.filter (fun c => !isRemote c.1)).filter (fun c => pTag c.1 != 7))) :=
        ⟨by rw [homeWrites_frame], keepsTco_homeWrites s fun x hx => hlocal x (List.mem_filter.1 hx).1⟩
      exact hhome.trans (graphKept_of_eq rfl rfl)
  have hsend : ∀ (rs : List (Nat × List Byte)) (a : List Nat × State),
      GraphKept a.2 (rs.foldl (fun (a : List Nat × State) r => (a.1 ++ [(a.2.sendRun r.1 r.2).1], (a.2.sendRun r.1 r.2).2)) a).2 := by
    intro rs
    induction rs with
    | nil => exact fun a => graphKept_of_eq rfl rfl
    | cons r rs ih =>
      intro a
      have hrun : GraphKept a.2 (a.2.sendRun r.1 r.2).2 := by
        unfold State.sendRun
        dsimp only
        split <;> exact graphKept_of_eq rfl rfl
      rw [List.foldl_cons]
      exact hrun.trans (ih (a.1 ++ [(a.2.sendRun r.1 r.2).1], (a.2.sendRun r.1 r.2).2))
  exact hputs.trans (hsend _ ([], _))

/-- A number that a unit writes. -/
theorem graphKept_farSet (s : State) (die : Nat) (c : Cap) (n v : Nat) : GraphKept s (s.farSet die c n v) := by
  unfold State.farSet
  split
  · exact graphKept_of_eq rfl rfl
  next ps hps =>
    have hcells := graphKept_unitCells s die (cells := ps.zip (natBytes n v)) fun x hx => pTag_unitRange hps x.1 (List.of_mem_zip hx).1
    dsimp only
    split
    · exact hcells.trans (graphKept_of_eq rfl rfl)
    · exact hcells

/-- The count of tasks that an instance shows. -/
theorem graphKept_showTasks (s : State) (die : Nat) (i : Cap) (gen : Nat) : GraphKept s (s.showTasks die i gen) := by
  unfold State.showTasks
  dsimp only
  split
  · split
    · exact graphKept_farSet ..
    · exact graphKept_of_eq rfl rfl
  · split
    · exact graphKept_farSet ..
    · exact graphKept_of_eq rfl rfl

/-! ### A graph without nodes -/

/-- A generation that waits for no room. -/
def emptyGen (i : Cap) (gen phase prio launch : Nat) : Graph :=
  { inst := i, gen := gen, phase := phase, prio := prio, tasks := 0, launch := launch, seq := none, waiting := [] }

/-- Nothing of it waits. -/
theorem spawnWaiting_emptyGen {s : State} (i : Cap) (gen phase prio launch die : Nat) (hs : s.graphs = [emptyGen i gen phase prio launch]) :
    s.spawnWaiting die i gen = s := by
  simp only [State.spawnWaiting, hs, List.find?_cons, emptyGen, beq_self_eq_true, Bool.and_self, List.take_nil, List.foldl_nil, List.map_cons, List.map_nil,
    and_self, if_true, List.length_nil, List.drop_nil]
  rw [show ([{ inst := i, gen := gen, phase := phase, prio := prio, tasks := 0, launch := launch, seq := none, waiting := [] }] : List Graph) = s.graphs from hs.symm]

/-- The state in which it has been entered. -/
def withGen (s : State) (g : Graph) : State :=
  { s with graphs := s.graphs ++ [g], insts := if s.insts.contains g.inst then s.insts else s.insts ++ [g.inst] }

/-- Its start, where no generation runs, keeps the histories. -/
theorem runGraph_empty {s : State} (hs : s.graphs = []) (die : Nat) (i : Cap) (t : BitVec 64) (prio launch phase : Nat) :
    KeepsTco s (s.runGraph die i [] t prio launch phase none).2 ∧ ∀ g ∈ (s.runGraph die i [] t prio launch phase none).2.graphs, g.seq = none := by
  obtain ⟨gen, hgen⟩ : ∃ gen, gen = (s.instGen die i + 1) % 65536 := ⟨_, rfl⟩
  have hfar := graphKept_farSet s die (capAdd i 8) 2 gen
  obtain ⟨u, hu⟩ : ∃ u, u = withGen (s.farSet die (capAdd i 8) 2 gen) (emptyGen i gen phase prio launch) := ⟨_, rfl⟩
  have hgraphs : u.graphs = [emptyGen i gen phase prio launch] := by rw [hu, withGen, hfar.graphs, hs]; rfl
  have hrun : (s.runGraph die i [] t prio launch phase none).2 = u.showTasks die i gen := by
    rw [← spawnWaiting_emptyGen i gen phase prio launch die hgraphs, hu, hgen]; rfl
  have hshow := graphKept_showTasks u die i gen
  have hqueues : KeepsTco s u := hfar.hist.trans (keepsTco_of_queues (by rw [hu, withGen]))
  rw [hrun]
  refine ⟨hqueues.trans hshow.hist, fun g hg => ?_⟩
  rw [hshow.graphs, hgraphs, List.mem_singleton] at hg
  rw [hg, emptyGen]

/-- The end of a generation that no queue started changes no queue. -/
theorem endGraph_queues {s : State} (h : ∀ g ∈ s.graphs, g.seq = none) (i : Cap) (gen : Nat) : (s.endGraph i gen).queues = s.queues := by
  unfold State.endGraph
  split
  · rfl
  next g hg =>
    split
    · rfl
    · simp only [h g (List.mem_of_find?_eq_some hg)]

/-- Nor do the write of GEN into D and the end of the reads. -/
theorem grunEnd_queues {s : State} (h : ∀ g ∈ s.graphs, g.seq = none) (k : Nat) (l : Lane) (d : Nat) (ws : List Word) (pend : List Pend) (i : Cap) (gen die : Nat)
    (rs : List (Cap × Nat)) : (((s.putD k true l d ws pend).endGraph i gen).dropReads die rs).queues = s.queues := by
  obtain ⟨reqs, hdrop⟩ := dropReads_frame die rs ((s.putD k true l d ws pend).endGraph i gen)
  have hput : (s.putD k true l d ws pend).graphs = s.graphs ∧ (s.putD k true l d ws pend).queues = s.queues := by
    unfold State.putD State.modCtx; split <;> exact ⟨rfl, rfl⟩
  rw [hdrop]
  exact (endGraph_queues (hput.1 ▸ h) i gen).trans hput.2

/-- Nor do the counts at the port after them. -/
theorem counted_grunEnd_queues {s w : State} (h : ∀ g ∈ s.graphs, g.seq = none) {k : Nat} {l : Lane} {d : Nat} {ws : List Word} {pend : List Pend} {i : Cap}
    {gen die : Nat} {rs : List (Cap × Nat)} (hw : Claims.Counted (((s.putD k true l d ws pend).endGraph i gen).dropReads die rs) w) : w.queues = s.queues := by
  rw [hw.rest]; exact grunEnd_queues h ..

/-! ### The refutation -/

/-- The access passes. -/
theorem hot_grun_access : grunState.pinCheck 0 true
    (grunState.access (siteOf hotBeat hotCtx {}) hotLane { sp := .g, n := 32, align := 8192, need := 3, write := true } (.s 2) 0) =
      .ok (run (canopyP 1 0) 32) [(5, 0, hotLeafW.toNat)] := by decide +kernel

/-- The reads of the table wait for nothing, and it has no node. -/
theorem hot_grun_table : grunState.readsWait 0 (grunState.graphReads 0 hotInst) = false ∧ grunState.instNodes 0 hotInst = .ok [] := by decide +kernel

/-- The count of the line announces the page in the ring, and the history is forgotten. -/
theorem hot_grun_forgets : forgets (exec hotGrun grunState) = true := by decide +kernel

/-- Refutes O45: GRUN of an instance on a hot page forgets the history of a queue whose EN byte the state puts into the ring of the table control
object, though the graph run and its tasks are all that it writes. The commands of the queues and CANCEL are not what fails. -/
theorem not_queueCommands : ¬ Obligations.QueueCommands := by
  rintro ⟨-, -, -, -, hinstr⟩
  have hstores : NoStores hotCtx := by unfold NoStores; decide
  have hclean : Clean grunState := by unfold Clean; decide +kernel
  obtain ⟨hreads, hnodes⟩ := hot_grun_table
  obtain ⟨-, hgrun⟩ := hinstr grunState hotBeat hotCtx ⟨rfl, rfl⟩ rfl {} .launch 4 (.s 2) (.imm 0) hotLane (run (canopyP 1 0) 32)
    [(5, 0, hotLeafW.toNat)] []
  obtain ⟨v, c', w, hnear, -, -, hcounted, hbecomes⟩ := hgrun hstores hot_alone hclean (by decide) hot_grun_access hreads hnodes
    (by decide +kernel) (by decide +kernel) (by decide +kernel)
  obtain ⟨hrun, hseq⟩ := runGraph_empty (s := v) (by rw [hnear.rest]; rfl) (dieOf hotBeat.core) (accessCap hotLane .g (.s 2) 0)
    (BitVec.ofNat 64 (readSrc hotLane 2 (.imm 0))) hotCtx.prio hotCtx.launch hotCtx.phase
  dsimp only at hcounted
  generalize v.runGraph (dieOf hotBeat.core) (accessCap hotLane .g (.s 2) 0) [] (BitVec.ofNat 64 (readSrc hotLane 2 (.imm 0))) hotCtx.prio hotCtx.launch
    hotCtx.phase none = r at hcounted hrun hseq
  have hw : KeepsTco v w := hrun.trans (keepsTco_of_queues (counted_grunEnd_queues hseq hcounted))
  have hqueue : v.queue 0 = grunState.queue 0 := by rw [hnear.rest]; rfl
  have hkept := hw 0 (tcoP (0x1000 + 24)) (by rw [hqueue]; rfl) (by decide)
  have hforgets := hot_grun_forgets
  rw [hotGrun, hbecomes] at hforgets
  change (w.queue 0).hist.isEmpty = true at hforgets
  rw [hkept.2, hqueue] at hforgets
  exact absurd hforgets (by decide)

end Sys2Proof.Proofs

/-! SUPPORT of O46: numbers that a unit writes and reads (R184, R313, R369). -/

namespace Sys2Proof.Proofs

open Sys2Proof Sys2Proof.Machine Sys2Proof.Claims

/-! ### Bytes of a number -/

/-- The number of some of its bytes. -/
theorem bytesNat_natBytes (n v : Nat) : bytesNat (natBytes n v) = v % 256 ^ n := by
  induction n generalizing v with
  | zero => rw [natBytes, bytesNat, pow_zero, Nat.mod_one]
  | succ n ih =>
    have hbyte : (BitVec.ofNat 8 v).toNat = v % 256 := BitVec.toNat_ofNat ..
    rw [natBytes, bytesNat, ih, hbyte, pow_succ', Nat.mod_mul]

/-- The bytes written at distinct places, read back. -/
theorem zip_lookup {ps : List Nat} {bs : List Byte} (hnodup : ps.Nodup) (hlen : ps.length = bs.length) (g : Nat → Byte) :
    ps.map (fun a => (sGet (ps.zip bs) a).getD (g a)) = bs := by
  induction ps generalizing bs with
  | nil => exact (List.length_eq_zero_iff.1 hlen.symm).symm
  | cons p ps ih =>
    obtain - | ⟨b, bs⟩ := bs
    · cases hlen
    · obtain ⟨hp, hnodup⟩ := List.nodup_cons.1 hnodup
      have htail : ps.map (fun a => (sGet ((p, b) :: ps.zip bs) a).getD (g a)) = ps.map (fun a => (sGet (ps.zip bs) a).getD (g a)) :=
        List.map_congr_left fun a ha => by rw [sGet, if_neg (show ¬p = a from fun hpa => hp (hpa.symm ▸ ha))]
      rw [List.zip_cons_cons, List.map_cons, htail, ih hnodup (Nat.succ.inj hlen), sGet, if_pos rfl, Option.getD_some]

/-- A place that was not written. -/
theorem zip_lookup_ne {ps : List Nat} {bs : List Byte} {a : Nat} (h : a ∉ ps) : sGet (ps.zip bs) a = none :=
  sGet_eq_none fun hmem => by
    obtain ⟨x, hx, rfl⟩ := List.mem_map.1 hmem
    exact h (List.of_mem_zip hx).1

/-! ### States whose tables, bytes and copies of the dies are the same -/

/-- The states agree in all that the units' accesses look at on this device. -/
structure SameMap (s t : State) : Prop where
  bytes : ∀ a, t.byte a = s.byte a
  poison : t.poison = s.poison
  l2 : ∀ d, (t.die d).l2 = (s.die d).l2
  fabric : ∀ d, (t.die d).fabric = (s.die d).fabric
  job : t.job = s.job
  grid : t.grid = s.grid
  leases : t.leases = s.leases
  qps : t.qps = s.qps

/-- They agree with themselves. -/
theorem SameMap.refl (s : State) : SameMap s s := ⟨fun _ => rfl, rfl, fun _ => rfl, fun _ => rfl, rfl, rfl, rfl, rfl⟩

/-- They agree with what the other agrees with. -/
theorem SameMap.trans {s t u : State} (h : SameMap s t) (h' : SameMap t u) : SameMap s u where
  bytes a := (h'.bytes a).trans (h.bytes a)
  poison := h'.poison.trans h.poison
  l2 d := (h'.l2 d).trans (h.l2 d)
  fabric d := (h'.fabric d).trans (h.fabric d)
  job := h'.job.trans h.job
  grid := h'.grid.trans h.grid
  leases := h'.leases.trans h.leases
  qps := h'.qps.trans h.qps

section Same

variable {s t : State} (h : SameMap s t)

include h

/-- A number at home places. -/
theorem SameMap.num (p n : Nat) : t.num p n = s.num p n := by
  unfold State.num State.bytes
  rw [List.map_congr_left fun a _ => h.bytes a]

/-- A lease class. -/
theorem SameMap.leaseExp (k : Nat) : t.leaseExp k = s.leaseExp k := by rw [State.leaseExp, State.leaseExp, h.leases]

/-- A descriptor. -/
theorem SameMap.readDesc (d obj : Nat) : t.readDesc d obj = s.readDesc d obj := by
  have hotbl : t.otbl d = s.otbl d := by rw [State.otbl, State.otbl, h.job]
  have hok : ∀ w, t.descOk w = s.descOk w := fun w => by rw [State.descOk, State.descOk, h.leaseExp]
  unfold State.readDesc State.descP
  simp only [hotbl, hok, h.num]

/-- The checks of a leaf entry. -/
theorem SameMap.leafBad (w : Nat) (handler : Bool) : t.leafBad w handler = s.leafBad w handler := by
  have hcoord : t.mycoord = s.mycoord := congrArg (fun f => f.mycoord) (h.fabric 0)
  rw [State.leafBad, State.leafBad, h.leaseExp, hcoord, h.grid]

/-- The place that a leaf entry gives. -/
theorem SameMap.leafPlace (d obj ofs w : Nat) : t.leafPlace d obj ofs w = s.leafPlace d obj ofs w := by
  unfold State.leafPlace
  rw [h.qps]

/-- The places of an access. -/
theorem SameMap.unitPlace (d : Nat) (c : Cap) (n need : Nat) (write handler : Bool) : t.unitPlace d c n need write handler = s.unitPlace d c n need write handler := by
  have hleafP : ∀ ofs page, t.leafP d ofs page = s.leafP d ofs page := fun ofs page => by
    rw [State.leafP, State.leafP, State.otbl, State.otbl, h.job]
  unfold State.unitPlace
  simp only [h.readDesc, hleafP, h.num, h.leafBad, h.leafPlace]

/-- The places of a range. -/
theorem SameMap.unitRange (d : Nat) (c : Cap) (n need : Nat) (write handler : Bool) : t.unitRange d c n need write handler = s.unitRange d c n need write handler := by
  simp only [State.unitRange, h.unitPlace]

/-- The bytes of this device that a unit reads. -/
theorem SameMap.unitByte (d : Nat) {p : Nat} (htag : pTag p ≠ 7) (hlocal : isRemote p = false) : t.unitByte d p = s.unitByte d p := by
  simp only [State.unitByte, if_neg htag, hlocal, Bool.false_and, Bool.false_eq_true, if_false, h.l2, h.bytes]

/-- A field of a control block in the canopy. -/
theorem SameMap.ccb (d : Nat) {blk : Nat} (hblk : pTag blk = 0) (lo n : Nat) : t.ccb d blk lo n = s.ccb d blk lo n := by
  refine congrArg bytesNat (List.map_congr_left fun p hp => ?_)
  have htag : pTag p = 0 := by rw [pTag_run hp, ← hblk]; simp [pTag]
  exact h.unitByte d (by rw [htag]; decide) (by simp [isRemote, htag])

/-- The place of a control block on this device. -/
theorem SameMap.ccbPlace {d : Nat} {c : Cap} {blk : Nat} (hblk : pTag blk = 0) (hplace : s.ccbPlace d c = some blk) : t.ccbPlace d c = some blk := by
  have hat : t.ccbAt d c = s.ccbAt d c := by simp only [State.ccbAt, h.unitPlace]
  unfold State.ccbPlace at hplace ⊢
  rw [hat]
  split at hplace
  · cases hplace
  next p hp =>
    split at hplace
    · cases hplace
    · cases hplace
      simp [isRemote, hblk]

/-- Bytes of this device that a unit reads at a capability. -/
theorem SameMap.unitRead (d : Nat) (c : Cap) (n : Nat) : t.unitRead d c n = s.unitRead d c n := by
  unfold State.unitRead State.unitSrc
  rw [h.unitRange, h.poison]
  cases hps : s.unitRange d c n 1 false false with
  | error _ => rfl
  | ok ps =>
    have hbytes : ¬ps.any isRemote = true → ps.map (t.unitByte d) = ps.map (s.unitByte d) := fun hlocal =>
      List.map_congr_left fun p hp => h.unitByte d (pTag_unitRange hps p hp) (by simpa using fun hr => hlocal (List.any_eq_true.2 ⟨p, hp, hr⟩))
    by_cases hbad : ps.any (fun p => s.poison.contains (Machine.wordOf p)) = true
    · simp only [hbad, if_true]
    · by_cases hfar : ps.any isRemote = true
      · simp only [hbad, hfar, if_true, if_false, Bool.false_eq_true]
      · simp only [hbad, hfar, if_false, Bool.false_eq_true, hbytes hfar]

/-- A queue's descriptor. -/
theorem SameMap.qdesc (q : Nat) : t.qdesc q = s.qdesc q := by
  simp only [State.qdesc, State.qdescCap, h.job, h.unitRead]

end Same

/-! ### What a unit's writes change -/

/-- The die's copies of written places go. -/
def dropCells (cells : List (Nat × Byte)) (x : Die) : Die := { x with l2 := x.l2.filter (fun e => !cells.any (fun c => c.1 == e.1)) }

/-- Writes on this device outside the table control object are home writes, and drop the die's copies. -/
theorem unitPuts_home {s : State} {die : Nat} {cells : List (Nat × Byte)} (h : ∀ x ∈ cells, pTag x.1 ≠ 7) (hne : cells ≠ []) :
    s.unitPuts die cells = (s.homeWrites cells).modDie die (dropCells cells) := by
  have hnone : cells.filter (fun c => pTag c.1 == 7) = [] := List.filter_eq_nil_iff.2 fun x hx => by simp [h x hx]
  have hall : cells.filter (fun c => pTag c.1 != 7) = cells := List.filter_eq_self.2 fun x hx => by simp [h x hx]
  have hnil : cells.isEmpty = false := by simpa using hne
  simp only [State.unitPuts, hnone, hall, List.foldl_nil, hnil, Bool.false_eq_true, if_false]
  rfl

/-- Cells on this device leave no tag behind. -/
theorem unitCells_local {s : State} {die : Nat} {cells : List (Nat × Byte)} (h : ∀ x ∈ cells, isRemote x.1 = false) :
    s.unitCells die cells = ([], s.unitPuts die cells) := by
  have hall : cells.filter (fun c => !isRemote c.1) = cells := List.filter_eq_self.2 fun x hx => by simp [h x hx]
  have hnone : cells.filter (fun c => isRemote c.1) = [] := List.filter_eq_nil_iff.2 fun x hx => by simp [h x hx]
  simp only [State.unitCells, hall, hnone]
  rfl

/-- The bytes after a unit's writes on this device. -/
theorem byte_unitPuts {s : State} {die : Nat} {cells : List (Nat × Byte)} (h : ∀ x ∈ cells, pTag x.1 ≠ 7) (hnodup : (cells.map (fun x => x.1)).Nodup) (a : Nat) :
    (s.unitPuts die cells).byte a = (sGet cells a).getD (s.byte a) := by
  by_cases hne : cells = []
  · subst hne; rfl
  · rw [unitPuts_home h hne]
    exact (writes_homeWrites s cells).byte hnodup a

/-- Such writes touch what home writes do, and copies of the die. -/
theorem unitPuts_frame {s : State} {die : Nat} {cells : List (Nat × Byte)} (h : ∀ x ∈ cells, pTag x.1 ≠ 7) : s.unitPuts die cells = { s with
    slots := (s.unitPuts die cells).slots, poison := (s.unitPuts die cells).poison, queues := (s.unitPuts die cells).queues
    dies := (s.unitPuts die cells).dies, wr := cells.reverse ++ s.wr } := by
  by_cases hne : cells = []
  · subst hne; rfl
  · rw [unitPuts_home h hne, homeWrites_frame]; rfl

/-- A die after such writes. -/
theorem die_unitPuts {s : State} {die : Nat} {cells : List (Nat × Byte)} (h : ∀ x ∈ cells, pTag x.1 ≠ 7) (d : Nat) :
    (s.unitPuts die cells).die d = if d = die then dropCells cells (s.die d) else s.die d := by
  by_cases hne : cells = []
  · subst hne
    have hsame : ∀ x, dropCells [] x = x := fun x => by simp [dropCells]
    rw [hsame, ite_self]; rfl
  · rw [unitPuts_home h hne, homeWrites_frame]
    simp only [State.die, State.modDie_dies, sGet_sPut]
    split
    next hd => subst hd; rfl
    · rfl

/-- Poison marks after such writes. -/
theorem poison_unitPuts {s t : State} {die : Nat} {cells : List (Nat × Byte)} (h : ∀ x ∈ cells, pTag x.1 ≠ 7) (hp : t.poison = s.poison) :
    (t.unitPuts die cells).poison = (s.unitPuts die cells).poison := by
  by_cases hne : cells = []
  · subst hne; exact hp
  · rw [unitPuts_home h hne, unitPuts_home h hne, homeWrites_frame t, homeWrites_frame s]
    simp only [State.modDie_poison, hp]

/-- States that agree still do after the same writes. -/
theorem SameMap.unitPuts {s t : State} (h : SameMap s t) (die : Nat) {cells : List (Nat × Byte)} (htags : ∀ x ∈ cells, pTag x.1 ≠ 7)
    (hnodup : (cells.map (fun x => x.1)).Nodup) : SameMap (s.unitPuts die cells) (t.unitPuts die cells) where
  bytes a := by rw [byte_unitPuts htags hnodup, byte_unitPuts htags hnodup, h.bytes]
  poison := poison_unitPuts htags h.poison
  l2 d := by
    rw [die_unitPuts htags, die_unitPuts htags]
    split
    · simp only [dropCells, h.l2]
    · exact h.l2 d
  fabric d := by
    rw [die_unitPuts htags, die_unitPuts htags]
    split
    · exact h.fabric d
    · exact h.fabric d
  job := (congrArg State.job (unitPuts_frame htags)).trans (h.job.trans (congrArg State.job (unitPuts_frame htags)).symm)
  grid := (congrArg State.grid (unitPuts_frame htags)).trans (h.grid.trans (congrArg State.grid (unitPuts_frame htags)).symm)
  leases := (congrArg State.leases (unitPuts_frame htags)).trans (h.leases.trans (congrArg State.leases (unitPuts_frame htags)).symm)
  qps := (congrArg State.qps (unitPuts_frame htags)).trans (h.qps.trans (congrArg State.qps (unitPuts_frame htags)).symm)

/-- Bytes that a unit writes at places of this device. -/
theorem unitWrite_local {s : State} {d : Nat} {c : Cap} {bs : List Byte} {ps : List Nat} (hps : s.unitRange d c bs.length 2 true false = .ok ps)
    (hlocal : ∀ p ∈ ps, isRemote p = false) : s.unitWrite d c bs = s.unitPuts d (ps.zip bs) := by
  rw [State.unitWrite, hps]
  exact congrArg Prod.snd (unitCells_local fun x hx => hlocal x.1 (List.of_mem_zip hx).1)

/-- The bytes after such a write. -/
theorem byte_unitWrite {s : State} {d : Nat} {c : Cap} {bs : List Byte} {ps : List Nat} (hps : s.unitRange d c bs.length 2 true false = .ok ps)
    (hlen : ps.length = bs.length) (hnodup : ps.Nodup) (hlocal : ∀ p ∈ ps, isRemote p = false ∧ pTag p ≠ 7) (a : Nat) :
    (s.unitWrite d c bs).byte a = (sGet (ps.zip bs) a).getD (s.byte a) := by
  rw [unitWrite_local hps fun p hp => (hlocal p hp).1]
  exact byte_unitPuts (fun x hx => (hlocal x.1 (List.of_mem_zip hx).1).2) (by rwa [List.map_fst_zip hlen.le]) a

/-! ### Fields of a control block in the canopy (R184) -/

/-- Fields that do not overlap have no place in common. -/
theorem run_disjoint {blk lo n lo' n' : Nat} (h : lo' + n' ≤ lo ∨ lo + n ≤ lo') : ∀ a ∈ run (blk + 8 * lo') n', a ∉ run (blk + 8 * lo) n := by
  intro a ha hmem
  obtain ⟨i, hi, rfl⟩ := List.mem_map.1 ha
  obtain ⟨j, hj, hij⟩ := List.mem_map.1 hmem
  rw [List.mem_range] at hi hj
  omega

/-- A cached byte of a place that was not written stays. -/
theorem cacheGet_dropCells {cells : List (Nat × Byte)} {x : Die} {p : Nat} (h : p ∉ cells.map (fun c => c.1)) :
    cacheGet (dropCells cells x).l2 p = cacheGet x.l2 p := by
  have hkeep : ∀ m : Cache, cacheGet (m.filter (fun e => !cells.any (fun c => c.1 == e.1))) p = cacheGet m p := by
    intro m
    induction m with
    | nil => rfl
    | cons e m ih =>
      obtain ⟨q, v⟩ := e
      by_cases hq : q = p
      · subst hq
        have hany : cells.any (fun c => c.1 == q) = false := List.any_eq_false.2 fun c hc hcq => h (List.mem_map.2 ⟨c, hc, beq_iff_eq.1 hcq⟩)
        rw [List.filter_cons_of_pos (by simp [hany]), cacheGet, cacheGet, if_pos rfl, if_pos rfl]
      · rw [cacheGet, if_neg hq, ← ih, List.filter_cons]
        split
        · rw [cacheGet, if_neg hq]
        · rfl
  exact hkeep x.l2

section Block

variable {s : State} {blk : Nat} (hblk : pTag blk = 0)

include hblk

/-- The places of a field are of the canopy. -/
theorem pTag_field {lo n p : Nat} (hp : p ∈ run (blk + 8 * lo) n) : pTag p = 0 := by rw [pTag_run hp, ← hblk]; simp [pTag]

/-- So are those that a write of it names. -/
theorem pTag_fieldCells {lo n v : Nat} : ∀ x ∈ (run (blk + 8 * lo) n).zip (natBytes n v), pTag x.1 ≠ 7 := fun x hx => by
  rw [pTag_field hblk (List.of_mem_zip hx).1]; decide

/-- A field of such a block is written in its die. -/
theorem setCcb_local (die lo n v : Nat) : s.setCcb die blk lo n v = s.unitPuts die ((run (blk + 8 * lo) n).zip (natBytes n v)) := by
  simp [State.setCcb, isRemote, hblk]

/-- The bytes after a field is written. -/
theorem byte_setCcb (die lo n v a : Nat) :
    (s.setCcb die blk lo n v).byte a = (sGet ((run (blk + 8 * lo) n).zip (natBytes n v)) a).getD (s.byte a) := by
  rw [setCcb_local hblk]
  exact byte_unitPuts (pTag_fieldCells hblk) (by rw [run_zip_natBytes]; exact run_nodup ..) a

/-- A byte outside the field. -/
theorem byte_setCcb_ne {die lo n v a : Nat} (ha : a ∉ run (blk + 8 * lo) n) : (s.setCcb die blk lo n v).byte a = s.byte a := by
  rw [byte_setCcb hblk, zip_lookup_ne ha, Option.getD_none]

/-- The field itself. -/
theorem num_setCcb (die lo n v : Nat) : (s.setCcb die blk lo n v).num (blk + 8 * lo) n = v % 256 ^ n := by
  have hbytes : (run (blk + 8 * lo) n).map (s.setCcb die blk lo n v).byte = natBytes n v :=
    (List.map_congr_left fun a _ => byte_setCcb hblk die lo n v a).trans (zip_lookup (run_nodup ..) (by simp) s.byte)
  rw [State.num, State.bytes, hbytes, bytesNat_natBytes]

/-- Another field. -/
theorem num_setCcb_ne {die lo n v lo' n' : Nat} (hoff : lo' + n' ≤ lo ∨ lo + n ≤ lo') :
    (s.setCcb die blk lo n v).num (blk + 8 * lo') n' = s.num (blk + 8 * lo') n' :=
  congrArg bytesNat (List.map_congr_left fun a ha => byte_setCcb_ne hblk (run_disjoint hoff a ha))

/-- A die after a field is written. -/
theorem die_setCcb (die lo n v d : Nat) : (s.setCcb die blk lo n v).die d =
    if d = die then dropCells ((run (blk + 8 * lo) n).zip (natBytes n v)) (s.die d) else s.die d := by
  rw [setCcb_local hblk]; exact die_unitPuts (pTag_fieldCells hblk) d

/-- A unit reads another field as before. -/
theorem ccb_setCcb_ne {die lo n v lo' n' : Nat} (d : Nat) (hoff : lo' + n' ≤ lo ∨ lo + n ≤ lo') :
    (s.setCcb die blk lo n v).ccb d blk lo' n' = s.ccb d blk lo' n' := by
  refine congrArg bytesNat (List.map_congr_left fun p hp => ?_)
  have htag := pTag_field hblk hp
  have hlocal : isRemote p = false := by simp [isRemote, htag]
  have hne : p ∉ run (blk + 8 * lo) n := run_disjoint hoff p hp
  have hcache : cacheGet ((s.setCcb die blk lo n v).die d).l2 p = cacheGet (s.die d).l2 p := by
    rw [die_setCcb hblk]
    split
    · exact cacheGet_dropCells (by rwa [run_zip_natBytes])
    · rfl
  simp only [State.unitByte, htag, if_neg (show ¬(0 : Nat) = 7 by decide), hlocal, hcache, byte_setCcb_ne hblk hne, Bool.false_and, Bool.false_eq_true, if_false]

end Block

end Sys2Proof.Proofs

/-! SUPPORT of O46: what runs beside the engines and the pins (R187, R279). -/

namespace Sys2Proof.Proofs

open Sys2Proof Sys2Proof.Machine Sys2Proof.Claims

/-- A change that keeps every engine, and pins no line where none is pinned. -/
structure Aside (s t : State) : Prop where
  engines : ∀ d, (t.die d).engines = (s.die d).engines
  pins : NoPins s → NoPins t

/-- No change is one. -/
theorem Aside.refl (s : State) : Aside s s := ⟨fun _ => rfl, id⟩

/-- Two such changes are one. -/
theorem Aside.trans {s t u : State} (h : Aside s t) (h' : Aside t u) : Aside s u := ⟨fun d => (h'.engines d).trans (h.engines d), h'.pins ∘ h.pins⟩

/-- Such changes, one for each element of a list. -/
theorem Aside.foldl {α : Type} {f : State → α → State} (hf : ∀ s a, Aside s (f s a)) (l : List α) (s : State) : Aside s (l.foldl f s) := by
  induction l generalizing s with
  | nil => exact .refl s
  | cons a l ih => exact (hf s a).trans (ih _)

/-- Such changes, one for each element of a list, with something else computed on the way. -/
theorem Aside.foldl_snd {α β : Type} {f : β × State → α → β × State} (hf : ∀ x a, Aside x.2 (f x a).2) (l : List α) (x : β × State) :
    Aside x.2 (l.foldl f x).2 := by
  induction l generalizing x with
  | nil => exact .refl x.2
  | cons a l ih => exact (hf x a).trans (ih _)

/-- The engine of a die after such a change. -/
theorem Aside.engine {s t : State} (h : Aside s t) (d g : Nat) : t.engine d g = s.engine d g := by rw [State.engine, State.engine, h.engines]

/-- A change of neither dies nor cores is one. -/
theorem aside_of_eq {s t : State} (hd : t.dies = s.dies) (hc : t.cores = s.cores) : Aside s t :=
  ⟨fun d => by rw [State.die, State.die, hd], fun h => by rw [NoPins, hc]; exact h⟩

/-- A change of a die that keeps its engines. -/
theorem aside_modDie (s : State) (d : Nat) {f : Die → Die} (hf : ∀ x, (f x).engines = x.engines) : Aside s (s.modDie d f) :=
  ⟨fun a => modDie_engines s d a f hf, id⟩

/-- A change of a core that keeps its pins. -/
theorem aside_modCore (s : State) (k : Nat) {f : Core → Core} (hf : ∀ x, (f x).pins = x.pins) : Aside s (s.modCore k f) :=
  ⟨fun _ => rfl, fun h => forall_mem_sPut (P := fun x : Nat × Core => x.2.pins = []) h ((hf _).trans (noPins_core h k))⟩

/-- Home writes. -/
theorem aside_homeWrites (s : State) (cells : List (Nat × Byte)) : Aside s (s.homeWrites cells) :=
  aside_of_eq (homeWrites_dies s cells) (by rw [homeWrites_frame])

/-- A change of a context, placed or saved. -/
theorem aside_modAny (s : State) (k : Nat) (f : Ctx → Ctx) : Aside s (s.modAny k f) := by
  unfold State.modAny
  split
  · exact aside_of_eq rfl rfl
  · split <;> exact aside_of_eq rfl rfl

/-! ### Writes of the units -/

/-- A byte of the table control object. -/
theorem aside_tcoPut (s : State) (a : Nat) (b : Byte) : Aside s (s.tcoPut a b) := by
  have hmod : Aside s (s.modDie (a / 64) (fun x => { x with reqAt := s.nextTag })) := aside_modDie s (a / 64) fun _ => rfl
  unfold State.tcoPut
  split
  · extract_lets s0 s1
    have h1 : Aside s s1 := by
      unfold s1; split
      · exact hmod.trans (aside_of_eq rfl rfl)
      · exact .refl s
    split
    · exact h1.trans (aside_of_eq rfl rfl)
    · exact h1
  · split
    · exact aside_of_eq rfl rfl
    · split
      · dsimp only; split <;> exact aside_of_eq rfl rfl
      · exact .refl s

/-- Bytes of this device. -/
theorem aside_unitPuts (s : State) (die : Nat) (cells : List (Nat × Byte)) : Aside s (s.unitPuts die cells) := by
  unfold State.unitPuts
  extract_lets own s'
  have htco : Aside s s' := .foldl (fun s c => aside_tcoPut s _ _) _ s
  split
  · exact htco
  · exact htco.trans ((aside_homeWrites s' own).trans (aside_modDie _ die fun _ => rfl))

/-- A write to a peer or the host. -/
theorem aside_sendRun (s : State) (p : Nat) (bs : List Byte) : Aside s (s.sendRun p bs).2 := by
  unfold State.sendRun
  dsimp only
  split <;> exact aside_of_eq rfl rfl

/-- Cells, each at its home. -/
theorem aside_unitCells (s : State) (die : Nat) (cells : List (Nat × Byte)) : Aside s (s.unitCells die cells).2 := by
  unfold State.unitCells
  refine (aside_unitPuts s die _).trans (Aside.foldl_snd (fun (x : List Nat × State) (r : Nat × List Byte) => ?_) _ ([], _))
  exact aside_sendRun x.2 r.1 r.2

/-- Bytes at a capability. -/
theorem aside_unitWrite (s : State) (d : Nat) (c : Cap) (bs : List Byte) : Aside s (s.unitWrite d c bs) := by
  unfold State.unitWrite
  split
  · exact .refl s
  · exact aside_unitCells ..

/-- A field of a control block. -/
theorem aside_setCcb (s : State) (die blk lo n v : Nat) : Aside s (s.setCcb die blk lo n v) := by
  unfold State.setCcb
  dsimp only
  split
  · exact aside_unitPuts ..
  · exact (aside_unitCells ..).trans (aside_of_eq rfl rfl)

/-- STATE of a program's chain. -/
theorem aside_setChainState (s : State) (ch : Chain) (v : Nat) : Aside s (s.setChainState ch v) := by
  unfold State.setChainState
  split
  · exact .refl s
  · split
    · exact .refl s
    · exact aside_setCcb ..

/-! ### The completion of a command (R320) -/

/-- Bytes that are sent to peers and the host. -/
theorem aside_sendHome (s : State) (die : Nat) (cells : List (Nat × Byte)) : Aside s (s.sendHome die none cells) := by
  unfold State.sendHome
  refine Aside.foldl (fun s x => ?_) _ s
  have hstale : Aside s (s.stale (fun p => decide (lineOf p = lineOf x.1.1))) := aside_of_eq rfl rfl
  exact (hstale.trans (aside_sendRun _ x.1.1 x.1.2)).trans (aside_modDie _ die fun _ => rfl)

/-- The release of a unit at system scope. -/
theorem aside_releaseAll (s : State) : Aside s s.releaseAll := by
  unfold State.releaseAll
  refine Aside.foldl (fun s d => ?_) _ s
  unfold State.flushL2
  dsimp only
  split
  · exact .refl s
  · refine Aside.trans ?_ (aside_modDie _ d fun _ => rfl)
    unfold State.toHome
    dsimp only
    split
    · exact aside_homeWrites ..
    · exact (aside_homeWrites ..).trans (aside_sendHome ..)

/-- STATE of a queue's control block. -/
theorem aside_chainState (s : State) (q : Nat) : Aside s (s.chainState q) := by
  unfold State.chainState
  split
  · exact .refl s
  · extract_lets x v
    split
    · exact .refl s
    · exact aside_setCcb ..

/-- A change of a queue. -/
theorem aside_modQueue (s : State) (q : Nat) (f : Queue → Queue) : Aside s (s.modQueue q f) := aside_of_eq rfl rfl

/-- DONESEQ of a queue. -/
theorem aside_advanceDone (s : State) (q : Nat) : Aside s (s.advanceDone q) := by
  unfold State.advanceDone
  extract_lets x rest done s'
  have hpend : Aside s s' := aside_modQueue ..
  split
  · exact hpend
  · exact hpend.trans ((aside_setCcb ..).trans (aside_chainState ..))

/-- What a queue's descriptor shows. -/
theorem aside_showQueue (s : State) (q : Nat) : Aside s (s.showQueue q) := by
  unfold State.showQueue
  extract_lets s1 s2 v
  have h1 : Aside s s1 := by unfold s1; split <;> exact aside_of_eq rfl rfl
  have h2 : Aside s1 s2 := by
    unfold s2; split
    · exact .refl s1
    · exact aside_unitWrite ..
  split
  · exact h1.trans h2
  · exact (h1.trans h2).trans (aside_unitWrite ..)

/-- A command whose end is decided. -/
theorem aside_finishCmd (s : State) (q seq : Nat) : Aside s (s.finishCmd q seq) := by
  unfold State.finishCmd
  split
  · exact .refl s
  next p _ =>
    split
    · exact .refl s
    next st value _ =>
      extract_lets s1 s2 s3
      have h1 : Aside s s1 := by
        unfold s1; split
        · exact aside_releaseAll s
        · exact .refl s
      have h2 : Aside s1 s2 := aside_unitWrite ..
      have h3 : Aside s2 s3 := by
        unfold s3; split
        · exact .refl s2
        · exact aside_unitWrite ..
      split
      · exact h1
      · exact ((h1.trans h2).trans h3).trans ((aside_modQueue s3 q _).trans ((aside_advanceDone ..).trans (aside_showQueue ..)))

/-- A command that completes. -/
theorem aside_completeCmd (s : State) (q seq valid code cause value : Nat) : Aside s (s.completeCmd q seq valid code cause value) :=
  (aside_modQueue s q _).trans (aside_finishCmd ..)

end Sys2Proof.Proofs

/-! SUPPORT of O46: the end of an engine's entry (R187, R190). -/

namespace Sys2Proof.Proofs

open Sys2Proof Sys2Proof.Machine Sys2Proof.Claims

/-! ### The engine is free -/

/-- An effect after which no line is pinned is not refused (R279). -/
theorem retryPins_of_noPins {f : State → State} {s : State} (h : NoPins (f s)) : retryPins f s = f s := by
  refine if_neg fun hany => ?_
  obtain ⟨c, -, hc⟩ := List.any_eq_true.1 hany
  obtain ⟨e, he, hpin⟩ := List.any_eq_true.1 ((Bool.and_eq_true _ _ ▸ hc).2)
  simp [h e he] at hpin

/-- An engine that was changed. -/
theorem engine_modEngine (s : State) (die eng : Nat) (f : Engine → Engine) : (s.modEngine die eng f).engine die eng = f (s.engine die eng) := by
  simp only [State.engine, State.modEngine, State.die, State.modDie_dies, sGet_sPut_self, Option.getD_some]

/-- The lines of an entry are present. -/
theorem aside_setLines (s : State) (ctx die tag : Nat) : Aside s (s.setLines ctx die tag) := by
  unfold State.setLines
  extract_lets s1
  exact (aside_modAny s ctx _ : Aside s s1).trans (aside_modDie s1 die fun _ => rfl)

/-- Its locks are released. -/
theorem aside_dropLocks (s : State) (r : Running) : Aside s (s.dropLocks r) :=
  ⟨fun _ => rfl, fun h e he => by obtain ⟨x, hx, rfl⟩ := List.mem_map.1 he; exact h x hx⟩

/-- All but the engine itself, as the engine becomes free. -/
def released (s : State) (die : Nat) (r : Running) : State :=
  (State.setLines { s with engReqs := s.engReqs.filter (fun q => !(r.reads.contains q.tag || r.writes.contains q.tag)) } r.ctx die r.tag).dropLocks r

/-- The engine becomes free last. -/
theorem freeEngine_eq (s : State) (die eng : Nat) (r : Running) : s.freeEngine die eng r = (released s die r).modEngine die eng (fun g => { g with run := none }) := rfl

/-- No other engine changes. -/
theorem aside_released (s : State) (die : Nat) (r : Running) : Aside s (released s die r) := by
  have hreqs : Aside s { s with engReqs := s.engReqs.filter (fun q => !(r.reads.contains q.tag || r.writes.contains q.tag)) } := aside_of_eq rfl rfl
  exact hreqs.trans ((aside_setLines ..).trans (aside_dropLocks ..))

/-- No line is pinned. -/
theorem noPins_freeEngine {s : State} (h : NoPins s) (die eng : Nat) (r : Running) : NoPins (s.freeEngine die eng r) := (aside_released s die r).pins h

/-- The engine runs nothing. -/
theorem run_freeEngine (s : State) (die eng : Nat) (r : Running) : ((s.freeEngine die eng r).engine die eng).run = none := by
  rw [freeEngine_eq, engine_modEngine]

/-! ### An entry that is done -/

/-- An arrival (R196). -/
theorem aside_copyArrive (s : State) (r : Running) : Aside s (s.copyArrive r) := by
  unfold State.copyArrive
  extract_lets a stale
  have hstale : Aside s stale := aside_modCore s r.core fun _ => rfl
  split
  · exact hstale
  · split
    · exact hstale
    · split
      · exact hstale
      · exact aside_homeWrites ..

/-- DONESEQ and STATE of a chain. -/
theorem aside_chainDone (s : State) (ch : Chain) (seq : Nat) : Aside s (s.chainDone ch seq) := by
  unfold State.chainDone
  split
  · exact .refl s
  · exact (aside_setCcb ..).trans (aside_setCcb ..)

/-- What follows the end of an entry leaves its engine free. -/
theorem aside_finishEntry (s : State) (die eng : Nat) (r : Running) (code : Nat) : Aside (s.freeEngine die eng r) (s.finishEntry die eng r code) := by
  unfold State.finishEntry
  extract_lets s1 ends s2 s3 s4
  have h2 : Aside s1 s2 := aside_of_eq rfl rfl
  split
  · exact .refl s1
  · split
    · exact h2.trans (aside_completeCmd ..)
    · exact h2.trans (aside_of_eq rfl rfl)
    · have h3 : Aside s2 s3 := aside_unitWrite ..
      have h4 : Aside s3 s4 := by
        unfold s4; split
        · exact aside_copyArrive ..
        · exact .refl s3
      exact (h2.trans (h3.trans h4)).trans (aside_chainDone ..)

/-! ### An entry that faults -/

/-- Its record. -/
theorem aside_entryRec (s : State) (die : Nat) (r : Running) (cause : Nat) : Aside s (s.entryRec die r cause) := by
  have hctx : Aside s s.noCtx.2 := aside_of_eq rfl rfl
  unfold State.entryRec
  dsimp only
  split
  · exact hctx.trans (aside_modDie _ _ fun _ => rfl)
  · exact hctx.trans (aside_modDie _ _ fun _ => rfl)
  · exact hctx.trans (aside_modDie _ _ fun _ => rfl)

/-- What follows the fault of an entry leaves its engine free. -/
theorem aside_faultEntry (s : State) (die eng : Nat) (r : Running) (cause : Nat) : Aside (s.freeEngine die eng r) (s.faultEntry die eng r cause) := by
  unfold State.faultEntry
  extract_lets s1 s2 s3
  have h1 : Aside (s.freeEngine die eng r) s1 := aside_entryRec ..
  split
  · exact h1
  · split
    · exact h1.trans (Aside.trans (t := s1.modChain r.ccb false die (fun c => c.past r)) (aside_of_eq rfl rfl) (aside_completeCmd ..))
    · exact h1.trans (aside_of_eq rfl rfl)
    · have h2 : Aside s1 s2 := aside_of_eq rfl rfl
      have h3 : Aside s2 s3 := aside_unitWrite ..
      split
      · exact h1.trans (h2.trans h3)
      · exact (h1.trans (h2.trans h3)).trans ((aside_setCcb ..).trans (aside_setCcb ..))

/-! ### The two events -/

section Events

variable {s : State} {die eng : Nat} {r : Running} {cells : List (Nat × Byte)} {valid : Nat} (hpins : NoPins s)

include hpins

/-- An entry whose data can move on this device does all of it. -/
theorem engineEntryComplete_becomes (hlocal : ∀ x ∈ cells, isRemote x.1 = false) (hout : s.engineOutcome die eng = some (r, cells, valid, none)) :
    let u := (s.unitCells die cells).2.finishEntry die eng { r with moved := true, valid := if r.moved then r.valid else valid, writes := r.writes }
      (if r.dropped then 1 else 0)
    Becomes (.engineEntryComplete die eng) s u ∧ (u.engine die eng).run = none := by
  intro u
  have haside : Aside _ u := aside_finishEntry (s.unitCells die cells).2 die eng
    { r with moved := true, valid := if r.moved then r.valid else valid, writes := r.writes } (if r.dropped then 1 else 0)
  have hpinsu : NoPins u := haside.pins (noPins_freeEngine ((aside_unitCells s die cells).pins hpins) die eng _)
  refine ⟨?_, by rw [haside.engine]; exact run_freeEngine ..⟩
  have htags : (s.unitCells die cells).1 = [] := by rw [unitCells_local hlocal]
  show execEngineEntryComplete die eng s = _
  unfold execEngineEntryComplete act
  rw [retryPins_of_noPins] <;> simp only [hout, htags, List.isEmpty_nil, if_true, List.append_nil]
  · rfl
  · exact hpinsu

/-- An entry that faults writes a part of its data and ends. -/
theorem engineEntryFault_becomes {k : Nat} (hout : s.engineOutcome die eng = some (r, cells, valid, some k)) (hbad : s.badCmd die eng = none) :
    let u := (({ s with free := s.free + 1 } : State).unitCells die (cells.take (Config.partBytes s.free))).2.faultEntry die eng r k
    Becomes (.engineEntryFault die eng) s u ∧ (u.engine die eng).run = none := by
  intro u
  have hfresh : NoPins ({ s with free := s.free + 1 } : State) := hpins
  have haside : Aside _ u := aside_faultEntry (({ s with free := s.free + 1 } : State).unitCells die (cells.take (Config.partBytes s.free))).2 die eng r k
  have hpinsu : NoPins u := haside.pins (noPins_freeEngine ((aside_unitCells _ die _).pins hfresh) die eng r)
  refine ⟨?_, by rw [haside.engine]; exact run_freeEngine ..⟩
  have hstart : ∀ op, s.startEntry die eng op = s := fun op => by
    have hrun : (s.engine die eng).run.isSome = true := by
      unfold State.engineOutcome at hout
      split at hout
      · cases hout
      next hr => rw [hr]; rfl
    have hnext : s.engNext die eng = none := by simp only [State.engNext, hrun, if_true]
    simp only [State.startEntry, hnext]
  show execEngineEntryFault die eng s = _
  unfold execEngineEntryFault act
  rw [retryPins_of_noPins] <;> simp only [hbad, hstart, hout]
  · rfl
  · exact hpinsu

end Events

end Sys2Proof.Proofs

/-! SUPPORT of O46: an engine takes an entry (R187, R191). -/

namespace Sys2Proof.Proofs

open Sys2Proof Sys2Proof.Machine Sys2Proof.Claims

/-! ### What is beside the engines as an entry starts -/

/-- A counted request to a page. -/
theorem aside_countHot (s : State) (d obj page req : Nat) (hot : Bool) : Aside s (s.countHot d obj page req hot) := by
  unfold State.countHot
  extract_lets x old n rest rest' s0 base head r s1 s2 s3
  have h0 : Aside s s0 := aside_modDie s d fun _ => rfl
  split
  · have h1 : Aside s0 s1 := aside_homeWrites ..
    have h2 : Aside s1 s2 := aside_homeWrites ..
    have h3 : Aside s2 s3 := aside_homeWrites ..
    exact (h0.trans (h1.trans (h2.trans h3))).trans (aside_modDie s3 d fun _ => rfl)
  · exact h0

/-- The counted line accesses of an entry. -/
theorem aside_countPlan (s : State) (die : Nat) (p : Plan) : Aside s (s.countPlan die p) := by
  unfold State.countPlan
  refine Aside.foldl (fun s x => ?_) _ s
  unfold State.countLine State.touch
  extract_lets remote
  split
  · exact aside_countHot ..
  · exact .refl s

/-- Lines that become absent for a copy. -/
theorem aside_clearLines (s : State) (ctx die tag : Nat) (ls : List (Bool × Nat)) : Aside s (s.clearLines ctx die tag ls) := by
  unfold State.clearLines
  extract_lets s1
  exact (aside_modAny s ctx _ : Aside s s1).trans (aside_modDie s1 die fun _ => rfl)

/-- Answers that are forgotten. -/
theorem aside_dropFar (s : State) (d : Nat) (c : Cap) (n : Nat) : Aside s (s.dropFar d c n) := by
  unfold State.dropFar
  split
  · exact .refl s
  · extract_lets runs
    split
    · exact .refl s
    · exact aside_of_eq rfl rfl

/-- A read that is sent under a tag. -/
theorem aside_askRead (s : State) (tag : Nat) (ps : List Nat) : Aside s (s.askRead tag ps) := by
  unfold State.askRead State.askBy
  split
  · exact .refl s
  · split <;> exact aside_of_eq rfl rfl

/-- The requests of a plan. -/
theorem aside_askPlan (s : State) (p : Plan) : Aside s (s.askPlan p).2 := by
  unfold State.askPlan
  refine Aside.foldl_snd (fun x r => ?_) _ (([], s) : List Nat × State)
  have htag : Aside x.2 x.2.newTag.2 := aside_of_eq rfl rfl
  exact htag.trans ((aside_askRead ..).trans (aside_of_eq rfl rfl))

/-! ### The entry that an engine takes -/

/-- What an engine runs that has taken an entry. -/
structure Takes (s : State) (ch : Chain) (n : Handed) (e : List Byte) (r : Running) : Prop where
  ccb : r.ccb = ch.ccb
  seq : r.seq = n.seq
  entry : r.entry = n.entry
  ent : r.ent = e
  queue : r.queue = ch.queue
  fault : r.fault = entCause e (ch.queue.isSome || ch.fill) ch.queue.isSome
  dropped : r.dropped = false

/-- The locks of an entry are one of its sources and one of its destinations at most (R191). -/
theorem length_locks (p : Plan) (seq ctx core : Nat) (ccb : Cap) : (p.locks seq ctx core ccb).length ≤ 2 := by
  have hone : ∀ o : Option (Nat × Nat × Nat), o.toList.length ≤ 1 := fun o => by cases o <;> simp
  simp only [Plan.locks, List.length_append, List.length_map]
  have h1 := hone (lockRange (p.pieces.map (fun x => x.gsrc)))
  have h2 := hone (lockRange (p.pieces.map (fun x => x.gdst)))
  omega

/-- The entry that is next is taken, once its OP is asked for, its chain has not ended and its control block is in order. -/
theorem startEntry_takes {s : State} {die eng : Nat} {op : Nat → Bool} {ch : Chain} {n : Handed} {e : List Byte}
    (hnext : s.engNext die eng = some (ch, n, e)) (hne : e ≠ []) (hop : op (fld e 0 1) = true) (hended : ch.ended = false)
    (hclean : (ch.queue.isSome || ch.fill || (match s.ccbPlace die ch.ccb with | some blk => s.ccbClean die blk | none => true)) = true)
    (hlocks : (s.core (ch.publisher n.seq).2).locks.length + 2 ≤ 64) :
    ∃ u r, Aside (s.modEngine die eng (fun g => { g with last := ch.ccb })) u ∧ Takes s ch n e r ∧
      s.startEntry die eng op = u.modEngine die eng (fun g => { g with run := some r }) := by
  have hempty : e.isEmpty = false := by simpa using hne
  unfold State.startEntry
  simp -zeta -zetaHave only [hnext, hempty, Bool.false_eq_true, if_false, hop, Bool.not_true]
  extract_lets pub blockless base clean new s1 s2 go p locks isSaved s3 s4 s5
  have h2 : Aside s1 s2 := by
    unfold s2; split
    · exact aside_of_eq rfl rfl
    · exact .refl s1
  have hgo : ∀ t r', Aside s1 t → Takes s ch n e r' →
      ∃ u r, Aside s1 u ∧ Takes s ch n e r ∧ go t r' = u.modEngine die eng (fun g => { g with run := some r }) :=
    fun t r' ht hr => ⟨_, r', ht.trans (aside_setChainState t ch 1), hr, rfl⟩
  rw [if_neg (by simp [hended]), if_neg (show ¬(!clean) = true by rw [show clean = true from hclean]; decide)]
  split
  next k hcause => exact hgo s2 _ h2 ⟨rfl, rfl, rfl, rfl, rfl, hcause.symm, rfl⟩
  next hcause =>
    have hcore : (s2.core pub.2).locks = (s.core pub.2).locks := by unfold s2; split <;> rfl
    have hfew : locks.length ≤ 2 := by
      unfold locks; split
      · exact Nat.zero_le 2
      · exact length_locks ..
    have hroom : ¬64 < (s2.core pub.2).locks.length + locks.length := by
      rw [hcore]
      exact Nat.not_lt.2 ((Nat.add_le_add_left hfew _).trans hlocks)
    rw [if_neg (by simp [hroom])]
    refine hgo _ _ ?_ ⟨rfl, rfl, rfl, rfl, rfl, hcause.symm, rfl⟩
    have htag : Aside s2 s2.newTag.2 := aside_of_eq rfl rfl
    have h3 : Aside s2 s3 := htag.trans <| by
      unfold s3; split
      · exact aside_modAny ..
      · exact aside_modCore s2.newTag.2 pub.2 fun _ => rfl
    have h5 : Aside s1 s5 := h2.trans (h3.trans ((aside_clearLines ..).trans (aside_countPlan s4 die p)))
    refine h5.trans (Aside.trans ?_ (aside_askPlan ..))
    split
    · exact .refl s5
    · exact (aside_dropFar ..).trans (aside_dropFar ..)

/-- Such an entry runs after the step. -/
theorem engineStep_takes {s : State} {die eng op : Nat} {ch : Chain} {n : Handed} {e : List Byte} (hpins : NoPins s) (hcmd : s.nextCmd = none)
    (hnext : s.engNext die eng = some (ch, n, e)) (hne : e ≠ []) (hop : fld e 0 1 = op) (hended : ch.ended = false)
    (hclean : (ch.queue.isSome || ch.fill || (match s.ccbPlace die ch.ccb with | some blk => s.ccbClean die blk | none => true)) = true)
    (hlocks : (s.core (ch.publisher n.seq).2).locks.length + 2 ≤ 64) :
    ∃ t, act (retryPins (fun s => s.engineStep die eng op)) s = .next t ∧ (t.engine die eng).last = ch.ccb ∧
      ∃ r, (t.engine die eng).run = some r ∧ Takes s ch n e r := by
  obtain ⟨u, r, haside, htakes, hstart⟩ :=
    startEntry_takes (op := fun o => o == op) hnext hne (by simp [hop]) hended hclean hlocks
  have hstep : s.engineStep die eng op = u.modEngine die eng (fun g => { g with run := some r }) := by
    rw [State.engineStep, State.handCopy, hcmd, hstart]
  have hpinsu : NoPins u := haside.pins hpins
  have hlast : (u.engine die eng).last = ch.ccb := by rw [haside.engine, engine_modEngine]
  have hengine : (s.engineStep die eng op).engine die eng = { u.engine die eng with run := some r } := by rw [hstep, engine_modEngine]
  refine ⟨(s.engineStep die eng op).seal s.mem, ?_, ?_, r, ?_, htakes⟩
  · rw [act, retryPins_of_noPins (f := fun s => s.engineStep die eng op) (by rw [hstep]; exact hpinsu)]
  · exact (congrArg Engine.last hengine).trans hlast
  · exact congrArg Engine.run hengine

end Sys2Proof.Proofs

/-! SUPPORT of O46: the data of a linear copy and of a fill (R188). -/

namespace Sys2Proof.Proofs

open Sys2Proof Sys2Proof.Machine Sys2Proof.Claims

/-- No place is pinned where no line is. -/
theorem pinnedAny_of_noPins {s : State} (h : NoPins s) (p : Nat) : s.pinnedAny p = false :=
  List.any_eq_false.2 fun e he hpin => by simp [h e he] at hpin

section Data

variable {s : State} {die eng : Nat} {r : Running} (hpins : NoPins s) (hrun : (s.engine die eng).run = some r) (hfault : r.fault = none)
  (hmoved : r.moved = false) (hdropped : r.dropped = false) (hreads : r.reads = []) (hwrites : r.writes = [])

include hpins hrun hfault hmoved hdropped hreads hwrites

/-- A plan of one piece whose sources hold no poison moves that piece. -/
theorem engineOutcome_piece {x : Piece} {v : Nat} {bad : Option Nat} (hplan : s.plan die r.ctx (s.wobjOf r.owner) r.ent = { pieces := [x], bad := bad, valid := v })
    (hclean : ∀ p ∈ x.src, s.poisonedAt p = false) :
    s.engineOutcome die eng = some (r, x.dst.zip (x.f (x.src.map (s.engByte die r)) (x.dst.map (s.engByte die r))), min v 65535, bad) := by
  have hreqs : s.engReqs.filter (fun q => r.reads.contains q.tag || r.writes.contains q.tag) = [] := by simp [hreads, hwrites]
  have hany : ∀ ps : List Nat, ps.any s.pinnedAny = false := fun ps => List.any_eq_false.2 fun p _ => by simp [pinnedAny_of_noPins hpins]
  have hcells : s.cellsOf die r [x] [] = (x.dst.zip (x.f (x.src.map (s.engByte die r)) (x.dst.map (s.engByte die r))), false) := by
    have hsrc : ¬x.src.any s.poisonedAt = true := fun h => by
      obtain ⟨p, hp, hbad⟩ := List.any_eq_true.1 h
      simp [hclean p hp] at hbad
    rw [State.cellsOf, if_neg hsrc, State.cellsOf]
    rfl
  simp only [State.engineOutcome, hrun, State.outcome, hreqs, List.any_nil, List.any_cons, hfault, hmoved, hdropped, hplan, hany, hcells,
    Bool.or_self, Bool.false_eq_true, if_false, Option.map_some]

/-- A linear copy moves the bytes of its source. -/
theorem engineOutcome_linear {src dst : List Nat} (hop : fld r.ent 0 1 = 1)
    (hdst : s.side die r.ctx (entD r.ent) (fld r.ent 16 8) (fld r.ent 32 8) (dstNeed (s.wobjOf r.owner) (fld r.ent 16 8 / 2 ^ 44)) = (dst, none))
    (hsrc : s.side die r.ctx (entS r.ent) (fld r.ent 8 8) (fld r.ent 32 8) 1 = (src, none)) (hlen : src.length = dst.length)
    (hclean : ∀ p ∈ src, s.poisonedAt p = false) :
    s.engineOutcome die eng = some (r, dst.zip (src.map (s.engByte die r)), 0, none) := by
  have hplan : s.plan die r.ctx (s.wobjOf r.owner) r.ent = { pieces := [
      { src := src, dst := dst, f := fun x _ => x,
        gsrc := sideG (entS r.ent) (fld r.ent 8 8) (fld r.ent 32 8), gdst := sideG (entD r.ent) (fld r.ent 16 8) (fld r.ent 32 8) }] } := by
    have htake : src.take dst.length = src := by rw [← hlen, List.take_length]
    simp only [State.plan, hop, State.planLinear, hdst, hsrc, hlen, Nat.min_self, htake, List.take_length, Nat.le_refl, if_true]
  exact engineOutcome_piece hpins hrun hfault hmoved hdropped hreads hwrites hplan hclean

/-- A fill moves its pattern. -/
theorem engineOutcome_fill {dst : List Nat} (hop : fld r.ent 0 1 = 4)
    (hdst : s.side die r.ctx (entD r.ent) (fld r.ent 16 8) (fld r.ent 32 8) (dstNeed (s.wobjOf r.owner) (fld r.ent 16 8 / 2 ^ 44)) = (dst, none)) :
    s.engineOutcome die eng = some (r, dst.zip ((List.range dst.length).map (fun k => ((r.ent.drop 40)[k % 8]?).getD 0)), 0, none) := by
  have hplan : s.plan die r.ctx (s.wobjOf r.owner) r.ent = { pieces := [
      { dst := dst, f := fun _ old => (List.range old.length).map (fun k => ((r.ent.drop 40)[k % 8]?).getD 0),
        gdst := sideG (entD r.ent) (fld r.ent 16 8) (fld r.ent 32 8) }] } := by
    simp only [State.plan, hop, State.planFill, hdst]
  have hmove := engineOutcome_piece hpins hrun hfault hmoved hdropped hreads hwrites hplan fun p hp => absurd hp List.not_mem_nil
  simpa only [List.length_map, Nat.zero_min] using hmove

end Data

end Sys2Proof.Proofs

/-! SUPPORT of O46: STATUS and the fields of a control block at the end of an entry (R184, R187, R190). -/

namespace Sys2Proof.Proofs

open Sys2Proof Sys2Proof.Machine Sys2Proof.Claims

/-! ### A range has as many places as bytes -/

/-- The bytes of the first pages of a range. -/
def pageBytes (ofs n k : Nat) : Nat := min (ofs + n) ((ofs / 65536 + k) * 65536) - ofs

/-- Each page adds its own. -/
theorem pageBytes_succ (ofs n k : Nat) :
    pageBytes ofs n k + (min (ofs + n) ((ofs / 65536 + k + 1) * 65536) - (if k = 0 then ofs else (ofs / 65536 + k) * 65536)) = pageBytes ofs n (k + 1) := by
  unfold pageBytes
  split <;> omega

/-- The pages of a range hold all of it. -/
theorem pageBytes_all (ofs n : Nat) : pageBytes ofs n ((ofs % 65536 + n) / 65536 + (if (ofs % 65536 + n) % 65536 = 0 then 0 else 1)) = n := by
  unfold pageBytes
  split <;> omega

/-- The places of a range. -/
theorem unitRange_length {s : State} {d n need : Nat} {c : Cap} {write handler : Bool} {ps : List Nat} (h : s.unitRange d c n need write handler = .ok ps) :
    ps.length = n := by
  unfold State.unitRange at h
  extract_lets ofs last pages at h
  rw [← pageBytes_all ofs n]
  change _ = pageBytes ofs n pages
  generalize pages = k at h ⊢
  induction k generalizing ps with
  | zero =>
    cases h
    unfold pageBytes
    simp only [List.length_nil]
    omega
  | succ k ih =>
    rw [List.range_succ, List.foldl_append, List.foldl_cons, List.foldl_nil] at h
    split at h
    · cases h
    next qs hqs =>
      dsimp only at h
      split at h
      · cases h
      · cases h
        rw [List.length_append, ih hqs, run_length, pageBytes_succ]

/-! ### STATUS and two fields -/

section Fields

variable {s u : State} {es : List Nat} {blk st : Nat} (hblk : pTag blk = 0) (hdisjoint : ∀ p ∈ es, p ∉ run blk 64)
  (hbytes : ∀ a, u.byte a = (sGet (es.zip (natBytes 4 st)) a).getD (s.byte a))

/-- A field lies in its control block. -/
theorem mem_run_of_field {blk lo n p : Nat} (h : lo + n ≤ 64) (hp : p ∈ run (blk + 8 * lo) n) : p ∈ run blk 64 := by
  obtain ⟨i, hi, rfl⟩ := List.mem_map.1 hp
  rw [List.mem_range] at hi
  exact List.mem_map.2 ⟨lo + i, List.mem_range.2 (by omega), by omega⟩

include hblk hdisjoint hbytes

/-- STATUS stays as two fields of the control block are written after it. -/
theorem status_setCcb (hnodup : es.Nodup) (hlen : es.length = 4) {d lo n v lo' n' v' : Nat} (hlo : lo + n ≤ 64) (hlo' : lo' + n' ≤ 64) :
    bytesNat (es.map ((u.setCcb d blk lo n v).setCcb d blk lo' n' v').byte) = st % 2 ^ 32 := by
  have hkeep : ∀ a ∈ es, ((u.setCcb d blk lo n v).setCcb d blk lo' n' v').byte a = (sGet (es.zip (natBytes 4 st)) a).getD (s.byte a) := fun a ha => by
    rw [byte_setCcb_ne hblk fun hmem => hdisjoint a ha (mem_run_of_field hlo' hmem), byte_setCcb_ne hblk fun hmem => hdisjoint a ha (mem_run_of_field hlo hmem),
      hbytes]
  rw [List.map_congr_left hkeep, zip_lookup hnodup (by rw [hlen, natBytes_length]), bytesNat_natBytes, show 256 ^ 4 = 2 ^ 32 by decide]

omit hdisjoint in
/-- Every other byte is as it was. -/
theorem byte_status_setCcb {d lo n v lo' n' v' a : Nat} (hes : a ∉ es) (hlo : a ∉ run (blk + 8 * lo) n) (hlo' : a ∉ run (blk + 8 * lo') n') :
    ((u.setCcb d blk lo n v).setCcb d blk lo' n' v').byte a = s.byte a := by
  rw [byte_setCcb_ne hblk hlo', byte_setCcb_ne hblk hlo, hbytes, zip_lookup_ne hes, Option.getD_none]

end Fields

/-- The one place of a byte. -/
theorem not_mem_run_one {a p : Nat} (h : a ≠ p) : a ∉ run p 1 := by
  simpa [run] using h

/-! ### What becomes free with an engine -/

/-- A change of contexts, cores, chains and counters alone. -/
theorem sameMap_of_eq {s t : State} (hmem : t.mem = s.mem) (hwr : t.wr = s.wr) (hpoison : t.poison = s.poison) (hdies : t.dies = s.dies) (hjob : t.job = s.job)
    (hgrid : t.grid = s.grid) (hleases : t.leases = s.leases) (hqps : t.qps = s.qps) : SameMap s t where
  bytes a := by rw [State.byte, State.byte, hmem, hwr]
  poison := hpoison
  l2 d := by rw [State.die, State.die, hdies]
  fabric d := by rw [State.die, State.die, hdies]
  job := hjob
  grid := hgrid
  leases := hleases
  qps := hqps

/-- A change of a die that leaves its copies and its place in the grid. -/
theorem sameMap_modDie (s : State) (d : Nat) {f : Die → Die} (hl2 : ∀ x, (f x).l2 = x.l2) (hfabric : ∀ x, (f x).fabric = x.fabric) : SameMap s (s.modDie d f) where
  bytes _ := rfl
  poison := rfl
  l2 a := by
    simp only [State.die, State.modDie_dies, sGet_sPut]
    split
    next ha => subst ha; exact hl2 _
    · rfl
  fabric a := by
    simp only [State.die, State.modDie_dies, sGet_sPut]
    split
    next ha => subst ha; exact hfabric _
    · rfl
  job := rfl
  grid := rfl
  leases := rfl
  qps := rfl

/-- A change of a context. -/
theorem sameMap_modAny (s : State) (k : Nat) (f : Ctx → Ctx) : SameMap s (s.modAny k f) := by
  unfold State.modAny
  split
  · exact sameMap_of_eq rfl rfl rfl rfl rfl rfl rfl rfl
  · split
    · exact .refl s
    · exact sameMap_of_eq rfl rfl rfl rfl rfl rfl rfl rfl

/-- A context changes no chain and no die. -/
theorem modAny_chains (s : State) (k : Nat) (f : Ctx → Ctx) : (s.modAny k f).chains = s.chains ∧ (s.modAny k f).dies = s.dies := by
  unfold State.modAny
  split
  · exact ⟨rfl, rfl⟩
  · split <;> exact ⟨rfl, rfl⟩

/-- A change of a die that keeps its records. -/
theorem recs_modDie (s : State) (d a : Nat) (f : Die → Die) (hf : ∀ x, (f x).recs = x.recs) : ((s.modDie d f).die a).recs = (s.die a).recs := by
  simp only [State.die, State.modDie_dies, sGet_sPut]
  split
  next ha => subst ha; exact hf _
  · rfl

section Free

variable (s : State) (die eng : Nat) (r : Running)

/-- The state without the requests of an entry. -/
def forgotten : State := { s with engReqs := s.engReqs.filter (fun q => !(r.reads.contains q.tag || r.writes.contains q.tag)) }

/-- The lines of an entry are present again. -/
theorem sameMap_setLines (ctx tag : Nat) : SameMap s (s.setLines ctx die tag) := by
  unfold State.setLines
  extract_lets s1
  have h1 : SameMap s s1 := sameMap_modAny ..
  exact h1.trans (sameMap_modDie s1 die (fun _ => rfl) fun _ => rfl)

/-- What a free engine leaves as it was. -/
theorem sameMap_freeEngine : SameMap s (s.freeEngine die eng r) := by
  have hreqs : SameMap s (forgotten s r) := sameMap_of_eq rfl rfl rfl rfl rfl rfl rfl rfl
  have hlocks : SameMap ((forgotten s r).setLines r.ctx die r.tag) (released s die r) := sameMap_of_eq rfl rfl rfl rfl rfl rfl rfl rfl
  have hengine : SameMap (released s die r) (s.freeEngine die eng r) := by
    rw [freeEngine_eq, State.modEngine]
    exact sameMap_modDie _ die (fun _ => rfl) fun _ => rfl
  exact hreqs.trans ((sameMap_setLines ..).trans (hlocks.trans hengine))

/-- Its chains. -/
theorem freeEngine_chains : (s.freeEngine die eng r).chains = s.chains := (modAny_chains (forgotten s r) r.ctx _).1

/-- The records of the dies. -/
theorem freeEngine_recs (d : Nat) : ((s.freeEngine die eng r).die d).recs = (s.die d).recs := by
  have hdies : ((forgotten s r).modAny r.ctx (fun c => { c with absent := c.absent.filter (fun e => e.2 != r.tag) })).dies = s.dies :=
    (modAny_chains ..).2
  have hlines : (((forgotten s r).setLines r.ctx die r.tag).die d).recs = (s.die d).recs := by
    rw [State.setLines, recs_modDie, State.die, hdies, State.die]
    exact fun _ => rfl
  rw [freeEngine_eq, State.modEngine, recs_modDie]
  · exact hlines
  · exact fun _ => rfl

end Free

end Sys2Proof.Proofs

/-! SUPPORT of O46: how an entry of a program's chain ends (R184, R187, R190). -/

namespace Sys2Proof.Proofs

open Sys2Proof Sys2Proof.Machine Sys2Proof.Claims

/-- An entry of a program's chain whose STATUS lies in the canopy beside the chain's control block. -/
structure OwnEntry (s : State) (die : Nat) (r : Running) (ch : Chain) (blk : Nat) (es : List Nat) : Prop where
  queue : r.queue = none
  owner : r.owner = none
  chain : s.chainOf die r = some ch
  nodup : es.Nodup
  beside : ∀ p ∈ es, pTag p = 0 ∧ p ∉ run blk 64
  block : pTag blk = 0
  range : s.unitRange die (capAdd r.entry 28) 4 2 true false = .ok es

/-- DONESEQ and STATE of a chain, by a state that agrees. -/
theorem chainDone_of_sameMap {w u : State} (hsame : SameMap w u) {ch : Chain} {blk : Nat} (hblk : pTag blk = 0)
    (hplace : w.ccbPlace ch.die ch.ccb = some blk) (seq : Nat) :
    u.chainDone ch seq = (u.setCcb ch.die blk 32 8 seq).setCcb ch.die blk 41 1
      (if ch.ended = true then 2 else if w.ccb ch.die blk 24 8 ≤ seq then 0 else 1) := by
  have hpub : (u.setCcb ch.die blk 32 8 seq).ccb ch.die blk 24 8 = w.ccb ch.die blk 24 8 :=
    (ccb_setCcb_ne hblk ch.die (.inl (by decide))).trans (hsame.ccb ch.die hblk 24 8)
  simp only [State.chainDone, hsame.ccbPlace hblk hplace, hpub]

/-- A record that is added. -/
theorem recs_put (s : State) (d : Nat) (k : FaultRec) : ((s.modDie d (fun y => { y with recs := y.recs ++ [k] })).die d).recs = (s.die d).recs ++ [k] := by
  simp only [State.die, State.modDie_dies, sGet_sPut_self, Option.getD_some]

/-- The record of an entry of a program's chain. -/
theorem entryRec_own (s : State) {r : Running} (die cause : Nat) (hq : r.queue = none) (ho : r.owner = none) :
    SameMap s (s.entryRec die r cause) ∧ (s.entryRec die r cause).chains = s.chains ∧
      ∃ k, ((s.entryRec die r cause).die (dieOf r.core)).recs = (s.die (dieOf r.core)).recs ++ [k] ∧ k.cls = 0x14 ∧ k.cause = cause ∧ k.opn = true ∧
        k.addr = r.ccb ∧ k.info = BitVec.ofNat 64 r.seq := by
  have hctx : SameMap s s.noCtx.2 := sameMap_of_eq rfl rfl rfl rfl rfl rfl rfl rfl
  unfold State.entryRec
  simp only [hq, ho]
  refine ⟨hctx.trans (sameMap_modDie _ _ (fun _ => rfl) fun _ => rfl), rfl, _, recs_put s.noCtx.2 (dieOf r.core) _, rfl, rfl, rfl, rfl, rfl⟩

section Status

variable {s : State} {die : Nat} {r : Running} {ch : Chain} {blk : Nat} {es : List Nat} (h : OwnEntry s die r ch blk es)

include h

/-- The places of STATUS are not of the table control object. -/
theorem OwnEntry.tags (st : Nat) : ∀ x ∈ es.zip (natBytes 4 st), pTag x.1 ≠ 7 := fun x hx => by
  rw [(h.beside x.1 (List.of_mem_zip hx).1).1]; decide

/-- They are written once. -/
theorem OwnEntry.once (st : Nat) : ((es.zip (natBytes 4 st)).map (fun x => x.1)).Nodup := by
  rw [List.map_fst_zip (by rw [unitRange_length h.range, natBytes_length])]
  exact h.nodup

/-- STATUS as a state writes it that agrees with the entry's. -/
theorem OwnEntry.unitSet {u : State} (hu : SameMap s u) (st : Nat) : u.unitSet die (capAdd r.entry 28) 4 st = u.unitPuts die (es.zip (natBytes 4 st)) := by
  have hps : u.unitRange die (capAdd r.entry 28) (natBytes 4 st).length 2 true false = .ok es := by rw [natBytes_length, hu.unitRange, h.range]
  exact unitWrite_local hps fun p hp => by simp [isRemote, (h.beside p hp).1]

/-- Such states agree after it. -/
theorem OwnEntry.sameMap {u : State} (hu : SameMap s u) (st : Nat) :
    SameMap (s.unitSet die (capAdd r.entry 28) 4 st) (u.unitSet die (capAdd r.entry 28) 4 st) := by
  rw [h.unitSet (.refl s), h.unitSet hu]
  exact hu.unitPuts die (h.tags st) (h.once st)

/-- The bytes after it. -/
theorem OwnEntry.byte {u : State} {st : Nat} (hu : SameMap (s.unitSet die (capAdd r.entry 28) 4 st) u) (a : Nat) :
    u.byte a = (sGet (es.zip (natBytes 4 st)) a).getD (s.byte a) := by
  rw [hu.bytes, h.unitSet (.refl s), byte_unitPuts (h.tags st) (h.once st)]

/-- An entry without arrival that is done: STATUS, DONESEQ and STATE. -/
theorem OwnEntry.finishEntry (eng code : Nat) (hbarv : entBarv r.ent = false ∨ r.dropped = true)
    (hplace : (s.unitSet die (capAdd r.entry 28) 4 (statusWord r.valid code 0)).ccbPlace ch.die ch.ccb = some blk) :
    ∃ u, SameMap (s.unitSet die (capAdd r.entry 28) 4 (statusWord r.valid code 0)) u ∧
      s.finishEntry die eng r code = (u.setCcb ch.die blk 32 8 r.seq).setCcb ch.die blk 41 1
        (if (ch.ended || (fld r.ent 0 1 == 15 && !r.dropped)) = true then 2
          else if (s.unitSet die (capAdd r.entry 28) 4 (statusWord r.valid code 0)).ccb ch.die blk 24 8 ≤ r.seq then 0 else 1) := by
  have hfree := sameMap_freeEngine s die eng r
  have hchain : (s.freeEngine die eng r).chainOf die r = some ch := by rw [State.chainOf, freeEngine_chains]; exact h.chain
  have harrive : (entBarv r.ent && !r.dropped) = false := by
    rcases hbarv with hb | hd
    · rw [hb, Bool.false_and]
    · rw [hd, Bool.not_true, Bool.and_false]
  have hmod : SameMap s ((s.freeEngine die eng r).modChain r.ccb false die
      (fun c => { c.past r with ended := c.ended || (fld r.ent 0 1 == 15 && !r.dropped) })) := hfree.trans (sameMap_of_eq rfl rfl rfl rfl rfl rfl rfl rfl)
  have hsame := h.sameMap hmod (statusWord r.valid code 0)
  refine ⟨_, hsame, ?_⟩
  simp only [State.finishEntry, hchain, h.queue, h.owner, harrive, Bool.false_eq_true, if_false, Option.isSome_none]
  exact chainDone_of_sameMap (ch := { ch with ended := ch.ended || (fld r.ent 0 1 == 15 && !r.dropped) }) hsame h.block hplace r.seq

/-- An entry that faults: STATUS, STATE, FAULTSEQ, its chain stopped and its record. -/
theorem OwnEntry.faultEntry (eng cause : Nat) (hplace : (s.unitSet die (capAdd r.entry 28) 4 (statusWord 0 2 cause)).ccbPlace ch.die ch.ccb = some blk) :
    ∃ u, SameMap (s.unitSet die (capAdd r.entry 28) 4 (statusWord 0 2 cause)) u ∧
      s.faultEntry die eng r cause = (u.setCcb ch.die blk 41 1 3).setCcb ch.die blk 48 8 r.seq ∧
      (∀ x ∈ u.chains, x.ccb = r.ccb → x.fill = false → x.faulted = true) ∧
      ∃ k, (u.die (dieOf r.core)).recs = (s.die (dieOf r.core)).recs ++ [k] ∧ k.cls = 0x14 ∧ k.cause = cause ∧ k.opn = true ∧ k.addr = r.ccb ∧
        k.info = BitVec.ofNat 64 r.seq := by
  have hrec := entryRec_own (s.freeEngine die eng r) die cause h.queue h.owner
  obtain ⟨hsamer, hchains, k, hrecs, hk⟩ := hrec
  generalize hv : (s.freeEngine die eng r).entryRec die r cause = v at hsamer hchains hrecs
  have hchain : v.chainOf die r = some ch := by rw [State.chainOf, hchains, freeEngine_chains]; exact h.chain
  have hmod : SameMap s (v.modChain r.ccb false die (fun c => { c.rebind with faulted := true })) :=
    (sameMap_freeEngine s die eng r).trans (hsamer.trans (sameMap_of_eq rfl rfl rfl rfl rfl rfl rfl rfl))
  have hsame := h.sameMap hmod (statusWord 0 2 cause)
  have hput := h.unitSet hmod (statusWord 0 2 cause)
  refine ⟨_, hsame, ?_, fun x hx hccb hfill => ?_, k, ?_, hk⟩
  · simp only [State.faultEntry, hv, hchain, h.queue, h.owner, hsame.ccbPlace h.block hplace]
  · rw [hput, unitPuts_frame (h.tags _)] at hx
    obtain ⟨y, -, rfl⟩ := List.mem_map.1 hx
    by_cases hy : y.ccb = r.ccb ∧ y.fill = false ∧ (!false ∨ y.die = die)
    · rw [if_pos hy]
    · rw [if_neg hy] at hccb hfill
      exact absurd ⟨hccb, hfill, .inl rfl⟩ hy
  · rw [hput, die_unitPuts (h.tags _), ← freeEngine_recs s die eng r, ← hrecs]
    split <;> rfl

/-- What the end of such an entry writes. -/
theorem OwnEntry.finishEntry_bytes (eng code : Nat) (hbarv : entBarv r.ent = false ∨ r.dropped = true)
    (hplace : (s.unitSet die (capAdd r.entry 28) 4 (statusWord r.valid code 0)).ccbPlace ch.die ch.ccb = some blk) :
    let t := s.finishEntry die eng r code
    bytesNat (es.map t.byte) = statusWord r.valid code 0 % 2 ^ 32 ∧ t.num (blk + 8 * 32) 8 = r.seq % 2 ^ 64 ∧
      t.num (blk + 8 * 41) 1 = (if (ch.ended || (fld r.ent 0 1 == 15 && !r.dropped)) = true then 2
        else if (s.unitSet die (capAdd r.entry 28) 4 (statusWord r.valid code 0)).ccb ch.die blk 24 8 ≤ r.seq then 0 else 1) ∧
      ∀ a, a ∉ es → a ∉ run (blk + 8 * 32) 8 → a ≠ blk + 8 * 41 → t.byte a = s.byte a := by
  intro t
  obtain ⟨u, hsame, hend⟩ := h.finishEntry eng code hbarv hplace
  have hbytes := h.byte hsame
  have hbeside : ∀ p ∈ es, p ∉ run blk 64 := fun p hp => (h.beside p hp).2
  rw [show t = _ from hend]
  refine ⟨status_setCcb h.block hbeside hbytes h.nodup (unitRange_length h.range) (by decide) (by decide), ?_, ?_,
    fun a hes h32 h41 => byte_status_setCcb h.block hbytes hes h32 (not_mem_run_one h41)⟩
  · rw [num_setCcb_ne h.block (.inl (by decide)), num_setCcb h.block, show 256 ^ 8 = 2 ^ 64 by decide]
  · rw [num_setCcb h.block]
    refine Nat.mod_eq_of_lt ?_
    split
    · decide
    · split <;> decide

/-- What the fault of such an entry writes, stops and records. -/
theorem OwnEntry.faultEntry_bytes (eng cause : Nat) (hplace : (s.unitSet die (capAdd r.entry 28) 4 (statusWord 0 2 cause)).ccbPlace ch.die ch.ccb = some blk) :
    let f := s.faultEntry die eng r cause
    bytesNat (es.map f.byte) = statusWord 0 2 cause % 2 ^ 32 ∧ f.num (blk + 8 * 41) 1 = 3 ∧ f.num (blk + 8 * 48) 8 = r.seq % 2 ^ 64 ∧
      (∀ a, a ∉ es → a ∉ run (blk + 8 * 48) 8 → a ≠ blk + 8 * 41 → f.byte a = s.byte a) ∧
      (∀ x ∈ f.chains, x.ccb = r.ccb → x.fill = false → x.faulted = true) ∧
      ∃ k, (f.die (dieOf r.core)).recs = (s.die (dieOf r.core)).recs ++ [k] ∧ k.cls = 0x14 ∧ k.cause = cause ∧ k.opn = true ∧ k.addr = r.ccb ∧
        k.info = BitVec.ofNat 64 r.seq := by
  intro f
  obtain ⟨u, hsame, hend, hfaulted, k, hrecs, hk⟩ := h.faultEntry eng cause hplace
  have hbytes := h.byte hsame
  have hbeside : ∀ p ∈ es, p ∉ run blk 64 := fun p hp => (h.beside p hp).2
  have hchains : ∀ (v : State) (d lo n x : Nat), (v.setCcb d blk lo n x).chains = v.chains := fun v d lo n x => by
    rw [setCcb_local h.block, unitPuts_frame (pTag_fieldCells h.block)]
  have hkeep : ∀ (v : State) (d lo n x a : Nat), ((v.setCcb d blk lo n x).die a).recs = (v.die a).recs := fun v d lo n x a => by
    rw [die_setCcb h.block]
    split <;> rfl
  rw [show f = _ from hend]
  refine ⟨status_setCcb h.block hbeside hbytes h.nodup (unitRange_length h.range) (by decide) (by decide), ?_, ?_,
    fun a hes h48 h41 => byte_status_setCcb h.block hbytes hes (not_mem_run_one h41) h48, ?_, k, ?_, hk⟩
  · rw [num_setCcb_ne h.block (.inl (by decide)), num_setCcb h.block, Nat.mod_eq_of_lt (by decide)]
  · rw [num_setCcb h.block, show 256 ^ 8 = 2 ^ 64 by decide]
  · rw [hchains, hchains]; exact hfaulted
  · rw [hkeep, hkeep]; exact hrecs

end Status

end Sys2Proof.Proofs

/-! SUPPORT of O46: the arrival of a copy, and the end of a queue's command (R184, R196, R320). -/

namespace Sys2Proof.Proofs

open Sys2Proof Sys2Proof.Machine Sys2Proof.Claims

/-! ### The arrival of a copy (R196) -/

/-- A stale arrival is counted, up to the largest count. -/
def countStale (x : Core) : Core := { x with stalearr := if x.stalearr = 0xFFFFFFFF then x.stalearr else x.stalearr + 1 }

/-- An arrival that finds no context, no barrier of its generation or no pending arrival is stale. -/
theorem copyArrive_stale {s : State} {r : Running} (h : ∀ c, s.anyCtx r.ctx = some c →
    let b := pbOf (s.num (sharedP r.ctx (fld r.ent 24 4)) 8)
    fld r.ent 24 4 % 8 ≠ 0 ∨ c.kernel.sharedBytes < fld r.ent 24 4 + 8 ∨ b.gen ≠ fld r.ent 4 2 % 2 ^ 15 ∨ b.expected = 0 ∨ b.pending = 0) :
    s.copyArrive r = s.modCore r.core countStale := by
  unfold State.copyArrive
  extract_lets a stale p w
  split
  · rfl
  next c hc =>
    split
    · rfl
    next hin =>
      have hdead : w.gen ≠ fld r.ent 4 2 % 2 ^ 15 ∨ w.expected = 0 ∨ w.pending = 0 := by
        rcases h c hc with halign | hsize | hdead
        · exact absurd (.inl halign) hin
        · exact absurd (.inr hsize) hin
        · exact hdead
      exact if_pos hdead

/-- Then one more stale arrival is counted, and no byte changes. -/
theorem stalearr_countStale (s : State) (k : Nat) :
    ((s.modCore k countStale).core k).stalearr = (if (s.core k).stalearr = 0xFFFFFFFF then (s.core k).stalearr else (s.core k).stalearr + 1) ∧
      ∀ p, (s.modCore k countStale).byte p = s.byte p := by
  refine ⟨?_, fun p => rfl⟩
  rw [State.core, State.modCore, sGet_sPut_self, Option.getD_some]
  rfl

/-- Any other arrival counts. -/
theorem copyArrive_counts {s : State} {r : Running} {c : Ctx} (hc : s.anyCtx r.ctx = some c) (halign : fld r.ent 24 4 % 8 = 0)
    (hin : fld r.ent 24 4 + 8 ≤ c.kernel.sharedBytes)
    (hlive : let b := pbOf (s.num (sharedP r.ctx (fld r.ent 24 4)) 8); b.gen = fld r.ent 4 2 % 2 ^ 15 ∧ b.expected ≠ 0 ∧ b.pending ≠ 0) :
    s.copyArrive r = s.putNum (sharedP r.ctx (fld r.ent 24 4)) 8 (pbWord ((pbOf (s.num (sharedP r.ctx (fld r.ent 24 4)) 8)).arrive 1)) := by
  obtain ⟨hgen, hexpected, hpending⟩ := hlive
  unfold State.copyArrive
  extract_lets a stale p w
  rw [hc]
  have hout : ¬(a % 8 ≠ 0 ∨ c.kernel.sharedBytes < a + 8) := fun h => h.elim (· halign) hin.not_gt
  have hdead : ¬(w.gen ≠ fld r.ent 4 2 % 2 ^ 15 ∨ w.expected = 0 ∨ w.pending = 0) := fun h => h.elim (· hgen) fun h => h.elim hexpected hpending
  exact (if_neg hout).trans (if_neg hdead)

/-- What one arrival leaves. -/
theorem arrive_one {b : PBar} (h : b.pending ≠ 0) :
    b.arrive 1 = if b.pending = 1 then { b with phase := 1 - b.phase, pending := b.expected } else { b with pending := b.pending - 1 } := by
  by_cases hlast : b.pending = 1
  · rw [if_pos hlast, arrive_last hlast.symm]
  · rw [if_neg hlast, arrive_of_lt (by omega)]

/-- A number that is put, and every other byte. -/
theorem num_putNum (s : State) (p v : Nat) : (s.putNum p 8 v).num p 8 = v % 2 ^ 64 ∧ ∀ q, q ∉ run p 8 → (s.putNum p 8 v).byte q = s.byte q := by
  have hbyte : ∀ q, (s.putNum p 8 v).byte q = (sGet ((run p 8).zip (natBytes 8 v)) q).getD (s.byte q) :=
    (writes_homeWrites s _).byte (by rw [run_zip_natBytes]; exact run_nodup ..)
  refine ⟨?_, fun q hq => by rw [hbyte, zip_lookup_ne hq, Option.getD_none]⟩
  rw [State.num, State.bytes, List.map_congr_left fun q _ => hbyte q, zip_lookup (run_nodup ..) (by rw [run_length, natBytes_length]), bytesNat_natBytes,
    show 256 ^ 8 = 2 ^ 64 by decide]

/-! ### A queue after writes -/

/-- Writes leave the open commands of a queue. -/
theorem noteEn_pend (q : Queue) (cells : List (Nat × Byte)) : (q.noteEn cells).pend = q.pend := by
  unfold Queue.noteEn
  split
  · rfl
  · split <;> rfl

/-- So do a field's. -/
theorem pend_setCcb (s : State) {blk : Nat} (hblk : pTag blk = 0) (die lo n v q : Nat) (hn : n ≠ 0) : ((s.setCcb die blk lo n v).queue q).pend = (s.queue q).pend := by
  have hne : (run (blk + 8 * lo) n).zip (natBytes n v) ≠ [] := fun h => hn (by simpa using congrArg List.length h)
  rw [setCcb_local hblk, unitPuts_home (pTag_fieldCells hblk) hne, homeWrites_frame, State.queue, State.queue, State.modDie_queues,
    sGet_map (fun q : Queue => q.noteEn _)]
  cases sGet s.queues q with
  | none => rfl
  | some x => exact noteEn_pend x _

/-- A queue that was changed. -/
theorem queue_modQueue (s : State) (q : Nat) (f : Queue → Queue) : (s.modQueue q f).queue q = f (s.queue q) := by
  simp only [State.queue, State.modQueue, sGet_sPut_self, Option.getD_some]

/-! ### A command completes (R320) -/

/-- The open command of a sequence number is the only one of that number. -/
theorem modPend_eq {s : State} {q seq : Nat} {p : Pending} {f g : Pending → Pending} (hp : p ∈ (s.queue q).pend) (hseq : p.seq = seq)
    (hnodup : ((s.queue q).pend.map (fun p => p.seq)).Nodup) (hfg : f p = g p) : s.modPend q seq f = s.modPend q seq g := by
  have hsame : ∀ x ∈ (s.queue q).pend, (if x.seq = seq then f x else x) = if x.seq = seq then g x else x := fun x hx => by
    by_cases hx' : x.seq = seq
    · have hxp : x = p := List.inj_on_of_nodup_map hnodup hx hp (hx'.trans hseq.symm)
      rw [hxp, hfg]
    · rw [if_neg hx', if_neg hx']
  simp only [State.modPend, State.modQueue]
  rw [List.map_congr_left hsame]

/-- The open command, once it is changed. -/
theorem find_modPend {s : State} {q seq : Nat} {p : Pending} {f : Pending → Pending} (hf : ∀ x, (f x).seq = x.seq ∧ (f x).done = x.done)
    (hfind : (s.queue q).pend.find? (fun p => p.seq == seq && !p.done) = some p) :
    ((s.modPend q seq f).queue q).pend.find? (fun p => p.seq == seq && !p.done) = some (f p) := by
  obtain ⟨hseq, -⟩ : p.seq = seq ∧ p.done = false := by simpa using List.find?_some hfind
  have hpred : (fun p : Pending => p.seq == seq && !p.done) ∘ (fun p => if p.seq = seq then f p else p) = fun p => p.seq == seq && !p.done := by
    funext x
    dsimp only [Function.comp]
    split
    · rw [(hf x).1, (hf x).2]
    · rfl
  rw [State.modPend, queue_modQueue]
  dsimp only
  rw [List.find?_map, hpred, hfind, Option.map_some, if_pos hseq]

section Complete

variable {s : State} {q seq : Nat} {p : Pending} (hfind : (s.queue q).pend.find? (fun p => p.seq == seq && !p.done) = some p) (hfin : p.fin = none)
  (hnodup : ((s.queue q).pend.map (fun p => p.seq)).Nodup)

include hfind hfin hnodup

/-- The end of an open command is decided, then finished. -/
theorem completeCmd_eq (valid code cause value : Nat) :
    s.completeCmd q seq valid code cause value = (s.modPend q seq (fun p => { p with fin := some (statusWord valid code cause, value) })).finishCmd q seq := by
  obtain ⟨hseq, hdone⟩ : p.seq = seq ∧ p.done = false := by simpa using List.find?_some hfind
  rw [State.completeCmd, modPend_eq (List.mem_of_find?_eq_some hfind) hseq hnodup]
  simp [hfin, hdone]

/-- One without a record writes its STATUS and is done. -/
theorem completeCmd_noRecord (valid code cause value : Nat) (hcrec : p.crec = none) :
    s.completeCmd q seq valid code cause value =
      ((((s.modPend q seq (fun p => { p with fin := some (statusWord valid code cause, value) })).unitSet 0 (capAdd p.entry 28) 4
        (statusWord valid code cause)).modPend q seq (fun p => { p with done := true })).advanceDone q).showQueue q := by
  have hopen := find_modPend (f := fun p => { p with fin := some (statusWord valid code cause, value) }) (fun _ => ⟨rfl, rfl⟩) hfind
  rw [completeCmd_eq hfind hfin hnodup, State.finishCmd, hopen]
  simp only [hcrec, Option.isSome_none, Bool.false_and, Bool.false_eq_true, if_false]

/-- One with a record that waits for nothing writes it as well. -/
theorem completeCmd_record (valid code cause value : Nat) {c : Cap} (hcrec : p.crec = some c)
    (hreleased : (s.modPend q seq (fun p => { p with fin := some (statusWord valid code cause, value) })).releaseAll.allReleased true = true)
    (howes : (s.modPend q seq (fun p => { p with fin := some (statusWord valid code cause, value) })).releaseAll.cmdOwes
      { p with fin := some (statusWord valid code cause, value) } = false) :
    s.completeCmd q seq valid code cause value =
      (((((s.modPend q seq (fun p => { p with fin := some (statusWord valid code cause, value) })).releaseAll.unitSet 0 (capAdd p.entry 28) 4
        (statusWord valid code cause)).unitWrite 0 c (natBytes 8 p.seq ++ natBytes 4 (statusWord valid code cause) ++ natBytes 4 value)).modPend q seq
          (fun p => { p with done := true })).advanceDone q).showQueue q := by
  have hopen := find_modPend (f := fun p => { p with fin := some (statusWord valid code cause, value) }) (fun _ => ⟨rfl, rfl⟩) hfind
  rw [completeCmd_eq hfind hfin hnodup, State.finishCmd, hopen]
  simp only [hcrec] at howes
  simp only [hcrec, Option.isSome_some, Bool.true_and, if_true, hreleased, howes, Bool.not_true, Bool.or_self, Bool.false_eq_true, if_false]

end Complete

/-! ### DONESEQ of a queue (R320) -/

/-- The sequence number up to which every command of a queue has completed. -/
def doneSeq (x : Queue) : Nat :=
  match x.pend.dropWhile (fun p => p.done) with
  | [] => x.taken
  | p :: _ => p.seq - 1

/-- The place of a queue's control block. -/
def queueBlock (s : State) (q : Nat) : Option Nat := (s.qdesc q).bind (fun d => s.ccbPlace 0 d.chain)

/-- States that agree find it at the same place. -/
theorem SameMap.queueBlock {s t : State} (h : SameMap s t) {q blk : Nat} (hblk : pTag blk = 0) (hat : queueBlock s q = some blk) : queueBlock t q = some blk := by
  obtain ⟨d, hd, hplace⟩ := Option.bind_eq_some_iff.1 hat
  exact Option.bind_eq_some_iff.2 ⟨d, (h.qdesc q).trans hd, h.ccbPlace hblk hplace⟩

section Done

variable {s : State} {q blk : Nat} (hblk : pTag blk = 0)

include hblk

omit hblk in
/-- STATE of a queue's control block stays or is written. -/
theorem chainState_eq (hat : queueBlock s q = some blk) : s.chainState q = s ∨ ∃ v, s.chainState q = s.setCcb 0 blk 41 1 v := by
  unfold State.chainState
  rw [show (s.qdesc q).bind (fun d => s.ccbPlace 0 d.chain) = some blk from hat]
  exact (ite_eq_or_eq ..).imp_right fun hset => ⟨_, hset⟩

/-- What it leaves. -/
theorem chainState_frame (hat : queueBlock s q = some blk) : ((s.chainState q).queue q).pend = (s.queue q).pend ∧
    (s.chainState q).num (blk + 8 * 32) 8 = s.num (blk + 8 * 32) 8 ∧ ∀ a, a ≠ blk + 8 * 41 → (s.chainState q).byte a = s.byte a := by
  rcases chainState_eq hat with h | ⟨v, h⟩
  · rw [h]
    exact ⟨rfl, rfl, fun _ _ => rfl⟩
  · rw [h]
    exact ⟨pend_setCcb s hblk 0 41 1 v q one_ne_zero, num_setCcb_ne hblk (.inl (by decide)), fun a ha => byte_setCcb_ne hblk (not_mem_run_one ha)⟩

/-- DONESEQ, where it is found before and after it is written. -/
theorem advanceDone_writes (hat : queueBlock s q = some blk) (hafter : queueBlock (s.setCcb 0 blk 32 8 (doneSeq (s.queue q))) q = some blk) :
    ((s.advanceDone q).queue q).pend = (s.queue q).pend.dropWhile (fun p => p.done) ∧
      (s.advanceDone q).num (blk + 8 * 32) 8 = doneSeq (s.queue q) % 2 ^ 64 ∧
      ∀ a, a ∉ run (blk + 8 * 32) 8 → a ≠ blk + 8 * 41 → (s.advanceDone q).byte a = s.byte a := by
  have hsame : SameMap s (s.modQueue q (fun x => { x with pend := (s.queue q).pend.dropWhile (fun p => p.done) })) := sameMap_of_eq rfl rfl rfl rfl rfl rfl rfl rfl
  have hdone : s.advanceDone q = ((s.modQueue q (fun x => { x with pend := (s.queue q).pend.dropWhile (fun p => p.done) })).setCcb 0 blk 32 8
      (doneSeq (s.queue q))).chainState q := by
    have hat' := hsame.queueBlock hblk hat
    unfold queueBlock at hat'
    simp only [State.advanceDone, hat']
    rfl
  have hpend : ((s.modQueue q (fun x => { x with pend := (s.queue q).pend.dropWhile (fun p => p.done) })).queue q).pend =
      (s.queue q).pend.dropWhile (fun p => p.done) := by rw [queue_modQueue]
  rw [hdone]
  generalize s.modQueue q (fun x => { x with pend := (s.queue q).pend.dropWhile (fun p => p.done) }) = u at hsame hpend
  have hset : SameMap (s.setCcb 0 blk 32 8 (doneSeq (s.queue q))) (u.setCcb 0 blk 32 8 (doneSeq (s.queue q))) := by
    rw [setCcb_local hblk, setCcb_local hblk]
    exact hsame.unitPuts 0 (pTag_fieldCells hblk) (by rw [run_zip_natBytes]; exact run_nodup ..)
  obtain ⟨hkeep, hnum, hbyte⟩ := chainState_frame hblk (hset.queueBlock hblk hafter)
  refine ⟨?_, ?_, fun a h32 h41 => ?_⟩
  · rw [hkeep, pend_setCcb u hblk 0 32 8 _ q (by decide), hpend]
  · rw [hnum, num_setCcb hblk, show 256 ^ 8 = 2 ^ 64 by decide]
  · rw [hbyte a h41, byte_setCcb_ne hblk h32, hsame.bytes]

end Done

end Sys2Proof.Proofs

/-! PROOF of O46: what the engines' events and the ends of commands do (R187, R188, R190, R196, R320). -/

namespace Sys2Proof.Proofs

open Sys2Proof Sys2Proof.Machine Sys2Proof.Claims

/-- The six OPs of an engine are its step, under the pins' check (R187). -/
theorem exec_engineStep {i : Instr} {op die eng : Nat} (s : State)
    (h : (i, op) ∈ [(Instr.linearCopy die eng, 1), (.tileCopy die eng, 2), (.windowCopy die eng, 3), (.fill die eng, 4),
      (.barrierArrivalOnly die eng, 5), (.endOfStream die eng, 15)]) :
    exec i s = act (retryPins (fun s => s.engineStep die eng op)) s := by
  simp only [List.mem_cons, Prod.mk.injEq, List.not_mem_nil, or_false] at h
  rcases h with ⟨rfl, rfl⟩ | ⟨rfl, rfl⟩ | ⟨rfl, rfl⟩ | ⟨rfl, rfl⟩ | ⟨rfl, rfl⟩ | ⟨rfl, rfl⟩ <;> rfl

/-- An event that leaves its engine free reaches a state in which it is. -/
theorem reaches_free {i : Instr} {s u : State} {die eng : Nat} (h : Becomes i s u ∧ (u.engine die eng).run = none) :
    Becomes i s u ∧ Reaches i s (fun t => (t.engine die eng).run = none) := ⟨h.1, _, h.1, h.2⟩

/-- Settles O46: an engine's events are followed from the entry that is next to its end or its fault; what is beside the engines never changes them. -/
theorem engineEvents : Obligations.EngineEvents := by
  unfold Obligations.EngineEvents
  intro s die eng hpins
  refine ⟨?start, fun r cells valid hlocal => ⟨?complete, ?fault, ?data, ?ends, ?arrival⟩, ?write, ?command, ?doneseq⟩
  case start =>
    intro i op hi ch n e hcmd hnext hne hop hended hclean hlocks
    obtain ⟨t, hact, hlast, r, hrun, htakes⟩ := engineStep_takes hpins hcmd hnext hne hop hended hclean hlocks
    exact ⟨t, (exec_engineStep s hi).trans hact, hlast, r, hrun, htakes.ccb, htakes.seq, htakes.entry, htakes.ent, htakes.queue, htakes.fault, htakes.dropped⟩
  case complete => exact fun hout => reaches_free (engineEntryComplete_becomes hpins hlocal hout)
  case fault => exact fun k hout hbad => reaches_free (engineEntryFault_becomes hpins hout hbad)
  case data =>
    intro e need src dst hrun hfault hmoved hdropped hreads hwrites hdst
    exact ⟨fun hop hsrc hlen hpoison => engineOutcome_linear hpins hrun hfault hmoved hdropped hreads hwrites hop hdst hsrc hlen hpoison,
      fun hop => engineOutcome_fill hpins hrun hfault hmoved hdropped hreads hwrites hop hdst⟩
  case ends =>
    intro ch blk es code cause hqueue howner hchain hnodup hbeside hblk hrange w hdone hfault ends t f
    have h : OwnEntry s die r ch blk es := ⟨hqueue, howner, hchain, hnodup, hbeside, hblk, hrange⟩
    refine ⟨fun hbarv => h.finishEntry_bytes eng code hbarv hdone, fun hcause => h.faultEntry_bytes eng cause ?_⟩
    have hvalid : w 2 cause = s.unitSet die (capAdd r.entry 28) 4 (statusWord 0 2 cause) := by simp only [w, if_neg hcause.ne']
    rwa [← hvalid]
  case arrival =>
    intro a t n stale
    have hstale : t = s.modCore r.core countStale → stale := fun ht => by
      unfold stale
      rw [ht]
      exact stalearr_countStale s r.core
    refine ⟨fun hnone => hstale (copyArrive_stale fun c hc => ?_), fun c hc => ?_⟩
    · rw [hnone] at hc; cases hc
    intro p b
    refine ⟨fun hdead => hstale (copyArrive_stale fun c' hc' => ?_), fun halign hin hgen hexpected hpending => ?_⟩
    · rw [hc] at hc'; cases hc'
      exact hdead
    · have hcounts : t = s.putNum p 8 (pbWord (b.arrive 1)) := copyArrive_counts hc halign hin ⟨hgen, hexpected, hpending⟩
      rw [hcounts, arrive_one hpending]
      obtain ⟨hnum, hbyte⟩ := num_putNum s p (pbWord
        (if b.pending = 1 then { b with phase := 1 - b.phase, pending := b.expected } else { b with pending := b.pending - 1 }))
      exact ⟨hnum, by rw [State.putNum, homeWrites_frame], hbyte⟩
  case write => exact fun c bs ps hps hlen hnodup hlocal a => byte_unitWrite hps hlen hnodup hlocal a
  case command =>
    intro q seq valid code cause value p hfind hfin hnodup st u done
    exact ⟨fun hcrec => completeCmd_noRecord hfind hfin hnodup valid code cause value hcrec,
      fun c hcrec hreleased howes => completeCmd_record hfind hfin hnodup valid code cause value hcrec hreleased howes⟩
  case doneseq =>
    intro q blk hblk rest n at_ t hat hafter
    exact advanceDone_writes hblk hat hafter

end Sys2Proof.Proofs


/-! SUPPORT of O25, O27, O28, O30: lanes whose threads wait (R76, R249). -/

namespace Sys2Proof.Proofs

open Sys2Proof Sys2Proof.Machine Sys2Proof.Claims

/-! ### Changes of the acting lanes' threads -/

/-- Two changes of the threads of the same lanes are one. -/
theorem eachLane_eachLane (c : Ctx) (ls : List Lane) {f : Lane → Thread → Thread} (hf : ∀ l t, (f l t).tid = t.tid) (g : Lane → Thread → Thread) :
    (c.eachLane ls f).eachLane ls g = c.eachLane ls (fun l t => g l (f l t)) := by
  simp only [Ctx.eachLane, List.map_map, Ctx.mk.injEq, true_and, and_true]
  refine List.map_congr_left fun t _ => ?_
  simp only [Function.comp_apply]
  cases hl : ls.find? (fun l => l.t.tid == t.tid) with
  | none => simp only [hl]
  | some l => simp only [hf, hl]

/-- A change of the threads that some lanes are of. -/
theorem modT_any_eq_eachLane (c : Ctx) (ls : List Lane) (f : Thread → Thread) :
    c.modT (fun t => ls.any (fun l => l.t.tid == t.tid)) f = c.eachLane ls (fun _ t => f t) := by
  rw [← modT_eq_eachLane]
  congr 1
  funext t
  rw [List.contains_eq_any_beq, List.any_map]
  congr 1
  funext l
  exact Bool.beq_comm

/-- A change of the threads that a change of some lanes has marked, and of no others. -/
theorem modT_eachLane {c : Ctx} {ls : List Lane} {f : Lane → Thread → Thread} {p : Thread → Bool} (hin : ∀ l t, p (f l t) = true)
    (hout : ∀ t ∈ c.threads, p t = false) (g : Thread → Thread) : (c.eachLane ls f).modT p g = c.eachLane ls (fun l t => g (f l t)) := by
  simp only [Ctx.eachLane, Ctx.modT, List.map_map, Ctx.mk.injEq, true_and, and_true]
  refine List.map_congr_left fun t ht => ?_
  simp only [Function.comp_apply]
  cases hl : ls.find? (fun l => l.t.tid == t.tid) with
  | none => simp only [hout t ht, Bool.false_eq_true, if_false]
  | some l => simp only [hin, if_true]

/-- The context whose acting lanes change no register but predicates as they move on, and whose wheels stay. -/
theorem ctxRan_threads {cycle : Nat} {b : Beat} {c c' : Ctx} {h : Head} {P : Lane → Word} {T : Lane → Thread → Thread} {g : Ctx → Ctx}
    (f : Lane → Thread → Thread)
    (hc' : c' = { g c with threads := ((c.advance b h.yld).eachLane (acting b c h) f).threads, wheels := c.wheels })
    (htid : ∀ l t, (f l t).tid = t.tid)
    (hf : ∀ l x, l.t = x → f l (moved b h x) = { T l x with
      pc := (moved b h x).pc, vregs := x.vregs, preds := P l, pend := (f l (moved b h x)).pend, stamp := (f l (moved b h x)).stamp
      yielded := (f l (moved b h x)).yielded, latched := x.latched, acqs := x.acqs }) :
    CtxRan cycle b c h { preds := P, thread := T, ctx := g } c' := by
  refine ctxRan_of_maps (ranT b h (acting b c h) f) id (by rw [hc', advance_eachLane, List.map_id]) (ranT_tid b h _ htid) (fun _ => rfl)
    (fun x hx => ?_) (fun w _ => wheelRan_none _ b c h _ w (fun _ => rfl) (fun _ => rfl) (fun _ => rfl))
  rw [ranT_acting hx]
  cases hl : actingLane b c h x with
  | none =>
    simp only [Option.map_none, Option.getD_none]
    rw [moved_eq]
    constructor <;> simp [hl, after, untouched, Thread.v]
  | some l =>
    simp only [Option.map_some, Option.getD_some]
    rw [hf l x (actingLane_t hl), moved_eq]
    constructor <;> simp [hl, after, untouched, Thread.v]

/-- The lane of an acting thread. -/
theorem actingLane_of_mem {b : Beat} {c : Ctx} {h : Head} {l : Lane} (hl : l ∈ acting b c h) : actingLane b c h l.t = some l := by
  obtain ⟨hthread, hwheel⟩ := lanesOf_acting b c h l hl
  cases hfound : actingLane b c h l.t with
  | none =>
    rw [← acting_find b c h l.t hthread] at hfound
    exact absurd (beq_self_eq_true l.t.tid) (List.find?_eq_none.1 hfound l hl)
  | some m =>
    have ht := actingLane_t hfound
    obtain ⟨-, hw⟩ := lanesOf_acting b c h m (actingLane_mem hthread hfound)
    rw [ht, hwheel] at hw
    obtain ⟨mt, mw⟩ := m
    obtain rfl : mt = l.t := ht
    obtain rfl : l.w = mw := Option.some.inj hw
    rfl

/-- A thread of the context as it moves on with a change of the acting lanes. -/
theorem thread_started {b : Beat} {c : Ctx} {h : Head} {f : Lane → Thread → Thread} (htid : ∀ l t, (f l t).tid = t.tid) {i : Nat} {x : Thread}
    (hx : c.thread i = some x) : ((c.advance b h.yld).eachLane (acting b c h) f).thread i =
      some (((actingLane b c h x).map (fun l => f l (moved b h x))).getD (moved b h x)) := by
  obtain rfl := Ctx.thread_tid hx
  rw [advance_eachLane, thread_of_map rfl (ranT_tid b h _ htid), hx, Option.map_some, ranT_acting hx]

/-! ### Suspension -/

/-- The wait that threads enter (R249). -/
def newWait (s : State) (tids : List Nat) (kind : WaitKind) (till : Option Nat) : Wait :=
  { wid := s.nextWid, tids := tids, kind := kind, deadline := till, span := till.getD s.cycle - s.cycle }

/-- A thread that enters a wait. -/
def suspendT (wid : Nat) (t : Thread) : Thread := { t with st := .suspended wid, stamp := none }

/-- A context with a new wait. -/
def joined (c : Ctx) (w : Wait) : Ctx := { c with waits := c.waits ++ [w] }

/-- A state that has used a wait number. -/
def nextWait (s : State) : State := { s with nextWid := s.nextWid + 1 }

/-- Threads of a context that was just set enter a wait, with or without a deadline. -/
theorem suspend_set (s : State) (k : Nat) (c : Ctx) (tids : List Nat) (kind : WaitKind) (till : Option Nat) :
    (s.setCtx k c).suspend k tids kind till =
      (nextWait s).setCtx k (joined (c.modT (fun t => tids.contains t.tid) (suspendT s.nextWid)) (newWait s tids kind till)) := by
  rw [State.suspend, State.modCtx_setCtx]
  rfl

/-- The threads of some lanes of a context that was just set enter a wait. -/
theorem suspend_lanes (s : State) (k : Nat) (c : Ctx) (ls : List Lane) (kind : WaitKind) (till : Option Nat) :
    (s.setCtx k c).suspend k (ls.map (fun l => l.t.tid)) kind till =
      (nextWait s).setCtx k (joined (c.eachLane ls (fun _ t => suspendT s.nextWid t)) (newWait s (ls.map (fun l => l.t.tid)) kind till)) := by
  rw [suspend_set, modT_eq_eachLane]

/-- A step that sets one context and uses a wait number changes nothing else. -/
theorem turned_nextWait {s : State} {b : Beat} {c c' : Ctx} {h : Head} {E : Effect} (hc' : CtxRan s.cycle b c h E c') :
    Turned s b c h E (((nextWait s).setCtx b.ctx c').seal s.mem) := turned_setCtx hc' (s.nextWid + 1)

end Sys2Proof.Proofs

/-! PROOF of O27: YIELD and the end of its count (R207). -/

namespace Sys2Proof.Proofs

open Sys2Proof Sys2Proof.Machine Sys2Proof.Claims

/-- A thread that YIELD marks. -/
def yieldT (t : Thread) : Thread := { t with yielded := true }

section Yield

variable {s : State} {b : Beat} {c : Ctx} (hi : InIssue s b c) (h : Head)

/-- The context whose acting threads YIELD has marked and changed by `f`. -/
def yielders (b : Beat) (c : Ctx) (h : Head) (f : Thread → Thread) : Ctx := (c.advance b h.yld).eachLane (acting b c h) (fun _ t => f (yieldT t))

/-- Each acting thread is marked. -/
theorem yielders_marked {f : Thread → Thread} (htid : ∀ t, (f t).tid = t.tid) {l : Lane} (hl : l ∈ acting b c h) :
    (yielders b c h f).thread l.t.tid = some (f (yieldT (moved b h l.t))) := by
  obtain ⟨hthread, -⟩ := lanesOf_acting b c h l hl
  rw [yielders, thread_started (fun _ t => htid (yieldT t)) hthread, actingLane_of_mem hl]
  rfl

include hi

/-- YIELD without a count. -/
theorem exec_yield_zero : exec (.yield h 0) s = .next ((s.setCtx b.ctx (yielders b c h id)).seal s.mem) := by
  refine (act_onBeat hi h _).trans ?_
  rw [if_pos (.inl rfl), siteOf_b, siteOf_lanes, State.modCtx_setCtx, modT_eq_eachLane]
  rfl

/-- YIELD with a count suspends the threads that it marks. -/
theorem exec_yield_count {count : BitVec 16} (hcount : count ≠ 0) (hne : acting b c h ≠ []) : exec (.yield h count) s =
    .next (((nextWait s).setCtx b.ctx (joined (yielders b c h (suspendT s.nextWid))
      (newWait s ((acting b c h).map (fun l => l.t.tid)) .yield (some (s.cycle + count.toNat))))).seal s.mem) := by
  have hsome : ¬(count = 0 ∨ (acting b c h).map (fun l => l.t.tid) = []) := by
    rintro (hz | hz)
    · exact hcount hz
    · exact hne (List.map_eq_nil_iff.1 hz)
  refine (act_onBeat hi h _).trans ?_
  rw [siteOf_b, siteOf_lanes, if_neg hsome, State.modCtx_setCtx, modT_eq_eachLane, suspend_lanes]
  exact congrArg (fun c' => (.next (((nextWait s).setCtx b.ctx (joined c' _)).seal s.mem) : Out))
    (eachLane_eachLane _ _ (f := fun _ t => yieldT t) (fun _ _ => rfl) _)

end Yield

/-- Settles O27: the threads are marked, and suspended if there is a count; the end of the count makes them ready. -/
theorem yielding : Obligations.Yielding := by
  refine ⟨fun s b c hi h count hne => ?begin, ?expiry⟩
  case begin =>
    by_cases hcount : count = 0
    · subst hcount
      refine ⟨_, _, exec_yield_zero hi h, sGet_setCtx_seal .., fun l hl => ⟨_, yielders_marked h (f := id) (fun _ => rfl) hl, rfl⟩, fun _ => ⟨?_, rfl⟩,
        fun hz => absurd rfl hz⟩
      refine turned_setCtx (ctxRan_threads (P := fun l => l.t.preds) (T := fun _ x => x) (g := id) (fun _ t => yieldT t) rfl (fun _ _ => rfl)
        fun l x hl => ?_) s.nextWid
      subst hl
      rw [moved_eq]
      rfl
    · refine ⟨_, _, exec_yield_count hi h hcount hne, sGet_setCtx_seal .., fun l hl => ⟨_, yielders_marked h (f := suspendT s.nextWid) (fun _ => rfl) hl, rfl⟩,
        fun hz => absurd hz hcount, fun _ => ⟨rfl, turned_nextWait ?_⟩⟩
      refine ctxRan_threads (fun _ t => suspendT s.nextWid (yieldT t)) ?_ (fun _ _ => rfl) fun l x hl => by subst hl; rw [moved_eq]; rfl
      rw [newWait, Option.getD_some, Nat.add_sub_cancel_left]
      rfl
  case expiry =>
    intro s k till c w hc hw hkind hdl hpast
    obtain ⟨wid, tids, kind, deadline⟩ := w
    obtain rfl : deadline = some till := hdl
    change execYieldExpiry k wid s = _
    rcases hkind with hkind | hkind <;> obtain rfl := hkind <;> simp [execYieldExpiry, act, hc, hw, hpast]

end Sys2Proof.Proofs


/-! PROOF of O25: RCV converges, waits, and ends at its deadline (R205). -/

namespace Sys2Proof.Proofs

open Sys2Proof Sys2Proof.Machine Sys2Proof.Claims

/-! ### The live threads of a context -/

/-- The lanes of threads. -/
theorem mem_lanes {c : Ctx} {ts : List Nat} {l : Lane} :
    l ∈ c.lanes ts ↔ l.t.tid ∈ ts ∧ c.thread l.t.tid = some l.t ∧ c.wheel l.t.wheel = some l.w := by
  constructor
  · intro hl
    obtain ⟨i, hi, heq⟩ := List.mem_filterMap.1 hl
    obtain ⟨ht, hw⟩ := lanesOf_lanes c ts l hl
    refine ⟨?_, ht, hw⟩
    split at heq
    · cases heq
    · rename_i t hthread
      obtain ⟨w, -, rfl⟩ := Option.map_eq_some_iff.1 heq
      rw [Ctx.thread_tid hthread]
      exact hi
  · rintro ⟨hi, ht, hw⟩
    refine List.mem_filterMap.2 ⟨l.t.tid, hi, ?_⟩
    simp only [ht, hw, Option.map_some]

/-- The live threads of the lanes that pass a test. -/
theorem mem_liveOf {c : Ctx} {p : Lane → Bool} {i : Nat} :
    i ∈ c.liveOf p ↔ ∃ x w, c.thread i = some x ∧ c.wheel x.wheel = some w ∧ x.live = true ∧ p { t := x, w := w } = true := by
  simp only [Ctx.liveOf, List.mem_map, List.mem_filter, mem_lanes, Bool.and_eq_true]
  constructor
  · rintro ⟨⟨x, w⟩, ⟨⟨-, ht, hw⟩, hlive, hp⟩, rfl⟩
    exact ⟨x, w, ht, hw, hlive, hp⟩
  · rintro ⟨x, w, ht, hw, hlive, hp⟩
    obtain rfl := Ctx.thread_tid ht
    exact ⟨{ t := x, w := w }, ⟨⟨⟨x, List.mem_of_find?_eq_some ht, rfl⟩, ht, hw⟩, hlive, hp⟩, rfl⟩

/-! ### Waits that open and close by arrival -/

/-- The first wait of a context. -/
theorem joined_first {c : Ctx} (hc : c.waits = []) (w : Wait) : joined c w = { c with waits := [w] } :=
  congrArg (fun ws => { c with waits := ws ++ [w] }) hc

/-- Threads open a wait in a context that waits for nothing. -/
theorem join_opens (s : State) (k : Nat) {c : Ctx} (hc : c.waits = []) (tids : List Nat) (mine : WaitKind → Bool) (new : WaitKind)
    (add : WaitKind → WaitKind) (till : Option Nat) : (s.setCtx k c).join k tids mine new add till = (s.setCtx k c).suspend k tids new till := by
  simp only [State.join, State.setCtx_ctxs, sGet_sPut_self, hc, List.find?_nil]

/-- The one wait of a context is looked at. -/
theorem settle_one (s : State) (k now : Nat) {c : Ctx} {w : Wait} (hc : c.waits = [w]) :
    (s.setCtx k c).settle k now = (s.setCtx k c).settleOne k now w.wid := by
  simp only [State.settle, State.setCtx_ctxs, sGet_sPut_self, hc, List.foldl_cons, List.foldl_nil]

/-- A thread waits in a wait. -/
def waitsIn (c : Ctx) (wid tid : Nat) : Bool := (c.thread tid).any (fun t => t.st == .suspended wid)

/-- An open RCV instance closes when every live thread of its wheel waits in it. -/
theorem settleOne_rcv (s : State) (k now : Nat) {c : Ctx} {w : Wait} (hw : c.waitOf w.wid = some w) {wheel : Nat} {pc : Cap} {pd : Option Nat}
    (hkind : w.kind = .rcv wheel pc pd) : (s.setCtx k c).settleOne k now w.wid =
      if (c.liveOf (fun l => l.w.idx == wheel)).all (waitsIn c w.wid) then (s.setCtx k c).closeRcv k w wheel pd true else s.setCtx k c := by
  simp only [State.settleOne, State.setCtx_ctxs, sGet_sPut_self, hw, hkind]
  rfl

/-! ### The end of an instance -/

/-- A thread that an instance's end tells whether it converged. -/
def tellT (pd : Option Nat) (conv : Bool) (t : Thread) : Thread :=
  match pd with
  | none => t
  | some k => { t with preds := setPred t.preds k conv }

/-- A thread whose wait is over. -/
def wakeT (t : Thread) : Thread := { t with st := .ready, stamp := none }

/-- The context in which an instance has ended. -/
def rcvEnded (c : Ctx) (wid : Nat) (pd : Option Nat) (conv : Bool) : Ctx :=
  { c.modT (fun t => t.st == .suspended wid) (fun t => wakeT (tellT pd conv t)) with waits := c.waits.filter (fun w => w.wid != wid) }

/-- Two changes of the threads that pass a test, which the first leaves as it is, are one. -/
theorem modT_modT (c : Ctx) {p : Thread → Bool} {f : Thread → Thread} (hf : ∀ t, p t = true → p (f t) = true) (g : Thread → Thread) :
    (c.modT p f).modT p g = c.modT p (fun t => g (f t)) := by
  simp only [Ctx.modT, List.map_map, Ctx.mk.injEq, true_and, and_true]
  refine List.map_congr_left fun t _ => ?_
  cases hp : p t with
  | false => simp only [Function.comp_apply, hp, Bool.false_eq_true, if_false]
  | true => simp only [Function.comp_apply, hp, hf t hp, if_true]

/-- Telling and waking are one change of the threads that wait. -/
theorem wake_told (c : Ctx) (wid k : Nat) (conv : Bool) :
    (c.modT (fun t => t.st == .suspended wid) (fun t => { t with preds := setPred t.preds k conv })).wake wid = rcvEnded c wid (some k) conv :=
  congrArg (fun c' : Ctx => { c' with waits := c.waits.filter (fun w => w.wid != wid) })
    (modT_modT c (p := fun t => t.st == .suspended wid) (f := tellT (some k) conv) (fun _ ht => ht) wakeT)

/-- An instance ends at once when its wheel has no store in its queue and no access that orders later ones. -/
theorem closeRcv_free {s : State} {k : Nat} {c : Ctx} (hc : sGet s.ctxs k = some c) (hstores : NoStores c) (halone : Alone c) (w : Wait) (wheel : Nat)
    (pd : Option Nat) (conv : Bool) : s.closeRcv k w wheel pd conv = s.setCtx k (rcvEnded c w.wid pd conv) := by
  obtain ⟨hdrain, hdrained⟩ := drain_of_noStores hc hstores wheel
  rw [State.closeRcv, hdrain]
  simp only [hdrained, hc, Option.any_some, behind_of_alone halone, Bool.not_true, List.isEmpty_nil, Bool.or_self, Bool.false_eq_true, if_false]
  rw [modCtx_placed hc]
  cases pd with
  | none => rfl
  | some p => exact congrArg (s.setCtx k) (wake_told c w.wid p conv)

/-! ### The beat of an RCV -/

/-- A thread whose re-formed membership ends. -/
def leaveT (t : Thread) : Thread := { t with reformed := none }

section Rcv

variable {s : State} {b : Beat} {c : Ctx} (h : Head) (pd : Option (BitVec 5)) (bound : BitVec 16) (l : Lane)

/-- The cycle in which the instance ends at the latest. -/
def rcvTill (s : State) (b : Beat) (bound : BitVec 16) : Nat :=
  s.cycle + (if bound = 0 then (s.die (dieOf b.core)).rcvwait else bound.toNat)

/-- The wait that the beat opens. -/
def rcvWait (s : State) (b : Beat) (c : Ctx) (h : Head) (pd : Option (BitVec 5)) (bound : BitVec 16) (l : Lane) : Wait :=
  newWait s ((acting b c h).map (fun l => l.t.tid)) (.rcv l.w.idx b.pc (pd.map (fun p => p.toNat))) (some (rcvTill s b bound))

/-- The context in which it is open. -/
def rcvOpen (s : State) (b : Beat) (c : Ctx) (h : Head) (pd : Option (BitVec 5)) (bound : BitVec 16) (l : Lane) : Ctx :=
  joined ((c.advance b h.yld).eachLane (acting b c h) (fun _ t => suspendT s.nextWid (leaveT t))) (rcvWait s b c h pd bound l)

variable (hwheels : wheelsOf (acting b c h) = [l]) (hwaits : c.waits = [])

include hwheels hwaits

/-- The beat opens an instance, which may close at once. -/
theorem exec_rcv (hi : InIssue s b c) : exec (.rcv h pd bound) s =
    .next ((((nextWait s).setCtx b.ctx (rcvOpen s b c h pd bound l)).settleOne b.ctx s.cycle s.nextWid).seal s.mem) := by
  have hmine : (acting b c h).filter (fun x => x.w.idx == l.w.idx) = acting b c h :=
    List.filter_eq_self.2 fun x hx => beq_iff_eq.2 ((wheelsOf_one hwheels).2 x hx)
  have hopen : (rcvOpen s b c h pd bound l).waits = [rcvWait s b c h pd bound l] := congrArg (· ++ [_]) hwaits
  have hnone : ∀ f, ((c.advance b h.yld).eachLane (acting b c h) f).waits = [] := fun _ => hwaits
  refine (act_onBeat hi h _).trans ?_
  rw [siteOf_b, siteOf_lanes, State.modCtx_setCtx, modT_any_eq_eachLane, hwheels]
  dsimp only [List.foldl_cons, List.foldl_nil]
  rw [hmine, join_opens _ _ (hnone _), suspend_lanes]
  rw [show (s.nextWid) = (rcvWait s b c h pd bound l).wid from rfl, ← settle_one _ _ _ hopen]
  refine congrArg (fun c' => (.next ((((nextWait s).setCtx b.ctx (joined c' _)).settle b.ctx s.cycle).seal s.mem) : Out)) ?_
  exact eachLane_eachLane _ _ (f := fun _ t => leaveT t) (fun _ _ => rfl) _

omit hwheels hwaits

/-- A thread of the context in which the instance is open. -/
theorem thread_rcvOpen {i : Nat} {x : Thread} (hx : c.thread i = some x) : (rcvOpen s b c h pd bound l).thread i =
    some (((actingLane b c h x).map (fun _ => suspendT s.nextWid (leaveT (moved b h x)))).getD (moved b h x)) :=
  thread_started (f := fun _ t => suspendT s.nextWid (leaveT t)) (fun _ _ => rfl) hx

/-- What the instance's opening keeps of a thread. -/
theorem rcvOpen_keeps {i : Nat} {y : Thread} (hy : (rcvOpen s b c h pd bound l).thread i = some y) :
    ∃ x, c.thread i = some x ∧ y.wheel = x.wheel ∧ (actingLane b c h x = none → y.live = x.live) := by
  cases hx : c.thread i with
  | none =>
    have hnone : (rcvOpen s b c h pd bound l).thread i = none := by
      refine (congrArg (fun c' : Ctx => c'.thread i) (advance_eachLane c b h (acting b c h) (fun _ t => suspendT s.nextWid (leaveT t)))).trans ?_
      rw [thread_of_map rfl (ranT_tid b h _ (f := fun _ t => suspendT s.nextWid (leaveT t)) fun _ _ => rfl), hx]
      rfl
    rw [hnone] at hy
    cases hy
  | some x =>
    rw [thread_rcvOpen h pd bound l hx] at hy
    obtain rfl := Option.some.inj hy
    refine ⟨x, rfl, ?_, fun hnone => ?_⟩
    · cases actingLane b c h x <;> exact (moved_keeps b h x).2.2
    · rw [hnone, Option.map_none, Option.getD_none, moved_eq]
      rfl

/-- A thread acts just when a lane of the instruction is of it. -/
theorem actingLane_isSome {i : Nat} {x : Thread} (hx : c.thread i = some x) : (∃ m, actingLane b c h x = some m) ↔ ∃ y ∈ acting b c h, y.t.tid = i := by
  constructor
  · rintro ⟨m, hm⟩
    exact ⟨m, actingLane_mem hx hm, by rw [actingLane_t hm, Ctx.thread_tid hx]⟩
  · rintro ⟨y, hy, rfl⟩
    obtain ⟨ht, -⟩ := lanesOf_acting b c h y hy
    obtain rfl := Option.some.inj (hx.symm.trans ht)
    exact ⟨y, actingLane_of_mem hy⟩

variable (hfresh : ∀ x ∈ c.threads, x.st ≠ .suspended s.nextWid)

include hfresh

/-- The threads that wait in the instance are those of the acting lanes. -/
theorem waitsIn_rcvOpen {i : Nat} {x : Thread} (hx : c.thread i = some x) :
    waitsIn (rcvOpen s b c h pd bound l) s.nextWid i = true ↔ ∃ y ∈ acting b c h, y.t.tid = i := by
  rw [← actingLane_isSome h hx, waitsIn, thread_rcvOpen h pd bound l hx, Option.any_some]
  cases hm : actingLane b c h x with
  | none =>
    have hst : (moved b h x).st ≠ .suspended s.nextWid := by rw [moved_eq]; exact hfresh x (List.mem_of_find?_eq_some hx)
    simpa using hst
  | some m => simp [suspendT]

include hwheels

/-- The instance closes just when every live thread of the wheel is one of the beat's. -/
theorem rcv_converges : ((rcvOpen s b c h pd bound l).liveOf (fun x => x.w.idx == l.w.idx)).all (waitsIn (rcvOpen s b c h pd bound l) s.nextWid) = true ↔
    ∀ i x, c.thread i = some x → x.live = true → x.wheel = l.w.idx → ∃ y ∈ acting b c h, y.t.tid = i := by
  obtain ⟨hl, -⟩ := wheelsOf_one hwheels
  obtain ⟨-, hlw⟩ := lanesOf_acting b c h l hl
  have hwheel : c.wheel l.w.idx = some l.w := by rw [Ctx.wheel_idx hlw, hlw]
  simp only [List.all_eq_true, mem_liveOf]
  constructor
  · intro hall i x hx hlive hxw
    obtain ⟨x', hx', hkeep, hlive'⟩ := rcvOpen_keeps h pd bound l (thread_rcvOpen (s := s) h pd bound l hx)
    obtain rfl := Option.some.inj (hx.symm.trans hx')
    by_contra hact
    rw [← actingLane_isSome h hx, not_exists, ← Option.eq_none_iff_forall_ne_some] at hact
    refine absurd ((waitsIn_rcvOpen h pd bound l hfresh hx).1 (hall i ⟨_, l.w, thread_rcvOpen h pd bound l hx, ?_, ?_, beq_self_eq_true _⟩)) ?_
    · rw [hkeep, hxw]
      exact hwheel
    · rw [hlive' hact]
      exact hlive
    · rw [← actingLane_isSome h hx, hact]
      rintro ⟨m, hm⟩
      cases hm
  · rintro hall i ⟨y, w, hy, hw, hlive, hidx⟩
    obtain ⟨x, hx, hkeep, hlive'⟩ := rcvOpen_keeps h pd bound l hy
    rw [waitsIn_rcvOpen h pd bound l hfresh hx]
    by_contra hact
    refine hact (hall i x hx ?_ ?_)
    · rw [← actingLane_isSome h hx, not_exists, ← Option.eq_none_iff_forall_ne_some] at hact
      rw [← hlive' hact]
      exact hlive
    · rw [← hkeep, ← beq_iff_eq.1 hidx]
      exact (Ctx.wheel_idx (c := c) hw).symm

omit hwheels

/-- The context in which it has closed by convergence. -/
theorem rcvEnded_rcvOpen (hwaits : c.waits = []) (pd' : Option Nat) : rcvEnded (rcvOpen s b c h pd bound l) s.nextWid pd' true =
    { (c.advance b h.yld).eachLane (acting b c h) (fun _ t => wakeT (tellT pd' true (suspendT s.nextWid (leaveT t)))) with waits := [] } := by
  have hgone : (rcvOpen s b c h pd bound l).waits.filter (fun w => w.wid != s.nextWid) = [] := by
    show (c.waits ++ [rcvWait s b c h pd bound l]).filter _ = []
    simp [hwaits, rcvWait, newWait]
  rw [rcvEnded, hgone]
  refine congrArg (fun c' : Ctx => { c' with waits := [] }) (modT_eachLane (c := c.advance b h.yld) (f := fun _ t => suspendT s.nextWid (leaveT t))
    (p := fun t => t.st == .suspended s.nextWid) (fun _ _ => beq_self_eq_true _) ?_ (fun t => wakeT (tellT pd' true t)))
  intro t ht
  obtain ⟨x, hx, rfl⟩ := List.mem_map.1 ht
  rw [beq_eq_false_iff_ne]
  split <;> exact hfresh x hx

end Rcv

/-- Settles O25: the beat opens an instance, which closes when no live thread of its wheel is missing; its deadline closes it as it stands. -/
theorem reconvergence : Obligations.Reconvergence := by
  refine ⟨fun s b c hi hstores _ halone hwaits hfresh h pd bound l hwheels => ?begin, ?expiry⟩
  case begin =>
    have hexec := exec_rcv h pd bound l hwheels hwaits hi
    have hfound : (rcvOpen s b c h pd bound l).waitOf s.nextWid = some (rcvWait s b c h pd bound l) := by
      show (c.waits ++ [rcvWait s b c h pd bound l]).find? _ = _
      simp [hwaits, rcvWait, newWait]
    have hsettle := settleOne_rcv (nextWait s) b.ctx s.cycle (w := rcvWait s b c h pd bound l) hfound rfl
    change ((nextWait s).setCtx b.ctx _).settleOne b.ctx s.cycle s.nextWid = ite (List.all _ (waitsIn _ s.nextWid) = true) _ _ at hsettle
    by_cases hall : ∀ i x, c.thread i = some x → x.live = true → x.wheel = l.w.idx → ∃ y ∈ acting b c h, y.t.tid = i
    · rw [if_pos ((rcv_converges h pd bound l hwheels hfresh).2 hall),
        closeRcv_free (c := rcvOpen s b c h pd bound l) (sGet_sPut_self _ _ _) hstores halone, setCtx_twice] at hsettle
      rw [hsettle] at hexec
      refine ⟨_, hexec, rfl, fun _ => turned_nextWait ?_, fun hnot => absurd hall hnot⟩
      refine ctxRan_threads (fun _ t => wakeT (tellT (pd.map (fun p => p.toNat)) true (suspendT s.nextWid (leaveT t)))) ?_ (fun _ _ => ?_) fun l x hl => ?_
      · refine (rcvEnded_rcvOpen h pd bound l hfresh hwaits _).trans ?_
        rw [← hwaits]
        rfl
      · cases pd <;> rfl
      · subst hl
        rw [moved_eq]
        cases pd <;> rfl
    · rw [if_neg (fun hclosed => hall ((rcv_converges h pd bound l hwheels hfresh).1 hclosed))] at hsettle
      rw [hsettle] at hexec
      refine ⟨_, hexec, rfl, fun hyes => absurd hyes hall, fun _ => turned_nextWait ?_⟩
      refine ctxRan_threads (fun _ t => suspendT s.nextWid (leaveT t)) ?_ (fun _ _ => rfl) fun l x hl => by subst hl; rw [moved_eq]; rfl
      exact joined_first (c := (c.advance b h.yld).eachLane (acting b c h) (fun _ t => suspendT s.nextWid (leaveT t))) hwaits _
  case expiry =>
    intro s k c w wheel till pc pd hc hstores _ halone hw hkind hdl hpast
    have hexec : exec (.rcvDeadlineExpiry k w.wid) s = .next ((s.setCtx k (rcvEnded c w.wid pd false)).seal s.mem) := by
      rw [← closeRcv_free hc hstores halone w wheel]
      change execRcvDeadlineExpiry k w.wid s = _
      simp only [execRcvDeadlineExpiry, act, hc, Option.bind_some, hw, hkind, hdl, hpast, if_true]
    refine ⟨_, _, hexec, sGet_setCtx_seal .., quiet_setCtx .., rfl, rfl, fun i x hx => ?_⟩
    refine (thread_of_map (c := c) (c' := rcvEnded c w.wid pd false) rfl (fun t => ?_) i).trans ?_
    · split <;> cases pd <;> rfl
    · rw [hx, Option.map_some]
      by_cases hst : x.st = .suspended w.wid
      · rw [if_pos hst, if_pos (beq_iff_eq.2 hst)]
        cases pd <;> rfl
      · rw [if_neg hst, if_neg (fun e => hst (beq_iff_eq.1 e))]

end Sys2Proof.Proofs


/-! PROOF of O28: .repack gathers of BRA and BRX (R203, R204). -/

namespace Sys2Proof.Proofs

open Sys2Proof Sys2Proof.Machine Sys2Proof.Claims

/-! ### Bytes that are there -/

/-- A map that is set to what it holds. -/
theorem sPut_of_sGet {α : Type} {m : Sparse α} {k : Nat} {v : α} (h : sGet m k = some v) : sPut m k v = m := by
  induction m with
  | nil => cases h
  | cons e m ih =>
    obtain ⟨k', v'⟩ := e
    by_cases hk : k' = k
    · rw [sGet, if_pos hk] at h
      rw [sPut, if_pos hk, hk, Option.some.inj h]
    · rw [sGet, if_neg hk] at h
      rw [sPut, if_neg hk, ih h]

/-- A change that leaves every context as it is. -/
theorem modCtx_same (s : State) (k : Nat) {f : Ctx → Ctx} (hf : ∀ c, f c = c) : s.modCtx k f = s := by
  rw [State.modCtx]
  split
  · rfl
  · rename_i c hc
    rw [hf, State.setCtx, sPut_of_sGet hc]

/-- No thread's fills are forgotten. -/
theorem dropFills_nil (c : Ctx) : c.dropFills [] = c := by
  have hkept : c.loads.filter (fun o => !(o.isFill && o.tids.any (fun i => [].contains i))) = c.loads :=
    List.filter_eq_self.2 fun o _ => by simp
  exact congrArg (fun ls => { c with loads := ls }) hkept

/-- The effect goes on at once when every byte that its lanes read is there, and no fill of theirs is to be forgotten (R267, R374). -/
theorem withBytes_there {s : State} {e : Site} {pol : Nat} {reads : List (Lane × List Nat)} {ls : List Lane} {pads : Lane → List Nat} (f : State → State)
    (hreads : ∀ x ∈ reads, ∃ l ∈ ls, x = (l, pads l)) (hthere : ∀ l ∈ ls, ∀ b ∈ s.laneBytes e.b.ctx l (pads l), b.isSome = true)
    (hfills : (∀ l ∈ ls, pads l = []) ∨ e.c.loads.any (fun o => o.isFill) = false) : s.withBytes e pol reads f = f s := by
  have hlacking : reads.filter (fun x => (s.laneBytes e.b.ctx x.1 x.2).any (fun b => b.isNone)) = [] := by
    refine List.filter_eq_nil_iff.2 fun x hx => ?_
    obtain ⟨l, hl, rfl⟩ := hreads x hx
    rw [List.any_eq_true]
    rintro ⟨b, hb, hnone⟩
    rw [Option.isNone_iff_eq_none.1 hnone] at hb
    exact absurd (hthere l hl none hb) (by decide)
  have hdrop : (∀ l ∈ ls, pads l = []) → (reads.filter (fun x => !x.2.isEmpty)).map (fun x => x.1.t.tid) = [] := by
    intro hnil
    rw [List.map_eq_nil_iff, List.filter_eq_nil_iff]
    intro x hx
    obtain ⟨l, hl, rfl⟩ := hreads x hx
    simp [hnil l hl]
  rw [State.withBytes, State.withBytesBy]
  simp only [hlacking]
  rcases hfills with hnil | hnone
  · rw [hdrop hnil, modCtx_same _ _ dropFills_nil, ite_self]
  · rw [if_neg (by rw [hnone]; decide)]

/-! ### The beat of a .repack branch -/

/-- The targets of the lanes that take the branch, then those of the others, which go on behind it (R203). -/
def aims (b : Beat) (ls : List Lane) (aim : Lane → Cap) : List Target :=
  ls.map (fun l => { tid := l.t.tid, pc := aim l }) ++
    (b.tids.filter (fun i => !ls.any (fun l => l.t.tid == i))).map (fun i => { tid := i, pc := nextPc b.pc })

/-- The context in which the beat's threads wait in the gather that they have opened. -/
def gatherOpen (s : State) (b : Beat) (c : Ctx) (h : Head) (aim : Lane → Cap) : Ctx :=
  joined ((c.advance b h.yld).modT (fun t => b.tids.contains t.tid) (suspendT s.nextWid))
    (newWait s b.tids (.gather b.core b.quarter b.pc b.words (aims b (acting b c h) aim)) (some (s.cycle + 64)))

/-- Accesses whose addresses pass end no run and wait for nothing. -/
theorem findSome_ok {accs : List Acc} (hok : ∀ a ∈ accs, ∃ ps pages, a.r = .ok ps pages) :
    accs.findSome? (fun a => a.r.endsRun) = none ∧ accs.findSome? (fun a => a.r.waits) = none := by
  constructor <;>
  · refine List.findSome?_eq_none_iff.2 fun a ha => ?_
    obtain ⟨ps, pages, hr⟩ := hok a ha
    rw [hr]
    rfl

section Gather

variable {s : State} {b : Beat} {c : Ctx} (hi : InIssue s b c) (h : Head) (hwaits : c.waits = [])

include hi hwaits

/-- A .repack branch whose targets pass opens a gather, which may close at once. -/
theorem act_gatherOp {m : Aim} {aim : Lane → Cap} (pads : Lane → List Nat)
    (hres : ∀ l ∈ acting b c h, ∃ pages, s.aimRes (siteOf b c h) m l = .ok (pads l) pages)
    (hthere : ∀ l ∈ acting b c h, ∀ x ∈ (started s b c h).laneBytes b.ctx l (pads l), x.isSome = true)
    (hfills : (∀ l ∈ acting b c h, pads l = []) ∨ c.loads.any (fun o => o.isFill) = false)
    (hland : ∀ l ∈ acting b c h, m.tag.bind (fun g => s.padBad (siteOf b c h) l (pads l) g) = none)
    (haim : ∀ l ∈ acting b c h, mkCap (m.of b.pc l).1 ((m.of b.pc l).2 % (2 ^ 44 : Int)).toNat = aim l) :
    act (gatherOp h m) s = .next ((((nextWait s).setCtx b.ctx (gatherOpen s b c h aim)).settleOne b.ctx s.cycle s.nextWid).seal s.mem) := by
  have hall : ∀ a ∈ (acting b c h).map (fun l => ({ l := l, r := (s.setCtx b.ctx (c.advance b h.yld)).aimRes (siteOf b c h) m l } : Acc)),
      ∃ pages, a.r = .ok (pads a.l) pages ∧ a.l ∈ acting b c h := by
    intro a ha
    obtain ⟨l, hl, rfl⟩ := List.mem_map.1 ha
    obtain ⟨pages, hp⟩ := hres l hl
    exact ⟨pages, hp, hl⟩
  refine (act_onBeat hi h _).trans ?_
  rw [siteOf_b, siteOf_c, siteOf_lanes]
  obtain ⟨hruns, hholds⟩ := findSome_ok fun a ha => (hall a ha).elim fun _ x => ⟨_, _, x.1⟩
  simp only [hruns, hholds]
  split
  · contradiction
  · contradiction
  have hnone : (c.advance b h.yld).waits = [] := hwaits
  rw [withBytes_there _ ?reads hthere hfills, join_opens _ _ hnone,
    show List.map _ (List.map _ (acting b c h)) = (acting b c h).map (fun l => ({ tid := l.t.tid, pc := aim l } : Target)) from ?same, suspend_set]
  · exact congrArg (fun s' => (.next (State.seal s.mem s') : Out)) (settle_one (nextWait s) b.ctx s.cycle (w := newWait s _ _ _) (congrArg (· ++ [_]) hwaits))
  case reads =>
    intro x hx
    obtain ⟨a, ha, heq⟩ := List.mem_filterMap.1 hx
    obtain ⟨pages, hr, hl⟩ := hall a ha
    rw [hr] at heq
    exact ⟨a.l, hl, (Option.some.inj heq).symm⟩
  case same =>
    rw [List.map_map]
    refine List.map_congr_left fun l hl => ?_
    obtain ⟨pages, hr⟩ := hres l hl
    change (s.setCtx b.ctx (c.advance b h.yld)).aimRes (siteOf b c h) m l = _ at hr
    have hpad : (m.tag.bind fun g => (s.setCtx b.ctx (c.advance b h.yld)).padBad (siteOf b c h) l (pads l) g) = none := hland l hl
    simp only [Function.comp_apply, hr, hpad, haim l hl, Option.map_none]

end Gather

/-- A gather that a live thread of its quarter has not joined stays open. -/
theorem settleOne_gather_open (s : State) (k now : Nat) {c : Ctx} {w : Wait} (hw : c.waitOf w.wid = some w) {core q : Nat} {pc : Cap}
    {words : Word × Word × Word} {ts : List Target} (hkind : w.kind = .gather core q pc words ts) {i : Nat}
    (hlive : i ∈ c.liveOf (fun l => l.w.core == core && l.w.quarter == q)) (hout : waitsIn c w.wid i = false) :
    (s.setCtx k c).settleOne k now w.wid = s.setCtx k c := by
  simp only [State.settleOne, State.setCtx_ctxs, sGet_sPut_self, hw, hkind]
  refine if_neg fun hall => ?_
  have hin : waitsIn c w.wid i = true := List.all_eq_true.1 hall i hlive
  rw [hout] at hin
  cases hin

/-- A head whose guard lets every thread act. -/
def everyone (h : Head) : Head := { h with guard := .always }

/-- Every thread of the beat acts under it. -/
theorem acting_everyone (b : Beat) (c : Ctx) (h : Head) : acting b c (everyone h) = c.lanes b.tids := List.filter_true _

section Opened

variable {s : State} {b : Beat} {c : Ctx} (h : Head) (aim : Lane → Cap) (hwaits : c.waits = []) (hlanes : ∀ i ∈ b.tids, (c.lanes [i]).length = 1)

include hlanes in
/-- The context with the open gather: every thread of the beat waits in it. -/
theorem gatherOpen_eq : gatherOpen s b c h aim = joined ((c.advance b h.yld).eachLane (acting b c (everyone h)) (fun _ t => suspendT s.nextWid t))
    (newWait s b.tids (.gather b.core b.quarter b.pc b.words (aims b (acting b c h) aim)) (some (s.cycle + 64))) := by
  rw [gatherOpen, acting_everyone, ← modT_eq_eachLane, (lanes_each hlanes).1]

include hlanes in
/-- A thread outside the beat stays as it is. -/
theorem thread_gatherOpen {i : Nat} {x : Thread} (hx : c.thread i = some x) (hi : i ∉ b.tids) : (gatherOpen s b c h aim).thread i = some x := by
  have htid : x.tid ∉ b.tids := by rwa [Ctx.thread_tid hx]
  have hmoved : moved b h x = x := if_neg (by rwa [List.contains_iff_mem])
  rw [gatherOpen_eq h aim hlanes]
  refine (thread_started (b := b) (h := everyone h) (f := fun _ t => suspendT s.nextWid t) (fun _ _ => rfl) hx).trans ?_
  rw [actingLane, if_neg (fun hact => htid hact.1)]
  exact congrArg some hmoved

include hwaits in
/-- The waits of that context. -/
theorem gatherOpen_waits : (gatherOpen s b c h aim).waits =
    [newWait s b.tids (.gather b.core b.quarter b.pc b.words (aims b (acting b c h) aim)) (some (s.cycle + 64))] := congrArg (· ++ [_]) hwaits

include hwaits hlanes

/-- The gather stays open while a live thread of the quarter is elsewhere. -/
theorem gatherOpen_settles (hout : ∃ i x w, c.thread i = some x ∧ i ∉ b.tids ∧ x.live = true ∧ x.st ≠ .suspended s.nextWid ∧
    c.wheel x.wheel = some w ∧ w.core = b.core ∧ w.quarter = b.quarter) :
    ((nextWait s).setCtx b.ctx (gatherOpen s b c h aim)).settleOne b.ctx s.cycle s.nextWid = (nextWait s).setCtx b.ctx (gatherOpen s b c h aim) := by
  obtain ⟨i, x, w, hx, hi, hlive, hst, hw, hcore, hquarter⟩ := hout
  have hthread := thread_gatherOpen (s := s) h aim hlanes hx hi
  refine settleOne_gather_open (nextWait s) b.ctx s.cycle (c := gatherOpen s b c h aim) (i := i)
    (w := newWait s b.tids (.gather b.core b.quarter b.pc b.words (aims b (acting b c h) aim)) (some (s.cycle + 64))) ?_ rfl ?_ ?_
  · rw [Ctx.waitOf, gatherOpen_waits h aim hwaits]
    exact List.find?_cons_of_pos (beq_self_eq_true _)
  · exact mem_liveOf.2 ⟨x, w, hthread, hw, hlive, by simp [hcore, hquarter]⟩
  · rw [waitsIn, hthread]
    exact beq_eq_false_iff_ne.2 hst

/-- What the open gather is as a turn of the beat's threads. -/
theorem gatherOpen_turned : Turned s b c (everyone h)
    { thread := fun _ x => { x with st := .suspended s.nextWid }
      ctx := fun d => { d with waits := [newWait s b.tids (.gather b.core b.quarter b.pc b.words (aims b (acting b c h) aim)) (some (s.cycle + 64))] } }
    (((nextWait s).setCtx b.ctx (gatherOpen s b c h aim)).seal s.mem) := by
  refine turned_nextWait ?_
  refine ctxRan_threads (fun _ t => suspendT s.nextWid t) ?_ (fun _ _ => rfl) fun l x hl => by subst hl; rw [moved_eq]; rfl
  rw [gatherOpen_eq h aim hlanes]
  exact joined_first (c := (c.advance b h.yld).eachLane (acting b c (everyone h)) (fun _ t => suspendT s.nextWid t)) hwaits _

end Opened

/-! ### The targets -/

/-- A target that passes lies in the range of offsets. -/
theorem target_range {s : State} {core obj : Nat} {ofs : Int} {ps : List Nat} {pages : List (Nat × Nat × Nat)} (h : s.target core obj ofs = .ok ps pages) :
    0 ≤ ofs ∧ ofs < 2 ^ 44 := by
  simp only [State.target] at h
  by_cases hin : (decide (ofs < 0) || decide ((2 ^ 44 : Int) ≤ ofs)) = true
  · repeat' split at h
    all_goals simp_all
  · simpa using hin

/-- The capability that holds an address. -/
theorem mkCap_parts {v : Nat} (hv : v < 2 ^ 64) : mkCap (v / 2 ^ 44 % 2 ^ 20) (v % 2 ^ 44) = BitVec.ofNat 64 v := by
  rw [mkCap]
  congr 1
  omega

/-- The parts of a capability. -/
theorem cap_parts {v : Nat} (hv : v < 2 ^ 64) : capObj (BitVec.ofNat 64 v) = v / 2 ^ 44 % 2 ^ 20 ∧ capOfs (BitVec.ofNat 64 v) = v % 2 ^ 44 := by
  rw [capObj, capOfs, BitVec.toNat_ofNat, Nat.mod_eq_of_lt hv]
  omega

section Branches

variable {s : State} {b : Beat} {c : Ctx} (hi : InIssue s b c) (h : Head) (hrepack : h.repack = true) (hwaits : c.waits = [])

include hi hrepack hwaits

/-- BRA opens a gather. -/
theorem exec_bra_repack (ofs : BitVec 24)
    (hgood : ∀ l ∈ acting b c h, s.target l.w.core (capObj b.pc) ((capOfs b.pc : Int) + 12 + 12 * ofs.toInt) = .ok [] []) :
    exec (.bra h ofs) s = .next ((((nextWait s).setCtx b.ctx
      (gatherOpen s b c h (fun _ => mkCap (capObj b.pc) ((capOfs b.pc : Int) + 12 + 12 * ofs.toInt).toNat))).settleOne b.ctx s.cycle s.nextWid).seal s.mem) := by
  refine (congrArg (act · s) (if_pos hrepack)).trans
    (act_gatherOp hi h hwaits (fun _ => []) (fun l hl => ⟨[], hgood l hl⟩) (fun l _ => laneBytes_isSome (ps := []) (fun _ hx => by cases hx))
      (.inl fun _ _ => rfl) (fun _ _ => rfl) fun l hl => ?_)
  obtain ⟨h0, h1⟩ := target_range (hgood l hl)
  exact congrArg (fun n : Int => mkCap (capObj b.pc) n.toNat) (Int.emod_eq_of_lt h0 h1)

/-- BRX opens a gather. -/
theorem exec_brx_repack (halone : Alone c) (x : Src) (tag : BitVec 16) (pads : Lane → List Nat)
    (hgood : ∀ l ∈ acting b c h, (∃ pages, s.padTarget l.w.core c (capObj (BitVec.ofNat 64 (readSrc l 2 x))) (capOfs (BitVec.ofNat 64 (readSrc l 2 x))) =
      .ok (pads l) pages) ∧ Holds s l.w.core (pads l) ∧ s.padBad (siteOf b c h) l (pads l) tag = none) :
    exec (.brx h x tag) s = .next ((((nextWait s).setCtx b.ctx (gatherOpen s b c h (fun l => BitVec.ofNat 64 (readSrc l 2 x)))).settleOne b.ctx s.cycle
      s.nextWid).seal s.mem) := by
  refine (congrArg (act · s) (if_pos hrepack)).trans (act_gatherOp hi h hwaits pads (fun l hl => ?_)
    (fun l hl => laneBytes_isSome (hgood l hl).2.1) (.inr (noFill_of_alone halone)) (fun l hl => (hgood l hl).2.2) fun l hl => ?_)
  · obtain ⟨hres, -⟩ := hgood l hl
    obtain ⟨hobj, hofs⟩ := cap_parts (readSrc_lt l 2 x)
    rwa [hobj, hofs] at hres
  · refine Eq.trans ?_ (mkCap_parts (readSrc_lt l 2 x))
    refine congrArg (mkCap _) ?_
    show (((readSrc l 2 x % 2 ^ 44 : Nat) : Int) % 2 ^ 44).toNat = _
    omega

end Branches

/-! ### The lanes of re-formed wheels -/

/-- A number that is there is found. -/
theorem sGet_isSome_of_mem {α : Type} {m : Sparse α} {k : Nat} (h : k ∈ m.map Prod.fst) : (sGet m k).isSome := by
  induction m with
  | nil => cases h
  | cons e m ih =>
    obtain ⟨j, v⟩ := e
    rw [sGet]
    split
    · rfl
    · rename_i hne
      exact ih ((List.mem_cons.1 h).resolve_left (Ne.symm hne))

/-- A value that is there under its number alone is found. -/
theorem sGet_of_mem {α : Type} {m : Sparse α} (hnodup : (m.map Prod.fst).Nodup) {k : Nat} {v : α} (hmem : (k, v) ∈ m) : sGet m k = some v := by
  obtain ⟨u, hu⟩ := Option.isSome_iff_exists.1 (sGet_isSome_of_mem (List.mem_map_of_mem (f := Prod.fst) hmem))
  have heq : (k, u) = (k, v) := List.inj_on_of_nodup_map hnodup (mem_of_sGet hu) hmem rfl
  rw [hu, (Prod.mk.inj heq).2]

/-- Each lane is found with its value. -/
theorem sGet_lanes {α : Type} {ls : List Lane} (hnodup : (ls.map (fun l => l.t.tid)).Nodup) {l : Lane} (hl : l ∈ ls) (v : Lane → α) :
    sGet (ls.map (fun l => (l.t.tid, v l))) l.t.tid = some (v l) := by
  refine sGet_of_mem ?_ (List.mem_map_of_mem (f := fun l => (l.t.tid, v l)) hl)
  rw [List.map_map]
  exact hnodup

/-- Of two threads of one home lane, that of the lower wheel takes the lower re-formed wheel. -/
theorem reformSlots_lt {ls : List Lane} (hnodup : (ls.map (fun l => l.t.tid)).Nodup) {l m : Lane} (hl : l ∈ ls) (hm : m ∈ ls)
    (hlane : l.t.lane = m.t.lane) (hlt : l.w.idx < m.w.idx) :
    ∃ n k, sGet (reformSlots ls) l.t.tid = some n ∧ sGet (reformSlots ls) m.t.tid = some k ∧ n < k := by
  refine ⟨_, _, sGet_lanes hnodup hl _, sGet_lanes hnodup hm _, ?_⟩
  have hsub : ls.filter (fun x => x.t.lane == l.t.lane && decide (x.w.idx < l.w.idx)) =
      (ls.filter (fun x => x.t.lane == m.t.lane && decide (x.w.idx < m.w.idx))).filter (fun x => x.t.lane == l.t.lane && decide (x.w.idx < l.w.idx)) := by
    rw [List.filter_filter]
    refine List.filter_congr fun x _ => ?_
    rw [Bool.eq_iff_iff]
    simp only [Bool.and_eq_true, beq_iff_eq, decide_eq_true_eq]
    omega
  rw [hsub, List.length_filter_lt_length_iff_exists]
  exact ⟨l, List.mem_filter.2 ⟨hl, by simp [hlane, hlt]⟩, by simp⟩

/-! ### The end of a gather -/

/-- The targets of the threads that still wait in the gather. -/
def gathered (c : Ctx) (wid : Nat) (targets : List Target) : List Target :=
  targets.filter (fun t => (c.thread t.tid).any (fun x => x.st == .suspended wid))

/-- The lanes of the threads with one target. -/
def lanesAt (c : Ctx) (good : List Target) (p : Cap) : List Lane := c.lanes ((good.filter (fun t => t.pc == p)).map (fun t => t.tid))

/-- The targets in order. -/
def destsOf (good : List Target) : List Cap := sortBy (fun (p : Cap) => p.toNat) ((good.map (fun t => t.pc)).dedup)

/-- The re-formed wheels of one more target. -/
def reformAt (c : Ctx) (good : List Target) (a : Nat × List (Nat × Nat)) (p : Cap) : Nat × List (Nat × Nat) :=
  (a.1 + ((reformSlots (lanesAt c good p)).foldl (fun m x => max m (x.2 + 1)) 0),
    a.2 ++ (reformSlots (lanesAt c good p)).map (fun x => (x.1, a.1 + x.2)))

/-- The next wait number and the re-formed wheel of each thread. -/
def reform (c : Ctx) (good : List Target) (n : Nat) : Nat × List (Nat × Nat) := (destsOf good).foldl (reformAt c good) (n, [])

/-- The next number does not fall. -/
theorem le_reform (c : Ctx) (good : List Target) (n : Nat) : n ≤ (reform c good n).1 :=
  List.foldlRecOn (destsOf good) (reformAt c good) (motive := fun a => n ≤ a.1) (le_refl n) fun _ ha _ _ => le_trans ha (Nat.le_add_right ..)

/-- The threads that the re-formed wheels of some targets hold. -/
theorem reform_fst (c : Ctx) (good : List Target) (ps : List Cap) (a : Nat × List (Nat × Nat)) :
    (ps.foldl (reformAt c good) a).2.map Prod.fst = a.2.map Prod.fst ++ ps.flatMap (fun p => (lanesAt c good p).map (fun l => l.t.tid)) := by
  induction ps generalizing a with
  | nil => simp
  | cons p ps ih => simp [ih, reformAt, reformSlots, Function.comp_def]

/-- A thread of a target stands in a re-formed wheel. -/
theorem reform_isSome {c : Ctx} {good : List Target} {g : Target} (hg : g ∈ good) (hlane : (c.lanes [g.tid]).length = 1) (n : Nat) :
    (sGet (reform c good n).2 g.tid).isSome := by
  obtain ⟨x, w, hx, hw⟩ := (lanes_each (ts := [g.tid]) (by simpa using hlane)).2 g.tid (List.mem_singleton_self _)
  have htid : x.tid = g.tid := Ctx.thread_tid hx
  refine sGet_isSome_of_mem ?_
  rw [reform, reform_fst]
  refine List.mem_append_right _ (List.mem_flatMap.2 ⟨g.pc, ?_, List.mem_map.2 ⟨{ t := x, w := w }, ?_, htid⟩⟩)
  · exact (mem_sortBy _ _ _).2 (List.mem_dedup.2 (List.mem_map_of_mem hg))
  · refine mem_lanes.2 ⟨?_, by rwa [htid], hw⟩
    rw [htid]
    exact List.mem_map_of_mem (List.mem_filter.2 ⟨hg, beq_self_eq_true _⟩)

/-- A thread whose target passed stands at it in a re-formed wheel. -/
def standT (good : List Target) (asg : List (Nat × Nat)) (t : Thread) : Thread :=
  { t with
    pc := match good.find? (fun (g : Target) => g.tid == t.tid) with
      | some g => g.pc
      | none => t.pc
    target := match good.find? (fun (g : Target) => g.tid == t.tid) with
      | some g => g.pc
      | none => t.target
    reformed := sGet asg t.tid }

/-- A thread of a gather that ends. -/
def gatherT (good : List Target) (asg : List (Nat × Nat)) (wid : Nat) (t : Thread) : Thread :=
  if good.any (fun (g : Target) => g.tid == t.tid) then suspendT wid (standT good asg t) else t

/-- The state whose next wait number is known. -/
def widAt (s : State) (n : Nat) : State := { s with nextWid := n }

/-- A gather whose targets pass ends: its threads stand at their targets and pause. -/
theorem closeGather_good {s : State} {k : Nat} {c : Ctx} (hc : sGet s.ctxs k = some c) (w : Wait) (pc : Cap) (words : Word × Word × Word)
    {targets good : List Target} (hhere : gathered c w.wid targets = good) (hgood : ∀ g ∈ targets, g.bad = none) (now : Nat) :
    s.closeGather k w pc words targets now =
      ((widAt s (reform c good s.nextWid).1).setCtx k ({ c with waits := c.waits.filter (fun x => x.wid != w.wid) }.modT
        (fun t => good.any (fun g => g.tid == t.tid)) (standT good (reform c good s.nextWid).2))).suspend k (good.map (fun t => t.tid)) .pause (some (now + 1)) := by
  have hall : good.filter (fun t => t.bad.isNone) = good :=
    List.filter_eq_self.2 fun g hg => by rw [hgood g (List.mem_filter.1 (hhere ▸ hg)).1]; rfl
  have hnone : good.filter (fun t => t.bad.isSome) = [] :=
    List.filter_eq_nil_iff.2 fun g hg => by rw [hgood g (List.mem_filter.1 (hhere ▸ hg)).1]; decide
  unfold gathered at hhere
  simp only [State.closeGather, hc, hhere, hall, hnone]
  rfl

/-- They stand there and pause in one change. -/
theorem stand_suspend (s : State) (k : Nat) (c : Ctx) (ws : List Wait) (good : List Target) (asg : List (Nat × Nat)) (till : Nat) :
    (s.setCtx k ({ c with waits := ws }.modT (fun t => good.any (fun g => g.tid == t.tid)) (standT good asg))).suspend k
        (good.map (fun t => t.tid)) .pause (some till) =
      (nextWait s).setCtx k { c with
        threads := c.threads.map (gatherT good asg s.nextWid)
        waits := ws ++ [newWait s (good.map (fun t => t.tid)) .pause (some till)] } := by
  have hin : ∀ t : Thread, (good.map (fun t => t.tid)).contains t.tid = good.any (fun g => g.tid == t.tid) := by
    intro t
    rw [List.contains_eq_any_beq, List.any_map]
    exact congrArg good.any (funext fun g => Bool.beq_comm)
  rw [suspend_set]
  simp only [hin]
  rw [modT_modT _ (p := fun t => good.any (fun g => g.tid == t.tid)) (f := standT good asg) (fun _ ht => ht)]
  rfl

section Targets

variable {c : Ctx} {wid : Nat} {targets : List Target} {i : Nat} {x : Thread} (hx : c.thread i = some x)

include hx

/-- The target of a thread that waits in the gather is the first that is found. -/
theorem find_gathered (hnodup : (targets.map (fun g => g.tid)).Nodup) {g : Target} (hg : g ∈ targets) (htid : g.tid = i) (hst : x.st = .suspended wid) :
    g ∈ gathered c wid targets ∧ (gathered c wid targets).find? (fun g => g.tid == x.tid) = some g := by
  have hhere : g ∈ gathered c wid targets := List.mem_filter.2 ⟨hg, by rw [htid, hx]; exact beq_iff_eq.2 hst⟩
  refine ⟨hhere, ?_⟩
  have hsome : ((gathered c wid targets).find? (fun g => g.tid == x.tid)).isSome :=
    List.find?_isSome.2 ⟨g, hhere, beq_iff_eq.2 (by rw [htid, Ctx.thread_tid hx])⟩
  obtain ⟨m, hm⟩ := Option.isSome_iff_exists.1 hsome
  have hmx : (m.tid == x.tid) = true := List.find?_some (p := fun g : Target => g.tid == x.tid) hm
  have hmtid : m.tid = g.tid := by rw [beq_iff_eq.1 hmx, htid, Ctx.thread_tid hx]
  have hmem : m ∈ targets := (List.mem_filter.1 (List.mem_of_find?_eq_some hm)).1
  rw [hm, List.inj_on_of_nodup_map hnodup hmem hg hmtid]

/-- A thread without a target, or that waits elsewhere, is not of the gather. -/
theorem gatherT_other (hout : (∀ g ∈ targets, g.tid ≠ i) ∨ x.st ≠ .suspended wid) (asg : List (Nat × Nat)) (n : Nat) :
    gatherT (gathered c wid targets) asg n x = x := by
  refine if_neg fun hany => ?_
  obtain ⟨g, hg, htid⟩ := List.any_eq_true.1 hany
  obtain ⟨hmem, hwaits⟩ := List.mem_filter.1 hg
  have hgi : g.tid = i := by rw [beq_iff_eq.1 htid, Ctx.thread_tid hx]
  rcases hout with hout | hst
  · exact hout g hmem hgi
  · rw [hgi, hx] at hwaits
    exact hst (beq_iff_eq.1 hwaits)

/-- A thread of the gather stands at its target. -/
theorem gatherT_here {good : List Target} {g : Target} (hfound : good.find? (fun g => g.tid == x.tid) = some g) (asg : List (Nat × Nat)) (n : Nat) :
    gatherT good asg n x = suspendT n { x with pc := g.pc, target := g.pc, reformed := sGet asg i } := by
  have hany : good.any (fun g => g.tid == x.tid) = true :=
    List.any_eq_true.2 ⟨g, List.mem_of_find?_eq_some hfound, List.find?_some (p := fun g : Target => g.tid == x.tid) hfound⟩
  rw [gatherT, if_pos hany, standT, hfound, Ctx.thread_tid hx]

end Targets

/-- Settles O28: a gather opens while a live thread of its quarter is elsewhere, and at its end its threads stand at their targets. -/
theorem repackGathers : Obligations.RepackGathers := by
  refine ⟨fun s b c hi hwaits h ofs x tag pads hrepack hlanes => ?opens, ?timeout, fun ls hnodup l hl m hm => reformSlots_lt hnodup hl hm⟩
  case opens =>
    intro ls step far off hout gathers
    have hopens : ∀ (i : Instr) (aim : Lane → Cap), exec i s =
        .next ((((nextWait s).setCtx b.ctx (gatherOpen s b c h aim)).settleOne b.ctx s.cycle s.nextWid).seal s.mem) → gathers i aim := by
      intro i aim hexec
      rw [gatherOpen_settles h aim hwaits hlanes hout] at hexec
      have hturned := gatherOpen_turned (s := s) h aim hwaits hlanes
      simp only [newWait, Option.getD_some, Nat.add_sub_cancel_left] at hturned
      exact ⟨_, hexec, rfl, hturned⟩
    exact ⟨fun hgood => hopens _ _ (exec_bra_repack hi h hrepack hwaits ofs hgood),
      fun halone hgood => hopens _ _ (exec_brx_repack hi h hrepack hwaits halone x tag pads hgood)⟩
  case timeout =>
    intro s k core q till c w pc words targets hc hw hkind hdl hpast hgood hnodup
    have hexec : exec (.repackGatherTimeout k w.wid) s = .next ((s.closeGather k w pc words targets (s.cycle - 1)).seal s.mem) := by
      obtain ⟨wid, tids, kind, deadline, span⟩ := w
      obtain rfl : kind = _ := hkind
      obtain rfl : deadline = some till := hdl
      change execRepackGatherTimeout k wid s = _
      simp only [execRepackGatherTimeout, act, hc, Option.bind_some, hw, hpast, if_true]
      rfl
    rw [closeGather_good hc w pc words rfl (fun g hg => (hgood g hg).1), stand_suspend, Nat.sub_add_cancel (Nat.one_le_of_lt hpast)] at hexec
    refine ⟨_, _, _, hexec, sGet_setCtx_seal .., ?_, le_reform c (gathered c w.wid targets) s.nextWid, ⟨_, rfl, rfl, rfl, rfl⟩, fun i x hx => ?_⟩
    · exact ⟨fun _ hj => sGet_sPut_ne _ _ hj, fun p => State.byte_seal _ p, fun _ => rfl, rfl⟩
    · have htid : ∀ t, (gatherT (gathered c w.wid targets) (reform c (gathered c w.wid targets) s.nextWid).2
          (reform c (gathered c w.wid targets) s.nextWid).1 t).tid = t.tid := fun t => by unfold gatherT; split <;> rfl
      refine ⟨_, (thread_of_map rfl htid i).trans (by rw [hx]; rfl), ?_, ?_, ?_, fun hother => gatherT_other hx hother _ _⟩
      · unfold gatherT; split <;> rfl
      · unfold gatherT; split <;> rfl
      · intro g hg hgi hst
        obtain ⟨hhere, hfound⟩ := find_gathered hx hnodup hg hgi hst
        rw [gatherT_here hx hfound]
        exact ⟨rfl, rfl, hgi ▸ reform_isSome hhere (hgood g hg).2 _⟩

end Sys2Proof.Proofs


/-! PROOF of O29: RFGIVE, RFCLAIM and the grants of claims (R208, R209). -/

namespace Sys2Proof.Proofs

open Sys2Proof Sys2Proof.Machine Sys2Proof.Claims

/-! ### The pool of a quarter -/

/-- A fold over contexts that does not see the change of one. -/
theorem foldl_sPut {α β : Type} {m : Sparse α} {k : Nat} {v w : α} (h : sGet m k = some v) {f : β → Nat × α → β} (hf : ∀ a, f a (k, w) = f a (k, v))
    (a : β) : (sPut m k w).foldl f a = m.foldl f a := by
  have hmap : ∀ l : Sparse α, l.foldl f a = (l.map (fun e x => f x e)).foldl (fun x g => g x) a := fun l => by rw [List.foldl_map]
  rw [hmap, hmap, map_sPut h (funext hf)]

/-- A context that keeps its wheels keeps what the pool holds. -/
theorem freeUnits_setCtx {s : State} {k : Nat} {c c' : Ctx} (hc : sGet s.ctxs k = some c) (hwheels : c'.wheels = c.wheels) :
    (s.setCtx k c').freeUnits = s.freeUnits := by
  funext core q
  unfold State.freeUnits
  rw [State.setCtx_ctxs, foldl_sPut hc fun a => by rw [hwheels]]

/-- A context that keeps its waits keeps the claims. -/
theorem claims_setCtx {s : State} {k : Nat} {c c' : Ctx} (hc : sGet s.ctxs k = some c) (hwaits : c'.waits = c.waits) :
    (s.setCtx k c').claims = s.claims := by
  funext core q
  unfold State.claims
  rw [State.setCtx_ctxs, List.flatMap_def, List.flatMap_def, map_sPut hc (by rw [hwaits])]

/-- The latches of a context go, and it alone changes. -/
theorem quiet_dropLatches (s : State) (k n : Nat) (c : Ctx) : Quiet s k (((widAt (s.dropLatches k) n).setCtx k c).seal s.mem) where
  others _ hj := sGet_sPut_ne _ _ hj
  memory p := State.byte_seal (((widAt (s.dropLatches k) n)).setCtx k c) p
  latches i := by
    have hcore : (((widAt (s.dropLatches k) n).setCtx k c).seal s.mem).core i =
        ((sGet s.cores i).map (fun y : Core => { y with latches := y.latches.filter (fun l => l.ctx != k) })).getD {} :=
      congrArg (·.getD {}) (sGet_map (fun y : Core => { y with latches := y.latches.filter (fun l => l.ctx != k) }) s.cores i)
    rw [hcore, State.core]
    cases sGet s.cores i <;> rfl
  rest := rfl

/-! ### RFGIVE -/

/-- A thread that loses the registers from `lo` up. -/
def loseT (lo : Nat) (t : Thread) : Thread := { t with vregs := t.vregs.filter (fun x => decide (x.1 < lo)) }

/-- The values below a number. -/
theorem sGet_below {α : Type} (m : Sparse α) (lo n : Nat) : sGet (m.filter (fun x => decide (x.1 < lo))) n = if lo ≤ n then none else sGet m n := by
  induction m with
  | nil => simp [sGet]
  | cons e m ih =>
    obtain ⟨k, v⟩ := e
    rw [List.filter_cons]
    by_cases hk : k < lo
    · simp only [hk, decide_true, if_true, sGet, ih]
      grind
    · simp only [hk, decide_false, Bool.false_eq_true, if_false, sGet, ih]
      grind

/-- The registers that are left. -/
theorem loseT_v (lo : Nat) (t : Thread) (n : Nat) : (loseT lo t).v n = if lo ≤ n then 0 else t.v n := by
  rw [Thread.v, loseT, sGet_below]
  split <;> rfl

/-- A wheel whose window changes. -/
def windowW (f : Nat → Nat) (w : Wheel) : Wheel := { w with window := f w.window }

/-- A wheel of a context where the window of one has changed. -/
theorem wheel_windowW (c : Ctx) (i : Nat) (f : Nat → Nat) {k : Nat} {w : Wheel} (hw : c.wheel k = some w) :
    (c.modW i (windowW f)).wheel k = some (if k = i then windowW f w else w) := by
  rw [wheel_modW c i k (windowW f) fun _ e => e, hw]
  rfl

/-- The context whose wheel has given its registers from `lo` up. -/
def given (b : Beat) (c : Ctx) (h : Head) (i lo : Nat) : Ctx :=
  ((c.advance b h.yld).modW i (windowW (fun _ => lo))).modT (fun t => t.wheel == i) (loseT lo)

section Pool

variable {s : State} {b : Beat} {c : Ctx} (hi : InIssue s b c) (h : Head) {l : Lane} {rest : List Lane}
  (hlanes : acting b c h = l :: rest) (hhome : ∀ x ∈ acting b c h, x.t.reformed = none ∧ x.w.idx = l.w.idx)

include hlanes hhome in
/-- No acting thread is of a re-formed membership. -/
theorem noReformed : ¬((l :: rest).any (fun l => l.t.reformed.isSome) = true) := by
  rw [← hlanes, List.any_eq_true]
  rintro ⟨x, hx, hsome⟩
  rw [(hhome x hx).1] at hsome
  cases hsome

include hi hlanes hhome in
/-- RFGIVE of registers that no write in flight reaches. -/
theorem exec_rfgive (count : BitVec 9) (hroom : count.toNat + 8 ≤ l.w.window)
    (hidle : ∀ x ∈ c.threads, x.wheel = l.w.idx → x.pend = [] ∧ x.st ≠ .blocked ∧ ∀ v ∈ c.waits, x.st ≠ .suspended v.wid) :
    exec (.rfgive h count) s = .next (((s.dropLatches b.ctx).setCtx b.ctx (given b c h l.w.idx (l.w.window - count.toNat))).seal s.mem) := by
  refine (act_onBeat hi h _).trans ?_
  rw [siteOf_lanes, hlanes, siteOf_c, siteOf_b]
  dsimp only
  rw [if_neg (noReformed h hlanes hhome), if_neg (Nat.not_lt.2 hroom), if_neg, State.modCtx_setCtx]
  · rfl
  · rw [List.any_eq_true]
    rintro ⟨x, hx, hwrites⟩
    obtain ⟨hwheel, hwrites⟩ := Bool.and_eq_true_iff.1 hwrites
    obtain ⟨hpend, hblocked, hwaits⟩ := hidle x hx (beq_iff_eq.1 hwheel)
    have hnone : c.waits.any (fun w => x.st == .suspended w.wid && w.tids.contains x.tid && w.kind.reach (l.w.window - count.toNat)) = false :=
      List.any_eq_false.2 fun w hw => by simp [hwaits w hw]
    rw [State.writesAt, hpend, hnone, beq_eq_false_iff_ne.2 hblocked] at hwrites
    cases hwrites

omit hi
/-- A wheel after RFGIVE. -/
theorem wheel_given {i lo k : Nat} {w : Wheel} (hw : c.wheel k = some w) :
    (given b c h i lo).wheel k = some (if k = i then windowW (fun _ => lo) w else w) :=
  wheel_windowW (c.advance b h.yld) i _ hw

/-- A thread after RFGIVE. -/
theorem thread_given {i lo k : Nat} {x : Thread} (hx : c.thread k = some x) :
    (given b c h i lo).thread k = some (if x.wheel = i then loseT lo (moved b h x) else moved b h x) := by
  have hthreads : (given b c h i lo).threads = c.threads.map (fun t => if (moved b h t).wheel == i then loseT lo (moved b h t) else moved b h t) := by
    rw [given, Ctx.modT_threads]
    show List.map _ (List.map _ c.threads) = _
    rw [List.map_map]
    rfl
  rw [thread_of_map hthreads fun t => ?_, hx, Option.map_some]
  · simp only [(moved_keeps b h x).2.2, beq_iff_eq]
  · split <;> exact (moved_keeps b h t).1

/-! ### RFCLAIM -/

/-- The context whose wheel has claimed registers, if the pool holds them. -/
def claimed (b : Beat) (c : Ctx) (h : Head) (i n : Nat) (ok : Bool) : Ctx :=
  if ok then (c.advance b h.yld).modW i (windowW (· + n)) else c.advance b h.yld

/-- A claim changes no thread. -/
theorem claimed_eq (b : Beat) (c : Ctx) (h : Head) (i n : Nat) (ok : Bool) :
    claimed b c h i n ok = { c.advance b h.yld with wheels := (claimed b c h i n ok).wheels } := by
  cases ok <;> rfl

/-- A wheel after the claim. -/
theorem wheel_claimed {i n k : Nat} {w : Wheel} (hw : c.wheel k = some w) (ok : Bool) :
    (claimed b c h i n ok).wheel k = some (if k = i ∧ ok = true then windowW (· + n) w else w) := by
  cases ok with
  | false => exact hw.trans (by simp)
  | true => exact (wheel_windowW (c.advance b h.yld) i (· + n) hw).trans (by simp)

include hi hlanes hhome in
/-- RFCLAIM answers, or its threads wait. -/
theorem exec_rfclaim (pd : Option (BitVec 5)) (count : BitVec 9) (hroom : l.w.window + count.toNat ≤ 256) {ok : Bool}
    (hok : ok = (decide (count.toNat / 8 ≤ s.freeUnits l.w.core l.w.quarter) && (s.claims l.w.core l.w.quarter).isEmpty)) :
    let u := (s.dropLatches b.ctx).setCtx b.ctx (claimed b c h l.w.idx count.toNat ok)
    exec (.rfclaim h pd count) s = .next ((pd.elim
      (if ok then u else u.suspend b.ctx ((acting b c h).map (fun l => l.t.tid)) (.claim l.w.core l.w.quarter l.w.idx count.toNat) none)
      (fun p => u.writeP (siteOf b c h) p.toNat 0 (fun _ => ok))).seal s.mem) := by
  intro u
  refine (act_onBeat hi h _).trans ?_
  have hpool : (decide (count.toNat / 8 ≤ ((started s b c h).dropLatches b.ctx).freeUnits l.w.core l.w.quarter) &&
      (((started s b c h).dropLatches b.ctx).claims l.w.core l.w.quarter).isEmpty) = ok := by
    rw [hok, ← freeUnits_setCtx (c' := c.advance b h.yld) hi.2 rfl, ← claims_setCtx (c' := c.advance b h.yld) hi.2 rfl]
    rfl
  have hclaim : (if ok then ((started s b c h).dropLatches b.ctx).modCtx b.ctx (fun c => c.modW l.w.idx (fun w => { w with window := w.window + count.toNat }))
      else (started s b c h).dropLatches b.ctx) = u := by
    cases ok with
    | false => rfl
    | true => exact State.modCtx_setCtx (s.dropLatches b.ctx) b.ctx (c.advance b h.yld) _
  rw [siteOf_lanes, hlanes, siteOf_b]
  dsimp only
  rw [if_neg (noReformed h hlanes hhome), if_neg (Nat.not_lt.2 hroom), ← started, hpool]
  rw [hclaim]
  cases pd <;> cases ok <;> rfl

omit hi in
/-- A thread of a context whose wheels have claimed. -/
theorem thread_claimed {i n k : Nat} {ok : Bool} {f : Thread → Thread} (hf : ∀ t, (f t).tid = t.tid) {x : Thread} (hx : c.thread k = some x) :
    ((claimed b c h i n ok).eachLane (acting b c h) (fun _ => f)).thread k =
      some (if ∃ m ∈ acting b c h, m.t.tid = k then f (moved b h x) else moved b h x) := by
  have hthread := thread_started (b := b) (h := h) (f := fun _ => f) (fun _ => hf) hx
  rw [claimed_eq]
  refine hthread.trans (congrArg some ?_)
  by_cases hact : ∃ m ∈ acting b c h, m.t.tid = k
  · rw [if_pos hact]
    obtain ⟨m, hm⟩ := (actingLane_isSome h hx).2 hact
    rw [hm]
    rfl
  · rw [if_neg hact]
    rw [← actingLane_isSome h hx, not_exists, ← Option.eq_none_iff_forall_ne_some] at hact
    rw [hact]
    rfl

end Pool

/-- A thread that a claim answers. -/
def answerT (p : Nat) (ok : Bool) (pend : List Pend) (t : Thread) : Thread := { t with preds := setPred t.preds p ok, pend := t.pend ++ pend }

/-- Settles O29: each of the three is one change of the context, and what the pool holds does not depend on the beat. -/
theorem registerPool : Obligations.RegisterPool := by
  refine ⟨fun s b c hi h count pd l rest hlanes hhome => ⟨fun hroom hidle => ?give, fun hroom => ⟨?answers, ?waits⟩⟩,
    fun s core q k wid wheel n rest hclaims hunits => ?grant⟩
  case give =>
    refine ⟨_, _, exec_rfgive hi h hlanes hhome count hroom hidle, sGet_setCtx_seal .., quiet_dropLatches s b.ctx s.nextWid _,
      fun k w hw => ?_, fun i x hx => ⟨_, thread_given h hx, ?_⟩⟩
    · rw [wheel_given h hw]
      split
      · subst k
        obtain ⟨-, hown⟩ := lanesOf_acting b c h l (hlanes ▸ List.mem_cons_self)
        rw [← Ctx.wheel_idx hown] at hown
        obtain rfl := Option.some.inj (hw.symm.trans hown)
        rfl
      · rfl
    have hmoved := moved_eq b h x
    rw [Ctx.thread_tid hx] at hmoved
    split
    · rename_i hwheel
      simp only [hwheel, true_and, loseT_v]
      rw [hmoved]
      exact ⟨rfl, rfl, rfl, fun k => rfl⟩
    · rename_i hwheel
      simp only [hwheel, false_and, if_false]
      rw [hmoved]
      exact ⟨rfl, rfl, rfl, fun k => rfl⟩
  case answers =>
    have hexec := exec_rfclaim hi h hlanes hhome (some pd) count hroom rfl
    dsimp only [Option.elim] at hexec
    rw [State.writeP, siteOf_b, siteOf_lanes, State.modCtx_setCtx] at hexec
    refine ⟨_, _, hexec, sGet_setCtx_seal .., quiet_dropLatches s b.ctx s.nextWid _, fun k w hw => wheel_claimed h hw _, fun i x hx => ?_⟩
    refine ⟨_, thread_claimed h (f := answerT pd.toNat _ _) (fun _ => rfl) hx, ?_⟩
    rw [moved_eq]
    split <;> exact ⟨rfl, rfl, rfl⟩
  case waits =>
    have hexec := exec_rfclaim hi h hlanes hhome none count hroom rfl
    dsimp only [Option.elim] at hexec
    generalize (decide (count.toNat / 8 ≤ s.freeUnits l.w.core l.w.quarter) && (s.claims l.w.core l.w.quarter).isEmpty) = ok at hexec ⊢
    cases ok with
    | true =>
      refine ⟨_, _, hexec, sGet_setCtx_seal .., quiet_dropLatches s b.ctx s.nextWid _, fun k w hw => wheel_claimed h hw true,
        fun _ => ⟨rfl, fun i x hx => ⟨moved b h x, ?_, ?_⟩⟩, fun hfalse => by cases hfalse⟩
      · exact (thread_of_map (c := c) (f := moved b h) rfl (fun t => (moved_keeps b h t).1) i).trans (by rw [hx]; rfl)
      · rw [← Ctx.thread_tid hx]
        exact moved_eq b h x
    | false =>
      rw [if_neg Bool.false_ne_true, suspend_lanes] at hexec
      refine ⟨_, _, hexec, sGet_setCtx_seal .., quiet_dropLatches s b.ctx (s.nextWid + 1) _, fun k w hw => wheel_claimed (b := b) h hw false,
        fun htrue => (by cases htrue), fun _ => ⟨_, rfl, rfl, fun m hm => ?_⟩⟩
      obtain ⟨hthread, -⟩ := lanesOf_acting b c h m hm
      exact ⟨_, (thread_claimed h (i := l.w.idx) (n := count.toNat) (ok := false) (f := suspendT s.nextWid) (fun _ => rfl) hthread).trans
        (by rw [if_pos ⟨m, hm, rfl⟩]), rfl⟩
  case grant =>
    change execClaimGrant core q s = _
    simp only [execClaimGrant, act, hclaims, if_pos hunits]

end Sys2Proof.Proofs


/-! PROOF of O30: REGROUP and UNGROUP (R210, R211). -/

namespace Sys2Proof.Proofs

open Sys2Proof Sys2Proof.Machine Sys2Proof.Claims

/-- The beat holds every live thread of its core, on the one wheel there, and nothing that they have started is on its way. -/
structure Musters (b : Beat) (c : Ctx) (w : Wheel) : Prop where
  nodup : (c.threads.map (fun x => x.tid)).Nodup
  wheels : c.wheels.filter (fun x => x.core == b.core) = [w]
  retire : w.retire = []
  pend : w.pend = []
  nonempty : b.tids ≠ []
  live : ∀ x ∈ c.threads, x.live = true → x.wheel = w.idx → x.tid ∈ b.tids
  each : ∀ i ∈ b.tids, ∃ x, c.thread i = some x ∧ x.wheel = w.idx ∧ x.reformed = none ∧ x.pend = []
  wheel : c.wheel w.idx = some w

/-- One thread's lane. -/
theorem lanes_one {c : Ctx} {i : Nat} {x : Thread} {w : Wheel} (hx : c.thread i = some x) (hw : c.wheel x.wheel = some w) :
    c.lanes [i] = [{ t := x, w := w }] := by
  simp [Ctx.lanes, hx, hw]

/-- A thread of the list is the one that its number finds. -/
theorem thread_of_mem {c : Ctx} (hnodup : (c.threads.map (fun x => x.tid)).Nodup) {x : Thread} (hx : x ∈ c.threads) : c.thread x.tid = some x := by
  have hsome : (c.thread x.tid).isSome := List.find?_isSome.2 ⟨x, hx, beq_self_eq_true _⟩
  obtain ⟨y, hy⟩ := Option.isSome_iff_exists.1 hsome
  rw [hy, List.inj_on_of_nodup_map hnodup (List.mem_of_find?_eq_some hy) hx (Ctx.thread_tid hy)]

/-- A thread of the context in which every thread of the beat has changed. -/
theorem thread_everyone {b : Beat} {c : Ctx} {h : Head} {f : Thread → Thread} (hf : ∀ t, (f t).tid = t.tid) {i : Nat} {x : Thread}
    (hx : c.thread i = some x) (hw : i ∈ b.tids → (c.wheel x.wheel).isSome) :
    ((c.advance b h.yld).eachLane (acting b c (everyone h)) (fun _ => f)).thread i = some (if i ∈ b.tids then f (moved b h x) else x) := by
  refine (thread_started (b := b) (h := everyone h) (f := fun _ => f) (fun _ => hf) hx).trans (congrArg some ?_)
  obtain rfl := Ctx.thread_tid hx
  by_cases hmem : x.tid ∈ b.tids
  · obtain ⟨w, hw⟩ := Option.isSome_iff_exists.1 (hw hmem)
    rw [actingLane, if_pos ⟨hmem, rfl⟩, hw, if_pos hmem]
    rfl
  · rw [actingLane, if_neg (fun hact => hmem hact.1), if_neg hmem]
    exact if_neg (by rwa [List.contains_iff_mem])

/-! ### The beat of REGROUP and UNGROUP -/

/-- Nothing leaves a regrouping in a context that waits for nothing. -/
theorem expel_noWaits (s : State) (k : Nat) {c : Ctx} (hc : c.waits = []) (core : Nat) (ws : List Nat) : (s.setCtx k c).expel k core ws = s.setCtx k c := by
  simp only [State.expel, State.setCtx_ctxs, sGet_sPut_self, hc, List.foldl_nil]

/-- Threads that are those of some lanes of a context that was just set enter a wait. -/
theorem suspend_listed (s : State) (k : Nat) (c : Ctx) {ls : List Lane} {tids : List Nat} (hls : ls.map (fun l => l.t.tid) = tids) (kind : WaitKind)
    (till : Option Nat) : (s.setCtx k c).suspend k tids kind till =
      (nextWait s).setCtx k (joined (c.eachLane ls (fun _ t => suspendT s.nextWid t)) (newWait s tids kind till)) := by
  rw [← hls]
  exact suspend_lanes s k c ls kind till

/-- What a lane brings to the regrouping. -/
def partOf (b : Beat) (c : Ctx) (h : Head) (un : Bool) (key : Lane → Nat) (base n : Nat) (l : Lane) : RPart :=
  { tid := l.t.tid, key := if (acting b c h).any (fun x => x.t.tid == l.t.tid) then key l else 0xFFFFFFFF, pc := b.pc, un := un
    base := base, n := n, words := b.words }

/-- The participants. -/
def partsOf (b : Beat) (c : Ctx) (h : Head) (un : Bool) (key : Lane → Nat) (base n : Nat) : List RPart :=
  (c.lanes b.tids).map (partOf b c h un key base n)

/-- A thread that stands at the instruction again. -/
def backT (pc : Cap) (t : Thread) : Thread := { t with pc := pc }

/-- The context in which the beat's threads wait in the regrouping. -/
def regroupOpen (s : State) (b : Beat) (c : Ctx) (h : Head) (ps : List RPart) : Ctx :=
  joined ((c.advance b h.yld).eachLane (acting b c (everyone h)) (fun _ t => suspendT s.nextWid (backT b.pc t))) (newWait s b.tids (.regroup b.core ps) none)

section Beat

variable {s : State} {b : Beat} {c : Ctx} {w : Wheel} (hi : InIssue s b c) (h : Head) (hwaits : c.waits = []) (hm : Musters b c w)

include hm

/-- Each thread of the beat has a lane. -/
theorem Musters.lanes (i : Nat) (hmem : i ∈ b.tids) : (c.lanes [i]).length = 1 := by
  obtain ⟨x, hx, hwheel, -, -⟩ := hm.each i hmem
  rw [lanes_one hx (hwheel ▸ hm.wheel)]
  rfl

/-- None of them is of a re-formed membership. -/
theorem Musters.reformed {l : Lane} (hl : l ∈ c.lanes b.tids) : l.t.reformed = none := by
  obtain ⟨hmem, ht, -⟩ := mem_lanes.1 hl
  obtain ⟨x, hx, -, hreformed, -⟩ := hm.each _ hmem
  rwa [Option.some.inj (ht.symm.trans hx)]

/-- The participants are the threads of the beat. -/
theorem Musters.parts_tid (un : Bool) (key : Lane → Nat) (base n : Nat) : (partsOf b c h un key base n).map (fun p => p.tid) = b.tids := by
  rw [partsOf, List.map_map]
  exact (lanes_each hm.lanes).1

include hi hwaits

/-- The beat's threads wait for the regrouping, which may take place at once. -/
theorem act_regroupOp (un : Bool) (key : Lane → Nat) (base n : Nat) : act (regroupOp h un key base n) s =
    .next ((((nextWait s).setCtx b.ctx (regroupOpen s b c h (partsOf b c h un key base n))).settleOne b.ctx s.cycle s.nextWid).seal s.mem) := by
  have hbad : (c.lanes b.tids).filter (fun l => l.t.reformed.isSome) = [] := List.filter_eq_nil_iff.2 fun l hl => by rw [hm.reformed hl]; decide
  have hgood : (c.lanes b.tids).filter (fun l => l.t.reformed.isNone) = c.lanes b.tids := List.filter_eq_self.2 fun l hl => by rw [hm.reformed hl]; rfl
  have htids := (lanes_each hm.lanes).1
  have hnone : ∀ f, ((c.advance b h.yld).eachLane (c.lanes b.tids) f).waits = [] := fun _ => hwaits
  refine (act_onBeat hi h _).trans ?_
  rw [siteOf_b, siteOf_c, siteOf_lanes]
  dsimp only
  rw [hbad, hgood, State.modCtx_setCtx, modT_eq_eachLane, htids]
  rw [expel_noWaits _ _ (hnone _), if_neg hm.nonempty, join_opens _ _ (hnone _), suspend_listed _ _ _ htids]
  refine Eq.trans ?_ (congrArg (fun s' => (.next (State.seal s.mem s') : Out))
    (settle_one (nextWait s) b.ctx s.cycle (c := regroupOpen s b c h (partsOf b c h un key base n)) (w := newWait s _ _ _) (congrArg (· ++ [_]) hwaits)))
  refine congrArg (fun c' => (.next ((((nextWait s).setCtx b.ctx (joined c' _)).settle b.ctx s.cycle).seal s.mem) : Out)) ?_
  rw [acting_everyone]
  exact eachLane_eachLane _ _ (f := fun _ t => backT b.pc t) (fun _ _ => rfl) _

end Beat

/-! ### When the regrouping takes place -/

/-- A regrouping takes place when all live threads of its core wait in it and nothing that they have started is on its way. -/
theorem settleOne_regroup (s : State) (k now : Nat) {c : Ctx} {w : Wait} (hw : c.waitOf w.wid = some w) {core : Nat} {ps : List RPart}
    (hkind : w.kind = .regroup core ps) (hall : (c.liveOf (fun l => l.w.core == core)).all (waitsIn c w.wid) = true)
    (hpend : c.threads.all (fun t => !(c.liveOf (fun l => l.w.core == core)).contains t.tid || t.pend.isEmpty) = true)
    (hwheels : c.wheels.all (fun x => x.core != core || (x.retire.isEmpty && x.pend.isEmpty)) = true) (halone : Alone c)
    (hps : ∀ p ∈ ps, p.tid ∈ c.liveOf (fun l => l.w.core == core)) :
    (s.setCtx k c).settleOne k now w.wid = (s.setCtx k c).closeRegroup k w core ps now := by
  have hkept : ps.filter (fun p => (c.liveOf (fun l => l.w.core == core)).contains p.tid) = ps :=
    List.filter_eq_self.2 fun p hp => List.contains_iff_mem.2 (hps p hp)
  simp only [State.settleOne, State.setCtx_ctxs, sGet_sPut_self, hw, hkind, hpend, hwheels, behind_of_alone halone, hkept]
  refine if_pos ?_
  simp only [List.isEmpty_nil, Bool.and_true]
  exact hall

section Opened

variable {s : State} {b : Beat} {c : Ctx} {w : Wheel} (h : Head) (ps : List RPart) (hm : Musters b c w)

/-- Its threads are the context's. -/
theorem regroupOpen_tids : (regroupOpen s b c h ps).threads.map (fun x => x.tid) = c.threads.map (fun x => x.tid) := by
  refine (congrArg (fun c' : Ctx => c'.threads.map (fun x => x.tid))
    (advance_eachLane c b h (acting b c (everyone h)) (fun _ t => suspendT s.nextWid (backT b.pc t)))).trans ?_
  rw [List.map_map]
  exact List.map_congr_left fun x _ => ranT_tid b h _ (f := fun _ t => suspendT s.nextWid (backT b.pc t)) (fun _ _ => rfl) x

include hm

/-- A thread of the context in which the beat's threads wait. -/
theorem thread_regroupOpen {i : Nat} {x : Thread} (hx : c.thread i = some x) :
    (regroupOpen s b c h ps).thread i = some (if i ∈ b.tids then suspendT s.nextWid (backT b.pc (moved b h x)) else x) := by
  refine thread_everyone (f := fun t => suspendT s.nextWid (backT b.pc t)) (fun _ => rfl) hx fun hmem => ?_
  obtain ⟨y, hy, hwheel, -, -⟩ := hm.each i hmem
  rw [Option.some.inj (hx.symm.trans hy), hwheel, hm.wheel]
  rfl

/-- Each thread of it is one of the context's. -/
theorem mem_regroupOpen {y : Thread} (hy : y ∈ (regroupOpen s b c h ps).threads) :
    ∃ x, c.thread y.tid = some x ∧ y = if y.tid ∈ b.tids then suspendT s.nextWid (backT b.pc (moved b h x)) else x := by
  have htids := regroupOpen_tids (s := s) (b := b) (c := c) h ps
  obtain ⟨x, hx, htid⟩ := List.mem_map.1 (htids ▸ List.mem_map_of_mem (f := fun x : Thread => x.tid) hy)
  have hthread := thread_of_mem hm.nodup hx
  have hself := thread_of_mem (c := regroupOpen s b c h ps) (by rw [htids]; exact hm.nodup) hy
  rw [htid] at hthread
  exact ⟨x, hthread, Option.some.inj (hself.symm.trans (thread_regroupOpen h ps hm hthread))⟩

/-- The live threads of the core are those of the beat. -/
theorem mem_live_regroupOpen {i : Nat} : i ∈ (regroupOpen s b c h ps).liveOf (fun l => l.w.core == b.core) ↔ i ∈ b.tids := by
  have hw : w ∈ c.wheels.filter (fun x => x.core == b.core) := hm.wheels ▸ List.mem_singleton_self w
  rw [mem_liveOf]
  constructor
  · rintro ⟨y, v, hy, hv, hlive, hcore⟩
    obtain ⟨x, hx, hyx⟩ := mem_regroupOpen (s := s) h ps hm (List.mem_of_find?_eq_some hy)
    rw [Ctx.thread_tid hy] at hx hyx
    have hvw : v ∈ c.wheels.filter (fun x => x.core == b.core) := List.mem_filter.2 ⟨List.mem_of_find?_eq_some hv, hcore⟩
    rw [hm.wheels] at hvw
    obtain rfl := List.mem_singleton.1 hvw
    by_contra hmem
    rw [if_neg hmem] at hyx
    subst hyx
    refine hmem ?_
    rw [← Ctx.thread_tid hx]
    exact hm.live y (List.mem_of_find?_eq_some hx) hlive (Ctx.wheel_idx (c := c) hv).symm
  · intro hmem
    obtain ⟨x, hx, hwheel, -, -⟩ := hm.each i hmem
    refine ⟨_, w, thread_regroupOpen h ps hm hx, ?_, ?_, (List.mem_filter.1 hw).2⟩
    · rw [if_pos hmem]
      show c.wheel (moved b h x).wheel = _
      rw [(moved_keeps b h x).2.2, hwheel, hm.wheel]
    · rw [if_pos hmem]
      rfl

/-- The regrouping takes place at once. -/
theorem regroupOpen_settles (hwaits : c.waits = []) (halone : Alone c) (hps : ∀ p ∈ ps, p.tid ∈ b.tids) (now : Nat) :
    ((nextWait s).setCtx b.ctx (regroupOpen s b c h ps)).settleOne b.ctx now s.nextWid =
      ((nextWait s).setCtx b.ctx (regroupOpen s b c h ps)).closeRegroup b.ctx (newWait s b.tids (.regroup b.core ps) none) b.core ps now := by
  refine settleOne_regroup (nextWait s) b.ctx now (c := regroupOpen s b c h ps) (w := newWait s b.tids (.regroup b.core ps) none) ?_ rfl ?_ ?_ ?_ halone
    fun p hp => (mem_live_regroupOpen h ps hm).2 (hps p hp)
  · show (c.waits ++ [newWait s b.tids (.regroup b.core ps) none]).find? _ = _
    simp [hwaits, newWait]
  · refine List.all_eq_true.2 fun i hi => ?_
    have hmem := (mem_live_regroupOpen h ps hm).1 hi
    obtain ⟨x, hx, -⟩ := hm.each i hmem
    rw [waitsIn, thread_regroupOpen h ps hm hx, if_pos hmem]
    exact beq_self_eq_true _
  · refine List.all_eq_true.2 fun t ht => ?_
    obtain ⟨x, hx, htx⟩ := mem_regroupOpen h ps hm ht
    by_cases hmem : t.tid ∈ b.tids
    · obtain ⟨y, hy, -, -, hpend⟩ := hm.each _ hmem
      obtain rfl := Option.some.inj (hx.symm.trans hy)
      rw [if_pos hmem, moved_eq] at htx
      have htpend : t.pend = [] := by rw [htx]; exact hpend
      rw [htpend, List.isEmpty_nil, Bool.or_true]
    · have hout : (((regroupOpen s b c h ps).liveOf (fun l => l.w.core == b.core)).contains t.tid) = false := by
        rw [← Bool.not_eq_true, List.contains_iff_mem, mem_live_regroupOpen h ps hm]
        exact hmem
      rw [hout]
      rfl
  · refine List.all_eq_true.2 fun x hx => ?_
    by_cases hcore : x.core = b.core
    · have hxw : x ∈ c.wheels.filter (fun x => x.core == b.core) := List.mem_filter.2 ⟨hx, beq_iff_eq.2 hcore⟩
      rw [hm.wheels] at hxw
      rw [List.mem_singleton.1 hxw, hm.retire, hm.pend]
      simp
    · simp [hcore]

end Opened

/-! ### What it does -/

/-- Where the threads go: to the lanes of their order, or back. -/
def homes (old : Option Regrouped) (w : Wheel) (ps : List RPart) : List (Nat × Nat × Nat) :=
  match old with
  | some o => o.old
  | none => (regroupSlots 1 0 0 none (regroupOrder ps)).map (fun x => (x.1, match [w][x.2.1]? with | some y => y.idx | none => 0, x.2.2))

/-- Where they stood. -/
def stoodAt (c : Ctx) (ps : List RPart) : List (Nat × Nat × Nat) :=
  (c.threads.filter (fun t => ps.any (fun q => q.tid == t.tid))).map (fun t => (t.tid, t.wheel, t.lane))

/-- A thread that goes to its lane with the registers that it keeps. -/
def moveT (base n : Nat) (slots : List (Nat × Nat × Nat)) (t : Thread) : Thread :=
  { t.regroup base n ((sGet slots t.tid).getD (t.wheel, t.lane)).1 ((sGet slots t.tid).getD (t.wheel, t.lane)).2 with pc := nextPc t.pc }

/-- The context whose participants have moved. -/
def regroupMoved (c : Ctx) (wid core base n : Nat) (ps : List RPart) (w : Wheel) : Ctx :=
  { { c with waits := c.waits.filter (fun x => x.wid != wid) }.modT (fun t => ps.any (fun q => q.tid == t.tid))
      (moveT base n (homes (sGet c.regrouped core) w ps)) with
    regrouped := match sGet c.regrouped core with
      | some _ => sDel c.regrouped core
      | none => sPut c.regrouped core { base := base, n := n, old := stoodAt c ps } }

/-- The context after the regrouping; at an UNGROUP a wheel that no thread is left in gives its window back. -/
def regroupDone (c : Ctx) (wid core base n : Nat) (ps : List RPart) (w : Wheel) : Ctx :=
  if (sGet c.regrouped core).isSome then (regroupMoved c wid core base n ps w).endWheel w.idx else regroupMoved c wid core base n ps w

/-- The participants agree with each other and with what the core has regrouped. -/
structure Agree (ps : List RPart) (old : Option Regrouped) (words : Word × Word × Word) (un : Bool) (base n : Nat) : Prop where
  nonempty : ps ≠ []
  each : ∀ q ∈ ps, q.words = words ∧ q.un = un ∧ q.base = base ∧ q.n = n
  first : old = none → un = false
  again : ∀ o, old = some o → un = true ∧ o.base = base ∧ o.n = n

/-- Latches and contexts are apart. -/
theorem dropLatches_setCtx (s : State) (k : Nat) (c : Ctx) : (s.setCtx k c).dropLatches k = (s.dropLatches k).setCtx k c := rfl

/-- A regrouping of one wheel without stores whose participants agree moves them and holds them for the cycles of the move. -/
theorem closeRegroup_right {s : State} {k : Nat} {c : Ctx} (hc : sGet s.ctxs k = some c) (hstores : NoStores c) {core : Nat} {w : Wheel}
    (hwheels : c.wheels.filter (fun x => x.core == core) = [w]) (hgone : w.gone = false) (wt : Wait) {ps : List RPart} {words : Word × Word × Word}
    {un : Bool} {base n : Nat} (hagree : Agree ps (sGet c.regrouped core) words un base n) (now : Nat) :
    s.closeRegroup k wt core ps now = ((s.dropLatches k).setCtx k (regroupDone c wt.wid core base n ps w)).suspend k (ps.map (fun q => q.tid)) .pause
      (some (now + cdiv (ps.length * n) 32)) := by
  have hws : sortBy (fun (x : Wheel) => x.idx) (c.wheels.filter (fun x => x.core == core && !x.gone)) = [w] := by
    have hfilter : c.wheels.filter (fun x => x.core == core && !x.gone) = [w] := by
      rw [List.filter_congr (fun x _ => Bool.and_comm (x.core == core) (!x.gone)), ← List.filter_filter, hwheels]
      simp [hgone]
    rw [hfilter]
    rfl
  obtain ⟨p, hp⟩ : ∃ p, ps.headD { tid := 0, key := 0, pc := 0, un := false, base := 0, n := 0, words := (0, 0, 0) } = p := ⟨_, rfl⟩
  have hmem : p ∈ ps := by
    cases ps with
    | nil => exact absurd rfl hagree.nonempty
    | cons q ps => rw [← hp]; exact List.mem_cons_self
  obtain ⟨hwords, hun, hbase, hn⟩ := hagree.each p hmem
  have hsame : ps.any (fun q => signedBits q.words != signedBits p.words) = false :=
    List.any_eq_false.2 fun q hq => by rw [(hagree.each q hq).1, hwords, bne_self_eq_false]; decide
  have hdrain := drain_of_noStores hc hstores w.idx
  simp only [State.closeRegroup, hc, hws, hp, hsame, hun, hbase, hn, List.foldl_cons, List.foldl_nil, List.any_cons, List.any_nil, hdrain.1,
    List.headD_cons, bne_self_eq_false, Bool.or_false, Bool.false_or]
  cases hold : sGet c.regrouped core with
  | none =>
    rw [hagree.first hold]
    simp only [Bool.false_eq_true, if_false, hdrain.2, Bool.not_true]
    rw [modCtx_placed hc, dropLatches_setCtx, State.modCtx_setCtx, regroupDone, hold]
    simp only [Option.isSome_none, Bool.false_eq_true, if_false]
    rw [regroupMoved, hold]
    rfl
  | some o =>
    obtain ⟨hun', hbase', hn'⟩ := hagree.again o hold
    simp only [hun', hbase', hn', Bool.not_true, bne_self_eq_false, Bool.or_false, Bool.false_eq_true, if_false, hdrain.2]
    rw [modCtx_placed hc, dropLatches_setCtx, State.modCtx_setCtx, regroupDone, hold]
    simp only [Option.isSome_some, if_true]
    rw [State.modCtx_setCtx, regroupMoved, hold]
    rfl

/-! ### The lanes that they take -/

/-- Up to 32 participants take lanes of the first wheel. -/
theorem regroupSlots_first (l : List RPart) {pos : Nat} (hlen : pos + l.length ≤ 32) (prev : Option Nat) :
    ∀ e ∈ regroupSlots 1 0 pos prev l, e.2.1 = 0 := by
  induction l generalizing pos prev with
  | nil => intro e he; cases he
  | cons p l ih =>
    rw [List.length_cons] at hlen
    have hclosed : (pos = 32 || (decide (0 < pos) && prev != some p.key && decide (0 + 1 ≤ 1) && decide (l.length + 1 ≤ 32 * (1 - 0 - 1)))) = false := by
      have hpos : pos ≠ 32 := by omega
      simp [hpos]
    intro e he
    rw [regroupSlots] at he
    simp only [hclosed, Bool.false_eq_true, if_false] at he
    rcases List.mem_cons.1 he with rfl | he
    · rfl
    · exact ih (by omega) _ e he

/-- Each participant takes one. -/
theorem regroupSlots_tid (nw : Nat) (l : List RPart) (j pos : Nat) (prev : Option Nat) :
    (regroupSlots nw j pos prev l).map Prod.fst = l.map (fun p => p.tid) := by
  induction l generalizing j pos prev with
  | nil => rfl
  | cons p l ih => simp only [regroupSlots, List.map_cons, ih]

/-- Sorting keeps the length. -/
theorem length_sortBy {α : Type} (key : α → Nat) (l : List α) : (sortBy key l).length = l.length := by
  have hins : ∀ (x : α) (acc : List α), (insBy key x acc).length = acc.length + 1 := by
    intro x acc
    induction acc with
    | nil => rfl
    | cons y acc ih =>
      unfold insBy
      split <;> simp [ih]
  have hfold : ∀ acc : List α, (l.foldl (fun acc x => insBy key x acc) acc).length = acc.length + l.length := by
    induction l with
    | nil => simp
    | cons x l ih => intro acc; rw [List.foldl_cons, ih, hins, List.length_cons]; omega
  simpa [sortBy] using hfold []

/-- A participant of a first regrouping on one wheel goes to its lane there. -/
theorem homes_first {ps : List RPart} (hlen : ps.length ≤ 32) (w : Wheel) {i : Nat} (hi : i ∈ ps.map (fun p => p.tid)) :
    ∃ lane, (i, 0, lane) ∈ regroupSlots 1 0 0 none (regroupOrder ps) ∧ sGet (homes none w ps) i = some (w.idx, lane) := by
  have hkey : i ∈ (regroupSlots 1 0 0 none (regroupOrder ps)).map Prod.fst := by
    rw [regroupSlots_tid]
    obtain ⟨p, hp, rfl⟩ := List.mem_map.1 hi
    exact List.mem_map_of_mem ((mem_sortBy _ _ _).2 ((mem_sortBy _ _ _).2 hp))
  obtain ⟨⟨j, lane⟩, hfound⟩ := Option.isSome_iff_exists.1 (sGet_isSome_of_mem hkey)
  have hmem := mem_of_sGet hfound
  obtain rfl : j = 0 := regroupSlots_first (regroupOrder ps) (by rw [regroupOrder, length_sortBy, length_sortBy]; omega) none _ hmem
  refine ⟨lane, hmem, ?_⟩
  refine (sGet_map (fun x : Nat × Nat => ((match [w][x.1]? with | some y => y.idx | none => 0, x.2) : Nat × Nat)) _ i).trans ?_
  rw [hfound]
  rfl

/-- Where a thread stood. -/
theorem sGet_stoodAt {c : Ctx} (hnodup : (c.threads.map (fun x => x.tid)).Nodup) {ps : List RPart} {i : Nat} (hi : i ∈ ps.map (fun p => p.tid))
    {x : Thread} (hx : c.thread i = some x) : sGet (stoodAt c ps) i = some (x.wheel, x.lane) := by
  obtain rfl := Ctx.thread_tid hx
  refine sGet_of_mem ?_ (List.mem_map.2 ⟨x, List.mem_filter.2 ⟨List.mem_of_find?_eq_some hx, ?_⟩, rfl⟩)
  · rw [stoodAt, List.map_map]
    exact hnodup.sublist (List.filter_sublist.map _)
  · obtain ⟨p, hp, htid⟩ := List.mem_map.1 hi
    exact List.any_eq_true.2 ⟨p, hp, beq_iff_eq.2 htid⟩

/-! ### The threads after it -/

/-- A thread of a context where those that pass a test have changed. -/
theorem thread_modT (c : Ctx) (p : Thread → Bool) {f : Thread → Thread} (hf : ∀ t, (f t).tid = t.tid) {i : Nat} {x : Thread} (hx : c.thread i = some x) :
    (c.modT p f).thread i = some (if p x then f x else x) := by
  rw [thread_of_map (Ctx.modT_threads c p f) (fun t => by split <;> simp [hf]), hx]
  rfl

/-- The end of a wheel leaves live threads and all waits. -/
theorem thread_endWheel {c : Ctx} {i : Nat} {x : Thread} (hx : c.thread i = some x) (hlive : x.live = true) (j : Nat) : (c.endWheel j).thread i = some x := by
  rw [Ctx.endWheel]
  split
  · exact hx
  · rename_i hout
    refine (thread_modT (c.modW j _) _ (f := fun t => { t with vregs := [], preds := 0 }) (fun _ => rfl) hx).trans (congrArg some (if_neg ?_))
    intro hwheel
    refine hout (List.any_eq_true.2 ⟨x, List.mem_of_find?_eq_some hx, ?_⟩)
    rw [hlive, hwheel]
    rfl

/-- The values that a range of numbers keeps. -/
theorem sGet_range {α : Type} (m : Sparse α) (base n k : Nat) :
    sGet ((List.range n).filterMap (fun i => (sGet m (base + i)).map (fun v => (base + i, v)))) k = if base ≤ k ∧ k < base + n then sGet m k else none := by
  induction n with
  | zero => rw [if_neg (by omega)]; rfl
  | succ n ih =>
    rw [List.range_succ, List.filterMap_append, sGet_append, ih]
    by_cases hk : k = base + n
    · subst hk
      rw [if_neg (by omega), if_pos (by omega)]
      cases hv : sGet m (base + n) <;> simp [hv, sGet]
    · have hother : sGet ([n].filterMap (fun i => (sGet m (base + i)).map (fun v => (base + i, v)))) k = none := by
        cases hv : sGet m (base + n) <;> simp [hv, sGet, Ne.symm hk]
      rw [hother, Option.or_none]
      exact if_congr (by omega) rfl rfl

/-- The registers that a regrouping keeps. -/
theorem moveT_v (base n : Nat) (slots : List (Nat × Nat × Nat)) (t : Thread) (k : Nat) :
    (moveT base n slots t).v k = if base ≤ k ∧ k < base + n then t.v k else 0 := by
  have hregs : (moveT base n slots t).v k = (sGet ((List.range n).filterMap (fun i => (sGet t.vregs (base + i)).map (fun v => (base + i, v)))) k).getD 0 := rfl
  rw [hregs, sGet_range]
  split <;> rfl

/-- The end of a wheel changes no wait and no regrouping. -/
theorem endWheel_keeps (c : Ctx) (j : Nat) : (c.endWheel j).waits = c.waits ∧ (c.endWheel j).regrouped = c.regrouped := by
  rw [Ctx.endWheel]
  split <;> exact ⟨rfl, rfl⟩

/-- The waits and the regrouping after it. -/
theorem regroupDone_keeps (c : Ctx) (wid core base n : Nat) (ps : List RPart) (w : Wheel) :
    (regroupDone c wid core base n ps w).waits = c.waits.filter (fun x => x.wid != wid) ∧
      (regroupDone c wid core base n ps w).regrouped = (regroupMoved c wid core base n ps w).regrouped := by
  rw [regroupDone]
  split
  · exact endWheel_keeps (regroupMoved c wid core base n ps w) w.idx
  · exact ⟨rfl, rfl⟩

/-- A live participant after it. -/
theorem thread_regroupDone {c : Ctx} {ps : List RPart} {i : Nat} (hi : i ∈ ps.map (fun p => p.tid)) {y : Thread} (hy : c.thread i = some y)
    (hlive : y.live = true) (wid core base n : Nat) (w : Wheel) :
    (regroupDone c wid core base n ps w).thread i = some (moveT base n (homes (sGet c.regrouped core) w ps) y) := by
  have hpart : ps.any (fun q => q.tid == y.tid) = true := by
    obtain ⟨p, hp, rfl⟩ := List.mem_map.1 hi
    exact List.any_eq_true.2 ⟨p, hp, beq_iff_eq.2 (Ctx.thread_tid hy).symm⟩
  have hmoved : (regroupMoved c wid core base n ps w).thread i = some (moveT base n (homes (sGet c.regrouped core) w ps) y) :=
    (thread_modT { c with waits := c.waits.filter (fun x => x.wid != wid) } (fun t => ps.any (fun q => q.tid == t.tid))
      (f := moveT base n (homes (sGet c.regrouped core) w ps)) (fun _ => rfl) hy).trans (congrArg some (if_pos hpart))
  rw [regroupDone]
  split
  · exact thread_endWheel hmoved hlive w.idx
  · exact hmoved

section Done

variable {s : State} {b : Beat} {c : Ctx} {w : Wheel} (h : Head) (hm : Musters b c w)

/-- The wait that holds the threads for the cycles of the move. -/
def moveWait (s : State) (b : Beat) (n : Nat) : Wait := newWait (nextWait s) b.tids .pause (some (s.cycle + cdiv (b.tids.length * n) 32))

/-- The context after the beat of a regrouping. -/
def regroupedCtx (s : State) (b : Beat) (c : Ctx) (h : Head) (w : Wheel) (ps : List RPart) (base n : Nat) : Ctx :=
  joined ((regroupDone (regroupOpen s b c h ps) s.nextWid b.core base n ps w).modT (fun t => b.tids.contains t.tid) (suspendT (s.nextWid + 1)))
    (moveWait s b n)

include hm

/-- A REGROUP or UNGROUP whose participants agree. -/
theorem act_regroupOp_done (hi : InIssue s b c) (hstores : NoStores c) (halone : Alone c) (hwaits : c.waits = []) (hgone : w.gone = false)
    {un : Bool} {key : Lane → Nat} {base n : Nat} {ps : List RPart} (hps : partsOf b c h un key base n = ps)
    (hold : (sGet c.regrouped b.core = none → un = false) ∧ ∀ o, sGet c.regrouped b.core = some o → un = true ∧ o.base = base ∧ o.n = n) :
    act (regroupOp h un key base n) s =
      .next (((widAt (s.dropLatches b.ctx) (s.nextWid + 2)).setCtx b.ctx (regroupedCtx s b c h w ps base n)).seal s.mem) := by
  have htids : ps.map (fun p => p.tid) = b.tids := hps ▸ hm.parts_tid h un key base n
  have hlen : ps.length = b.tids.length := by rw [← htids, List.length_map]
  have hagree : Agree ps (sGet (regroupOpen s b c h ps).regrouped b.core) b.words un base n := by
    refine ⟨fun hnil => hm.nonempty ?_, fun q hq => ?_, hold.1, hold.2⟩
    · rw [← htids, hnil, List.map_nil]
    · rw [← hps] at hq
      obtain ⟨l, -, rfl⟩ := List.mem_map.1 hq
      exact ⟨rfl, rfl, rfl, rfl⟩
  rw [act_regroupOp hi h hwaits hm, hps, regroupOpen_settles h ps hm hwaits halone (fun p hp => htids ▸ List.mem_map_of_mem hp),
    closeRegroup_right (c := regroupOpen s b c h ps) (sGet_sPut_self _ _ _) hstores hm.wheels hgone _ hagree, htids, hlen,
    dropLatches_setCtx, setCtx_twice, suspend_set]
  rfl

omit hm

/-- The context waits for the end of the move alone. -/
theorem regroupedCtx_waits (hwaits : c.waits = []) (ps : List RPart) (base n : Nat) : (regroupedCtx s b c h w ps base n).waits = [moveWait s b n] := by
  have hgone : (regroupOpen s b c h ps).waits.filter (fun x => x.wid != s.nextWid) = [] := by
    show (c.waits ++ [newWait s b.tids (.regroup b.core ps) none]).filter _ = []
    simp [hwaits, newWait]
  exact congrArg (· ++ [moveWait s b n]) ((regroupDone_keeps (regroupOpen s b c h ps) s.nextWid b.core base n ps w).1.trans hgone)

/-- What the core has regrouped. -/
theorem regroupedCtx_regrouped (ps : List RPart) (base n : Nat) : (regroupedCtx s b c h w ps base n).regrouped =
    (regroupMoved (regroupOpen s b c h ps) s.nextWid b.core base n ps w).regrouped :=
  (regroupDone_keeps (regroupOpen s b c h ps) s.nextWid b.core base n ps w).2

include hm

/-- A thread of the beat after it. -/
theorem thread_regroupedCtx {ps : List RPart} (htids : ps.map (fun p => p.tid) = b.tids) (base n : Nat) {i : Nat} (hi : i ∈ b.tids) {x : Thread}
    (hx : c.thread i = some x) : (regroupedCtx s b c h w ps base n).thread i = some (suspendT (s.nextWid + 1)
      (moveT base n (homes (sGet c.regrouped b.core) w ps) (suspendT s.nextWid (backT b.pc (moved b h x))))) := by
  have hopen := thread_regroupOpen (s := s) h ps hm hx
  rw [if_pos hi] at hopen
  have hdone := thread_regroupDone (c := regroupOpen s b c h ps) (htids ▸ hi) hopen rfl s.nextWid b.core base n w
  refine (thread_modT (regroupDone (regroupOpen s b c h ps) s.nextWid b.core base n ps w) (fun t => b.tids.contains t.tid)
    (f := suspendT (s.nextWid + 1)) (fun _ => rfl) hdone).trans (congrArg some (if_pos ?_))
  rw [List.contains_iff_mem]
  show (moved b h x).tid ∈ b.tids
  rwa [(moved_keeps b h x).1, Ctx.thread_tid hx]

/-- Where it stands, what it keeps, and what it waits for. -/
theorem regroupedCtx_thread (hwaits : c.waits = []) {ps : List RPart} (htids : ps.map (fun p => p.tid) = b.tids) (base n : Nat) {i : Nat} (hi : i ∈ b.tids)
    {x : Thread} (hx : c.thread i = some x) {home : Nat × Nat} (hhome : (sGet (homes (sGet c.regrouped b.core) w ps) i).getD (x.wheel, x.lane) = home) :
    ∃ y, (regroupedCtx s b c h w ps base n).thread i = some y ∧ y.wheel = home.1 ∧ y.lane = home.2 ∧ y.preds = x.preds ∧ y.pc = nextPc b.pc ∧
      (∃ p, (regroupedCtx s b c h w ps base n).waits = [p] ∧ y.st = .suspended p.wid ∧ p.kind = .pause ∧
        p.deadline = some (s.cycle + cdiv (b.tids.length * n) 32) ∧ p.wid < s.nextWid + 2) ∧
      ∀ k, y.v k = if base ≤ k ∧ k < base + n then x.v k else 0 := by
  obtain ⟨hmtid, hmlane, hmwheel⟩ := moved_keeps b h x
  rw [← Ctx.thread_tid hx, ← hmtid, ← hmlane, ← hmwheel] at hhome
  refine ⟨_, thread_regroupedCtx h hm htids base n hi hx, congrArg Prod.fst hhome, congrArg Prod.snd hhome, ?_, rfl,
    ⟨_, regroupedCtx_waits h hwaits ps base n, rfl, rfl, rfl, Nat.lt_succ_self _⟩, fun k => (moveT_v base n (homes (sGet c.regrouped b.core) w ps) _ k).trans ?_⟩
  · rw [moved_eq]
    rfl
  · rw [moved_eq]
    rfl

end Done

/-- A first regrouping is kept with where its threads stood. -/
theorem regroupMoved_first {c : Ctx} {core : Nat} (hnone : sGet c.regrouped core = none) (wid base n : Nat) (ps : List RPart) (w : Wheel) :
    sGet (regroupMoved c wid core base n ps w).regrouped core = some { base := base, n := n, old := stoodAt c ps } := by
  rw [regroupMoved, hnone]
  exact sGet_sPut_self _ _ _

/-- After an UNGROUP the core has nothing regrouped. -/
theorem regroupMoved_again {c : Ctx} {core : Nat} {o : Regrouped} (hold : sGet c.regrouped core = some o) (wid base n : Nat) (ps : List RPart) (w : Wheel) :
    sGet (regroupMoved c wid core base n ps w).regrouped core = none := by
  rw [regroupMoved, hold]
  exact sGet_sDel_self _ _

/-- Settles O30: the beat's threads wait, agree and move at once, to the lanes of their order or back. -/
theorem regrouping : Obligations.Regrouping := by
  intro s b c hi hstores _ halone hwaits h a base n1 w hnodup hwheels hgone hretire hpend hlen hne hlive heach hw on part slots moved
  have hm : Musters b c w := ⟨hnodup, hwheels, hretire, hpend, hne, hlive, heach, hw⟩
  constructor
  · intro hnone
    obtain ⟨ps, hps⟩ : ∃ ps, partsOf b c h false (fun l => readV l.t 1 a) base.toNat (n1.toNat + 1) = ps := ⟨_, rfl⟩
    have htids : ps.map (fun p => p.tid) = b.tids := hps ▸ hm.parts_tid h false _ _ _
    have hexec : exec (.regroup h a base n1) s = _ := act_regroupOp_done h hm hi hstores halone hwaits hgone hps
      ⟨fun _ => rfl, fun o ho => by rw [hnone] at ho; cases ho⟩
    refine ⟨_, _, { base := base.toNat, n := n1.toNat + 1, old := stoodAt (regroupOpen s b c h ps) ps }, hexec, sGet_setCtx_seal ..,
      quiet_dropLatches .., ?_, rfl, rfl, fun i hmem => ?_⟩
    · rw [regroupedCtx_regrouped]
      exact regroupMoved_first (c := regroupOpen s b c h ps) hnone _ _ _ _ _
    · obtain ⟨lane, hlane, hhome⟩ := homes_first (by rw [← List.length_map (f := fun p : RPart => p.tid), htids]; exact hlen) w (htids ▸ hmem)
      rw [← hps] at hlane
      refine ⟨lane, hlane, fun x hx => ?_, fun x hx => ?_⟩
      · refine regroupedCtx_thread (s := s) h hm hwaits htids base.toNat (n1.toNat + 1) hmem hx (home := (w.idx, lane)) ?_
        rw [hnone, hhome]
        rfl
      · have hopen := thread_regroupOpen (s := s) h ps hm hx
        rw [if_pos hmem] at hopen
        obtain ⟨-, hmlane, hmwheel⟩ := moved_keeps b h x
        rw [sGet_stoodAt (c := regroupOpen s b c h ps) (by rw [regroupOpen_tids]; exact hnodup) (htids ▸ hmem) hopen, ← hmlane, ← hmwheel]
        rfl
  · intro o hold hbase hn
    obtain ⟨ps, hps⟩ : ∃ ps, partsOf b c h true (fun _ => 0) base.toNat (n1.toNat + 1) = ps := ⟨_, rfl⟩
    have htids : ps.map (fun p => p.tid) = b.tids := hps ▸ hm.parts_tid h true _ _ _
    have hexec : exec (.ungroup h base n1) s = _ := act_regroupOp_done h hm hi hstores halone hwaits hgone hps
      ⟨fun hnone => (by rw [hold] at hnone; cases hnone), fun o' ho => (by
        obtain rfl := Option.some.inj (hold.symm.trans ho)
        exact ⟨rfl, hbase, hn⟩)⟩
    refine ⟨_, _, hexec, sGet_setCtx_seal .., quiet_dropLatches .., ?_, fun i hmem slot hslot x hx => ?_⟩
    · rw [regroupedCtx_regrouped]
      exact regroupMoved_again (c := regroupOpen s b c h ps) hold _ _ _ _ _
    · refine regroupedCtx_thread (s := s) h hm hwaits htids base.toNat (n1.toNat + 1) hmem hx ?_
      rw [hold]
      exact congrArg (fun v : Option (Nat × Nat) => v.getD (x.wheel, x.lane)) hslot

end Sys2Proof.Proofs


/-! PROOF of O32: SYSR and SYSW, and the privilege fault (R222, R223). -/

namespace Sys2Proof.Proofs

open Sys2Proof Sys2Proof.Machine Sys2Proof.Claims

/-! ### System registers -/

/-- The beat's start changes no system register. -/
theorem sysReg_started {s : State} {b : Beat} {c : Ctx} (hi : InIssue s b c) (h : Head) (e : Site) (l : Lane) (num : Nat) :
    (started s b c h).sysReg e l num = s.sysReg e l num := by
  have hunits : (started s b c h).freeUnits = s.freeUnits := freeUnits_setCtx hi.2 rfl
  unfold State.sysReg
  rw [hunits]
  rfl

/-- A die after a change of one. -/
theorem die_modDie (s : State) (j k : Nat) (f : Die → Die) : (s.modDie j f).die k = if k = j then f (s.die k) else s.die k := by
  rw [State.die, State.modDie_dies, sGet_sPut]
  split
  · subst k
    rfl
  · rfl

/-- A core after a change of one. -/
theorem core_modCore_eq (s : State) (j k : Nat) (f : Core → Core) : (s.modCore j f).core k = if k = j then f (s.core k) else s.core k := by
  rw [State.core, State.modCore, sGet_sPut]
  split
  · subst k
    rfl
  · rfl

/-- Dies and cores are apart. -/
theorem die_modCore (s : State) (j k : Nat) (f : Core → Core) : (s.modCore j f).die k = s.die k := rfl

/-- Dies and cores are apart. -/
theorem core_modDie (s : State) (j k : Nat) (f : Die → Die) : (s.modDie j f).core k = s.core k := rfl

/-- A write of a system register changes no context and no byte. -/
theorem sysWrite_keeps (s : State) (core num v : Nat) : (s.sysWrite core num v).ctxs = s.ctxs ∧ (s.sysWrite core num v).mem = s.mem ∧
    ∀ p, (s.sysWrite core num v).byte p = s.byte p := by
  unfold State.sysWrite
  split <;> exact ⟨rfl, rfl, fun _ => rfl⟩

/-- The registers of the dies. -/
theorem die_sysWrite (s : State) (core num v k : Nat) : (s.sysWrite core num v).die k = if k ≠ dieOf core then s.die k
    else if num = 0 then { s.die k with waitiv := max 64 (v % 2 ^ 20) }
    else if num = 1 then { s.die k with rcvwait := max 16 (v % 2 ^ 16) }
    else if num = 4 then { s.die k with bkpten := v % 2 == 1 } else s.die k := by
  unfold State.sysWrite
  by_cases hk : k = dieOf core
  · split <;> simp_all [die_modDie, die_modCore]
  · split <;> simp [die_modDie, die_modCore, hk]

/-- The register of a core. -/
theorem core_sysWrite (s : State) (core num v k : Nat) : (s.sysWrite core num v).core k =
    if k = core ∧ num = 2 then { s.core k with stalearr := BitVec.ofNat 32 v } else s.core k := by
  unfold State.sysWrite
  split <;> simp_all [core_modCore_eq, core_modDie]

/-! ### Privilege -/

section Privilege

variable {s : State} {b : Beat} {c : Ctx} (hi : InIssue s b c) (hspec : c.spec = none) {h : Head} {l : Lane} (hw : wheelsOf (acting b c h) = [l])

include hi hspec hw

/-- In the handler context a privileged instruction has its effect. -/
theorem act_privOp_handler (hh : c.handler = true) (cause : Nat) (f : Site → State → State) :
    act (privOp h cause f) s = .next ((f (siteOf b c h) (started s b c h)).seal s.mem) := by
  obtain ⟨x, xs, hacting⟩ := List.exists_cons_of_ne_nil (List.ne_nil_of_mem (wheelsOf_one hw).1)
  refine (act_onBeat hi h _).trans ?_
  simp only [siteOf_lanes, siteOf_c, hacting, Ctx.run, hspec, hh, if_true]
  rfl

/-- Elsewhere it takes the privilege fault. -/
theorem faults_privOp (hh : c.handler = false) {i : Instr} {cause : Nat} {f : Site → State → State} (he : exec i s = act (privOp h cause f) s) :
    Faults i s b c h (recordOf b c l (acting b c h) 0x15 0) := by
  obtain ⟨x, xs, hacting⟩ := List.exists_cons_of_ne_nil (List.ne_nil_of_mem (wheelsOf_one hw).1)
  refine faults_onBeat hspec hh hw 0x15 0 (he.trans ((act_onBeat hi h _).trans ?_))
  simp only [siteOf_lanes, siteOf_c, hacting, Ctx.run, hspec, hh, Bool.false_eq_true, if_false]
  rfl

end Privilege

/-- Settles O32: SYSR is a write of its destination; SYSW and ERET are privileged, and SYSW changes the register that it names alone. -/
theorem systemRegisters : Obligations.SystemRegisters := by
  intro s b c hi h num a ra rb rc d dst act_ lv l
  refine ⟨?read, fun hw hspec => ⟨fun hh => ?write, fun hh => ⟨faults_privOp hi hspec hw hh rfl, faults_privOp hi hspec hw hh rfl⟩⟩⟩
  case read =>
    have hvalue : (fun l => [BitVec.ofNat 32 ((started s b c h).sysReg (siteOf b c h) l num.toNat)]) =
        fun l => [BitVec.ofNat 32 (s.sysReg (siteOf b c h) l num.toNat)] := funext fun l => by rw [sysReg_started hi]
    cases dst with
    | v r => exact does_writeV hi rfl (congrArg ((started s b c h).writeV (siteOf b c h) r.toNat 0) hvalue)
    | s r => exact does_writeS hi rfl (congrArg ((started s b c h).writeS (siteOf b c h) r.toNat 0) hvalue)
  case write =>
    have hexec : exec (.sysw h num a) s = .next (((started s b c h).sysWrite l.w.core num.toNat (readS l.w 1 a)).seal s.mem) := by
      refine (act_privOp_handler hi hspec hw hh 1 _).trans ?_
      rw [siteOf_lanes, hw]
      rfl
    obtain ⟨hctxs, hmem, hbyte⟩ := sysWrite_keeps (started s b c h) l.w.core num.toNat (readS l.w 1 a)
    have hnum : ∀ n : BitVec 12, num = n ↔ num.toNat = n.toNat := fun n => BitVec.toNat_inj.symm
    refine ⟨_, c.advance b h.yld, hexec, ?_, fun i x hx => ⟨moved b h x, ?_, ?_⟩, rfl, fun k hk => ?_, fun p => ?_, fun k => ?_, fun k => ?_⟩
    · rw [State.seal_ctxs, hctxs]
      exact sGet_sPut_self _ _ _
    · exact (thread_of_map (c := c) (f := moved b h) rfl (fun t => (moved_keeps b h t).1) i).trans (by rw [hx]; rfl)
    · rw [← Ctx.thread_tid hx]
      exact moved_eq b h x
    · rw [State.seal_ctxs, hctxs]
      exact sGet_sPut_ne _ _ hk
    · have hsealed := State.byte_seal ((started s b c h).sysWrite l.w.core num.toNat (readS l.w 1 a)) p
      rw [hmem] at hsealed
      exact hsealed.trans (hbyte p)
    · refine (die_sysWrite (started s b c h) l.w.core num.toNat (readS l.w 1 a) k).trans ?_
      simp only [hnum]
      rfl
    · refine (core_sysWrite (started s b c h) l.w.core num.toNat (readS l.w 1 a) k).trans ?_
      simp only [hnum]
      rfl

end Sys2Proof.Proofs


/-! PROOF of O33: ERET (R221, R395). -/

namespace Sys2Proof.Proofs

open Sys2Proof Sys2Proof.Machine Sys2Proof.Claims

/-! ### The answer of an ERET -/

/-- Lanes of one wheel change that wheel alone. -/
theorem eachWheel_one (c : Ctx) {ls : List Lane} {l : Lane} (hw : wheelsOf ls = [l]) (g : Wheel → Wheel) :
    c.eachWheel ls (fun _ => g) = c.modW l.w.idx g := by
  obtain ⟨hl, hhome⟩ := wheelsOf_one hw
  simp only [Ctx.eachWheel, Ctx.modW, Ctx.mk.injEq, true_and, and_true]
  refine List.map_congr_left fun w _ => ?_
  cases hfound : ls.find? (fun l => l.w.idx == w.idx) with
  | none => exact (if_neg fun he => List.find?_eq_none.1 hfound l hl (beq_iff_eq.2 he.symm)).symm
  | some m =>
    have hidx : m.w.idx = w.idx := beq_iff_eq.1 (List.find?_some (p := fun l : Lane => l.w.idx == w.idx) hfound)
    exact (if_pos (hidx.symm.trans (hhome m (List.mem_of_find?_eq_some hfound)))).symm

/-- The context whose wheel has the answer in D. -/
def answered (s : State) (b : Beat) (c : Ctx) (h : Head) (l : Lane) (d : BitVec 8) (k : Word) : Ctx :=
  (c.advance b h.yld).modW l.w.idx (fun w => w.put d.toNat [k] (mkPend s (.s d.toNat 1) 0))

section Answer

variable {s : State} {b : Beat} {c : Ctx} {h : Head} {l : Lane} (hw : wheelsOf (acting b c h) = [l])

include hw

/-- It is a write of a uniform register by the beat. -/
theorem writeS_answer (d : BitVec 8) (k : Word) :
    (started s b c h).writeS (siteOf b c h) d.toNat 0 (fun _ => [k]) = s.setCtx b.ctx (answered s b c h l d k) := by
  rw [State.writeS, siteOf_b, siteOf_lanes, started, State.modCtx_setCtx, eachWheel_one _ hw]
  rfl

/-- The step that only answers. -/
theorem ran_answered (d : BitVec 8) (k : Word) : Ran s b c h (into (.s d) (fun _ => [k])) ((s.setCtx b.ctx (answered s b c h l d k)).seal s.mem) := by
  rw [← writeS_answer hw]
  exact writeS_ran s b c h d.toNat 0 (fun _ => [k])

/-- The context that has the answer. -/
theorem ctxRan_answered (d : BitVec 8) (k : Word) : CtxRan s.cycle b c h (into (.s d) (fun _ => [k])) (answered s b c h l d k) := by
  obtain ⟨c', hc', hran⟩ := (ran_answered (s := s) hw d k).ctx
  rw [sGet_setCtx_seal] at hc'
  rwa [Option.some.inj hc']

end Answer

/-! ### The record that an ERET names -/

/-- The open record whose RSEQ stands in the record at A. -/
def openOf (s : State) (l : Lane) (ra : BitVec 8) : Option (Nat × FaultRec) :=
  (s.unitGet (dieOf l.w.core) (capAdd (BitVec.ofNat 64 (readS l.w 2 ra)) 20) 4).bind
    (fun n => (s.die (dieOf l.w.core)).openRecs.find? (fun x => x.1 == n))

/-- A state whose record is closed. -/
def closed (s : State) (die n : Nat) : State := s.modDie die (fun x => { x with openRecs := x.openRecs.filter (fun y => y.1 != n) })

/-- The beat's start opens and closes no record. -/
theorem openOf_started (s : State) (b : Beat) (c : Ctx) (h : Head) (l : Lane) (ra : BitVec 8) : openOf (started s b c h) l ra = openOf s l ra := rfl

/-- A record that is not open. -/
theorem eret_notOpen {s : State} {l : Lane} {ra : BitVec 8} (hopen : openOf s l ra = none) (a : EretAct) (lv : Level) (rb rc : BitVec 8) :
    s.eret l a lv ra rb rc = (1, s) := by
  unfold openOf at hopen
  unfold State.eret
  dsimp only
  rw [hopen]

/-- What ERET does to the state with an open record. -/
def eretOn (s : State) (l : Lane) (r : FaultRec) (a : EretAct) (lv : Level) (rb rc : BitVec 8) : Nat × State :=
  s.eretAct (dieOf l.w.core) r a lv (natWords 4 (readS l.w 4 rb)) (BitVec.ofNat 64 (readS l.w 2 rc))

section Open

variable {s : State} {l : Lane} {ra : BitVec 8} {n : Nat} {r : FaultRec} (hopen : openOf s l ra = some (n, r)) {a : EretAct} {lv : Level} {rb rc : BitVec 8}

include hopen

/-- With 0 the record closes. -/
theorem eret_zero {u : State} (hdoes : eretOn s l r a lv rb rc = (0, u)) : s.eret l a lv ra rb rc = (0, closed u (dieOf l.w.core) n) := by
  unfold openOf at hopen
  unfold eretOn at hdoes
  unfold State.eret
  dsimp only
  rw [hopen]
  dsimp only
  rw [hdoes]
  exact if_pos rfl

/-- Else nothing happens. -/
theorem eret_fails {k : Nat} (hk : k ≠ 0) {u : State} (hdoes : eretOn s l r a lv rb rc = (k, u)) : s.eret l a lv ra rb rc = (k, u) := by
  unfold openOf at hopen
  unfold eretOn at hdoes
  unfold State.eret
  dsimp only
  rw [hopen]
  dsimp only
  rw [hdoes]
  exact if_neg hk

end Open

section Eret

variable {s : State} {b : Beat} {c : Ctx} (hi : InIssue s b c) (hspec : c.spec = none) (hh : c.handler = true) {h : Head} {l : Lane}
  (hw : wheelsOf (acting b c h) = [l]) {a : EretAct} {lv : Level} {d ra rb rc : BitVec 8}

include hi hspec hh hw

/-- ERET answers its status. -/
theorem exec_eret {k : Nat} {u : State} (hu : (started s b c h).eret l a lv ra rb rc = (k, u)) : exec (.eret h a lv d ra rb rc) s =
    .next ((u.modCtx b.ctx (fun x => x.modW l.w.idx (fun w => w.put d.toNat [BitVec.ofNat 32 k] (mkPend s (.s d.toNat 1) 0)))).seal s.mem) := by
  refine (act_privOp_handler hi hspec hw hh 2 _).trans ?_
  rw [siteOf_lanes, hw]
  simp only [List.foldl_cons, List.foldl_nil, hu]
  rfl

/-- An ERET that leaves the state. -/
theorem does_eret {k : Nat} (hu : (started s b c h).eret l a lv ra rb rc = (k, started s b c h)) :
    Does (.eret h a lv d ra rb rc) s b c h (into (.s d) (fun _ => [BitVec.ofNat 32 k])) := by
  refine ⟨_, exec_eret hi hspec hh hw hu, ?_⟩
  rw [started, State.modCtx_setCtx]
  exact ran_answered hw d (BitVec.ofNat 32 k)

variable {n : Nat} {r : FaultRec} (hopen : openOf s l ra = some (n, r))

include hopen

/-- An ERET with a status other than 0. -/
theorem does_eret_fails {k : Nat} (hk : k ≠ 0) (hdoes : eretOn (started s b c h) l r a lv rb rc = (k, started s b c h)) :
    Does (.eret h a lv d ra rb rc) s b c h (into (.s d) (fun _ => [BitVec.ofNat 32 k])) :=
  does_eret hi hspec hh hw (eret_fails (s := started s b c h) hopen hk hdoes)

/-- An ERET with status 0. -/
theorem becomes_eret {u : State} (hdoes : eretOn (started s b c h) l r a lv rb rc = (0, u)) : Becomes (.eret h a lv d ra rb rc) s
    ((closed u (dieOf l.w.core) n).modCtx b.ctx (fun x => x.modW l.w.idx (fun w => w.put d.toNat [0] (mkPend s (.s d.toNat 1) 0)))) :=
  exec_eret hi hspec hh hw (eret_zero (s := started s b c h) hopen hdoes)

/-- An ERET with status 0 that changes one other context. -/
theorem eret_back (hne : r.ctx ≠ b.ctx) {c3 : Ctx} (hdoes : eretOn (started s b c h) l r a lv rb rc = (0, (started s b c h).setCtx r.ctx c3)) :
    ∃ t c', exec (.eret h a lv d ra rb rc) s = .next t ∧ sGet t.ctxs b.ctx = some c' ∧ CtxRan s.cycle b c h (into (.s d) (fun _ => [0])) c' ∧
      sGet t.ctxs r.ctx = some c3 ∧ (∀ k, k ≠ b.ctx → k ≠ r.ctx → sGet t.ctxs k = sGet s.ctxs k) ∧ (∀ p, t.byte p = s.byte p) ∧
      t = { s with ctxs := t.ctxs, mem := t.mem, wr := []
                   dies := sPut s.dies (dieOf l.w.core) { s.die (dieOf l.w.core) with
                     openRecs := (s.die (dieOf l.w.core)).openRecs.filter (fun y => y.1 != n) } } := by
  have hexec := becomes_eret hi hspec hh hw (d := d) hopen hdoes
  have hc : sGet (closed ((started s b c h).setCtx r.ctx c3) (dieOf l.w.core) n).ctxs b.ctx = some (c.advance b h.yld) :=
    (sGet_sPut_ne _ _ hne.symm).trans (sGet_sPut_self _ _ _)
  rw [modCtx_placed hc] at hexec
  refine ⟨_, _, hexec, sGet_setCtx_seal .., ctxRan_answered hw d 0, ?_, fun k hkb hkr => ?_, fun p => ?_, rfl⟩
  · exact (sGet_sPut_ne _ _ hne).trans (sGet_sPut_self _ _ _)
  · exact (sGet_sPut_ne _ _ hkb).trans ((sGet_sPut_ne _ _ hkr).trans (sGet_sPut_ne _ _ hkb))
  · exact State.byte_seal ((closed ((started s b c h).setCtx r.ctx c3) (dieOf l.w.core) n).setCtx b.ctx _) p

end Eret

/-! ### Threads that go on -/

/-- The threads of a record that are parked. -/
def parkedOf (tids : List Nat) (t : Thread) : Bool := tids.contains t.tid && t.st == .parked

/-- A thread that goes on. -/
def readyT (pc : Thread → Cap) (t : Thread) : Thread := { t with st := .ready, pc := pc t, stamp := none }

/-- The parked threads of a record go on. -/
theorem resume_at {s : State} {k : Nat} {c : Ctx} (hc : sGet s.ctxs k = some c) (tids : List Nat) (pc : Thread → Cap) :
    s.resume k tids pc = s.setCtx k (c.modT (parkedOf tids) (readyT pc)) := by
  rw [State.resume, State.modAny, hc]
  rfl

/-- They alone change. -/
theorem parked_threads (c : Ctx) (tids : List Nat) (f : Thread → Thread) :
    (c.modT (parkedOf tids) f).threads = c.threads.map (fun x => if x.tid ∈ tids ∧ x.st = .parked then f x else x) := by
  rw [Ctx.modT_threads]
  refine List.map_congr_left fun x _ => if_congr ?_ rfl rfl
  rw [parkedOf, Bool.and_eq_true, List.contains_iff_mem, beq_iff_eq]

/-- A thread that skips, with D written from B. -/
def skipT (g : XRange) (b : List Word) (t : Thread) : Thread := t.put g.base.toNat (skipWords b g.n) []

/-- An instruction that decodes as VTOP has its opcode. -/
theorem vtop_of_decode {o : Op} {w0 w1 w2 : Word} (ho : Op.ofCode (w0.toNat % 256) = some o) {h : Head} {x m : Src}
    (hdec : decodeWords w0 w1 w2 = .ok (.vtop h x m)) : o = .vtop := by
  simp only [decodeWords, ho] at hdec
  split at hdec
  · cases hdec
  · rename_i henc
    have hfields := fields_build henc
    rw [Except.ok.inj hdec] at hfields
    exact (Prod.mk.inj (Option.some.inj hfields)).1.symm

/-- An instruction without predicate destinations leaves all predicates. -/
theorem skipPreds_none {o : Op} {words : Word × Word × Word} (ho : Op.ofCode (words.1.toNat % 256) = some o) (hvtop : o ≠ .vtop)
    (hd : (form o (Raw.ofWords words.1 words.2.1 words.2.2)).d ≠ .pred) (hxpd : (form o (Raw.ofWords words.1 words.2.1 words.2.2)).xpd = none) (l : Lane) :
    skipPreds o (Raw.ofWords words.1 words.2.1 words.2.2) words l = [] := by
  unfold skipPreds
  dsimp only
  rw [if_neg (by rwa [beq_iff_eq]), hxpd]
  split
  · rename_i hdec
    exact absurd (vtop_of_decode ho hdec) hvtop
  · rfl

/-- A change of a wheel that leaves every wheel. -/
theorem modW_same (c : Ctx) (i : Nat) {f : Wheel → Wheel} (hf : ∀ w, f w = w) : c.modW i f = c := by
  have hkept : c.wheels.map (fun x => if x.idx = i then f x else x) = c.wheels := by simp [hf]
  exact congrArg (fun ws => { c with wheels := ws }) hkept

/-- A skipped instruction whose one destination is of vector registers inside the window. -/
theorem skipDst_vector {s : State} {r : FaultRec} {c : Ctx} (hc : sGet s.ctxs r.ctx = some c) {o : Op} {g : XRange}
    (ho : Op.ofCode (r.words.1.toNat % 256) = some o) (hqblk : o ≠ .qblk) (hvtop : o ≠ .vtop)
    (hg : dstRange (form o (Raw.ofWords r.words.1 r.words.2.1 r.words.2.2)) (Raw.ofWords r.words.1 r.words.2.1 r.words.2.2) = some g) (hvec : g.vec = true)
    (hd : (form o (Raw.ofWords r.words.1 r.words.2.1 r.words.2.2)).d ≠ .pred) (hxpd : (form o (Raw.ofWords r.words.1 r.words.2.1 r.words.2.2)).xpd = none)
    (hwindow : ∀ x ∈ c.threads, x.tid ∈ r.tids → x.st = .parked → ∃ v, c.wheel x.wheel = some v ∧ g.base.toNat + g.n ≤ v.window) (b : List Word) :
    s.skipDst r b = s.setCtx r.ctx (c.modT (parkedOf r.tids) (skipT g b)) := by
  have hranges : skipRanges o (Raw.ofWords r.words.1 r.words.2.1 r.words.2.2) = [g] := by
    rw [skipRanges, hg, if_neg hqblk]
    rfl
  unfold State.skipDst
  dsimp only
  rw [ho]
  dsimp only
  have hparts : skipParts [g] b = [(g, skipWords b g.n)] := rfl
  have hput : ∀ y : Wheel, [(g, skipWords b g.n)].foldl (fun y p => if p.1.vec then y else y.put p.1.base.toNat p.2 []) y = y := fun y => if_pos hvec
  rw [hranges, hparts, State.modAny, hc]
  dsimp only
  refine congrArg (s.setCtx r.ctx) ?_
  rw [foldl_fixed (fun i _ => modW_same c i hput)]
  refine congrArg (fun ts => { c with threads := ts }) (List.map_congr_left fun t ht => ?_)
  by_cases hmine : (r.tids.contains t.tid && t.st == .parked) = true
  · obtain ⟨htid, hst⟩ := Bool.and_eq_true_iff.1 hmine
    obtain ⟨v, hv, htop⟩ := hwindow t ht (List.contains_iff_mem.1 htid) (beq_iff_eq.1 hst)
    have hfits : (g.vec && decide (g.base.toNat + (skipWords b g.n).length ≤ v.window)) = true := by
      rw [hvec, Bool.true_and, decide_eq_true_eq, skipWords, List.length_map, List.length_range]
      exact htop
    rw [if_pos hmine, if_pos (show parkedOf r.tids t = true from hmine)]
    dsimp only
    rw [hv]
    dsimp only [List.foldl_cons, List.foldl_nil, Option.map_some, Option.getD_some]
    rw [if_pos hfits, skipPreds_none ho hvtop hd hxpd, List.foldl_nil, ← Thread.put_preds t g.base.toNat (skipWords b g.n) []]
    rfl
  · rw [if_neg hmine, if_neg (show ¬parkedOf r.tids t = true from hmine)]

/-- Threads that skip go on behind their instruction. -/
theorem skip_resume (s : State) (k : Nat) (c : Ctx) (tids : List Nat) (g : XRange) (b : List Word) :
    (s.setCtx k (c.modT (parkedOf tids) (skipT g b))).resume k tids (fun t => nextPc t.pc) =
      s.setCtx k (c.modT (parkedOf tids) (fun t => readyT (fun t => nextPc t.pc) (skipT g b t))) := by
  have hmine : ∀ t, parkedOf tids t = true → parkedOf tids (skipT g b t) = true := fun t ht => by
    rwa [parkedOf, skipT, Thread.put_tid, Thread.put_st]
  rw [resume_at (sGet_sPut_self _ _ _), setCtx_twice, modT_modT c hmine]

/-! ### Chains that go on -/

/-- A byte of the table control object changes no chain. -/
theorem tcoPut_chains (s : State) (a : Nat) (b : Byte) : (s.tcoPut a b).chains = s.chains := by
  unfold State.tcoPut
  split
  · dsimp only
    split <;> split <;> rfl
  · split
    · rfl
    · split
      · dsimp only
        split <;> rfl
      · rfl

/-- A fold of changes that keep the chains keeps them. -/
theorem foldl_chains {α : Type} (f : State → α → State) (hf : ∀ s a, (f s a).chains = s.chains) (l : List α) (s : State) :
    (l.foldl f s).chains = s.chains := by
  induction l generalizing s with
  | nil => rfl
  | cons a l ih => rw [List.foldl_cons, ih, hf]

/-- Bytes of this device change no chain. -/
theorem unitPuts_chains (s : State) (die : Nat) (cells : List (Nat × Byte)) : (s.unitPuts die cells).chains = s.chains := by
  unfold State.unitPuts
  dsimp only
  split
  · exact foldl_chains _ (fun _ _ => tcoPut_chains ..) _ s
  · rw [State.modDie_chains, homeWrites_frame]
    exact foldl_chains _ (fun _ _ => tcoPut_chains ..) _ s

/-- Bytes of a peer or the host change no chain. -/
theorem sendRun_chains (s : State) (p : Nat) (bs : List Byte) : (s.sendRun p bs).2.chains = s.chains := by
  unfold State.sendRun
  dsimp only
  split <;> rfl

/-- Nor do cells, each at its home. -/
theorem unitCells_chains (s : State) (die : Nat) (cells : List (Nat × Byte)) : (s.unitCells die cells).2.chains = s.chains := by
  unfold State.unitCells
  dsimp only
  have hfold : ∀ (rs : List (Nat × List Byte)) (x : List Nat × State),
      (rs.foldl (fun a r => (a.1 ++ [(a.2.sendRun r.1 r.2).1], (a.2.sendRun r.1 r.2).2)) x).2.chains = x.2.chains := by
    intro rs
    induction rs with
    | nil => exact fun _ => rfl
    | cons r rs ih => exact fun x => (ih _).trans (sendRun_chains ..)
  exact (hfold _ _).trans (unitPuts_chains ..)

/-- A field of a control block changes no chain. -/
theorem setCcb_chains (s : State) (die blk lo n v : Nat) : (s.setCcb die blk lo n v).chains = s.chains := by
  unfold State.setCcb
  dsimp only
  split
  · exact unitPuts_chains ..
  · exact unitCells_chains ..

/-- The state of a chain in its control block. -/
theorem setChainState_chains (s : State) (ch : Chain) (v : Nat) : (s.setChainState ch v).chains = s.chains := by
  unfold State.setChainState
  split
  · rfl
  · split
    · rfl
    · exact setCcb_chains ..

/-- What a chain has done in its control block. -/
theorem chainDone_chains (s : State) (ch : Chain) (seq : Nat) : (s.chainDone ch seq).chains = s.chains := by
  unfold State.chainDone
  split
  · rfl
  · exact (setCcb_chains ..).trans (setCcb_chains ..)

/-- A chain past an entry is as faulted as before. -/
theorem past_faulted (c : Chain) (r : Running) : (c.past r).faulted = c.faulted := by
  unfold Chain.past Chain.rebind
  split <;> rfl

/-- The chains of a control block after a change of them. -/
theorem modChain_faulted (s : State) (ccb : Cap) (die : Nat) {f : Chain → Chain} (hf : ∀ x, (f x).faulted = false) :
    ∀ x ∈ (s.modChain ccb false die f).chains, x.ccb = ccb → x.fill = false → x.faulted = false := by
  intro x hx hccb hfill
  obtain ⟨y, -, rfl⟩ := List.mem_map.1 hx
  by_cases hy : y.ccb = ccb ∧ y.fill = false ∧ (!false ∨ y.die = die)
  · rw [if_pos hy]
    exact hf y
  · rw [if_neg hy] at hccb hfill
    exact absurd ⟨hccb, hfill, .inl rfl⟩ hy

/-- A stopped chain that goes on is not stopped. -/
theorem freeRec_faulted {s : State} {r : FaultRec} {ch : Chain} (hqueue : s.recQueue r = none)
    (hch : s.chains.find? (fun x => x.ccb == r.addr && !x.fill) = some ch) (hfaulted : ch.faulted = true) (again : Bool) :
    ∀ x ∈ (s.freeRec r again).chains, x.ccb = ch.ccb → x.fill = false → x.faulted = false := by
  unfold State.freeRec
  rw [hqueue]
  dsimp only
  unfold State.freeChain
  rw [hch]
  dsimp only
  rw [hfaulted, if_neg (by decide)]
  cases again with
  | true =>
    rw [if_pos rfl, setChainState_chains]
    exact modChain_faulted s _ _ fun _ => rfl
  | false =>
    rw [if_neg Bool.false_ne_true, chainDone_chains]
    exact modChain_faulted s _ _ fun x => past_faulted ..

/-! ### The statement -/

/-- Settles O33: each act of ERET is its status and its change of the state; with 0 the record closes, and D takes the status. -/
theorem returnsFromFault : Obligations.ReturnsFromFault := by
  intro s b c hi hspec hh h lv d ra rb rc l hw die rseq open_
  refine ⟨fun hnone a => ?notOpen, fun n r c2 hopen hchain hne hc2 => ?threads, fun n r hopen => ?record⟩
  case notOpen => exact does_eret hi hspec hh hw (eret_notOpen (s := started s b c h) (ra := ra) hnone a lv rb rc)
  case threads =>
    intro back ready
    have hctx : sGet (started s b c h).ctxs r.ctx = some c2 := (sGet_sPut_ne _ _ hne).trans hc2
    have hback : ∀ (a : EretAct) (f : Thread → Thread),
        eretOn (started s b c h) l r a lv rb rc = (0, (started s b c h).setCtx r.ctx (c2.modT (parkedOf r.tids) f)) → back a f := by
      intro a f hdoes
      obtain ⟨t, c', hexec, hc', hran, hc3, hothers, hbytes, hrest⟩ := eret_back hi hspec hh hw (d := d) (ra := ra) hopen hne hdoes
      exact ⟨t, c', _, hexec, hc', hran, hc3, parked_threads c2 r.tids f, hothers, hbytes, hrest⟩
    refine ⟨hback .replay (readyT (fun x => x.pc)) ?_, fun o g ho hqblk hvtop hg hvec hd hxpd hwindow =>
      hback .skip (fun x => readyT (fun x => nextPc x.pc) (skipT g (natWords 4 (readS l.w 4 rb)) x)) ?_,
      fun hok => hback .exit (readyT (fun _ => BitVec.ofNat 64 (readS l.w 2 rc))) ?_⟩
    · rw [eretOn, State.eretAct, if_neg (by rw [hchain]; decide), resume_at hctx]
    · rw [eretOn, State.eretAct, if_neg (by rw [hchain]; decide), skipDst_vector hctx ho hqblk hvtop hg hvec hd hxpd hwindow, skip_resume]
    · rw [eretOn, State.eretAct, if_neg (by rw [hchain]; decide), resume_at hctx]
      exact if_pos hok
  case record =>
    intro u does answers closes
    have hchained : r.chain = true → ∀ (a : EretAct) (again : Bool), (a = if again then .replay else .skip) →
        eretOn (started s b c h) l r a lv rb rc = (0, (started s b c h).freeRec r again) := by
      rintro hchain a again rfl
      cases again <;> exact congrArg (Prod.mk 0) (if_pos hchain)
    refine ⟨fun hchain hbad => ?_, fun x hx => ?_, fun hnone => ?_, fun hchain => ⟨?_, ?_, ?_, fun ch hqueue hch hfaulted a ha => ?_⟩⟩
    · refine does_eret_fails hi hspec hh hw (k := 2) hopen (by decide) ?_
      rw [eretOn, State.eretAct, if_neg (by rw [hchain]; decide)]
      exact if_neg (by rw [show (started s b c h).exitOk _ _ = false from hbad]; decide)
    · refine becomes_eret hi hspec hh hw hopen ?_
      unfold eretOn State.eretAct
      dsimp only
      rw [show (started s b c h).recCancel r lv = some x from hx]
      rfl
    · refine does_eret_fails hi hspec hh hw (k := 3) hopen (by decide) ?_
      unfold eretOn State.eretAct
      dsimp only
      rw [show (started s b c h).recCancel r lv = none from hnone]
    · exact does_eret_fails hi hspec hh hw (k := 3) hopen (by decide) (if_pos hchain)
    · exact becomes_eret hi hspec hh hw hopen (hchained hchain .replay true rfl)
    · exact becomes_eret hi hspec hh hw hopen (hchained hchain .skip false rfl)
    · obtain ⟨again, hact⟩ : ∃ again : Bool, a = if again then EretAct.replay else EretAct.skip := by
        rcases List.mem_pair.1 ha with rfl | rfl
        · exact ⟨true, rfl⟩
        · exact ⟨false, rfl⟩
      refine ⟨_, becomes_eret hi hspec hh hw hopen (hchained hchain a again hact), ?_⟩
      dsimp only
      rw [State.seal_chains, State.modCtx_chains]
      exact freeRec_faulted (s := started s b c h) hqueue hch hfaulted again

end Sys2Proof.Proofs


/-! REFUTATION of O26: EXIT, BLOCK_END and the end of a launch (R206). -/

namespace Sys2Proof.Proofs

open Sys2Proof Sys2Proof.Machine Sys2Proof.Claims

/-! ### A block whose stores do not settle

BLOCK_END first writes back the dirty .g bytes of the block's L1 copies, and the block stays until no copy of its cores is dirty but private ones. A dirty
copy of a scratchpad byte is neither: it is not written back, and the block stays. No store makes such a copy, but the first case of BLOCK_END, other than the
second, which asks for clean caches, has no hypothesis about what L1 holds. -/

/-- The block, with no thread left. -/
def strayCtx : Ctx := { cores := [0] }

/-- The state: core 0 holds a dirty copy of a scratchpad byte. -/
def strayState : State := { State.reset with ctxs := [(1, strayCtx)], cores := [(0, { l1 := [(scratchP 0 0, 0, true)] })] }

/-- Whether block 1 is on the device after a step. -/
def stays : Out → Bool
  | .next t => (sGet t.ctxs 1).isSome
  | _ => false

/-- The block may end. -/
theorem stray_mayEnd : strayState.mayEnd 1 strayCtx = true := by decide +kernel

/-- Its BLOCK_END leaves it on the device. -/
theorem stray_stays : stays (exec (.blockEnd 1) strayState) = true := by decide +kernel

/-- Refutes O26: a block whose threads have all ended stays at BLOCK_END while its core holds a dirty copy that is neither of .g nor private. A premise that the
copies of the block's cores are clean, as the second case of BLOCK_END has it, would bar this state; EXIT and the end of the launch are not what fails. -/
theorem not_threadsEnd : ¬ Obligations.ThreadsEnd := by
  rintro ⟨-, hends⟩
  have hstores : NoStores strayCtx := fun w hw => by cases hw
  have hpins : NoPins strayState := by unfold NoPins; decide
  obtain ⟨hblock, -⟩ := hends strayState 1 0 strayCtx rfl stray_mayEnd hstores hpins
  obtain ⟨t, hexec, hgone, -⟩ := hblock rfl rfl rfl fun l hl => by cases hl
  have hstays := stray_stays
  rw [hexec, stays, hgone] at hstays
  cases hstays

end Sys2Proof.Proofs


/-! REFUTATION of O38: EXACQ of an empty entry (R213, R383, R384). -/

namespace Sys2Proof.Proofs

open Sys2Proof Sys2Proof.Machine Sys2Proof.Claims

/-! ### A fill that evicts its own entry

The fill of an entry evicts resident entries when its die has no free frames (R383, R384). The statement lets the table of entries be any list, so entry 5 may
stand in it twice: the first is empty, and the second, which no lookup reaches, is resident and unreferenced, hence the victim. Its eviction goes to the entry
of its number, which is the first. -/

/-- The empty entry of weights object 5, whose descriptor is that of the page in `grunMem`. -/
def emptyEntry : Resid := { wobj := 5 }

/-- The same entry, resident. -/
def twinEntry : Resid := { wobj := 5, state := 2 }

/-- The state: no frame is free, and entry 5 stands twice in the table. -/
def twinState : State := { grunState with resid := [(5, emptyEntry), (5, twinEntry)] }

/-- EXACQ.nw of entry 5. -/
def twinExacq : Instr := .exacq {} true 255 (.imm 5)

/-- The state of entry 5 after a step. -/
def entryAfter : Out → Nat
  | .next t => (t.residOf 5).state
  | _ => 0

/-- Its fill has started and it is evicted. -/
theorem twin_evicted : entryAfter (exec twinExacq twinState) = 4 := by decide +kernel

/-- Refutes O38: the fill that EXACQ.nw starts evicts the entry itself, which stands twice in the table. A premise that each entry stands there once would bar
this state; what EXACQ answers, EXREL, EXPIN and the end of the wait are not what fails. -/
theorem not_residencyResults : ¬ Obligations.ResidencyResults := by
  rintro ⟨hinstr, -⟩
  obtain ⟨-, hempty, -⟩ := hinstr twinState hotBeat hotCtx ⟨rfl, rfl⟩ rfl {} true true 255 (.imm 5) hotLane hot_wheels (by decide)
  obtain ⟨t, c', hexec, -, -, hstate, -⟩ := hempty rfl (by decide) (by decide) (by decide)
  have hevicted : (t.residOf 5).state = 4 := by
    have hafter := twin_evicted
    rwa [twinExacq, hexec] at hafter
  exact absurd (hstate.symm.trans hevicted) (by decide)

end Sys2Proof.Proofs

/-! PROOF of O39: TADV, TCMP, FREAD and met FWAIT (R238, R240-R242). -/

namespace Sys2Proof.Proofs

open Sys2Proof Sys2Proof.Machine Sys2Proof.Claims

/-! ### Registers written lane by lane -/

/-- A fold whose steps leave a value as it is, or bring about a property that every later step keeps. -/
theorem foldl_reaches {α β : Type} {P : β → Prop} {hit : α → Prop} {f : β → α → β} {l : List α} {y : β}
    (hmiss : ∀ a ∈ l, ¬hit a → ∀ z, z = y ∨ P z → f z a = z) (hhit : ∀ a ∈ l, hit a → ∀ z, z = y ∨ P z → P (f z a)) :
    ((∀ a ∈ l, ¬hit a) → l.foldl f y = y) ∧ ((∃ a ∈ l, hit a) → P (l.foldl f y)) := by
  have hgoal : ∀ (l' : List α) (z : β), (∀ a ∈ l', a ∈ l) → z = y ∨ P z → ((∀ a ∈ l', ¬hit a) → l'.foldl f z = z) ∧ ((P z ∨ ∃ a ∈ l', hit a) → P (l'.foldl f z)) := by
    intro l'
    induction l' with
    | nil => exact fun z _ _ => ⟨fun _ => rfl, fun hz => hz.elim id fun ⟨_, ha, _⟩ => absurd ha List.not_mem_nil⟩
    | cons a l' ih =>
      intro z hsub hz
      have ha := hsub a List.mem_cons_self
      have hsub' : ∀ x ∈ l', x ∈ l := fun x hx => hsub x (List.mem_cons_of_mem a hx)
      rw [List.foldl_cons]
      by_cases hah : hit a
      · have hP := hhit a ha hah z hz
        exact ⟨fun hnone => absurd hah (hnone a List.mem_cons_self), fun _ => (ih _ hsub' (.inr hP)).2 (.inl hP)⟩
      · rw [hmiss a ha hah z hz]
        refine ⟨fun hnone => (ih z hsub' hz).1 fun x hx => hnone x (List.mem_cons_of_mem a hx), fun hany => (ih z hsub' hz).2 (hany.imp_right ?_)⟩
        rintro ⟨x, hx, hxh⟩
        rcases List.mem_cons.1 hx with rfl | hx
        · exact absurd hxh hah
        · exact ⟨x, hx, hxh⟩
  obtain ⟨hnone, hsome⟩ := hgoal l y (fun _ => id) (.inl rfl)
  exact ⟨hnone, fun h => hsome (.inr h)⟩

/-- A thread whose registers have been written, once or more than once. -/
structure PutT (d : Nat) (ws : List Word) (t y : Thread) : Prop where
  rest : y = { t with vregs := y.vregs, pend := y.pend, latched := y.latched, acqs := y.acqs }
  regs : ∀ n, y.v n = after t.v [(d, ws)] n
  latched : y.latched = t.latched.filter (fun r => untouched [(d, ws)] r.2.1 r.2.2)
  acqs : y.acqs = t.acqs.filter (fun a => untouched [(d, ws)] a.1 1)

/-- A write twice is one write. -/
theorem after_twice (old : Nat → Word) (d : Nat) (ws : List Word) : after (after old [(d, ws)]) [(d, ws)] = after old [(d, ws)] := by
  funext n
  simp only [after]
  split <;> rfl

/-- Writing is that, and so is writing again. -/
theorem putT_put {d : Nat} {ws : List Word} {t z : Thread} (p : List Pend) (hz : z = t ∨ PutT d ws t z) : PutT d ws t (z.put d ws p) := by
  rcases hz with rfl | ⟨hrest, hregs, hlatched, hacqs⟩
  · exact ⟨by unfold Thread.put; split <;> rfl, z.put_after d ws p, z.put_latched d ws p, z.put_acqs d ws p⟩
  · refine ⟨?_, fun n => ?_, ?_, ?_⟩
    · unfold Thread.put
      split
      · exact hrest
      · rw [hrest]
    · rw [Thread.put_after, funext hregs, after_twice]
    · rw [Thread.put_latched, hlatched, List.filter_filter]; simp
    · rw [Thread.put_acqs, hacqs, List.filter_filter]; simp

/-- A wheel whose uniform registers have been written, once or more than once. -/
structure PutW (d : Nat) (ws : List Word) (w v : Wheel) : Prop where
  rest : v = { w with sregs := v.sregs, pend := v.pend }
  regs : ∀ n, v.s n = after w.s [(d, ws)] n

/-- Writing is that, and so is writing again. -/
theorem putW_put {d : Nat} {ws : List Word} {w z : Wheel} (p : List Pend) (hz : z = w ∨ PutW d ws w z) : PutW d ws w (z.put d ws p) := by
  rcases hz with rfl | ⟨hrest, hregs⟩
  · exact ⟨z.put_rest d ws p, z.put_after d ws p⟩
  · refine ⟨?_, fun n => by rw [Wheel.put_after, funext hregs, after_twice]⟩
    unfold Wheel.put
    split
    · exact hrest
    · rw [hrest]

section Fold

variable {s : State} {k : Nat} {f : State → Lane → List Word} (hf : ∀ c, f (s.setCtx k c) = f s) (d : Nat) (u : Use) (ls : List Lane)

include hf

/-- Lanes write D one after the other in their threads. -/
theorem foldl_putD_vector (c : Ctx) :
    ls.foldl (fun s l => s.putD k false l d (f s l) (mkPend s u 0)) (s.setCtx k c) =
      s.setCtx k { c with threads := c.threads.map (fun t => ls.foldl (fun t l => if t.tid == l.t.tid then t.put d (f s l) (mkPend s u 0) else t) t) } := by
  induction ls generalizing c with
  | nil => simp
  | cons l ls ih =>
    have hput : (s.setCtx k c).putD k false l d (f (s.setCtx k c) l) (mkPend (s.setCtx k c) u 0) =
        s.setCtx k (c.modT (fun t => t.tid == l.t.tid) (fun t => t.put d (f s l) (mkPend s u 0))) := by rw [hf]; exact State.modCtx_setCtx ..
    rw [List.foldl_cons, hput, ih]
    simp only [Ctx.modT, List.map_map, List.foldl_cons, Function.comp_def]

/-- Lanes write D one after the other in their home wheels. -/
theorem foldl_putD_uniform (c : Ctx) :
    ls.foldl (fun s l => s.putD k true l d (f s l) (mkPend s u 0)) (s.setCtx k c) =
      s.setCtx k { c with wheels := c.wheels.map (fun w => ls.foldl (fun w l => if w.idx = l.w.idx then w.put d (f s l) (mkPend s u 0) else w) w) } := by
  induction ls generalizing c with
  | nil => simp
  | cons l ls ih =>
    have hput : (s.setCtx k c).putD k true l d (f (s.setCtx k c) l) (mkPend (s.setCtx k c) u 0) =
        s.setCtx k (c.modW l.w.idx (fun w => w.put d (f s l) (mkPend s u 0))) := by rw [hf]; exact State.modCtx_setCtx ..
    rw [List.foldl_cons, hput, ih]
    simp only [Ctx.modW, List.map_map, List.foldl_cons, Function.comp_def]

end Fold

/-! ### The thread and the wheel after the lanes have written -/

/-- Acting lanes of one thread are one lane. -/
theorem acting_lane_eq {b : Beat} {c : Ctx} {h : Head} {l m : Lane} (hl : l ∈ acting b c h) (hm : m ∈ acting b c h) (htid : l.t.tid = m.t.tid) : l = m := by
  obtain ⟨hlt, hlw⟩ := lanesOf_acting b c h l hl
  obtain ⟨hmt, hmw⟩ := lanesOf_acting b c h m hm
  have ht : l.t = m.t := Option.some.inj (hlt.symm.trans (htid ▸ hmt))
  have hw : l.w = m.w := Option.some.inj (hlw.symm.trans (ht ▸ hmw))
  obtain ⟨lt, lw⟩ := l
  obtain rfl : lt = m.t := ht
  obtain rfl : lw = m.w := hw
  rfl

/-- The home wheel of lanes with an index is that of their first lane with it. -/
theorem wheelsOf_lane {ls : List Lane} {l : Lane} (hl : l ∈ wheelsOf ls) : ls.find? (fun m => m.w.idx == l.w.idx) = some l := by
  obtain ⟨i, -, hi⟩ := List.mem_filterMap.1 hl
  have hidx : l.w.idx = i := by simpa using List.find?_some hi
  rw [hidx, hi]

section Written

variable {b : Beat} {c : Ctx} {h : Head} (d : Nat) (f : Lane → List Word) (p : List Pend)

/-- A thread after every acting lane has written D. -/
theorem threadRan_putLanes {x : Thread} (hx : c.thread x.tid = some x) :
    ThreadRan b c h { vec := fun l => [(d, f l)] } x
      ((acting b c h).foldl (fun t l => if t.tid == l.t.tid then t.put d (f l) p else t) (moved b h x)) := by
  have htid : (moved b h x).tid = x.tid := by rw [moved_eq]
  have hkeep : ∀ {ws : List Word} {z : Thread}, z = moved b h x ∨ PutT d ws (moved b h x) z → z.tid = x.tid := by
    rintro ws z (rfl | hz)
    · exact htid
    · exact (congrArg Thread.tid hz.rest).trans htid
  cases hal : actingLane b c h x with
  | none =>
    have hnone := List.find?_eq_none.1 ((acting_find b c h x hx).trans hal)
    have hfold : (acting b c h).foldl (fun t l => if t.tid == l.t.tid then t.put d (f l) p else t) (moved b h x) = moved b h x :=
      foldl_fixed fun l hl => if_neg fun ht => hnone l hl (by rw [beq_iff_eq] at ht ⊢; rw [← ht, htid])
    rw [hfold, moved_eq]
    constructor <;> simp [hal, after, untouched, Thread.v]
  | some m =>
    have hm := actingLane_mem hx hal
    have hmt := actingLane_t hal
    have hsame : ∀ l ∈ acting b c h, l.t.tid = x.tid → l = m := fun l hl ht => acting_lane_eq hl hm (by rw [ht, hmt])
    obtain ⟨hrest, hregs, hlatched, hacqs⟩ := (foldl_reaches (P := PutT d (f m) (moved b h x)) (hit := fun l => l.t.tid = x.tid) (l := acting b c h)
      (f := fun t l => if t.tid == l.t.tid then t.put d (f l) p else t) (y := moved b h x)
      (fun l _ hl z hz => if_neg fun ht => hl (by rw [beq_iff_eq] at ht; rw [← ht, hkeep hz]))
      (fun l hl ht z hz => by rw [if_pos (by rw [hkeep hz, ht, beq_self_eq_true]), hsame l hl ht]; exact putT_put p hz)).2 ⟨m, hm, by rw [hmt]⟩
    generalize (acting b c h).foldl (fun t l => if t.tid == l.t.tid then t.put d (f l) p else t) (moved b h x) = y at *
    rw [moved_eq] at hrest hlatched hacqs
    have hv : (moved b h x).v = x.v := by rw [moved_eq]; rfl
    refine ⟨?_, ?_, fun n => ?_, ?_, ?_, ?_⟩ <;> simp only [hal, Option.map_some, Option.bind_some, Option.getD_some, Option.getD_none]
    · rw [hrest]
    · exact (congrArg Thread.pc hrest :)
    · rw [hregs, hv]
    · rw [hmt]; exact (congrArg Thread.preds hrest :)
    · exact hlatched
    · exact hacqs

/-- A wheel after the first acting lane of each home wheel has written D. -/
theorem wheelRan_putLanes (cycle : Nat) (w : Wheel) :
    WheelRan cycle b c h { uni := fun l => [(d, f l)] } w
      ((wheelsOf (acting b c h)).foldl (fun w l => if w.idx = l.w.idx then w.put d (f l) p else w) w) := by
  have hkeep : ∀ {ws : List Word} {z : Wheel}, z = w ∨ PutW d ws w z → z.idx = w.idx := by
    rintro ws z (rfl | hz)
    · rfl
    · exact (congrArg Wheel.idx hz.rest :)
  cases hfound : (acting b c h).find? (fun l => l.w.idx == w.idx) with
  | none =>
    have hfold : (wheelsOf (acting b c h)).foldl (fun w l => if w.idx = l.w.idx then w.put d (f l) p else w) w = w :=
      foldl_fixed fun l hl => if_neg fun hidx => List.find?_eq_none.1 hfound l (mem_of_mem_wheelsOf hl) (beq_iff_eq.2 hidx.symm)
    rw [hfold]
    exact ⟨rfl, (List.append_nil _).symm, fun n => by rw [hfound]; rfl, (List.append_nil _).symm⟩
  | some m =>
    have hidx : m.w.idx = w.idx := by simpa using List.find?_some hfound
    obtain ⟨l, hl, hlm⟩ := exists_mem_wheelsOf (List.mem_of_find?_eq_some hfound)
    have hsame : ∀ l ∈ wheelsOf (acting b c h), l.w.idx = w.idx → l = m := fun l hl hlw =>
      Option.some.inj ((wheelsOf_lane hl).symm.trans (by rw [hlw, hfound]))
    obtain ⟨hrest, hregs⟩ := (foldl_reaches (P := PutW d (f m) w) (hit := fun l => l.w.idx = w.idx) (l := wheelsOf (acting b c h))
      (f := fun w l => if w.idx = l.w.idx then w.put d (f l) p else w) (y := w)
      (fun l _ hl z hz => if_neg fun ht => hl (by rw [← ht, hkeep hz]))
      (fun l hl ht z hz => by rw [if_pos (by rw [hkeep hz, ht]), hsame l hl ht]; exact putW_put p hz)).2 ⟨l, hl, hlm.trans hidx⟩
    refine ⟨?_, ?_, fun n => ?_, ?_⟩
    · rw [hrest]
    · exact (congrArg Wheel.stores hrest :).trans (List.append_nil _).symm
    · rw [hregs, hfound]; rfl
    · exact (congrArg Wheel.retire hrest :).trans (List.append_nil _).symm

end Written

/-- D written lane by lane, as a whole effect. -/
theorem putD_ran {s : State} {b : Beat} {c : Ctx} {h : Head} {f : State → Lane → List Word} (hf : ∀ c, f (s.setCtx b.ctx c) = f s) (d : Dst) (u : Use) :
    Ran s b c h (into d (f s)) ((((siteOf b c h).actors (dstNum d).2).foldl
      (fun s l => s.putD b.ctx (dstNum d).2 l (dstNum d).1 (f s l) (mkPend s u 0)) (started s b c h)).seal s.mem) := by
  cases d with
  | v r =>
    have hfold := foldl_putD_vector hf r.toNat u (acting b c h) (c.advance b h.yld)
    simp only [dstNum, Site.actors, Bool.false_eq_true, if_false, siteOf_lanes]
    rw [started, hfold]
    refine ran_setCtx rfl (ctxRan_of_maps (fun x => (acting b c h).foldl (fun t l => if t.tid == l.t.tid then t.put r.toNat (f s l) (mkPend s u 0) else t) (moved b h x))
      id ?_ (fun x => ?_) (fun _ => rfl) (fun x hx => threadRan_putLanes r.toNat (f s) _ hx)
      (fun w _ => wheelRan_none _ b c h _ w (fun _ => rfl) (fun _ => rfl) (fun _ => rfl)))
    · simp only [Ctx.advance, Ctx.modT, List.map_map, List.map_id]; rfl
    · exact (foldl_keeps Thread.tid (fun t l => by split <;> simp) _ _).trans (by rw [moved_eq])
  | s r =>
    have hfold := foldl_putD_uniform hf r.toNat u (wheelsOf (acting b c h)) (c.advance b h.yld)
    simp only [dstNum, Site.actors, if_true, siteOf_lanes]
    rw [started, hfold]
    refine ran_setCtx rfl (ctxRan_of_maps (ranT b h [] (fun _ t => t)) (fun w => (wheelsOf (acting b c h)).foldl (fun w l => if w.idx = l.w.idx then w.put r.toNat (f s l) (mkPend s u 0) else w) w)
      rfl (ranT_tid b h [] fun _ _ => rfl) (fun w => ?_)
      (fun x _ => threadRan_move b c h _ x (fun _ => rfl) (fun _ => rfl) (fun _ _ => rfl) (fun _ => rfl))
      (fun w _ => wheelRan_putLanes r.toNat (f s) _ s.cycle w))
    exact foldl_keeps Wheel.idx (fun w l => by split <;> simp) _ _

/-! ### The lanes of a time instruction -/

/-- A time instruction whose lanes all pass does its effect (R238). -/
theorem act_timeOp {s : State} {b : Beat} {c : Ctx} (hi : InIssue s b c) (h : Head) {uni pure_ : Bool} {cause : State → Lane → Option Nat} {addr info : Lane → BitVec 64}
    {ok : Site → List Lane → State → State} (hrun : pure_ = true ∨ c.run = none)
    (hcause : ∀ l ∈ (siteOf b c h).actors uni, cause (started s b c h) l = none)
    (hidle : ok (siteOf b c h) [] (started s b c h) = started s b c h) :
    act (timeOp h uni pure_ cause addr info ok) s = .next ((ok (siteOf b c h) ((siteOf b c h).actors uni) (started s b c h)).seal s.mem) := by
  refine (act_onBeat hi h _).trans (congrArg (fun u => (.next (State.seal s.mem u) : Out)) ?_)
  have hbad : ((siteOf b c h).actors uni).filter (fun l => (cause (started s b c h) l).isSome) = [] :=
    List.filter_eq_nil_iff.2 fun l hl => by rw [hcause l hl]; exact Bool.false_ne_true
  have hgood : ((siteOf b c h).actors uni).filter (fun l => (cause (started s b c h) l).isNone) = (siteOf b c h).actors uni :=
    List.filter_eq_self.2 fun l hl => by rw [hcause l hl]; rfl
  rw [← started]
  cases hls : acting b c h with
  | nil =>
    have hnone : (siteOf b c h).actors uni = [] := by
      unfold Site.actors
      rw [siteOf_lanes, hls]
      cases uni <;> rfl
    rw [hnone, hidle]
    simp only [siteOf_lanes, hls]
  | cons l ls =>
    simp only [siteOf_lanes, siteOf_c, hls]
    cases hr : c.run with
    | none => simp only [hbad, hgood, List.flatMap_nil]; rfl
    | some k =>
      obtain rfl := hrun.resolve_right (by rw [hr]; exact Option.some_ne_none k)
      simp only [hbad, hgood, List.flatMap_nil]
      rfl

/-- Moving on leaves the map and the memory. -/
theorem sameMap_started (s : State) (b : Beat) (c : Ctx) (h : Head) : SameMap s (started s b c h) := sameMap_of_eq rfl rfl rfl rfl rfl rfl rfl rfl

/-- States that agree have the same locations. -/
theorem SameMap.gmeta {s t : State} (hsame : SameMap s t) (ofs n : Nat) : t.gmeta ofs n = s.gmeta ofs n := by
  rw [State.gmeta, State.gmeta, State.unitGet, State.unitGet, hsame.unitRead, hsame.job]

/-- They judge times alike. -/
theorem SameMap.timeCause {s t : State} (hsame : SameMap s t) (loc u : Nat) : t.timeCause loc u = s.timeCause loc u := by
  have hlocs : t.nLoc = s.nLoc := by rw [State.nLoc, State.nLoc, hsame.gmeta]
  have hdepth : t.locDepth loc = s.locDepth loc := by simp only [State.locDepth, hsame.gmeta]
  rw [State.timeCause, State.timeCause, hlocs, hdepth]

/-! ### TADV, TCMP, FREAD -/

/-- A thread that is told the status of its time (R240). -/
def statusT (d pd : Nat) (t : Thread) (k : Nat) : Thread := { t.put d [BitVec.ofNat 32 k] [] with preds := setPred t.preds pd (k != 2) }

section Time

variable {s : State} {b : Beat} {c : Ctx} (hi : InIssue s b c) (h : Head)

include hi

/-- TADV of times with an image (R242). -/
theorem tadv_does (d : Dst) (x y : Src)
    (hcause : ∀ l ∈ (siteOf b c h).actors (dstNum d).2, tadvCause (readSrc l 1 y) (readSrc l 2 x) = none) :
    Does (.tadv h d x y) s b c h (into d (fun l => natWords 2 (tadvValue (readSrc l 1 y) (readSrc l 2 x)))) := by
  refine ⟨_, ?_, putD_ran (f := fun _ l => natWords 2 (tadvValue (readSrc l 1 y) (readSrc l 2 x))) (fun _ => rfl) d
    (if (dstNum d).2 then .s (dstNum d).1 2 else .v (dstNum d).1 2)⟩
  cases d <;> exact act_timeOp hi h (.inl rfl) hcause rfl

/-- FREAD of a declared location (R241). -/
theorem fread_does (hrun : c.run = none) (d : Dst) (x : Src)
    (hloc : ∀ l ∈ (siteOf b c h).actors (dstNum d).2, readSrc l 1 x < s.nLoc) :
    Does (.fread h d x) s b c h (into d (fun l => s.freadWords (dieOf l.w.core) (readSrc l 1 x))) := by
  refine ⟨_, ?_, putD_ran (f := fun s l => s.freadWords (dieOf l.w.core) (readSrc l 1 x)) (fun _ => rfl) d
    (if (dstNum d).2 then .s (dstNum d).1 4 else .v (dstNum d).1 4)⟩
  cases d <;> exact act_timeOp hi h (.inr hrun) (fun l hl => if_neg (hloc l hl).not_ge) rfl

/-- TCMP of times of one depth (R242). -/
theorem tcmp_does (cc : Cc) (and_ : Bool) (pd : BitVec 5) (x y : Src)
    (hdepth : ∀ l ∈ (siteOf b c h).lanes, tBad (readSrc l 2 x) = false ∧ tBad (readSrc l 2 y) = false ∧ tDepth (readSrc l 2 x) = tDepth (readSrc l 2 y)) :
    Does (.tcmp h cc and_ pd x y) s b c h (intoP pd (fun l => tRel cc (readSrc l 2 x) (readSrc l 2 y) && (!and_ || readP l pd))) := by
  refine ⟨_, act_timeOp hi h (.inl rfl) (fun l hl => ?_) ?_, writeP_ran s b c h pd 0 _⟩
  · obtain ⟨hx, hy, heq⟩ := hdepth l hl
    simp [hx, hy, heq]
  · simp only [State.writeP, siteOf_b, started, State.modCtx_setCtx, eachLane_nil]

omit hi in
/-- What lanes are told by their threads' numbers, each lane is told. -/
theorem modT_told {ls : List Lane} {f : Thread → Nat → Thread} (v : Lane → Nat) (c : Ctx) :
    c.modT (fun t => (ls.map (fun l => (l.t.tid, v l))).any (fun r => r.1 == t.tid))
      (fun t => f t ((((ls.map (fun l => (l.t.tid, v l))).find? (fun r => r.1 == t.tid)).map (fun r => r.2)).getD 2)) =
      c.eachLane ls (fun l t => f t (v l)) := by
  have hthreads : ∀ t : Thread, (if (ls.map (fun l => (l.t.tid, v l))).any (fun r => r.1 == t.tid) then
      f t ((((ls.map (fun l => (l.t.tid, v l))).find? (fun r => r.1 == t.tid)).map (fun r => r.2)).getD 2) else t) =
      match ls.find? (fun l => l.t.tid == t.tid) with
      | some l => f t (v l)
      | none => t := fun t => by
    rw [List.any_map, List.find?_map]
    simp only [Function.comp_def]
    cases hl : ls.find? (fun l => l.t.tid == t.tid) with
    | none => exact if_neg (by simpa using List.find?_eq_none.1 hl)
    | some l => exact if_pos (List.any_eq_true.2 ⟨l, List.mem_of_find?_eq_some hl, List.find?_some hl⟩)
  exact congrArg (fun ts => { c with threads := ts }) (List.map_congr_left fun t _ => hthreads t)

omit hi in
/-- A change of lanes that agree. -/
theorem eachLane_congr {ls : List Lane} {f g : Lane → Thread → Thread} (hfg : ∀ l ∈ ls, f l = g l) (c : Ctx) : c.eachLane ls f = c.eachLane ls g := by
  refine congrArg (fun ts => { c with threads := ts }) (List.map_congr_left fun t _ => ?_)
  cases hl : ls.find? (fun l => l.t.tid == t.tid) with
  | none => rfl
  | some l => exact congrFun (hfg l (List.mem_of_find?_eq_some hl)) t

omit hi in
/-- A status is that of a complete time or of a poisoned one (R240). -/
theorem timeStatus_ne_two {die loc t k : Nat} (hk : s.timeStatus die loc t = some k) : k ≠ 2 := by
  rintro rfl
  unfold State.timeStatus at hk
  grind

omit hi in
/-- The end of a wait for times, lane by lane (R240). -/
theorem fwaitEnd_lanes (s : State) {c : Ctx} {ls : List Lane} (hls : LanesOf c ls) (k d pd : Nat) (acq : Bool) (loc : Lane → Nat) (time : Lane → BitVec 64) {core : Nat}
    (hcore : (ls.head?.map (fun l => l.w.core)).getD 0 = core) :
    ∃ on, s.fwaitEnd k c d pd acq (ls.map (fun l => (l.t.tid, loc l, time l))) =
      (s.modCtx k (fun c => c.eachLane ls (fun l t => statusT d pd t ((s.timeStatus (dieOf core) (loc l) (time l).toNat).getD 2)))).acquireIf on c core .dom := by
  have htold := funext (modT_told (ls := ls) (f := statusT d pd) (fun l => (s.timeStatus (dieOf core) (loc l) (time l).toNat).getD 2))
  simp only [State.fwaitEnd, List.map_map, Function.comp_def, hls.lanes, hcore]
  exact ⟨_, congrArg (fun g => (s.modCtx k g).acquireIf _ c core .dom) htold⟩

/-- FWAIT of complete times writes their status (R240). -/
theorem fwait_met (hrun : c.run = none) (acq : Bool) (r : BitVec 8) (pd : BitVec 5) (x y : Src) {l0 : Lane} (hl0 : (siteOf b c h).lanes.head? = some l0) :
    let st := fun (l : Lane) => s.timeStatus (dieOf l0.w.core) (readSrc l 1 x) (BitVec.ofNat 64 (readSrc l 2 y)).toNat
    (∀ l ∈ (siteOf b c h).lanes, s.timeCause (readSrc l 1 x) (readSrc l 2 y) = none ∧ (st l).isSome) →
    Uses (.fwait h acq r pd x y) s b c h
      { into (.v r) (fun l => [BitVec.ofNat 32 ((st l).getD 2)]) with preds := fun l => setPred l.t.preds pd.toNat true } [] := by
  intro st hmet
  have hcore : ((acting b c h).head?.map (fun l => l.w.core)).getD 0 = l0.w.core := by rw [← siteOf_lanes, hl0]; rfl
  have hempty : (acting b c h).isEmpty = false := by
    cases hls : acting b c h with
    | nil => rw [siteOf_lanes, hls] at hl0; cases hl0
    | cons => rfl
  have hall : (started s b c h).fwaitMet c ((acting b c h).map (fun l => (l.t.tid, readSrc l 1 x, BitVec.ofNat 64 (readSrc l 2 y)))) = true := by
    simp only [State.fwaitMet, List.map_map, Function.comp_def, (lanesOf_acting b c h).lanes, hcore, List.all_map, List.all_eq_true]
    exact fun l hl => (hmet l hl).2
  obtain ⟨on, hend⟩ := fwaitEnd_lanes (started s b c h) (lanesOf_acting b c h) b.ctx r.toNat pd.toNat acq (fun l => readSrc l 1 x)
    (fun l => BitVec.ofNat 64 (readSrc l 2 y)) hcore
  have hlanes : ∀ l ∈ acting b c h, (fun t => statusT r.toNat pd.toNat t (((started s b c h).timeStatus (dieOf l0.w.core) (readSrc l 1 x)
      (BitVec.ofNat 64 (readSrc l 2 y)).toNat).getD 2)) =
      fun t : Thread => { t.put r.toNat [BitVec.ofNat 32 ((st l).getD 2)] [] with preds := setPred t.preds pd.toNat true } := fun l hl => by
    obtain ⟨k, hk⟩ := Option.isSome_iff_exists.1 (hmet l hl).2
    have hk' : (started s b c h).timeStatus (dieOf l0.w.core) (readSrc l 1 x) (BitVec.ofNat 64 (readSrc l 2 y)).toNat = some k := hk
    simp only [hk', hk, Option.getD_some, statusT, bne_iff_ne.2 (timeStatus_ne_two hk)]
  refine ⟨_, (act_timeOp hi h (uni := false) (.inr hrun) (fun l hl => ((sameMap_started s b c h).timeCause _ _).trans (hmet l hl).1) rfl).trans
    (congrArg (fun u => (.next (State.seal s.mem u) : Out)) ?_), touched_setCtx_acquireIf (ctxRan_put s.cycle b c h r.toNat
      (fun l => [BitVec.ofNat 32 ((st l).getD 2)]) (fun _ => []) (fun _ w => setPred w pd.toNat true)) on l0.w.core .dom⟩
  simp only [siteOf_b, siteOf_c, siteOf_lanes, Site.actors, Bool.false_eq_true, if_false, List.isEmpty_map, hempty, hall, if_true]
  rw [hend, started, State.modCtx_setCtx]
  exact congrArg (fun d => (s.setCtx b.ctx d).acquireIf on c l0.w.core .dom) (eachLane_congr hlanes (c.advance b h.yld))

end Time

/-- Settles O39: the lanes pass, and each writes its own thread or its home wheel. -/
theorem timeResults : Obligations.TimeResults := by
  intro s b c hi h d r cc and_ acq pd x y e
  exact ⟨tadv_does hi h d x y, tcmp_does hi h cc and_ pd x y, fun hrun => fread_does hi h hrun d x, fun hrun l0 hl0 => fwait_met hi h hrun acq r pd x y hl0⟩

end Sys2Proof.Proofs

/-! SUPPORT of O41, O43: states whose caches, descriptors and memory agree read the same bytes (R266, R267). -/

namespace Sys2Proof.Proofs

open Sys2Proof Sys2Proof.Machine Sys2Proof.Claims

/-- States whose cores read the same bytes, and translate and judge times alike. -/
structure Alike (s t : State) : Prop extends SameMap s t where
  l1 : ∀ k, (t.core k).l1 = (s.core k).l1
  dcache : ∀ k, (t.core k).dcache = (s.core k).dcache
  hotth : t.hotth = s.hotth
  resid : t.resid = s.resid

/-- A state agrees with itself. -/
theorem Alike.refl (s : State) : Alike s s := ⟨.refl s, fun _ => rfl, fun _ => rfl, rfl, rfl⟩

/-- States that agree with one agree. -/
theorem Alike.trans {s t u : State} (h : Alike s t) (h' : Alike t u) : Alike s u :=
  ⟨h.toSameMap.trans h'.toSameMap, fun k => (h'.l1 k).trans (h.l1 k), fun k => (h'.dcache k).trans (h.dcache k), h'.hotth.trans h.hotth, h'.resid.trans h.resid⟩

section Read

variable {s t : State} (h : Alike s t)

include h

/-- The table control object reads alike. -/
theorem Alike.tcoByte (a : Nat) : t.tcoByte a = s.tcoByte a := by
  rw [State.tcoByte, State.tcoByte, h.hotth, h.resid, h.bytes]

/-- The levels below L1 supply the same bytes. -/
theorem Alike.below (die : Nat) (ps : List Nat) : t.below die ps = s.below die ps := by
  simp only [State.below, h.l2, h.bytes, h.tcoByte]

/-- A core has the same bytes. -/
theorem Alike.coreBytes (core : Nat) (ps : List Nat) : t.coreBytes core ps = s.coreBytes core ps := by
  simp only [State.coreBytes, h.l1, h.below]

/-- A copy of L1 changes alike. -/
theorem Alike.modCore (k : Nat) (F : Cache → Cache) : Alike (s.modCore k (fun x => { x with l1 := F x.l1 })) (t.modCore k (fun x => { x with l1 := F x.l1 })) where
  toSameMap := ⟨h.bytes, h.poison, h.l2, h.fabric, h.job, h.grid, h.leases, h.qps⟩
  l1 j := by
    rw [core_modCore_eq, core_modCore_eq]
    split
    · exact congrArg F (h.l1 j)
    · exact h.l1 j
  dcache j := by
    rw [core_modCore_eq, core_modCore_eq]
    split
    · exact h.dcache j
    · exact h.dcache j
  hotth := h.hotth
  resid := h.resid

/-- A die's copies change alike. -/
theorem Alike.modDie (d : Nat) (F : Cache → Cache) : Alike (s.modDie d (fun x => { x with l2 := F x.l2 })) (t.modDie d (fun x => { x with l2 := F x.l2 })) where
  toSameMap := by
    refine ⟨h.bytes, h.poison, fun j => ?_, fun j => ?_, h.job, h.grid, h.leases, h.qps⟩ <;> rw [die_modDie, die_modDie]
    · split
      · exact congrArg F (h.l2 j)
      · exact h.l2 j
    · split
      · exact h.fabric j
      · exact h.fabric j
  l1 := h.l1
  dcache := h.dcache
  hotth := h.hotth
  resid := h.resid

/-- A sector is fetched alike. -/
theorem Alike.fetchSector (core q : Nat) (need : List Nat) : Alike (s.fetchSector core q need) (t.fetchSector core q need) := by
  unfold State.fetchSector
  extract_lets die home s1 m cells homet t1 mt cellst
  rw [h.l1]
  split
  · exact h
  · have hhome : homet = home := by simp only [homet, home, h.poison, h.bytes]
    have h1 : Alike s1 t1 := by
      unfold s1 t1
      rw [hhome, h.l2]
      split
      · exact h
      · exact h.modDie die (fun x => cacheMerge x home)
    have hcells : cellst = cells := by simp only [cellst, cells, mt, m, hhome, h1.l2]
    rw [hcells, h1.l1]
    split
    · exact h1
    · exact h1.modCore core (fun x => cacheMerge x cells)

/-- The sectors of an access enter the caches alike. -/
theorem Alike.fillFor (core pol : Nat) (ps : List Nat) : Alike (s.fillFor core pol ps) (t.fillFor core pol ps) := by
  unfold State.fillFor
  extract_lets qs s1 t1
  have h1 : Alike s1 t1 := h.modCore core (fun m => m.filter (fun e => e.2.2 || !qs.contains e.1))
  have hfold : ∀ (l : List Nat) {s t : State}, Alike s t → Alike (l.foldl (fun s q => s.fetchSector core q (qs.filter (fun p => sectorOf p == q))) s)
      (l.foldl (fun s q => s.fetchSector core q (qs.filter (fun p => sectorOf p == q))) t) := by
    intro l
    induction l with
    | nil => exact id
    | cons q l ih => exact fun h => ih (h.fetchSector core q _)
  rw [h.l1]
  split
  · exact h
  · split
    · rw [h1.l2]
      split
      · exact h1
      · exact h1.modDie (dieOf core) (fun m => m.filter (fun e => e.2.2 || !qs.contains e.1))
    · exact hfold _ h

end Read

/-! ### Changes of copies alone -/

/-- A change of what caches hold, of pins, and of what late replies may enter caches; no dirty byte is new. -/
structure CopiesOnly (s t : State) : Prop where
  frame : CachesOnly s t
  die : ∀ d, t.die d = { s.die d with l2 := (t.die d).l2 }
  clean : Clean s → Clean t

/-- No change is one. -/
theorem CopiesOnly.refl (s : State) : CopiesOnly s s := ⟨rfl, fun _ => rfl, id⟩

/-- Two such changes are one. -/
theorem CopiesOnly.trans {s t u : State} (h : CopiesOnly s t) (h' : CopiesOnly t u) : CopiesOnly s u :=
  ⟨h.frame.trans h'.frame, fun d => (h'.die d).trans (congrArg (fun x : Die => { x with l2 := (u.die d).l2 }) (h.die d)), h'.clean ∘ h.clean⟩

/-- Such changes, one for each element of a list. -/
theorem CopiesOnly.foldl {α : Type} {f : State → α → State} (hf : ∀ s a, CopiesOnly s (f s a)) (l : List α) (s : State) : CopiesOnly s (l.foldl f s) := by
  induction l generalizing s with
  | nil => exact .refl s
  | cons a l ih => exact (hf s a).trans (ih _)

/-- A core's L1 changes without a new dirty byte. -/
theorem copiesOnly_modCore {s : State} {k : Nat} {f : Core → Core} (hl1 : CleanCache (s.core k).l1 → CleanCache (f (s.core k)).l1) : CopiesOnly s (s.modCore k f) :=
  ⟨rfl, fun _ => rfl, fun h => ⟨forall_mem_sPut (P := fun x : Nat × Core => CleanCache x.2.l1) h.1 (hl1 (clean_core h k)), h.2⟩⟩

/-- A die's copies change without a new dirty byte. -/
theorem copiesOnly_modDie (s : State) (k : Nat) {F : Cache → Cache} (hF : ∀ m, CleanCache m → CleanCache (F m)) :
    CopiesOnly s (s.modDie k (fun x => { x with l2 := F x.l2 })) := by
  refine ⟨rfl, fun d => ?_, fun h => ⟨h.1, forall_mem_sPut (P := fun x : Nat × Die => CleanCache x.2.l2) h.2 (hF _ (clean_die h k))⟩⟩
  rw [die_modDie]
  split <;> rfl

/-- Clean bytes leave an L1. -/
theorem copiesOnly_dropL1 (s : State) (core : Nat) (f : Nat → Bool) : CopiesOnly s (s.dropL1 core f) :=
  copiesOnly_modCore fun h e he => h e (List.mem_filter.1 he).1

/-- Clean bytes leave a die's copies. -/
theorem copiesOnly_dropL2 (s : State) (die : Nat) (f : Nat → Bool) : CopiesOnly s (s.dropL2 die f) :=
  copiesOnly_modDie s die (F := fun m => m.filter (fun e => e.2.2 || !f e.1)) fun _ h e he => h e (List.mem_filter.1 he).1

/-- A fetched sector brings clean bytes. -/
theorem copiesOnly_fetchSector (s : State) (core q : Nat) (need : List Nat) : CopiesOnly s (s.fetchSector core q need) := by
  unfold State.fetchSector
  extract_lets die home s1 m cells
  have h1 : CopiesOnly s s1 := by
    unfold s1
    split
    · exact .refl s
    · exact copiesOnly_modDie s die (F := fun x => cacheMerge x home) fun _ h => h.cacheMerge home
  split
  · exact .refl s
  · split
    · exact h1
    · exact h1.trans (copiesOnly_modCore fun h => h.cacheMerge cells)

/-- The sectors of an access enter the caches clean. -/
theorem copiesOnly_fillFor (s : State) (core pol : Nat) (ps : List Nat) : CopiesOnly s (s.fillFor core pol ps) := by
  unfold State.fillFor
  extract_lets qs s1
  have h1 : CopiesOnly s s1 := copiesOnly_dropL1 ..
  split
  · exact .refl s
  · split
    · split
      · exact h1
      · exact h1.trans (copiesOnly_dropL2 ..)
    · exact .foldl (fun s q => copiesOnly_fetchSector ..) _ s

/-! ### Line accesses that count at their ports (R376) -/

/-- A change of page counts and of the ring that announces them. -/
structure Ported (s t : State) : Prop where
  counted : Counted s t
  die : ∀ d, t.die d = { s.die d with hot := (t.die d).hot, ringHead := (t.die d).ringHead }
  launches : t.launches = s.launches

/-- No change is one. -/
theorem Ported.refl (s : State) : Ported s s := ⟨.refl s, fun _ => rfl, rfl⟩

/-- Two such changes are one. -/
theorem Ported.trans {s t u : State} (h : Ported s t) (h' : Ported t u) : Ported s u :=
  ⟨h.counted.trans h'.counted, fun d => (h'.die d).trans (congrArg (fun x : Die => { x with hot := (u.die d).hot, ringHead := (u.die d).ringHead }) (h.die d)),
    h'.launches.trans h.launches⟩

/-- A number in the table control object. -/
theorem ported_putNum (s : State) (a n v : Nat) : Ported s (s.putNum (tcoP a) n v) := by
  refine ⟨counted_putNum s a n v, fun d => ?_, ?_⟩
  · rw [State.putNum, State.die, homeWrites_dies]; rfl
  · rw [State.putNum, homeWrites_frame]

/-- A change of a die's page counts and ring. -/
theorem ported_modDie (s : State) (k : Nat) {f : Die → Die} (hf : ∀ x, f x = { x with hot := (f x).hot, ringHead := (f x).ringHead }) : Ported s (s.modDie k f) := by
  refine ⟨counted_modDie s k f, fun d => ?_, rfl⟩
  rw [die_modDie]
  split
  · exact hf _
  · rfl

/-- A request counts at a port, and may be announced in the ring. -/
theorem ported_countHot (s : State) (d obj page req : Nat) (hot : Bool) : Ported s (s.countHot d obj page req hot) := by
  unfold State.countHot
  extract_lets x old n rest rest' s' base head r s1 s2 s3
  have hcount : Ported s s' := ported_modDie s d fun _ => rfl
  split
  · have hr : r + 64 = tcoP (base + 16 + 16 * (head % 255) + 8) := by simp only [r, tcoP, place]; ring
    have hring : Ported s' s3 := (ported_putNum s' ..).trans ((hr ▸ ported_putNum s1 ..).trans (ported_putNum s2 ..))
    exact hcount.trans (hring.trans (ported_modDie s3 d fun _ => rfl))
  · exact hcount

/-- The line accesses of a beat count at their ports. -/
theorem ported_countBeat (s s0 : State) (k : Nat) (accs : List Acc) (read : Bool) : Ported s (s.countBeat s0 k accs read) := by
  have hfold : ∀ {α : Type} {f : State → α → State} (_ : ∀ s a, Ported s (f s a)) (l : List α) (s : State), Ported s (l.foldl f s) := by
    intro α f hf l
    induction l with
    | nil => exact .refl
    | cons a l ih => exact fun s => (hf s a).trans (ih _)
  refine hfold (fun s x => ?_) _ s
  split
  · exact .refl s
  · split
    · exact .refl s
    · unfold State.touch
      extract_lets remote
      split
      · exact ported_countHot ..
      · exact .refl s

/-! ### What the threads' queues hold -/

/-- No answered request supplies a byte. -/
theorem fillByte_of_alone {c : Ctx} (halone : Alone c) (tids : List Nat) (p : Nat) : c.fillByte tids p = none := by
  refine List.findSome?_eq_none_iff.2 fun o ho => ?_
  rw [(halone o ho).2, Bool.false_and, Bool.false_and]
  rfl

/-- The bytes that a lane reads in a context without queued stores, run and requests are those of its core. -/
theorem laneBytes_of_alone {s : State} {k : Nat} {c : Ctx} (hc : sGet s.ctxs k = some c) (hstores : NoStores c) (hrun : c.run = none) (halone : Alone c) (l : Lane)
    (ps : List Nat) : s.laneBytes k l ps = s.coreBytes l.w.core ps := by
  have hqueue : ((c.wheel l.w.idx).map (fun w => w.stores)).getD [] = [] := by
    cases hw : c.wheel l.w.idx with
    | none => rfl
    | some w => exact hstores w (List.mem_of_find?_eq_some hw)
  have hlen : (s.coreBytes l.w.core ps).length ≤ ps.length := by simp [State.coreBytes]
  simp only [State.laneBytes, State.loadBytes, hc, hqueue, hrun, queueByte, List.foldl_nil, Option.bind_none, fillByte_of_alone halone]
  conv_rhs => rw [← List.map_snd_zip hlen]
  refine List.map_congr_left fun x _ => ?_
  cases x.2 <;> rfl

/-- A wheel without queued stores shows none. -/
theorem lookQueue_of_noStores {s : State} {k : Nat} {c : Ctx} (hc : sGet s.ctxs k = some c) (hstores : NoStores c) (wheel : Nat) (tids ps : List Nat) :
    s.lookQueue k wheel tids ps = { s with free := s.free + 1 } := by
  have hsame : c.modW wheel (fun w => { w with stores := w.stores.zipIdx.map (fun q => q.1.look tids ps (Config.readsQueued s.free q.2)) }) = c := by
    refine (congrArg (fun ws => { c with wheels := ws }) ?_ : _ = { c with wheels := c.wheels })
    conv_rhs => rw [← List.map_id c.wheels]
    refine List.map_congr_left fun w hw => ?_
    split
    · refine congrArg (fun q => ({ w with stores := q } : Wheel)) (a₂ := w.stores) ?_
      rw [hstores w hw]
      rfl
    · rfl
  have hplaced := modCtx_placed (s := { s with free := s.free + 1 }) hc
    (fun c => c.modW wheel (fun w => { w with stores := w.stores.zipIdx.map (fun q => q.1.look tids ps (Config.readsQueued s.free q.2)) }))
  rw [hsame, State.setCtx, sPut_of_sGet hc] at hplaced
  exact hplaced

end Sys2Proof.Proofs

/-! PROOF of O41: TMINC, TMDEC and TSPAWN (R239, R243). -/

namespace Sys2Proof.Proofs

open Sys2Proof Sys2Proof.Machine Sys2Proof.Claims

/-! ### Threads that only move on -/

/-- Threads that are those of the moved beat have only moved on. -/
theorem moved_of_threads {b : Beat} {c c' : Ctx} {h : Head} (hthreads : c'.threads = (c.advance b h.yld).threads) : Moved b c c' := by
  intro i x hx
  obtain rfl := Ctx.thread_tid hx
  have hfound : c'.thread x.tid = some (moved b h x) := by
    rw [thread_of_map (f := moved b h) hthreads (fun x => by rw [moved_eq]), hx, Option.map_some]
  exact ⟨_, hfound, moved_eq b h x⟩

/-! ### Updates of a die (R239, R341) -/

/-- The regulator of a die whose update is issued. -/
def issuedReg (s : State) (r : Regulator) (i : Issued) : Regulator := { r with issued := r.issued ++ [{ i with at_ := s.cycle }] }

/-- The wheel of an update that is issued waits for it. -/
def unacceptedW (w : Wheel) : Wheel := { w with unaccepted := w.unaccepted + 1 }

/-- An update that a wheel of a placed context waits for. -/
theorem issueUpd_placed {s : State} {k : Nat} {c : Ctx} (hc : sGet s.ctxs k = some c) (die w : Nat) {i : Issued} (hw : i.wheel = some (k, w)) :
    s.issueUpd die i = (s.modReg die (fun r => issuedReg s r i)).setCtx k (c.modW w unacceptedW) := by
  have hissue : s.issueUpd die i = (s.modReg die (fun r => issuedReg s r i)).modAny k (fun c => c.modW w unacceptedW) := by
    obtain ⟨upd, owner, wheel, group, site, at_⟩ := i
    obtain rfl : wheel = some (k, w) := hw
    rfl
  have hc' : sGet (s.modReg die (fun r => issuedReg s r i)).ctxs k = some c := hc
  rw [hissue, State.modAny, hc']

/-- An update that no wheel waits for. -/
theorem issueUpd_noWheel (s : State) (die : Nat) {i : Issued} (hw : i.wheel = none) : s.issueUpd die i = s.modReg die (fun r => issuedReg s r i) := by
  obtain ⟨upd, owner, wheel, group, site, at_⟩ := i
  obtain rfl : wheel = none := hw
  rfl

/-- The die, once its regulator changes. -/
theorem die_modReg (s : State) (die : Nat) (f : Regulator → Regulator) : (s.modReg die f).die die = { s.die die with reg := f (s.die die).reg } := by
  rw [State.modReg, die_modDie, if_pos rfl]

/-- The regulator of the die, once the update is issued. -/
theorem reg_modReg (s : State) (die : Nat) (f : Regulator → Regulator) : ((s.modReg die f).die die).reg = f (s.die die).reg := by
  rw [die_modReg]

/-- A step that sets one context, and leaves the others and memory before it. -/
theorem calm_setCtx {s u : State} (hctxs : u.ctxs = s.ctxs) (hmem : u.mem = s.mem) (hwr : u.wr = s.wr) (k : Nat) (c : Ctx) : Calm s k ((u.setCtx k c).seal s.mem) := by
  refine ⟨fun j hj => ?_, fun a _ => ?_⟩
  · rw [State.seal_ctxs, State.setCtx_ctxs, sGet_sPut_ne _ _ hj, hctxs]
  · rw [← hmem]
    refine (State.byte_seal (u.setCtx k c) a).trans ?_
    rw [State.byte, State.byte, State.setCtx_mem, State.setCtx_wr, hmem, hwr]

/-! ### TMINC and TMDEC of one home wheel (R239) -/

/-- The increment of TMINC. -/
def incOf (b : Beat) (l : Lane) (loc time n : Nat) : Issued :=
  { upd := { loc := loc, time := BitVec.ofNat 64 time, delta := n }, owner := some (.unit b.ctx), wheel := some (b.ctx, l.w.idx)
    site := some (l.w.core, l.w.quarter, b.pc, b.words) }

/-- The decrement of TMDEC. -/
def decOf (b : Beat) (loc time n : Nat) : Issued :=
  { upd := { loc := loc, time := BitVec.ofNat 64 time, delta := -n }, owner := some (.unit b.ctx) }

section Count

variable {s : State} {b : Beat} {c : Ctx} (hi : InIssue s b c) (hrun : c.run = none) (h : Head) {l : Lane} (hw : wheelsOf (acting b c h) = [l])

include hi hrun hw

/-- A count instruction of one home wheel whose time passes does its effect (R238). -/
theorem act_countOp {x y z : Src} {ok : Site → List (Lane × Nat × Nat × Nat) → State → State}
    (hcause : s.countCause (readSrc l 1 x) (readSrc l 2 y) (readSrc l 1 z) = none) :
    act (countOp h x y z ok) s = .next ((ok (siteOf b c h) [(l, readSrc l 1 x, readSrc l 2 y, readSrc l 1 z)] (started s b c h)).seal s.mem) := by
  refine (act_onBeat hi h _).trans (congrArg (fun u => (.next (State.seal s.mem u) : Out)) ?_)
  have hcause' : (started s b c h).countCause (readSrc l 1 x) (readSrc l 2 y) (readSrc l 1 z) = none := by
    rw [State.countCause, (sameMap_started s b c h).timeCause]; exact hcause
  obtain ⟨m, ls, hls⟩ := List.exists_cons_of_ne_nil (List.ne_nil_of_mem (wheelsOf_one hw).1)
  rw [← started]
  simp only [siteOf_lanes, siteOf_c, hls, hrun]
  rw [← hls, hw]
  simp only [List.map_cons, List.map_nil, List.filter_cons, List.filter_nil, hcause', Option.isSome_none, Option.isNone_none, Bool.false_eq_true, if_false, if_true,
    List.flatMap_nil]
  rfl

/-- TMINC issues the increment of its pair, which its wheel waits for. -/
theorem tminc_issues {x y z : Src} (hcause : s.countCause (readSrc l 1 x) (readSrc l 2 y) (readSrc l 1 z) = none) :
    exec (.tminc h x y z) s = .next (((s.modReg (dieOf l.w.core) (fun r => issuedReg s r
      (incOf b l (readSrc l 1 x) (readSrc l 2 y) (readSrc l 1 z)))).setCtx b.ctx ((c.advance b h.yld).modW l.w.idx unacceptedW)).seal s.mem) := by
  refine (act_countOp hi hrun h hw hcause).trans (congrArg (fun u => (.next (State.seal s.mem u) : Out)) ?_)
  have hissue := issueUpd_placed (s := started s b c h) (c := c.advance b h.yld) (sGet_sPut_self ..) (dieOf l.w.core) l.w.idx
    (i := incOf b l (readSrc l 1 x) (readSrc l 2 y) (readSrc l 1 z)) rfl
  exact hissue.trans (setCtx_twice (s.modReg (dieOf l.w.core) (fun r => issuedReg s r (incOf b l (readSrc l 1 x) (readSrc l 2 y) (readSrc l 1 z)))) b.ctx (c.advance b h.yld) _)

omit hi hrun hw in
/-- The threads of the wheels of a TMDEC of one home wheel. -/
theorem tidsOfWheels_one {x y z : Nat} : tidsOfWheels (siteOf b c h) [(l, x, y, z)] = (c.threads.filter (fun x => x.wheel == l.w.idx)).map (fun x => x.tid) := by
  simp [tidsOfWheels, BEq.comm]

/-- TMDEC with nothing to release issues the decrement of its pair, and ends pins alone. -/
theorem tmdec_issues {x y z : Src} (hcause : s.countCause (readSrc l 1 x) (readSrc l 2 y) (readSrc l 1 z) = none) (hunaccepted : l.w.unaccepted = 0)
    (hstores : NoStores c) (halone : Alone c) (hclean : Clean s)
    (hwaits : s.relWaits b.ctx c ((c.threads.filter (fun x => x.wheel == l.w.idx)).map (fun x => x.tid)) .dom = ([], [])) :
    ∃ cores, exec (.tmdec h x y z) s = .next ((({ s with cores := cores }.modReg (dieOf l.w.core) (fun r => issuedReg s r
      (decOf b (readSrc l 1 x) (readSrc l 2 y) (readSrc l 1 z)))).setCtx b.ctx (c.advance b h.yld)).seal s.mem) := by
  have hctx : sGet (started s b c h).ctxs b.ctx = some (c.advance b h.yld) := sGet_sPut_self _ _ _
  have hclean' : Clean (started s b c h) := hclean
  obtain ⟨cores, hend⟩ : ∃ cores, (started s b c h).releaseEnd c b.ctx .dom = { started s b c h with cores := cores } := ⟨_, (releaseEnd_of_clean _ c b.ctx .dom hclean').2⟩
  refine ⟨cores, (act_countOp hi hrun h hw hcause).trans (congrArg (fun u => (.next (State.seal s.mem u) : Out)) ?_)⟩
  have hfor := relFor_of_clean (e := siteOf b c h) hctx hstores halone hclean' ((relWaits_started hi h c _ .dom).trans hwaits)
  have hlanes : (siteOf b c h).lanes.isEmpty = false := List.isEmpty_eq_false_iff.2 (List.ne_nil_of_mem (wheelsOf_one hw).1)
  simp only [List.find?_cons, hunaccepted, Nat.lt_irrefl, decide_false, List.find?_nil, tidsOfWheels_one]
  rw [hfor, hlanes, if_neg Bool.false_ne_true, siteOf_c, siteOf_b, hend]
  exact issueUpd_noWheel (i := decOf b (readSrc l 1 x) (readSrc l 2 y) (readSrc l 1 z)) _ (dieOf l.w.core) rfl

end Count

/-! ### TSPAWN of one lane (R243) -/

/-- The accesses of a beat that pass do their effect, and their lines count at the ports (R172, R376). -/
theorem ported_gate {s : State} {e : Site} (halone : Alone e.c) (hrun : e.c.run = none) (uni read : Bool) {accs : List Acc} {places : Lane → List Nat}
    (hpass : ∀ a ∈ accs, ∃ pages, a.r = .ok (places a.l) pages) (f : List (Lane × List Nat) → State → State) :
    Ported (f (accs.map (fun a => (a.l, places a.l))) s) (s.gate e uni read accs f) := by
  have hplaces : accs.map (fun a => (a.l, a.r.places)) = accs.map (fun a => (a.l, places a.l)) := List.map_congr_left fun a ha => by
    obtain ⟨pages, hr⟩ := hpass a ha
    rw [hr]; rfl
  rw [gate_ok s e uni read accs f (fun a ha => ⟨places a.l, (hpass a ha).imp fun pages hr => ⟨hr, refusedFill_of_alone halone a.r⟩⟩) (behind_of_alone halone),
    noteAccess_of_noRun hrun, ite_self, hplaces]
  dsimp only
  split
  · exact .refl _
  · exact ported_countBeat ..

/-- The copy of a task's record that a queue holds (R327). -/
def queued (t : Task) (copy now : Nat) : Task := { t with cap := Config.taskCap copy, copy := copy, spawned := now }

/-- A task joins the queue of a die, its record a copy of its own (R327). -/
def queueTask (s : State) (die : Nat) (t : Task) (copy : Nat) : State :=
  (s.homeWrites ((run (taskP copy 0) 64).zip t.bytes)).modDie die (fun d => { d with tasks := d.tasks ++ [queued t copy s.cycle] })

/-- The count of a task (R243). -/
def taskUpd (t : Task) (k w : Nat) (site : Option (Nat × Nat × Cap × (Word × Word × Word))) : Issued :=
  { upd := { loc := t.loc, time := t.time, delta := 1 }, owner := some t.owner, wheel := some (k, w), site := site }

/-- A record has 64 bytes. -/
theorem taskBytes_length (t : Task) : t.bytes.length = 64 := by
  simp [Task.bytes]

/-- The places of a record are distinct. -/
theorem taskCells_nodup (copy : Nat) (t : Task) : (((run (taskP copy 0) 64).zip t.bytes).map (fun x => x.1)).Nodup := by
  rw [List.map_fst_zip (by rw [run_length, taskBytes_length])]
  exact run_nodup ..

/-- A task that a wheel of a placed context spawns is counted, and joins the queue (R243, R327). -/
theorem spawnTask_eq {s : State} {k : Nat} {c : Ctx} (hc : sGet s.ctxs k = some c) (die : Nat) (t : Task) (w : Nat) (site : Option (Nat × Nat × Cap × (Word × Word × Word))) :
    s.spawnTask die t (some (k, w)) true site =
      queueTask ((State.modReg { s with free := s.free + 1 } die (fun r => issuedReg s r (taskUpd t k w site))).setCtx k (c.modW w unacceptedW)) die t s.free := by
  have hissue := issueUpd_placed (s := { s with free := s.free + 1 }) hc die w (i := taskUpd t k w site) rfl
  have hqueue : ∀ u : State, (u.homeWrites ((run (taskP s.free 0) 64).zip t.bytes)).modDie die (fun d =>
      { d with tasks := d.tasks ++ [queued t s.free (u.homeWrites ((run (taskP s.free 0) 64).zip t.bytes)).cycle] }) = queueTask u die t s.free := fun u => by
    have hcycle : (u.homeWrites ((run (taskP s.free 0) 64).zip t.bytes)).cycle = u.cycle := by rw [homeWrites_frame]
    rw [queueTask, hcycle]
  unfold State.spawnTask
  simp only [State.fresh, if_true]
  exact (hqueue _).trans (congrArg (fun u => queueTask u die t s.free) hissue)

/-- The copy has the record's bytes. -/
theorem queued_bytes (t : Task) (copy now : Nat) : (queued t copy now).bytes = t.bytes := rfl

/-- The copy has its number. -/
theorem queued_copy (t : Task) (copy now : Nat) : (queued t copy now).copy = copy := rfl

section QueueTask

variable (s : State) (die : Nat) (t : Task) (copy : Nat)

/-- The bytes once the task is queued. -/
theorem byte_queueTask (a : Nat) : (queueTask s die t copy).byte a = (sGet ((run (taskP copy 0) 64).zip t.bytes) a).getD (s.byte a) := by
  rw [← (writes_homeWrites s ((run (taskP copy 0) 64).zip t.bytes)).byte (taskCells_nodup copy t)]
  rfl

/-- What else a queued task leaves. -/
theorem queueTask_frame : (queueTask s die t copy).ctxs = s.ctxs ∧ (queueTask s die t copy).mem = s.mem ∧ (queueTask s die t copy).launches = s.launches := by
  rw [queueTask, homeWrites_frame]
  exact ⟨rfl, rfl, rfl⟩

/-- The die once the task is queued. -/
theorem die_queueTask : (queueTask s die t copy).die die = { s.die die with tasks := (s.die die).tasks ++ [queued t copy s.cycle] } := by
  rw [queueTask, die_modDie, if_pos rfl, State.die, State.die, homeWrites_dies]

end QueueTask

/-- What a task leaves that a wheel of a placed context spawns (R243, R327). -/
theorem spawnTask_spawns {s : State} {k : Nat} {c : Ctx} (hc : sGet s.ctxs k = some c) (die : Nat) (t : Task) (w : Nat)
    (site : Option (Nat × Nat × Cap × (Word × Word × Word))) :
    ∃ u, s.spawnTask die t (some (k, w)) true site = u ∧ u.ctxs = sPut s.ctxs k (c.modW w unacceptedW) ∧ u.mem = s.mem ∧
      (∀ a, u.byte a = (sGet ((run (taskP s.free 0) 64).zip t.bytes) a).getD (s.byte a)) ∧
      (u.die die).tasks = (s.die die).tasks ++ [queued t s.free s.cycle] ∧ (u.die die).reg = issuedReg s (s.die die).reg (taskUpd t k w site) ∧
      u.launches = s.launches := by
  obtain ⟨x, hx⟩ : ∃ x, x = (State.modReg { s with free := s.free + 1 } die (fun r => issuedReg s r (taskUpd t k w site))).setCtx k (c.modW w unacceptedW) := ⟨_, rfl⟩
  have hown : x.die die = { s.die die with reg := issuedReg s (s.die die).reg (taskUpd t k w site) } := by
    rw [hx]; exact die_modReg { s with free := s.free + 1 } die (fun r => issuedReg s r (taskUpd t k w site))
  have hbyte : ∀ a, x.byte a = s.byte a := fun a => by rw [hx]; rfl
  obtain ⟨hctxs, hmem, hlaunches⟩ := queueTask_frame x die t s.free
  refine ⟨queueTask x die t s.free, hx ▸ spawnTask_eq hc die t w site, ?_, ?_, fun a => ?_, ?_, ?_, ?_⟩
  · rw [hctxs, hx]; rfl
  · rw [hmem, hx]; rfl
  · rw [byte_queueTask, hbyte]
  · rw [die_queueTask, hown, hx]; rfl
  · rw [die_queueTask, hown]
  · rw [hlaunches, hx]; rfl

/-- Moving on leaves what the cores read. -/
theorem alike_started (s : State) (b : Beat) (c : Ctx) (h : Head) : Alike s (started s b c h) := ⟨sameMap_started s b c h, fun _ => rfl, fun _ => rfl, rfl, rfl⟩

/-- So does the model's free counter. -/
theorem alike_free (s : State) (n : Nat) : Alike s { s with free := n } := ⟨sameMap_of_eq rfl rfl rfl rfl rfl rfl rfl rfl, fun _ => rfl, fun _ => rfl, rfl, rfl⟩

/-- States that agree check a record alike. -/
theorem Alike.taskRes {s t : State} (halike : Alike s t) (core : Nat) (e : List Byte) : t.taskRes core e = s.taskRes core e := by
  have htarget : ∀ (obj : Nat) (ofs : Int), t.target core obj ofs = s.target core obj ofs := fun obj ofs => by
    simp only [State.target, Core.desc, halike.dcache]
  simp only [State.taskRes, halike.timeCause, htarget]

section Tspawn

variable {s : State} {b : Beat} {c : Ctx} (hi : InIssue s b c) (hrun : c.run = none) (h : Head) {l : Lane} (hone : acting b c h = [l]) (hstores : NoStores c)
  (halone : Alone c)

/-- A program's task as its block queues it (R243). -/
def programTask (b : Beat) (c : Ctx) (e : List Byte) : Task :=
  { taskOf e with flags := (taskOf e).flags % 32 + 64 * c.prio, prio := c.prio, launch := c.launch, phase := c.phase, owner := .unit b.ctx }

/-- The state in which TSPAWN queues its task: its threads have moved on, and its lane has read the record. -/
def readRecord (s : State) (b : Beat) (c : Ctx) (h : Head) (l : Lane) (ps : List Nat) : State :=
  State.fillFor { started s b c h with free := s.free + 1 } l.w.core h.pol.toNat ps

include hi hrun hone hstores halone

/-- TSPAWN of one lane reads the record and queues its task, and the record's lines count at the ports. -/
theorem tspawn_queues {x : Src} {ps : List Nat}
    (hpass : Passes s l.w.core (s.access (siteOf b c h) l { sp := .g, n := 64, align := 64, need := 1, lock := false } x 0) ps) (hholds : Holds s l.w.core ps)
    (hres : (filled s h.pol.toNat [l] (fun _ => ps)).taskRes l.w.core (bytesAt (filled s h.pol.toNat [l] (fun _ => ps)) l.w.core ps) = .ok [] [])
    (hroom : (s.die (dieOf b.core)).tasks.length < 65536) :
    ∃ v, exec (.tspawn h x) s = .next (v.seal s.mem) ∧ Ported (((readRecord s b c h l ps).spawnTask (dieOf b.core)
      (programTask b c (bytesAt (filled s h.pol.toNat [l] (fun _ => ps)) l.w.core ps)) (some (b.ctx, l.w.idx)) true
      (some (l.w.core, l.w.quarter, b.pc, b.words))).modLaunch c.launch (fun l => { l with units := l.units + 1 })) v := by
  obtain ⟨pages, hacc, hpin⟩ := hpass
  have hctx : sGet (started s b c h).ctxs b.ctx = some (c.advance b h.yld) := sGet_sPut_self _ _ _
  have hacc' : (started s b c h).access (siteOf b c h) l { sp := .g, n := 64, align := 64, need := 1, lock := false } x 0 = .ok ps pages := hacc
  have hpin' : (started s b c h).pinCheck l.w.core false (.ok ps pages) = .ok ps pages := (hacc ▸ hpin :)
  have halike : Alike s (started s b c h) := alike_started s b c h
  have hread : ((started s b c h).lookQueue b.ctx l.w.idx [l.t.tid] ps).fillFor l.w.core h.pol.toNat ps = readRecord s b c h l ps := by
    rw [lookQueue_of_noStores hctx (noStores_advance hstores b h.yld)]; rfl
  have hcopies := copiesOnly_fillFor { started s b c h with free := s.free + 1 } l.w.core h.pol.toNat ps
  have hfilled : Alike (filled s h.pol.toNat [l] (fun _ => ps)) (readRecord s b c h l ps) :=
    (halike.trans (alike_free (started s b c h) (s.free + 1))).fillFor l.w.core h.pol.toNat ps
  have hbytes : held ((readRecord s b c h l ps).laneBytes b.ctx l ps) = bytesAt (filled s h.pol.toNat [l] (fun _ => ps)) l.w.core ps := by
    rw [laneBytes_of_alone (c := c.advance b h.yld) (hcopies.frame.counted.ctxs ▸ hctx) (noStores_advance hstores b h.yld) hrun halone, hfilled.coreBytes, bytesAt]
  have hthere : ∀ m ∈ [l], ∀ o ∈ (started s b c h).laneBytes b.ctx m ps, o.isSome = true := fun m hm => by
    rw [List.mem_singleton.1 hm]
    exact laneBytes_isSome fun o ho => hholds o (by rwa [halike.coreBytes] at ho)
  have htask := hfilled.taskRes l.w.core (bytesAt (filled s h.pol.toNat [l] (fun _ => ps)) l.w.core ps)
  rw [hres] at htask
  have htasks : ((readRecord s b c h l ps).die (dieOf b.core)).tasks = (s.die (dieOf b.core)).tasks :=
    (congrArg Die.tasks (hcopies.die (dieOf b.core)) :)
  have hgate := fun F => ported_gate (s := started s b c h) (e := siteOf b c h) halone hrun false true (accs := [{ l := l, r := .ok ps pages }]) (places := fun _ => ps)
    (fun a ha => ⟨pages, by rw [List.mem_singleton.1 ha]⟩) F
  refine ⟨_, act_onBeat hi h _, ?_⟩
  rw [← started]
  simp only [siteOf_lanes, siteOf_c, siteOf_b, hone, hrun, List.map_cons, List.map_nil, hacc', hpin']
  refine (congrArg (fun u => Ported u _) ?_).mpr (hgate _)
  refine Eq.symm ((withBytes_there (e := siteOf b c h) (ls := [l]) (pads := fun _ => ps) _ (fun a ha => ⟨l, List.mem_singleton_self l, List.mem_singleton.1 ha⟩) hthere
    (.inr (noFill_of_alone halone))).trans ?_)
  simp only [List.map_cons, List.map_nil, List.foldl_cons, List.foldl_nil, hread, hbytes, htask, Res.waits, Res.isBad, Res.fault, List.findSome?_cons, List.findSome?_nil,
    List.filter_cons, List.filter_nil, Bool.not_false, if_true, htasks, List.length_singleton, List.flatMap_cons, List.flatMap_nil, List.append_nil,
    if_neg (Nat.not_lt.2 hroom)]
  rfl

omit hi hrun hone hstores halone in
/-- What the state of the queued task holds (R243, R318). -/
theorem tspawn_state {ps : List Nat} (t : Task) (site : Option (Nat × Nat × Cap × (Word × Word × Word))) :
    ∃ u, ((readRecord s b c h l ps).spawnTask (dieOf b.core) t (some (b.ctx, l.w.idx)) true site).modLaunch c.launch (fun l => { l with units := l.units + 1 }) = u ∧
      u.ctxs = sPut s.ctxs b.ctx ((c.advance b h.yld).modW l.w.idx unacceptedW) ∧ u.mem = s.mem ∧
      (∀ a, u.byte a = (sGet ((run (taskP (s.free + 1) 0) 64).zip t.bytes) a).getD (s.byte a)) ∧
      (u.die (dieOf b.core)).tasks = (s.die (dieOf b.core)).tasks ++ [queued t (s.free + 1) s.cycle] ∧
      (u.die (dieOf b.core)).reg = issuedReg s (s.die (dieOf b.core)).reg (taskUpd t b.ctx l.w.idx site) ∧
      u.launches = s.launches.map (fun k => if k.no = c.launch then { k with units := k.units + 1 } else k) := by
  have hcopies : CopiesOnly { started s b c h with free := s.free + 1 } (readRecord s b c h l ps) := copiesOnly_fillFor ..
  have hframe := hcopies.frame
  have hdie := hcopies.die (dieOf b.core)
  generalize readRecord s b c h l ps = r at *
  have hfree : r.free = s.free + 1 := by rw [hframe]
  have hcycle : r.cycle = s.cycle := by rw [hframe]; rfl
  have hmem : r.mem = s.mem := by rw [hframe]; rfl
  have hctxs : r.ctxs = sPut s.ctxs b.ctx (c.advance b h.yld) := by rw [hframe]; rfl
  have hbyte : ∀ a, r.byte a = s.byte a := fun a => by rw [hframe]; rfl
  have hlaunches : r.launches = s.launches := by rw [hframe]; rfl
  have htasks : (r.die (dieOf b.core)).tasks = (s.die (dieOf b.core)).tasks := (congrArg Die.tasks hdie :)
  have hreg : (r.die (dieOf b.core)).reg = (s.die (dieOf b.core)).reg := (congrArg Die.reg hdie :)
  obtain ⟨u, hu, huctxs, humem, hubyte, hutasks, hureg, hulaunches⟩ := spawnTask_spawns (s := r) (c := c.advance b h.yld) (by rw [hctxs, sGet_sPut_self])
    (dieOf b.core) t l.w.idx site
  rw [hu]
  refine ⟨_, rfl, huctxs.trans ?_, humem.trans hmem, fun a => (hubyte a).trans ?_, hutasks.trans ?_, hureg.trans ?_, ?_⟩
  · rw [hctxs, sPut_sPut]
  · rw [hbyte, hfree]
  · rw [htasks, hfree, hcycle]
  · rw [hreg, issuedReg, hcycle]; rfl
  · rw [State.modLaunch, hulaunches, hlaunches]

end Tspawn

/-- Settles O41: a change of a pair joins the updates of its die, and a task the queue of its block's die, with a copy of its record. -/
theorem countsAndTasks : Obligations.CountsAndTasks := by
  intro s b c hi hrun h x y z l hw n die issued upd
  refine ⟨fun hcause => ⟨⟨_, _, tminc_issues hi hrun h hw hcause, sGet_setCtx_seal .., calm_setCtx (by rfl) (by rfl) (by rfl) b.ctx _, moved_of_threads (by rfl),
      reg_modReg s die (fun r => issuedReg s r (incOf b l (readSrc l 1 x) (readSrc l 2 y) n)), fun k w hk => ?_⟩, fun hunaccepted hstores halone hclean hwaits => ?_⟩, ?_⟩
  · rw [wheel_modW (c.advance b h.yld) l.w.idx k unacceptedW fun _ hw => hw]
    exact congrArg (Option.map _) hk
  · obtain ⟨cores, ht⟩ := tmdec_issues hi hrun h hw hcause hunaccepted hstores halone hclean hwaits
    exact ⟨_, _, ht, sGet_setCtx_seal .., calm_setCtx (by rfl) (by rfl) (by rfl) b.ctx _, moved_of_threads (by rfl), by rfl,
      reg_modReg { s with cores := cores } die (fun r => issuedReg s r (decOf b (readSrc l 1 x) (readSrc l 2 y) n))⟩
  · intro hone hstores halone ps hpass hholds u bytes own hres hroom
    obtain ⟨v, hv, hports⟩ := tspawn_queues hi hrun h hone hstores halone hpass hholds hres hroom
    obtain ⟨w, hw, hctxs, hmem, hbyte, htasks, hreg, hlaunches⟩ := tspawn_state (s := s) (b := b) (c := c) h (l := l) (ps := ps)
      (programTask b c bytes) (some (l.w.core, l.w.quarter, b.pc, b.words))
    rw [hw] at hports
    have hown := hports.die own
    refine ⟨_, _, queued (programTask b c bytes) (s.free + 1) s.cycle, hv, ?_, moved_of_threads (c' := (c.advance b h.yld).modW l.w.idx unacceptedW) (by rfl),
      fun k hk => ?_, fun a ha => ?_, ?_, rfl, ⟨{ taskUpd (programTask b c bytes) b.ctx l.w.idx (some (l.w.core, l.w.quarter, b.pc, b.words)) with at_ := s.cycle }, ?_, rfl, rfl⟩, ?_⟩
    · rw [State.seal_ctxs, hports.counted.ctxs, hctxs, sGet_sPut_self]
    · rw [State.seal_ctxs, hports.counted.ctxs, hctxs, sGet_sPut_ne _ _ hk]
    · have hsealed := State.byte_seal v a
      rw [hports.counted.mem, hmem] at hsealed
      rw [hsealed, hports.counted.bytes a ha, hbyte, queued_bytes, queued_copy]
    · exact (congrArg Die.tasks hown).trans htasks
    · exact (congrArg (fun x : Die => x.reg.issued) hown).trans (congrArg Regulator.issued hreg)
    · exact hports.launches.trans hlaunches

end Sys2Proof.Proofs

/-! SUPPORT of O43: the caches and the release before a beat sends to the grid (R266, R272, R278). -/

namespace Sys2Proof.Proofs

open Sys2Proof Sys2Proof.Machine Sys2Proof.Claims

/-- A change of what caches hold, of pins, of what late replies may enter caches, and of the model's free counter. -/
structure Readied (s t : State) : Prop where
  ctxs : t.ctxs = s.ctxs
  saved : t.saved = s.saved
  mem : t.mem = s.mem
  wr : t.wr = s.wr
  nextTag : t.nextTag = s.nextTag
  nextWid : t.nextWid = s.nextWid
  grid : t.grid = s.grid
  cycle : t.cycle = s.cycle
  die : ∀ d, t.die d = { s.die d with l2 := (t.die d).l2 }
  clean : Clean s → Clean t

/-- No change is one. -/
theorem Readied.refl (s : State) : Readied s s := ⟨rfl, rfl, rfl, rfl, rfl, rfl, rfl, rfl, fun _ => rfl, id⟩

/-- Two such changes are one. -/
theorem Readied.trans {s t u : State} (h : Readied s t) (h' : Readied t u) : Readied s u where
  ctxs := h'.ctxs.trans h.ctxs
  saved := h'.saved.trans h.saved
  mem := h'.mem.trans h.mem
  wr := h'.wr.trans h.wr
  nextTag := h'.nextTag.trans h.nextTag
  nextWid := h'.nextWid.trans h.nextWid
  grid := h'.grid.trans h.grid
  cycle := h'.cycle.trans h.cycle
  die d := (h'.die d).trans (congrArg (fun x : Die => { x with l2 := (u.die d).l2 }) (h.die d))
  clean := h'.clean ∘ h.clean

/-- Such changes of a clean machine, one for each element of a list. -/
theorem Readied.foldl {α : Type} {f : State → α → State} (hf : ∀ s a, Clean s → Readied s (f s a)) (l : List α) {s : State} (hclean : Clean s) :
    Readied s (l.foldl f s) := by
  induction l generalizing s with
  | nil => exact .refl s
  | cons a l ih => exact (hf s a hclean).trans (ih ((hf s a hclean).clean hclean))

/-- Changes of copies are such changes. -/
theorem CopiesOnly.readied {s t : State} (h : CopiesOnly s t) : Readied s t := by
  have hframe := h.frame
  constructor
  case die => exact h.die
  case clean => exact h.clean
  all_goals rw [hframe]

/-- So is a use of the free counter. -/
theorem readied_free (s : State) (n : Nat) : Readied s { s with free := n } := ⟨rfl, rfl, rfl, rfl, rfl, rfl, rfl, rfl, fun _ => rfl, id⟩

section Unit

variable {s t : State} (h : Readied s t) (d : Nat)

include h

/-- The grid unit of a die stays. -/
theorem Readied.unit : (t.die d).grid = (s.die d).grid := (congrArg Die.grid (h.die d) :)

/-- So does its coordinate. -/
theorem Readied.coordAt : t.coordAt d = s.coordAt d := by
  rw [State.coordAt, h.die]; rfl

/-- And every byte. -/
theorem Readied.byte (a : Nat) : t.byte a = s.byte a := by rw [State.byte, State.byte, h.mem, h.wr]

end Unit

/-! ### The lines of what is sent home (R272, R276) -/

/-- Late replies that may not enter the caches. -/
theorem copiesOnly_stale (s : State) (f : Nat → Bool) : CopiesOnly s (s.stale f) := ⟨rfl, fun _ => rfl, id⟩

/-- Clean lines leave the caches. -/
theorem copiesOnly_dropLines {s : State} (hclean : Clean s) (who : Issuer) (core : Nat) (ps : List Nat) : CopiesOnly s (s.dropLines who core ps) := by
  unfold State.dropLines
  extract_lets ls on die s1 s2 s3
  have h1 : s1 = s := flushL1_of_clean hclean core on
  have h2 : s2 = s := (congrArg (fun x => State.flushL2 x (some who) core die on) h1).trans (flushL2_of_clean hclean (some who) core die on)
  have h3 : CopiesOnly s s3 := by
    unfold s3
    rw [h2]
    split
    · exact copiesOnly_stale s on
    · exact .refl s
  split
  · exact .refl s
  · exact h3.trans ((copiesOnly_dropL1 ..).trans (copiesOnly_dropL2 ..))

/-- What a lane sends to its own device leaves its caches. -/
theorem readied_ownFirst {s : State} (hclean : Clean s) (e : Site) (n : Nat) (l : Lane) (at_ : Nat) : Readied s (s.ownFirst e n l at_) := by
  unfold State.ownFirst
  split
  · exact (copiesOnly_dropLines hclean ..).readied
  · exact .refl s

/-! ### The release before it (R278) -/

/-- A change of pins of clean cores leaves what the cores read. -/
def PinsAlike (s t : State) : Prop := Clean s → Clean t ∧ Alike s t

/-- Such changes, one for each element of a list. -/
theorem PinsAlike.foldl {α : Type} {f : State → α → State} (hf : ∀ s a, PinsAlike s (f s a)) (l : List α) (s : State) : PinsAlike s (l.foldl f s) := by
  induction l generalizing s with
  | nil => exact fun hclean => ⟨hclean, .refl s⟩
  | cons a l ih =>
    intro hclean
    obtain ⟨hstep, halike⟩ := hf s a hclean
    obtain ⟨hrest, halike'⟩ := ih (f s a) hstep
    exact ⟨hrest, halike.trans halike'⟩

/-- A release that is over, with nothing dirty, leaves what the cores read. -/
theorem alike_releaseEnd (s : State) (c : Ctx) (k : Nat) (sc : Scope) : PinsAlike s (s.releaseEnd c k sc) := by
  have hunpin : ∀ (s : State) (core line : Nat), PinsAlike s (s.unpin core line) := fun s core line hclean => by
    refine ⟨(pinsOnly_unpin s core line hclean).1, ?_⟩
    rw [State.unpin, State.flushLine, flushL1_of_clean hclean]
    refine ⟨sameMap_of_eq rfl rfl rfl rfl rfl rfl rfl rfl, fun k => ?_, fun k => ?_, rfl, rfl⟩ <;> rw [core_modCore_eq] <;> split <;> rfl
  rw [State.releaseEnd]
  split
  · exact fun hclean => ⟨hclean, .refl s⟩
  · unfold State.unpinCtx
    refine PinsAlike.foldl (fun s e => ?_) _ s
    exact PinsAlike.foldl (fun s (p : Nat × Nat) => hunpin s e.1 p.1) _ s

/-- A release gate with nothing queued, dirty or outstanding lets the effect go on, and the cores read what they read. -/
theorem relGate_of_clean {s : State} {e : Site} {c : Ctx} (hc : sGet s.ctxs e.b.ctx = some c) (hstores : NoStores c) (halone : Alone e.c) (hclean : Clean s)
    {rel : Bool} {sc : Scope} (hwaits : rel = true → s.relWaits e.b.ctx e.c (e.lanes.map (fun l => l.t.tid)) sc = ([], [])) :
    ∃ u, Readied s u ∧ Alike s u ∧ ∀ f, s.relGate e rel sc f = f u := by
  cases rel with
  | false => exact ⟨s, .refl s, .refl s, fun _ => rfl⟩
  | true =>
    have hfor := relFor_of_clean hc hstores halone hclean (hwaits rfl)
    by_cases hempty : e.lanes.isEmpty
    · exact ⟨s, .refl s, .refl s, fun f => (hfor f).trans (by rw [if_pos hempty])⟩
    · obtain ⟨cores, hend⟩ : ∃ cores, s.releaseEnd e.c e.b.ctx sc = { s with cores := cores } := ⟨_, (releaseEnd_of_clean s e.c e.b.ctx sc hclean).2⟩
      obtain ⟨hclean', halike⟩ := alike_releaseEnd s e.c e.b.ctx sc hclean
      rw [hend] at hclean' halike
      refine ⟨{ s with cores := cores }, ⟨rfl, rfl, rfl, rfl, rfl, rfl, rfl, rfl, fun _ => rfl, fun _ => hclean'⟩, halike, fun f => (hfor f).trans ?_⟩
      rw [if_neg hempty, hend]

end Sys2Proof.Proofs

/-! SUPPORT of O43: a contribution enters stage 2 and passes it (R286, R288, R290, R298). -/

namespace Sys2Proof.Proofs

open Sys2Proof Sys2Proof.Machine Sys2Proof.Claims

/-! ### Packets (R288) -/

/-- Entries make packets. -/
theorem packetsOf_ne_nil (base : Pkt) (es : List (Nat × List Byte)) : packetsOf base es ≠ [] := by
  unfold packetsOf
  split
  · exact List.cons_ne_nil _ _
  · rename_i hes
    extract_lets pages gs
    obtain ⟨x, rest, rfl⟩ := List.exists_cons_of_ne_nil (l := es) (fun hnil => hes (by rw [hnil]; rfl))
    have hgs : gs ≠ [] := by
      have hpage : x.1 / 65536 ∈ pages := by simp [pages]
      refine fun hnil => ?_
      have hchunk := List.flatMap_eq_nil_iff.1 hnil _ hpage
      simp [chunk32] at hchunk
    exact fun hnil => hgs (by simpa using hnil)

/-- Every packet carries the pattern. -/
theorem packetsOf_pattern {base : Pkt} {es : List (Nat × List Byte)} {q : Pkt} (hq : q ∈ packetsOf base es) : q.pattern = base.pattern := by
  unfold packetsOf at hq
  split at hq
  · rw [List.mem_singleton.1 hq]
  · obtain ⟨g, -, rfl⟩ := List.mem_map.1 hq
    rfl

/-- The first packet carries the pattern. -/
theorem packetsOf_head (base : Pkt) (es : List (Nat × List Byte)) : ((packetsOf base es).headD {}).pattern = base.pattern := by
  cases hp : packetsOf base es with
  | nil => exact absurd hp (packetsOf_ne_nil base es)
  | cons q qs => exact packetsOf_pattern (es := es) (by rw [hp]; exact List.mem_cons_self)

/-- One entry makes one packet. -/
theorem packetsOf_one (base : Pkt) (x : Nat × List Byte) : (packetsOf base [x]).length = 1 := by
  simp [packetsOf, chunk32, List.eraseDups_cons]

/-! ### Stage 2 (R286, R290, R298) -/

/-- Two changes of a die's grid unit are one. -/
theorem modGrid_modGrid (s : State) (d : Nat) (f g : GridUnit → GridUnit) : (s.modGrid d f).modGrid d g = s.modGrid d (fun x => g (f x)) := by
  simp only [State.modGrid, State.modDie, State.die, sGet_sPut_self, Option.getD_some, sPut_sPut]

/-- Changes that agree on the unit are one. -/
theorem modGrid_congr {s : State} {d : Nat} {f g : GridUnit → GridUnit} (h : f (s.die d).grid = g (s.die d).grid) : s.modGrid d f = s.modGrid d g := by
  simp only [State.modGrid, State.modDie, h]

/-- The unit, once it is changed. -/
theorem unit_modGrid (s : State) (d : Nat) (f : GridUnit → GridUnit) : ((s.modGrid d f).die d).grid = f (s.die d).grid := by
  rw [State.modGrid, die_modDie, if_pos rfl]

/-- The contribution as the buffer holds it. -/
def numbered (g : GridUnit) (k : Contrib) : Contrib := { k with cseq := (g.cseq + 1) % 65536, pkts := k.pkts.map (fun p => { p with cseq := (g.cseq + 1) % 65536 }) }

/-- The unit of a die once a contribution has entered the buffer. -/
def withContrib (k : Contrib) (g : GridUnit) : GridUnit := { g with cseq := (g.cseq + 1) % 65536, contribs := g.contribs ++ [numbered g k] }

section TakeUp

variable {s : State} {e : Site} {c : Ctx} {k : Contrib} (hstaged : (s.die (dieOf e.b.core)).grid.staged = []) (hctx : k.ctx = e.b.ctx)
  (hsaved : sGet s.saved e.b.ctx = none) (hcancelled : c.cancelled = false) (hwait : c.waitOf s.nextWid = none)
  (hroom : (s.die (dieOf e.b.core)).grid.used + k.pkts.length * k.dests.length ≤ 4096)

include hstaged hctx hsaved hcancelled hwait hroom

/-- The one contribution of a beat that stage 2 has room for enters the buffer, and its threads go on. -/
theorem takeUp_one (tids : List Nat) :
    ((s.stage (dieOf e.b.core) k).setCtx e.b.ctx c).takeUp e tids = (s.modGrid (dieOf e.b.core) (withContrib k)).setCtx e.b.ctx c := by
  obtain ⟨x, hx⟩ : ∃ x : Staged, x = { wid := s.nextWid, contrib := k } := ⟨_, rfl⟩
  obtain ⟨u, hu⟩ : ∃ u, u = (s.stage (dieOf e.b.core) k).setCtx e.b.ctx c := ⟨_, rfl⟩
  have hstage : ((s.stage (dieOf e.b.core) k).die (dieOf e.b.core)).grid = { (s.die (dieOf e.b.core)).grid with staged := [x] } := by
    rw [State.stage, unit_modGrid, hstaged, hx]; rfl
  have hunit : (u.die (dieOf e.b.core)).grid = { (s.die (dieOf e.b.core)).grid with staged := [x] } := by rw [hu]; exact hstage
  have hplaced : sGet u.ctxs e.b.ctx = some c := by rw [hu]; exact sGet_sPut_self ..
  have hnext : u.stagedNext (dieOf e.b.core) = some x := by
    have hsaved' : sGet u.saved x.contrib.ctx = none := by rw [hx, hu]; exact hctx ▸ hsaved
    rw [State.stagedNext, hunit]
    simp [hsaved']
  have hrest : (u.die (dieOf e.b.core)).grid.staged.erase x = [] := by rw [hunit]; simp
  have hk : x.contrib = k := by rw [hx]
  have hwid : x.wid = s.nextWid := by rw [hx]
  have hlive : (sGet u.ctxs e.b.ctx).all (fun c => c.cancelled) = false := by rw [hplaced]; exact hcancelled
  have hfits : u.gridRoom (dieOf e.b.core) (k.pkts.length * k.dests.length) = true := by
    rw [State.gridRoom, hunit]; exact decide_eq_true hroom
  have hlength : (u.die (dieOf e.b.core)).grid.staged.length = 1 := by rw [hunit]; rfl
  have hany : ((u.modGrid (dieOf e.b.core) (fun g => { g with staged := [] })).addContrib (dieOf e.b.core) k).anyCtx e.b.ctx = some c := by
    refine (?_ : State.anyCtx _ _ = u.anyCtx e.b.ctx).trans (by rw [State.anyCtx, hplaced])
    rfl
  have henter : State.enterStaged (dieOf e.b.core) 1 u = (u.modGrid (dieOf e.b.core) (fun g => { g with staged := [] })).addContrib (dieOf e.b.core) k := by
    unfold State.enterStaged
    simp only [hnext, hrest, hlive, hfits, hk, hctx, hwid, hany, hwait, Option.any_some, Option.isSome_none, List.any_nil, Bool.and_false, Bool.false_eq_true, if_false,
      if_true]
    rfl
  have hcommute : (u.modGrid (dieOf e.b.core) (fun g => { g with staged := [] })).addContrib (dieOf e.b.core) k =
      (((s.stage (dieOf e.b.core) k).modGrid (dieOf e.b.core) (fun g => { g with staged := [] })).addContrib (dieOf e.b.core) k).setCtx e.b.ctx c := by rw [hu]; rfl
  have hunits : ((s.stage (dieOf e.b.core) k).modGrid (dieOf e.b.core) (fun g => { g with staged := [] })).addContrib (dieOf e.b.core) k =
      s.modGrid (dieOf e.b.core) (withContrib k) := by
    rw [State.addContrib, State.stage, modGrid_modGrid, modGrid_modGrid]
    refine modGrid_congr ?_
    rw [withContrib, ← hstaged]; rfl
  have hpassed : ((s.modGrid (dieOf e.b.core) (withContrib k)).die (dieOf e.b.core)).grid.staged = [] := by rw [unit_modGrid]; exact hstaged
  have hempty : (((s.modGrid (dieOf e.b.core) (withContrib k)).setCtx e.b.ctx c).die (dieOf e.b.core)).grid.staged = [] := hpassed
  rw [← hu, State.takeUp, hlength, henter, hcommute, hunits]
  simp only [hempty, List.any_nil, Bool.false_eq_true, if_false]

end TakeUp

end Sys2Proof.Proofs

/-! PROOF of O43: GST, GCPY, GRED, GLD and GATOM put contributions into the buffer (R226, R230-R232, R234, R286, R288, R290). -/

namespace Sys2Proof.Proofs

open Sys2Proof Sys2Proof.Machine Sys2Proof.Claims

/-! ### A contribution and a request enter stage 2 (R229, R232, R234, R236) -/

/-- The slot that counts a contribution's answers, its count set at the issue (R236). -/
def sentSlot (g : GSlot) (n : Nat) (p : BitVec 64) : GSlot := if !g.armed && g.expected == 0 then { g with expected := n, pattern := some p } else g

/-- The context whose threads await the answers of a contribution to `n` devices. -/
def sentCtx (c : Ctx) (x : GridX) (p : BitVec 64) (n : Nat) (tids : List Nat) (tag : Nat) : Ctx :=
  { c with gslots := if x.agv then sPut c.gslots x.ag.toNat (sentSlot (c.slotOf x.ag.toNat) n p) else c.gslots
           remotes := c.remotes ++ tids.map (fun t => (t, tag)) }

/-- The contribution of a wheel. -/
def sentContrib (e : Site) (ls : List Lane) (x : GridX) (tag : Nat) (cap : Cap) (pkts : List Pkt) (dests : List Nat) : Contrib :=
  { contribOf e ls tag cap pkts dests with ag := if x.agv then some x.ag.toNat else none }

/-- How many packets a contribution sends, to each destination. -/
theorem sentContrib_size (e : Site) (ls : List Lane) (x : GridX) (tag : Nat) (cap : Cap) (pkts : List Pkt) (dests : List Nat) :
    (sentContrib e ls x tag cap pkts dests).pkts.length * (sentContrib e ls x tag cap pkts dests).dests.length = pkts.length * dests.length := by
  simp [sentContrib, contribOf]

/-- A change of each thread of a context. -/
def mapThreads (g : Thread → Thread) (c : Ctx) : Ctx := { c with threads := c.threads.map g }

/-- A context that is set is placed. -/
theorem setCtx_of_sGet {s : State} {k : Nat} {c : Ctx} (hc : sGet s.ctxs k = some c) : s.setCtx k c = s := by
  rw [State.setCtx, sPut_of_sGet hc]

/-- The contribution of a wheel enters stage 2, and its threads await the acknowledgements. -/
theorem post_stages {s : State} {e : Site} {c : Ctx} (hc : sGet s.ctxs e.b.ctx = some c) {dests : List Nat} (hdests : dests ≠ []) (ls : List Lane) (x : GridX)
    (cap : Cap) (pkts : List Pkt) :
    s.post e ls x cap pkts dests = (State.stage { s with nextTag := s.nextTag + 1 } (dieOf e.b.core) (sentContrib e ls x s.nextTag cap pkts dests)).setCtx e.b.ctx
      (sentCtx c x (pkts.headD {}).pattern dests.length (ls.map (fun l => l.t.tid)) s.nextTag) := by
  have hsome : dests.isEmpty = false := List.isEmpty_eq_false_iff.2 hdests
  have hslot : s.countSlot e.b.ctx x.ag.toNat (fun g => if !g.armed && g.expected == 0 then { g with expected := dests.length, pattern := some (pkts.headD {}).pattern } else g) =
      s.setCtx e.b.ctx { c with gslots := sPut c.gslots x.ag.toNat (sentSlot (c.slotOf x.ag.toNat) dests.length (pkts.headD {}).pattern) } := by
    rw [State.countSlot, State.modAny, hc]; rfl
  unfold State.post
  rw [if_neg (by rw [hsome]; exact Bool.false_ne_true), hslot]
  cases hagv : x.agv with
  | false =>
    simp only [Bool.false_eq_true, if_false, State.newTag, State.awaitTag]
    rw [modCtx_placed (s := { s with nextTag := s.nextTag + 1 }) hc, sentCtx, sentContrib, hagv]
    rfl
  | true =>
    have htwice := setCtx_twice { s with nextTag := s.nextTag + 1 } e.b.ctx
      { c with gslots := sPut c.gslots x.ag.toNat (sentSlot (c.slotOf x.ag.toNat) dests.length (pkts.headD {}).pattern) }
      (sentCtx c x (pkts.headD {}).pattern dests.length (ls.map (fun l => l.t.tid)) s.nextTag)
    have hset := modCtx_placed (s := State.setCtx { s with nextTag := s.nextTag + 1 } e.b.ctx
      { c with gslots := sPut c.gslots x.ag.toNat (sentSlot (c.slotOf x.ag.toNat) dests.length (pkts.headD {}).pattern) }) (sGet_sPut_self ..)
      (fun c => { c with remotes := c.remotes ++ (ls.map (fun l => l.t.tid)).map (fun t => (t, s.nextTag)) })
    have hctx : sentCtx c x (pkts.headD {}).pattern dests.length (ls.map (fun l => l.t.tid)) s.nextTag =
        { c with
          gslots := sPut c.gslots x.ag.toNat (sentSlot (c.slotOf x.ag.toNat) dests.length (pkts.headD {}).pattern)
          remotes := c.remotes ++ (ls.map (fun l => l.t.tid)).map (fun t => (t, s.nextTag)) } := by rw [sentCtx, hagv, if_pos rfl]
    rw [← hctx, htwice] at hset
    rw [sentContrib, hagv]
    exact congrArg (fun u => State.stage u (dieOf e.b.core) { contribOf e ls s.nextTag cap pkts dests with ag := some x.ag.toNat }) hset

/-- A thread whose registers await a request. -/
def awaitingT (o : OLoad) (t : Thread) : Thread :=
  if o.nreg = 0 ∨ o.dreg = 255 then t
  else if o.tids.contains t.tid then { t with pend := t.pend ++ [{ use := .v o.dreg o.nreg, due := none, tag := o.ltag }] } else t

/-- The context whose threads await a request's reply. -/
def awaitingCtx (c : Ctx) (o : OLoad) : Ctx :=
  { c with remotes := c.remotes ++ o.tids.map (fun t => (t, o.ltag)), loads := c.loads ++ [o], threads := c.threads.map (awaitingT o) }

/-- Threads await a request, and their registers. -/
theorem await_load {s : State} {k : Nat} {c : Ctx} (hc : sGet s.ctxs k = some c) {o : OLoad} (huni : o.uni = false) :
    (s.awaitTag k o.tids o.ltag).addLoad k o = s.setCtx k (awaitingCtx c o) := by
  have hload : ∀ c : Ctx, (let c := { c with loads := c.loads ++ [o] }
      if o.nreg = 0 || o.dreg = 255 then c
      else if o.uni then c.modW o.wheel (fun w => { w with pend := w.pend ++ [{ use := if o.uni then .s o.dreg o.nreg else .v o.dreg o.nreg, due := none, tag := o.ltag }] })
      else c.modT (fun t => o.tids.contains t.tid) (fun t => { t with pend := t.pend ++ [{ use := if o.uni then .s o.dreg o.nreg else .v o.dreg o.nreg, due := none, tag := o.ltag }] })) =
      { c with loads := c.loads ++ [o], threads := c.threads.map (awaitingT o) } := fun c => by
    by_cases hnone : o.nreg = 0 ∨ o.dreg = 255
    · have hsame : c.threads.map (awaitingT o) = c.threads := by
        conv_rhs => rw [← List.map_id c.threads]
        exact List.map_congr_left fun t _ => if_pos hnone
      rw [hsame]
      exact if_pos (by simpa using hnone)
    · have hall : (fun t : Thread => if o.tids.contains t.tid then { t with pend := t.pend ++ [{ use := .v o.dreg o.nreg, due := none, tag := o.ltag }] } else t) = awaitingT o :=
        funext fun t => (if_neg hnone).symm
      simp only [huni, Bool.false_eq_true, if_false, Ctx.modT, hall]
      exact if_neg (by simpa using hnone)
  rw [State.awaitTag, modCtx_placed hc]
  unfold State.addLoad
  rw [State.modCtx_setCtx]
  exact congrArg (s.setCtx k) (hload _)

/-- What a lane's registers await of its request (R232). -/
def askedLoad (e : Site) (d nreg : Nat) (acq : Option Scope) (q : Ask) (tag : Nat) : OLoad :=
  { ltag := tag, tids := [q.l.t.tid], wheel := q.l.w.idx, dreg := d, nreg := nreg, pc := e.b.pc, words := e.b.words
    cap := BitVec.ofNat 64 q.at_, coord := q.coord, nbytes := 4 * nreg, acq := acq }

/-- The request of one lane. -/
def askedContrib (s : State) (e : Site) (base : Pkt) (q : Ask) : Contrib :=
  contribOf e [q.l] s.nextTag (BitVec.ofNat 64 q.at_) (packetsOf { base with
    srcc := s.coordAt (dieOf e.b.core), srcDie := dieOf e.b.core, gtag := e.c.gtag, block := e.c.block, ltag := ltagOf s.nextTag } [(q.at_, q.ops)]) [q.coord]

/-- The request of one lane enters stage 2, and its thread awaits the reply. -/
theorem ask_stages {s : State} {e : Site} {c : Ctx} (hc : sGet s.ctxs e.b.ctx = some c) (d nreg : Nat) (acq : Option Scope) (base : Pkt) (q : Ask) :
    s.ask e d nreg acq base [q] = (State.stage { s with nextTag := s.nextTag + 1 } (dieOf e.b.core) (askedContrib s e base q)).setCtx e.b.ctx
      (awaitingCtx c (askedLoad e d nreg acq q s.nextTag)) := by
  have hawait := await_load (s := { s with nextTag := s.nextTag + 1 }) hc (o := askedLoad e d nreg acq q s.nextTag) rfl
  exact congrArg (fun u => State.stage u (dieOf e.b.core) (askedContrib s e base q)) hawait

/-- A request's own faults look at the grid alone (R232, R233). -/
theorem askBad_of_grid {s t : State} (hgrid : t.grid = s.grid) (n : Nat) (q : Ask) : t.askBad n q = s.askBad n q := by
  rw [State.askBad, State.askBad, hgrid]

/-! ### The sources (R230, R231) -/

/-- No place, no sector. -/
theorem fillFor_nil (s : State) (core pol : Nat) : s.fillFor core pol [] = s := by
  simp [State.fillFor, cacheHas]

/-- The bytes that a lane reads, once the sectors that the lanes lack have entered the caches. -/
def sourceBytes (s : State) (ls : List Lane) (places : Lane → List Nat) (l : Lane) : List Byte := bytesAt (filled s 0 ls places) l.w.core (places l)

/-- As many bytes as places. -/
theorem sourceBytes_length (s : State) (ls : List Lane) (places : Lane → List Nat) (l : Lane) : (sourceBytes s ls places l).length = (places l).length := by
  simp [sourceBytes, bytesAt, held, State.coreBytes, State.below]

section Sources

variable {e : Site} {c : Ctx} (hstores : NoStores c)

include hstores

/-- Lanes read their places: the sectors enter the caches as they do elsewhere. -/
theorem readied_sources (places : Lane → List Nat) (ls : List Lane) {s0 s : State} (hc : sGet s.ctxs e.b.ctx = some c) (halike : Alike s0 s) :
    ∃ u, ((ls.map (fun l => (l, places l))).filter (fun x => !x.2.isEmpty)).foldl
      (fun s x => (s.lookQueue e.b.ctx x.1.w.idx [x.1.t.tid] x.2).fillFor x.1.w.core 0 x.2) s = u ∧ Readied s u ∧ Alike (filled s0 0 ls places) u := by
  induction ls generalizing s0 s with
  | nil => exact ⟨s, rfl, .refl s, halike⟩
  | cons l ls ih =>
    by_cases hnil : places l = []
    · obtain ⟨u, hu, hready, hfilled⟩ := ih hc halike
      refine ⟨u, ?_, hready, ?_⟩
      · rw [List.map_cons, List.filter_cons_of_neg (by simp [hnil])]; exact hu
      · rw [filled, List.foldl_cons, hnil, fillFor_nil]; exact hfilled
    · obtain ⟨v, hv⟩ : ∃ v, v = State.fillFor { s with free := s.free + 1 } l.w.core 0 (places l) := ⟨_, rfl⟩
      have hstep : Readied s v := hv ▸ (readied_free s _).trans (copiesOnly_fillFor ..).readied
      have hfilled : Alike (s0.fillFor l.w.core 0 (places l)) v := hv ▸ (halike.trans (alike_free s _)).fillFor l.w.core 0 (places l)
      obtain ⟨u, hu, hready, hrest⟩ := ih (hstep.ctxs ▸ hc) hfilled
      refine ⟨u, ?_, hstep.trans hready, hrest⟩
      rw [List.map_cons, List.filter_cons_of_pos (by simp [hnil]), List.foldl_cons, lookQueue_of_noStores hc hstores, ← hv]
      exact hu

/-- The lanes of a context without queued stores, run and requests read the bytes of their cores. -/
theorem sendRead_places (hrun : c.run = none) (halone : Alone c) (places : Lane → List Nat) (ls : List Lane) {s0 s : State} (hc : sGet s.ctxs e.b.ctx = some c)
    (halike : Alike s0 s) :
    ∃ u, s.sendRead e (ls.map (fun l => (l, places l))) = (ls.map (fun l => (l, sourceBytes s0 ls places l)), u) ∧ Readied s u := by
  obtain ⟨u, hu, hready, hfilled⟩ := readied_sources hstores places ls hc halike
  refine ⟨u, ?_, hready⟩
  rw [State.sendRead, hu, List.map_map]
  refine Prod.ext (List.map_congr_left fun l _ => ?_) rfl
  refine Prod.ext rfl ?_
  exact congrArg held ((laneBytes_of_alone (hready.ctxs ▸ hc) hstores hrun halone l (places l)).trans (hfilled.coreBytes ..))

end Sources

/-- All lanes are of the one home wheel. -/
theorem ofWheel_one {ls : List Lane} {w : Lane} (hw : wheelsOf ls = [w]) : ofWheel ls w = ls :=
  List.filter_eq_self.2 fun l hl => beq_iff_eq.2 ((wheelsOf_one hw).2 l hl)

/-- The packets of a wheel whose lanes' sources all passed. -/
def sentPkts (s : State) (e : Site) (x : GridX) (su : BitVec 8) (d : Send) (w : Lane) (f : Lane → List Byte) : List Pkt :=
  packetsOf { d.base with
    rgv := x.rgv, rg := x.rg.toNat, srcc := s.coordAt (dieOf e.b.core), srcDie := dieOf e.b.core, pattern := patOf su w, gtag := e.c.gtag, block := e.c.block }
    (e.lanes.flatMap (fun l => d.entries l (f l)))

/-- The packets are those of a state before which caches alone change. -/
theorem sentPkts_of_readied {s t : State} (hready : Readied s t) (e : Site) (x : GridX) (su : BitVec 8) (d : Send) (w : Lane) (f : Lane → List Byte) :
    sentPkts t e x su d w f = sentPkts s e x su d w f := by
  rw [sentPkts, sentPkts, hready.coordAt]

/-- A wheel whose lanes' sources all passed sends the entries of each. -/
theorem sendPkts_one {s : State} {e : Site} {w : Lane} (hw : wheelsOf e.lanes = [w]) (x : GridX) (su : BitVec 8) (d : Send) (f : Lane → List Byte) :
    s.sendPkts e x su d w (e.lanes.map (fun l => (l, f l))) = sentPkts s e x su d w f := by
  have hmine : (e.lanes.map (fun l => (l, f l))).filter (fun v => v.1.w.idx == w.w.idx) = e.lanes.map (fun l => (l, f l)) := by
    refine List.filter_eq_self.2 fun v hv => ?_
    obtain ⟨l, hl, rfl⟩ := List.mem_map.1 hv
    exact beq_iff_eq.2 ((wheelsOf_one hw).2 l hl)
  rw [State.sendPkts, sentPkts]
  simp only [hmine, ofWheel_one hw, List.length_map, Nat.lt_irrefl, if_false, List.flatMap_map]

/-! ### What the sender's state holds -/

/-- The state in which a contribution of the beat has entered the buffer. -/
def sentState (u : State) (b : Beat) (k : Contrib) (c : Ctx) : State :=
  (State.modGrid { u with nextTag := u.nextTag + 1 } (dieOf b.core) (withContrib k)).setCtx b.ctx c

/-- The contribution of the beat and its contexts' threads, once it is sent in some state. -/
def sentBy (u : State) (b : Beat) (c : Ctx) (h : Head) (x : GridX) (p : BitVec 64) (cap : Cap) (pkts : List Pkt) (dests : List Nat) (g : Thread → Thread) : State :=
  sentState u b (sentContrib (siteOf b c h) (acting b c h) x u.nextTag cap pkts dests)
    (mapThreads g (sentCtx (c.advance b h.yld) x p dests.length ((acting b c h).map (fun l => l.t.tid)) u.nextTag))

section Sent

variable {s u v : State} {b : Beat} {c c' : Ctx} {h : Head} {k : Contrib} (hready : Readied (started s b c h) u) (hports : Ported (sentState u b k c') v)

include hports

/-- The context of the sender. -/
theorem sent_ctx : sGet (v.seal s.mem).ctxs b.ctx = some c' := by
  rw [State.seal_ctxs, hports.counted.ctxs]
  exact sGet_sPut_self ..

include hready

/-- The other contexts and memory stay. -/
theorem sent_calm : Calm s b.ctx (v.seal s.mem) := by
  refine ⟨fun j hj => ?_, fun a ha => ?_⟩
  · rw [State.seal_ctxs, hports.counted.ctxs]
    refine (sGet_sPut_ne _ _ hj).trans ?_
    rw [show State.ctxs _ = u.ctxs from rfl, hready.ctxs]
    exact sGet_sPut_ne _ _ hj
  · have hmem : v.mem = s.mem := hports.counted.mem.trans hready.mem
    have hsealed := State.byte_seal v a
    rw [hmem] at hsealed
    exact hsealed.trans ((hports.counted.bytes a ha).trans (hready.byte a))

/-- The contribution is in the buffer. -/
theorem sent_unit : ((v.seal s.mem).die (dieOf b.core)).grid = withContrib k (s.die (dieOf b.core)).grid := by
  have hv : (v.die (dieOf b.core)).grid = ((sentState u b k c').die (dieOf b.core)).grid := (congrArg Die.grid (hports.die (dieOf b.core)) :)
  have hu : ((sentState u b k c').die (dieOf b.core)).grid = withContrib k (u.die (dieOf b.core)).grid := unit_modGrid ..
  exact hv.trans (hu.trans (congrArg _ (hready.unit _)))

end Sent

/-- A wheel's instruction sends one contribution of some entries to some devices, its lanes take some register writes and go on, and its answers are outstanding. -/
def Sends (s : State) (b : Beat) (c : Ctx) (h : Head) (g : GridX) (su : BitVec 8) (w : Lane) (i : Instr) (base : Pkt) (es : List (Nat × List Byte)) (dests : List Nat)
    (regs : List (Nat × List Word)) : Prop :=
  let ls := acting b c h
  let tids := ls.map (fun l => l.t.tid)
  let die := dieOf b.core
  let p := patOf su w
  let pkts := packetsOf { base with rgv := g.rgv, rg := g.rg.toNat, srcc := s.coordAt die, srcDie := die, pattern := p, gtag := c.gtag, block := c.block } es
  dests ≠ [] → (s.die die).grid.used + pkts.length * dests.length ≤ 4096 →
  ∃ t c' k, exec i s = .next t ∧ sGet t.ctxs b.ctx = some c' ∧ Calm s b.ctx t ∧
    (t.die die).grid.contribs = (s.die die).grid.contribs ++ [k] ∧
    k.cseq = ((s.die die).grid.cseq + 1) % 65536 ∧ (t.die die).grid.cseq = k.cseq ∧ k.ltag = some s.nextTag ∧ k.tids = tids ∧
    k.dests = dests.map (fun x => (x, .fresh)) ∧ k.pkts = pkts.map (fun q => { q with cseq := k.cseq }) ∧
    k.lanes = ls.foldl (fun a l => a ||| BitVec.ofNat 32 (2 ^ l.t.lane)) 0 ∧ k.wheel = w.w.idx ∧
    k.ag = (if g.agv then some g.ag.toNat else none) ∧ k.graph = c.graph.map (fun g => (g.1, g.2.2)) ∧
    (let v := c.slotOf g.ag.toNat
     g.agv = true → c'.slotOf g.ag.toNat = if v.armed = false ∧ v.expected = 0 then { v with expected := dests.length, pattern := some p } else v) ∧
    c'.remotes = c.remotes ++ tids.map (fun i => (i, s.nextTag)) ∧
    ∀ i v, c.thread i = some v → ∃ u, c'.thread i = some u ∧ u.st = v.st ∧ u.preds = v.preds ∧
      u.pc = (if i ∈ b.tids then nextPc b.pc else v.pc) ∧ ∀ m, u.v m = after v.v (if i ∈ tids then regs else []) m

/-- The slot that counts the answers has their count, unless it has one (R236). -/
theorem slotOf_sent {c : Ctx} {x : GridX} (hag : x.agv = true) (p : BitVec 64) (n : Nat) (tids : List Nat) (tag : Nat) (g : Thread → Thread) :
    (mapThreads g (sentCtx c x p n tids tag)).slotOf x.ag.toNat =
      if (c.slotOf x.ag.toNat).armed = false ∧ (c.slotOf x.ag.toNat).expected = 0 then { c.slotOf x.ag.toNat with expected := n, pattern := some p }
      else c.slotOf x.ag.toNat := by
  have hput : (mapThreads g (sentCtx c x p n tids tag)).gslots = sPut c.gslots x.ag.toNat (sentSlot (c.slotOf x.ag.toNat) n p) := if_pos hag
  rw [Ctx.slotOf, hput, sGet_sPut_self, Option.getD_some, sentSlot]
  simp

/-- The first lane is of the one home wheel. -/
theorem firstWheel {ls : List Lane} {w : Lane} (hone : wheelsOf ls = [w]) : (ls.head?.map (fun l => l.w.idx)).getD 0 = w.w.idx := by
  obtain ⟨l, rest, rfl⟩ := List.exists_cons_of_ne_nil (List.ne_nil_of_mem (wheelsOf_one hone).1)
  exact (wheelsOf_one hone).2 l List.mem_cons_self

/-- A lane's thread as it moves on and takes the writes of its instruction. -/
def LaneWrites (b : Beat) (c : Ctx) (h : Head) (regs : List (Nat × List Word)) (g : Thread → Thread) : Prop :=
  (∀ x, (g x).tid = x.tid) ∧ ∀ i x, c.thread i = some x → (g (moved b h x)).st = x.st ∧ (g (moved b h x)).preds = x.preds ∧
    (g (moved b h x)).pc = (if i ∈ b.tids then nextPc b.pc else x.pc) ∧
    ∀ m, (g (moved b h x)).v m = after x.v (if i ∈ (acting b c h).map (fun l => l.t.tid) then regs else []) m

/-- What holds of a contribution that is sent. -/
theorem sends_of_sentBy {s u v : State} {b : Beat} {c : Ctx} {h : Head} {x : GridX} {su : BitVec 8} {w : Lane} {i : Instr} {base : Pkt} {es : List (Nat × List Byte)}
    {dests : List Nat} {regs : List (Nat × List Word)} {cap : Cap} {g : Thread → Thread} (hone : wheelsOf (acting b c h) = [w]) (hg : LaneWrites b c h regs g)
    (hready : Readied (started s b c h) u) (hexec : exec i s = .next (v.seal s.mem))
    (hports : Ported (sentBy u b c h x (patOf su w) cap (packetsOf { base with
      rgv := x.rgv, rg := x.rg.toNat, srcc := s.coordAt (dieOf b.core), srcDie := dieOf b.core, pattern := patOf su w, gtag := c.gtag, block := c.block } es) dests g) v) :
    Sends s b c h x su w i base es dests regs := by
  intro hsome hroom
  have hunit := sent_unit hready hports
  have htag : u.nextTag = s.nextTag := hready.nextTag
  obtain ⟨htid, hwrites⟩ := hg
  refine ⟨_, _, _, hexec, sent_ctx hports, sent_calm hready hports, (congrArg GridUnit.contribs hunit :), rfl, (congrArg GridUnit.cseq hunit :), congrArg some htag, rfl, rfl, rfl,
    rfl, firstWheel hone, rfl, rfl, fun hag => slotOf_sent hag .., by rw [← htag]; rfl, fun j y hy => ?_⟩
  refine ⟨g (moved b h y), ?_, hwrites j y hy⟩
  rw [thread_of_map (c := c.advance b h.yld) (f := g) rfl htid, thread_of_map (c := c) (f := moved b h) rfl (fun x => by rw [moved_eq]), hy]
  rfl

/-- A lane's request is sent to its device, its lane goes on, and its reply is outstanding and writes its registers. -/
def Asks (s : State) (b : Beat) (c : Ctx) (w : Lane) (i : Instr) (d : Nat) (base : Pkt) (nreg : Nat) (acq : Option Scope) (q : Ask) : Prop :=
  let die := dieOf b.core
  s.askBad (4 * nreg) q = none → (s.die die).grid.used + 1 ≤ 4096 →
  ∃ t c' k o, exec i s = .next t ∧ sGet t.ctxs b.ctx = some c' ∧ Calm s b.ctx t ∧
    (t.die die).grid.contribs = (s.die die).grid.contribs ++ [k] ∧ k.cseq = ((s.die die).grid.cseq + 1) % 65536 ∧
    k.ltag = some s.nextTag ∧ k.tids = [w.t.tid] ∧ k.lanes = BitVec.ofNat 32 (2 ^ w.t.lane) ∧ k.dests = [(q.coord, .fresh)] ∧
    k.pkts = (packetsOf { base with srcc := s.coordAt die, srcDie := die, gtag := c.gtag, block := c.block, ltag := ltagOf s.nextTag }
      [(q.at_, q.ops)]).map (fun p => { p with cseq := k.cseq }) ∧
    c'.remotes = c.remotes ++ [(w.t.tid, s.nextTag)] ∧ c'.loads = c.loads ++ [o] ∧ o.ltag = s.nextTag ∧ o.tids = [w.t.tid] ∧
    o.dreg = d ∧ o.nreg = nreg ∧ o.uni = false ∧ o.acq = acq ∧
    ∀ i v, c.thread i = some v → ∃ u, c'.thread i = some u ∧ u.st = v.st ∧ u.preds = v.preds ∧ u.vregs = v.vregs ∧
      u.pc = (if i ∈ b.tids then nextPc b.pc else v.pc)

/-- A thread that awaits a reply changes in what is pending alone. -/
theorem awaitingT_eq (o : OLoad) (t : Thread) : awaitingT o t = { t with pend := (awaitingT o t).pend } := by
  unfold awaitingT
  split
  · rfl
  · split <;> rfl

/-- What holds of a request that is sent. -/
theorem asks_of_sent {s u : State} {b : Beat} {c : Ctx} {h : Head} {w : Lane} {i : Instr} {d nreg : Nat} {base : Pkt} {acq : Option Scope} {q : Ask} (hq : q.l = w)
    (hready : Readied (started s b c h) u) (hexec : exec i s = .next (State.seal s.mem (sentState u b (askedContrib u (siteOf b c h) base q)
      (awaitingCtx (c.advance b h.yld) (askedLoad (siteOf b c h) d nreg acq q u.nextTag))))) :
    Asks s b c w i d base nreg acq q := by
  intro _ _
  have hports := Ported.refl (sentState u b (askedContrib u (siteOf b c h) base q) (awaitingCtx (c.advance b h.yld) (askedLoad (siteOf b c h) d nreg acq q u.nextTag)))
  have hunit := sent_unit hready hports
  have htag : u.nextTag = s.nextTag := hready.nextTag
  have hcoord : u.coordAt (dieOf b.core) = s.coordAt (dieOf b.core) := hready.coordAt _
  subst hq
  refine ⟨_, _, _, _, hexec, sent_ctx hports, sent_calm hready hports, (congrArg GridUnit.contribs hunit :), rfl, congrArg some htag, rfl, BitVec.zero_or, rfl, ?_,
    by rw [← htag]; rfl, rfl, htag, rfl, rfl, rfl, rfl, rfl, fun j y hy => ?_⟩
  · rw [← htag, ← hcoord]; rfl
  · refine ⟨awaitingT (askedLoad (siteOf b c h) d nreg acq q u.nextTag) (moved b h y), ?_, ?_⟩
    · rw [thread_of_map (c := c.advance b h.yld) (f := awaitingT (askedLoad (siteOf b c h) d nreg acq q u.nextTag)) rfl (fun x => by rw [awaitingT_eq]),
        thread_of_map (c := c) (f := moved b h) rfl (fun x => by rw [moved_eq]), hy]
      rfl
    · obtain rfl := Ctx.thread_tid hy
      rw [awaitingT_eq, moved_eq]
      exact ⟨rfl, rfl, rfl, rfl⟩

/-! ### GST, GCPY, GRED (R230, R231) -/

/-- Threads that only move on write no register. -/
theorem laneWrites_none (b : Beat) (c : Ctx) (h : Head) : LaneWrites b c h [] id := by
  refine ⟨fun _ => rfl, fun i x hx => ?_⟩
  obtain rfl := Ctx.thread_tid hx
  rw [id, moved_eq, ite_self]
  exact ⟨rfl, rfl, rfl, fun _ => rfl⟩

/-- A change of no thread. -/
theorem sent_idle {b : Beat} {t : State} {c' : Ctx} (hc : sGet t.ctxs b.ctx = some c') : t = t.setCtx b.ctx (mapThreads id c') := by
  rw [mapThreads, List.map_id]
  exact (setCtx_of_sGet hc).symm

/-- The thread of a lane of GCPY takes the status word that counts the lanes of its wheel (R230). -/
def copiedT (s : State) (b : Beat) (c : Ctx) (h : Head) (d : Nat) (t : Thread) : Thread :=
  match (acting b c h).find? (fun l => l.t.tid == t.tid) with
  | some l => t.put d [BitVec.ofNat 32 (0x80000000 + ((acting b c h).filter (fun k => k.w.idx == l.w.idx)).length)] (mkPend s (.v d 1) 0)
  | none => t

section Copied

variable {s : State} {b : Beat} {c : Ctx} {h : Head} (d : Nat)

/-- The status words of a wheel's lanes. -/
theorem copied_writes {t : State} {c' : Ctx} (hcycle : t.cycle = s.cycle) (hc : sGet t.ctxs b.ctx = some c') :
    t.writeV { siteOf b c h with lanes := acting b c h } d 0 (fun l =>
      [BitVec.ofNat 32 (0x80000000 + ((acting b c h).filter (fun k => k.w.idx == l.w.idx)).length)]) = t.setCtx b.ctx (mapThreads (copiedT s b c h d) c') := by
  have hpend : mkPend t (.v d 1) 0 = mkPend s (.v d 1) 0 := by rw [mkPend, mkPend, hcycle]
  refine (modCtx_placed hc _).trans (congrArg (t.setCtx b.ctx) ?_)
  simp only [List.length_singleton, hpend]
  rfl

/-- Each lane of one home wheel takes the number of the lanes. -/
theorem laneWrites_copied {w : Lane} (hone : wheelsOf (acting b c h) = [w]) :
    LaneWrites b c h [(d, [BitVec.ofNat 32 (0x80000000 + (acting b c h).length)])] (copiedT s b c h d) := by
  have htid : ∀ x, (copiedT s b c h d x).tid = x.tid := fun x => by
    unfold copiedT
    split
    · exact Thread.put_tid ..
    · rfl
  refine ⟨htid, fun i x hx => ?_⟩
  obtain rfl := Ctx.thread_tid hx
  have hrun : copiedT s b c h d (moved b h x) = _ := ranT_acting hx (fun l t =>
    t.put d [BitVec.ofNat 32 (0x80000000 + ((acting b c h).filter (fun k => k.w.idx == l.w.idx)).length)] (mkPend s (.v d 1) 0))
  rw [hrun]
  cases hl : actingLane b c h x with
  | none =>
    have hidle : x.tid ∉ (acting b c h).map (fun l => l.t.tid) := fun hmem => by
      obtain ⟨l, hl', ht⟩ := List.mem_map.1 hmem
      obtain ⟨m, hm⟩ := (actingLane_isSome (h := h) hx).2 ⟨l, hl', ht⟩
      exact Option.some_ne_none m (hm.symm.trans hl)
    rw [if_neg hidle, Option.map_none, Option.getD_none, moved_eq]
    exact ⟨rfl, rfl, rfl, fun _ => rfl⟩
  | some l =>
    have hmem := actingLane_mem hx hl
    have hacts : x.tid ∈ (acting b c h).map (fun l => l.t.tid) := List.mem_map.2 ⟨l, hmem, by rw [actingLane_t hl]⟩
    have hall : (acting b c h).filter (fun k => k.w.idx == l.w.idx) = acting b c h :=
      List.filter_eq_self.2 fun k hk => by rw [(wheelsOf_one hone).2 k hk, (wheelsOf_one hone).2 l hmem, beq_self_eq_true]
    rw [if_pos hacts, Option.map_some, Option.getD_some, hall]
    refine ⟨?_, ?_, ?_, fun m => (Thread.put_after ..).trans ?_⟩
    · rw [Thread.put_st, moved_eq]
    · rw [Thread.put_preds, moved_eq]
    · rw [Thread.put_pc, moved_eq]
    · rw [moved_eq]; rfl

end Copied

/-- Nothing pads what has its full length. -/
theorem padded_of_length {bs : List Byte} {n : Nat} (hlen : bs.length = n) : bs ++ List.replicate (n - bs.length) 0 = bs := by
  rw [hlen, Nat.sub_self, List.replicate_zero, List.append_nil]

/-- Each element of a source has its bytes. -/
theorem element_length {bs : List Byte} {k es i : Nat} (hlen : bs.length = k * es) (hi : i < k) : ((bs.drop (i * es)).take es).length = es := by
  have hend : (i + 1) * es ≤ k * es := Nat.mul_le_mul_right es hi
  rw [Nat.add_mul, Nat.one_mul] at hend
  rw [List.length_take, List.length_drop, hlen]
  omega

/-- What GST sends. -/
def gstSend (sz : CSize) (a : Src) (b : BitVec 8) : Send where
  bad s p := if patOk s.grid p then none else some 1
  dests := manyDests
  src _ _ _ := .ok [] []
  entries l _ := [(readSrc l 2 a, natBytes (cszBytes sz) (readV l.t (cszBytes sz / 4) b))]
  cap l := BitVec.ofNat 64 (readSrc l 2 a)
  base := { ty := 1, esize := cszBytes sz }

/-- What GCPY sends. -/
def gcpySend (sp : Space) (sz : CSize) (a b : Src) : Send where
  bad s p := if patOk s.grid p then none else some 1
  dests := manyDests
  src s e l := s.pinCheck l.w.core false (s.access e l { sp := sp, n := cszBytes sz, align := cszBytes sz, need := 1, lock := false } b 0)
  entries l bs := [(readSrc l 2 a, bs ++ List.replicate (cszBytes sz - bs.length) 0)]
  cap l := BitVec.ofNat 64 (readSrc l 2 a)
  base := { ty := 2, esize := cszBytes sz }

/-- What GRED sends. -/
def gredSend (op : AmoOp) (ty : Ty) (k : Nat) (sp : Space) (a b : Src) (conv : Nat) : Send where
  bad s p := gredBad s conv p
  dests s p := (convCoord s.grid p conv).toList
  src s e l := s.gredSrc e l sp k (4 * tyRegs ty) a b
  entries l bs := (List.range k).map (fun i => (readSrc l 2 a + i * (4 * tyRegs ty),
    let v := (bs.drop (i * (4 * tyRegs ty))).take (4 * tyRegs ty)
    v ++ List.replicate (4 * tyRegs ty - v.length) 0))
  cap l := BitVec.ofNat 64 (readSrc l 2 a)
  base := { ty := 3, esize := 4 * tyRegs ty, op := (amoCode op).toNat, tyc := (tyCode ty).toNat, conv := conv }

/-- What a lane of GLD asks. -/
def gldAsk (x : Src) (ofs : BitVec 24) (z : Src) (l : Lane) : Ask where
  l := l
  coord := readSrc l 1 z
  addr := ((readSrc l 2 x % 2 ^ 44 : Nat) : Int) + ofs.toInt
  obj := readSrc l 2 x / 2 ^ 44 % 2 ^ 20
  ops := []

/-- What a lane of GATOM asks, with `m` words of operands. -/
def gatomAsk (m : Nat) (x y z : Src) (l : Lane) : Ask where
  l := l
  coord := readSrc l 1 z
  addr := ((readSrc l 2 x % 2 ^ 44 : Nat) : Int)
  obj := readSrc l 2 x / 2 ^ 44 % 2 ^ 20
  ops := natBytes (4 * m) (readSrc l m y)

/-- The devices that a pattern matches, at a state before which caches alone change. -/
theorem manyDests_of_readied {s u : State} {b : Beat} {c : Ctx} {h : Head} (hready : Readied (started s b c h) u) (p : BitVec 64) :
    manyDests u p = patDests s.grid s.mycoord p := by
  have hgrid : u.grid = s.grid := hready.grid
  have hcoord : u.mycoord = s.mycoord := hready.coordAt 0
  rw [manyDests, hgrid, hcoord]

/-! ### The instructions -/

/-- Accesses that pass wait for nothing. -/
theorem no_waits {ls : List Lane} {src : Lane → Res} {places : Lane → List Nat} (hsrc : ∀ l ∈ ls, ∃ pages, src l = .ok (places l) pages) :
    (ls.map (fun l => { l := l, r := src l : Acc })).any (fun a => a.r.waits.isSome) = false := by
  refine List.any_eq_false.2 fun a ha => ?_
  obtain ⟨l, hl, rfl⟩ := List.mem_map.1 ha
  obtain ⟨pages, hr⟩ := hsrc l hl
  rw [hr]; exact Bool.false_ne_true

/-- A beat of one home wheel whose pattern and sources pass (R230, R231, R233). -/
structure Passing (s : State) (b : Beat) (c : Ctx) (h : Head) (su : BitVec 8) (d : Send) (w : Lane) (places : Lane → List Nat) (dests : List Nat) : Prop where
  one : wheelsOf (acting b c h) = [w]
  good : d.bad (started s b c h) (patOf su w) = none
  src : ∀ l ∈ acting b c h, ∃ pages, d.src (started s b c h) (siteOf b c h) l = .ok (places l) pages
  holds : ∀ l ∈ acting b c h, Holds s l.w.core (places l)
  dests : ∀ u, Readied (started s b c h) u → d.dests u (patOf su w) = dests

section Issue

variable {s : State} {b : Beat} {c : Ctx} (hi : InIssue s b c) (hstores : NoStores c) (halone : Alone c) (hclean : Clean s) (hrun : c.run = none)
  (hcancelled : c.cancelled = false) (hsaved : sGet s.saved b.ctx = none) (hwait : c.waitOf s.nextWid = none)
  (hstaged : (s.die (dieOf b.core)).grid.staged = []) (h : Head)

include hstaged hsaved hwait in
/-- A contribution that the buffer has room for passes stage 2 with the beat. -/
theorem takeUp_sent {u : State} (hready : Readied (started s b c h) u) {k : Contrib} {c' : Ctx} (hk : k.ctx = b.ctx) (hlive : c'.cancelled = false)
    (hwaits : c'.waits = c.waits) (hroom : (s.die (dieOf b.core)).grid.used + k.pkts.length * k.dests.length ≤ 4096) (tids : List Nat) :
    ((State.stage { u with nextTag := u.nextTag + 1 } (dieOf b.core) k).setCtx b.ctx c').takeUp (siteOf b c h) tids = sentState u b k c' := by
  have hunit := hready.unit (dieOf b.core)
  refine takeUp_one (s := { u with nextTag := u.nextTag + 1 }) (e := siteOf b c h) (hunit ▸ hstaged) hk (hready.saved ▸ hsaved) hlive ?_ (hunit ▸ hroom) tids
  rw [Ctx.waitOf, hwaits, show State.nextWid _ = s.nextWid from hready.nextWid]
  exact hwait

include hcancelled hsaved hwait hstaged in
/-- The contribution of the beat enters the buffer, once its instruction has ended. -/
theorem post_takeUp {u : State} (hready : Readied (started s b c h) u) {dests : List Nat} (hsome : dests ≠ []) (x : GridX) {cap : Cap} {pkts : List Pkt} {p : BitVec 64}
    (hpattern : (pkts.headD {}).pattern = p) (hroom : (s.die (dieOf b.core)).grid.used + pkts.length * dests.length ≤ 4096) {fin : Site → List Lane → State → State}
    {g : Thread → Thread} (hfin : ∀ (t : State) (c' : Ctx), t.cycle = s.cycle → sGet t.ctxs b.ctx = some c' →
      fin (siteOf b c h) (acting b c h) t = t.setCtx b.ctx (mapThreads g c')) (tids : List Nat) :
    (fin (siteOf b c h) (acting b c h) (u.post (siteOf b c h) (acting b c h) x cap pkts dests)).takeUp (siteOf b c h) tids =
      sentBy u b c h x p cap pkts dests g := by
  have hplaced : sGet u.ctxs b.ctx = some (c.advance b h.yld) := by rw [hready.ctxs]; exact sGet_sPut_self ..
  rw [post_stages (e := siteOf b c h) hplaced hsome, hpattern, sentBy]
  obtain ⟨k, hk⟩ : ∃ k, k = sentContrib (siteOf b c h) (acting b c h) x u.nextTag cap pkts dests := ⟨_, rfl⟩
  obtain ⟨c', hc'⟩ : ∃ c', c' = sentCtx (c.advance b h.yld) x p dests.length ((acting b c h).map (fun l => l.t.tid)) u.nextTag := ⟨_, rfl⟩
  have hkctx : k.ctx = b.ctx := by rw [hk]; rfl
  have hlive : (mapThreads g c').cancelled = false := by rw [hc']; exact hcancelled
  have hwaits : (mapThreads g c').waits = c.waits := by rw [hc']; rfl
  have hends := hfin ((State.stage { u with nextTag := u.nextTag + 1 } (dieOf b.core) k).setCtx b.ctx c') c' hready.cycle (sGet_sPut_self ..)
  rw [← sentContrib_size (siteOf b c h) (acting b c h) x u.nextTag cap, ← hk] at hroom
  rw [← hk, ← hc', siteOf_b, hends, setCtx_twice]
  exact takeUp_sent hsaved hwait hstaged h hready hkctx hlive hwaits hroom tids

include hi hstores halone hclean hrun hcancelled hsaved hwait hstaged

/-- GLD and GATOM of one lane send one request (R232, R290). -/
theorem askOp_sends {w : Lane} (hone : acting b c h = [w]) {rel : Bool} {sc : Scope} (hwaits : rel = true → s.relWaits b.ctx c [w.t.tid] sc = ([], []))
    (acq : Option Scope) (d nreg : Nat) (base : Pkt) (mk : Lane → Ask) (hok : s.askBad (4 * nreg) (mk w) = none) (hroom : (s.die (dieOf b.core)).grid.used + 1 ≤ 4096) :
    ∃ u, Readied (started s b c h) u ∧ act (askOp h rel acq sc d nreg base mk) s = .next (State.seal s.mem
      (sentState u b (askedContrib u (siteOf b c h) base (mk w)) (awaitingCtx (c.advance b h.yld) (askedLoad (siteOf b c h) d nreg acq (mk w) u.nextTag)))) := by
  have hctx : sGet (started s b c h).ctxs b.ctx = some (c.advance b h.yld) := sGet_sPut_self _ _ _
  have hstores' := noStores_advance hstores b h.yld
  obtain ⟨u1, hready1, -, hgate⟩ := relGate_of_clean (s := started s b c h) (e := siteOf b c h) hctx hstores' halone hclean (rel := rel) (sc := sc) (fun hrel => by
    rw [siteOf_lanes, hone]; exact (relWaits_started hi h c _ sc).trans (hwaits hrel))
  have hctx1 : sGet u1.ctxs b.ctx = some (c.advance b h.yld) := by rw [hready1.ctxs]; exact hctx
  obtain ⟨u, hu⟩ : ∃ u, u = ([mk w].filter (fun q => q.coord == u1.coordAt (dieOf b.core))).foldl (fun s q => s.ownFirst (siteOf b c h) (4 * nreg) q.l q.at_) u1 := ⟨_, rfl⟩
  have hready : Readied (started s b c h) u := hu ▸ hready1.trans (.foldl (fun s q hclean => readied_ownFirst hclean ..) _ (hready1.clean hclean))
  have hplaced : sGet u.ctxs b.ctx = some (c.advance b h.yld) := by rw [hready.ctxs]; exact hctx
  have hok' : (started s b c h).askBad (4 * nreg) (mk w) = none := hok
  refine ⟨u, hready, (act_gridOp hi hrun h _ (by rw [hone]; exact List.cons_ne_nil _ _)).trans (congrArg (fun u => (.next (State.seal s.mem u) : Out)) ?_)⟩
  simp only [siteOf_lanes, siteOf_b, hone, List.map_cons, List.map_nil, List.filter_cons, List.filter_nil, hok', Option.isNone_none, if_true]
  rw [hgate, drainGate_of_noStores (e := siteOf b c h) hctx1 hstores']
  simp only [State.inOrder, siteOf_c, behind_of_alone halone]
  have hkeys : [((mk w).coord, (mk w).at_ / 65536)].eraseDups = [((mk w).coord, (mk w).at_ / 65536)] := by simp [List.eraseDups_cons]
  simp only [List.filter_cons, List.filter_nil] at hu
  rw [← hu, hkeys]
  simp only [List.foldl_cons, List.foldl_nil, beq_self_eq_true, if_true]
  rw [ask_stages (e := siteOf b c h) hplaced]
  have hroom' : (s.die (dieOf b.core)).grid.used + (askedContrib u (siteOf b c h) base (mk w)).pkts.length * (askedContrib u (siteOf b c h) base (mk w)).dests.length ≤ 4096 := by
    have hpkts : (askedContrib u (siteOf b c h) base (mk w)).pkts.length = 1 := packetsOf_one ..
    rw [hpkts]; exact hroom
  have hbad : ∀ v : State, v.grid = u.grid → [mk w].filterMap (v.askBad (4 * nreg)) = [] := fun v hv => by
    have hnone : v.askBad (4 * nreg) (mk w) = none := (askBad_of_grid (hv.trans hready.grid) _ _).trans hok'
    rw [List.filterMap_cons, hnone, List.filterMap_nil]
  have hnone := hbad ((State.stage { u with nextTag := u.nextTag + 1 } (dieOf b.core) (askedContrib u (siteOf b c h) base (mk w))).setCtx b.ctx
    (awaitingCtx (c.advance b h.yld) (askedLoad (siteOf b c h) d nreg acq (mk w) u.nextTag))) rfl
  refine (congrArg (State.beatFault _ b false) hnone).trans ?_
  exact takeUp_sent (c' := awaitingCtx (c.advance b h.yld) (askedLoad (siteOf b c h) d nreg acq (mk w) u.nextTag)) hsaved hwait hstaged h hready rfl hcancelled rfl
    hroom' _

/-- GST, GCPY and GRED of one home wheel send one contribution (R230, R231, R290). -/
theorem sendOp_sends {su : BitVec 8} {d : Send} {w : Lane} {places : Lane → List Nat} {dests : List Nat} (hpass : Passing s b c h su d w places dests)
    (hsome : dests ≠ []) {rel : Bool} {sc : Scope} (hwaits : rel = true → s.relWaits b.ctx c ((acting b c h).map (fun l => l.t.tid)) sc = ([], [])) (x : GridX)
    (hroom : (s.die (dieOf b.core)).grid.used +
      (sentPkts s (siteOf b c h) x su d w (sourceBytes s (acting b c h) places)).length * dests.length ≤ 4096)
    {fin : Site → List Lane → State → State} {g : Thread → Thread}
    (hfin : ∀ (t : State) (c' : Ctx), t.cycle = s.cycle → sGet t.ctxs b.ctx = some c' →
      fin (siteOf b c h) (acting b c h) t = t.setCtx b.ctx (mapThreads g c')) :
    ∃ u v, Readied (started s b c h) u ∧ act (sendOp h rel sc su x d fin) s = .next (v.seal s.mem) ∧
      Ported (sentBy u b c h x (patOf su w) (d.cap w)
        (sentPkts s (siteOf b c h) x su d w (sourceBytes s (acting b c h) places)) dests g) v := by
  obtain ⟨hone, hgood, hsrc, hholds, hdests⟩ := hpass
  have hctx : sGet (started s b c h).ctxs b.ctx = some (c.advance b h.yld) := sGet_sPut_self _ _ _
  have hstores' := noStores_advance hstores b h.yld
  obtain ⟨u1, hready1, halike1, hgate⟩ := relGate_of_clean (s := started s b c h) (e := siteOf b c h) hctx hstores' halone hclean (rel := rel) (sc := sc)
    (fun hrel => (relWaits_started hi h c _ sc).trans (hwaits hrel))
  have hctx1 : sGet u1.ctxs b.ctx = some (c.advance b h.yld) := by rw [hready1.ctxs]; exact hctx
  have halike : Alike s u1 := (alike_started s b c h).trans halike1
  obtain ⟨u2, hread, hready2⟩ := sendRead_places (e := siteOf b c h) hstores' hrun halone places (acting b c h) hctx1 halike
  obtain ⟨vals, hvals⟩ : ∃ vals, vals = (acting b c h).map (fun l => (l, sourceBytes s (acting b c h) places l)) := ⟨_, rfl⟩
  rw [← hvals] at hread
  obtain ⟨u, hu⟩ : ∃ u, u = (if (started s b c h).sendsHome (siteOf b c h) su d then
      vals.foldl (fun s v => (d.entries v.1 v.2).foldl (fun s x => s.ownFirst (siteOf b c h) x.2.length v.1 x.1) s) u2 else u2) := ⟨_, rfl⟩
  have hready : Readied (started s b c h) u := by
    refine (hready1.trans hready2).trans ?_
    rw [hu]
    split
    · exact .foldl (fun _ _ hclean => .foldl (fun _ _ hclean => readied_ownFirst hclean ..) _ hclean) _ (hready2.clean (hready1.clean hclean))
    · exact .refl u2
  have hports := fun F => ported_gate (s := u1) (e := siteOf b c h) halone hrun false true
    (accs := (acting b c h).map (fun l => { l := l, r := d.src (started s b c h) (siteOf b c h) l })) (places := places)
    (fun a ha => by obtain ⟨l, hl, rfl⟩ := List.mem_map.1 ha; exact hsrc l hl) F
  have hthere : ∀ l ∈ acting b c h, ∀ o ∈ u1.laneBytes b.ctx l (places l), o.isSome = true := fun l hl =>
    laneBytes_isSome fun o ho => hholds l hl o (by rwa [halike.coreBytes] at ho)
  have hpkts : sentPkts u (siteOf b c h) x su d w (sourceBytes s (acting b c h) places) =
      sentPkts s (siteOf b c h) x su d w (sourceBytes s (acting b c h) places) := sentPkts_of_readied hready ..
  refine ⟨u, _, hready, act_gridOp hi hrun h _ (List.ne_nil_of_mem (wheelsOf_one hone).1), ?_⟩
  simp only [siteOf_lanes, hone, List.findSome?_cons, List.findSome?_nil, hgood, Option.map_none, no_waits hsrc, Bool.not_false, Bool.and_true]
  rw [hgate, drainGate_of_noStores (e := siteOf b c h) hctx1 hstores']
  simp only [State.inOrder, siteOf_c, behind_of_alone halone]
  refine (congrArg (fun u => Ported u _) ?_).mpr (hports _)
  rw [List.map_map]
  refine Eq.symm ((withBytes_there (e := siteOf b c h) (ls := acting b c h) (pads := places) _ (fun a ha => ?_) hthere (.inr (noFill_of_alone halone))).trans ?_)
  · obtain ⟨l, hl, rfl⟩ := List.mem_map.1 ha
    exact ⟨l, hl, rfl⟩
  · have hlanes : vals.map (fun v => v.1) = acting b c h := by rw [hvals, List.map_map]; exact List.map_id _
    have htids : vals.map (fun v => v.1.t.tid) = (acting b c h).map (fun l => l.t.tid) := by rw [← hlanes, List.map_map]; rfl
    have hsends : u.sendPkts (siteOf b c h) x su d w vals = _ := (hvals ▸ sendPkts_one (e := siteOf b c h) hone x su d _).trans hpkts
    simp only [Function.comp_def, hread, ← hu, List.foldl_cons, List.foldl_nil, hlanes, htids, ofWheel_one hone, hdests u hready, hsends]
    exact post_takeUp hcancelled hsaved hwait hstaged h hready hsome x (packetsOf_head ..) hroom hfin _

/-- A wheel whose pattern and sources pass sends the entries of its lanes. -/
theorem sends_of_sendOp {su : BitVec 8} {d : Send} {w : Lane} {places : Lane → List Nat} {dests : List Nat} (hpass : Passing s b c h su d w places dests)
    {rel : Bool} {sc : Scope} (hwaits : rel = true → s.relWaits b.ctx c ((acting b c h).map (fun l => l.t.tid)) sc = ([], [])) {x : GridX}
    {fin : Site → List Lane → State → State} {g : Thread → Thread}
    (hfin : ∀ (t : State) (c' : Ctx), t.cycle = s.cycle → sGet t.ctxs b.ctx = some c' →
      fin (siteOf b c h) (acting b c h) t = t.setCtx b.ctx (mapThreads g c'))
    {regs : List (Nat × List Word)} (hg : LaneWrites b c h regs g) {i : Instr} (hexec : exec i s = act (sendOp h rel sc su x d fin) s)
    {es : List (Nat × List Byte)} (hes : (acting b c h).flatMap (fun l => d.entries l (sourceBytes s (acting b c h) places l)) = es) :
    Sends s b c h x su w i d.base es dests regs := by
  intro hsome hroom
  subst hes
  obtain ⟨u, v, hready, hact, hports⟩ :=
    sendOp_sends hi hstores halone hclean hrun hcancelled hsaved hwait hstaged h hpass hsome hwaits x hroom hfin
  exact sends_of_sentBy hpass.one hg hready (hexec.trans hact) hports hsome hroom

/-- A lane whose request passes sends it. -/
theorem asks_of_askOp {w : Lane} (hone : acting b c h = [w]) {rel : Bool} {sc : Scope} (hwaits : rel = true → s.relWaits b.ctx c [w.t.tid] sc = ([], []))
    {acq : Option Scope} {d nreg : Nat} {base : Pkt} {mk : Lane → Ask} (hmk : (mk w).l = w) {i : Instr}
    (hexec : exec i s = act (askOp h rel acq sc d nreg base mk) s) : Asks s b c w i d base nreg acq (mk w) := by
  intro hok hroom
  obtain ⟨u, hready, hact⟩ := askOp_sends hi hstores halone hclean hrun hcancelled hsaved hwait hstaged h hone hwaits acq d nreg base mk hok hroom
  exact asks_of_sent hmk hready (hexec.trans hact) hok hroom

/-- GST of one home wheel sends its lanes' registers (R230). -/
theorem gst_sends {w : Lane} (hone : wheelsOf (acting b c h) = [w]) {su : BitVec 8} (hpat : patOk s.grid (patOf su w) = true) {rel : Bool} {sc : Scope}
    (hwaits : rel = true → s.relWaits b.ctx c ((acting b c h).map (fun l => l.t.tid)) sc = ([], [])) (sz : CSize) (x : Src) (r : BitVec 8) (g : GridX) :
    Sends s b c h g su w (.gst h sz rel sc x r su g) { ty := 1, esize := cszBytes sz }
      ((acting b c h).map (fun l => (readSrc l 2 x, natBytes (cszBytes sz) (readV l.t (cszBytes sz / 4) r)))) (patDests s.grid s.mycoord (patOf su w)) [] :=
  have hpass : Passing s b c h su (gstSend sz x r) w (fun _ => []) (patDests s.grid s.mycoord (patOf su w)) :=
    ⟨hone, if_pos hpat, fun _ _ => ⟨[], rfl⟩, fun _ _ _ ho => absurd ho List.not_mem_nil, fun _ hready => manyDests_of_readied hready _⟩
  sends_of_sendOp hi hstores halone hclean hrun hcancelled hsaved hwait hstaged h hpass hwaits (fun _ _ _ hc => sent_idle hc) (laneWrites_none b c h) rfl
    (List.flatMap_pure_eq_map ..)

/-- GCPY of one home wheel sends the bytes that its lanes read, and D counts the lanes (R230, R231). -/
theorem gcpy_sends {w : Lane} (hone : wheelsOf (acting b c h) = [w]) {su : BitVec 8} (hpat : patOk s.grid (patOf su w) = true) {rel : Bool} {sc : Scope}
    (hwaits : rel = true → s.relWaits b.ctx c ((acting b c h).map (fun l => l.t.tid)) sc = ([], [])) {sp : Space} {sz : CSize} {y : Src} {places : Lane → List Nat}
    (hheld : ∀ l ∈ acting b c h, (∃ pages, s.pinCheck l.w.core false (s.access (siteOf b c h) l { sp := sp, n := cszBytes sz, align := cszBytes sz, need := 1, lock := false } y 0) =
      .ok (places l) pages) ∧ (places l).length = cszBytes sz ∧ Holds s l.w.core (places l)) (d : BitVec 8) (x : Src) (g : GridX) :
    Sends s b c h g su w (.gcpy h sp sz rel sc d x y su g) { ty := 2, esize := cszBytes sz }
      ((acting b c h).map (fun l => (readSrc l 2 x, sourceBytes s (acting b c h) places l))) (patDests s.grid s.mycoord (patOf su w))
      [(d.toNat, [BitVec.ofNat 32 (0x80000000 + (acting b c h).length)])] := by
  have hpass : Passing s b c h su (gcpySend sp sz x y) w places (patDests s.grid s.mycoord (patOf su w)) :=
    ⟨hone, if_pos hpat, fun l hl => (hheld l hl).1, fun l hl => (hheld l hl).2.2, fun _ hready => manyDests_of_readied hready _⟩
  refine sends_of_sendOp hi hstores halone hclean hrun hcancelled hsaved hwait hstaged h hpass hwaits
    (fun _ _ hcycle hc => copied_writes d.toNat hcycle hc) (laneWrites_copied d.toNat hone) rfl ?_
  rw [← List.flatMap_pure_eq_map]
  refine List.flatMap_congr fun l hl => ?_
  have hlen : (sourceBytes s (acting b c h) places l).length = cszBytes sz := (sourceBytes_length ..).trans (hheld l hl).2.1
  exact congrArg (fun bs => [(readSrc l 2 x, bs)]) (padded_of_length hlen)

/-- GRED of one home wheel sends the elements that its lanes read to its convergence device (R231). -/
theorem gred_sends {w : Lane} (hone : wheelsOf (acting b c h) = [w]) {su : BitVec 8} {conv : BitVec 10} (hgood : gredBad s conv.toNat (patOf su w) = none)
    {sp : Space} {ty : Ty} {n : BitVec 2} {x y : Src} {places : Lane → List Nat}
    (hheld : ∀ l ∈ acting b c h, (∃ pages, s.gredSrc (siteOf b c h) l sp (2 ^ n.toNat) (4 * tyRegs ty) x y = .ok (places l) pages) ∧
      (places l).length = 2 ^ n.toNat * (4 * tyRegs ty) ∧ Holds s l.w.core (places l)) (op : AmoOp) (g : GridX) :
    Sends s b c h g su w (.gred h op ty n sp x y su g conv)
      { ty := 3, esize := 4 * tyRegs ty, op := (amoCode op).toNat, tyc := (tyCode ty).toNat, conv := conv.toNat }
      ((acting b c h).flatMap (fun l => (List.range (2 ^ n.toNat)).map (fun i => (readSrc l 2 x + i * (4 * tyRegs ty),
        ((sourceBytes s (acting b c h) places l).drop (i * (4 * tyRegs ty))).take (4 * tyRegs ty)))))
      (convCoord s.grid (patOf su w) conv.toNat).toList [] := by
  have hpass : Passing s b c h su (gredSend op ty (2 ^ n.toNat) sp x y conv.toNat) w places (convCoord s.grid (patOf su w) conv.toNat).toList :=
    ⟨hone, hgood, fun l hl => (hheld l hl).1, fun l hl => (hheld l hl).2.2, fun u hready =>
      congrArg (fun g => (convCoord g (patOf su w) conv.toNat).toList) (hready.grid : u.grid = s.grid)⟩
  refine sends_of_sendOp hi hstores halone hclean hrun hcancelled hsaved hwait hstaged h hpass (rel := false) (fun hfalse => absurd hfalse Bool.false_ne_true)
    (fun _ _ _ hc => sent_idle hc) (laneWrites_none b c h) rfl ?_
  refine List.flatMap_congr fun l hl => List.map_congr_left fun i hi => ?_
  have hlen : (sourceBytes s (acting b c h) places l).length = 2 ^ n.toNat * (4 * tyRegs ty) := (sourceBytes_length ..).trans (hheld l hl).2.1
  exact congrArg (Prod.mk _) (padded_of_length (element_length hlen (List.mem_range.1 hi)))

/-- GLD of one lane sends one request (R232). -/
theorem gld_asks {w : Lane} (hone : acting b c h = [w]) (sz : CSize) (acq : Bool) (sc : Scope) (d : BitVec 8) (x : Src) (ofs : BitVec 24) (z : Src) :
    Asks s b c w (.gld h sz acq sc d x ofs z) d.toNat { ty := 4, esize := cszBytes sz } (cszBytes sz / 4) (if acq then some sc else none) (gldAsk x ofs z w) :=
  asks_of_askOp hi hstores halone hclean hrun hcancelled hsaved hwait hstaged h hone (rel := false) (fun hfalse => absurd hfalse Bool.false_ne_true) rfl rfl

/-- GATOM of one lane sends one request, after its release (R232). -/
theorem gatom_asks {w : Lane} (hone : acting b c h = [w]) {ord : Ordr} {sc : Scope} (hwaits : ordRel ord = true → s.relWaits b.ctx c [w.t.tid] sc = ([], []))
    (op : AmoOp) (ty : Ty) (d : BitVec 8) (x y z : Src) :
    Asks s b c w (.gatom h op ty ord sc d x y z) d.toNat
      { ty := 5, esize := 4 * (if op = .cas then 2 * tyRegs ty else tyRegs ty), op := (amoCode op).toNat, tyc := (tyCode ty).toNat } (tyRegs ty)
      (if ordAcq ord then some sc else none) (gatomAsk (if op = .cas then 2 * tyRegs ty else tyRegs ty) x y z w) :=
  asks_of_askOp hi hstores halone hclean hrun hcancelled hsaved hwait hstaged h hone hwaits rfl rfl

end Issue

/-- Settles O43: a contribution or request enters stage 2 of its die's grid unit, and passes it with the beat when the buffer has room; before it, caches alone change. -/
theorem gridSends : Obligations.GridSends := by
  intro s b c hi hstores halone hclean hrun hcancelled hsaved hwait hstaged h sz f acq sc op ty n sp ord d r su ofs conv g x y z w places e ls tids die p sent held got
    calm size k es cpySrc redSrc
  refine ⟨fun hone => ⟨fun hpat hcalm => ⟨?_, fun hheld => ?_⟩, fun hgood hheld => ?_⟩, fun hone => ⟨?_, fun hwaits => ?_⟩⟩
  · exact gst_sends hi hstores halone hclean hrun hcancelled hsaved hwait hstaged h hone hpat hcalm sz x r g
  · exact gcpy_sends hi hstores halone hclean hrun hcancelled hsaved hwait hstaged h hone hpat hcalm hheld d x g
  · exact gred_sends hi hstores halone hclean hrun hcancelled hsaved hwait hstaged h hone hgood hheld op g
  · exact gld_asks hi hstores halone hclean hrun hcancelled hsaved hwait hstaged h hone sz acq sc d x ofs z
  · exact gatom_asks hi hstores halone hclean hrun hcancelled hsaved hwait hstaged h hone hwaits op ty d x y z

end Sys2Proof.Proofs
